-- ==== Sys2Proof/Word.lean ====
section
/-! DEFINITION. The word types of the A384 (R3, R4) and their plainest arithmetic. -/

namespace Sys2Proof

/-- A 64-bit register, node, port or scratchpad word (R4). -/
abbrev Word := BitVec 64

/-- The smallest addressable unit of memory (R4). -/
abbrev Byte := BitVec 8

/-- An instruction word (R108). -/
abbrev IWord := BitVec 32

end Sys2Proof
end

