-- ==== Sys2Proof/Fields.lean ====
section
/-! DEFINITION. The operand fields of instructions (R109, R110) and the contents of the events that
have no instruction word, as plain data. -/

namespace Sys2Proof

/-- Physical core number (R10). -/
abbrev CoreId := Fin 384
/-- Strand number in its core (R11). -/
abbrev StrandId := Fin 8
/-- Context number (R20). -/
abbrev CtxId := Fin 64

/-- Access size (R110). -/
inductive Size | b | h | w | d
deriving DecidableEq, Repr

/-- Size of a scalar atomic (R114). -/
inductive ASize | w | d
deriving DecidableEq, Repr

/-- Request type (R110, R273). -/
inductive Req | o | w | s | u
deriving DecidableEq, Repr

/-- Scope of an acquire or release (R114, R336). -/
inductive Scope | strand | core | dev | dom
deriving DecidableEq, Repr

/-- Operand kind of format V (R110). -/
inductive VKind | vv | vx | vi | vc
deriving DecidableEq, Repr

/-- Rounding field: dflt takes VTYPE's mode (R110). -/
inductive Rm | dflt | rne | rtz | rdn | rup | rsr
deriving DecidableEq, Repr

/-- Condition of VFCMP (R120). -/
inductive FCond | eq | ne | lt | le | gt | ge | un
deriving DecidableEq, Repr

/-- Condition of VWAIT (R353). -/
inductive WCond | eq | ne | ge | lt
deriving DecidableEq, Repr

/-- Operation of XRED (R126). -/
inductive XOp | add | min | max
deriving DecidableEq, Repr

/-- The major opcodes of hint space other than VPF's form (R134). -/
inductive HintMajor | h3c | h3d | h3e
deriving DecidableEq, Repr

/-- Format M of LD and ST (R109, R289): r is xd or the data register. -/
structure MArgs where
  r : BitVec 5
  xs1 : BitVec 5
  req : Req
  rx : Bool
  size : Size
  imm : BitVec 11
deriving DecidableEq, Repr

/-- Scalar atomics (R114, R291). -/
structure AArgs where
  rd : BitVec 5
  xs1 : BitVec 5
  xs2 : BitVec 5
  size : ASize
  acq : Bool
  rel : Bool
  scope : Scope
deriving DecidableEq, Repr

/-- Format V with an operand kind (R109). -/
structure VArgs where
  vd : BitVec 5
  vs1 : BitVec 5
  op2 : BitVec 5
  vm : BitVec 3
  kind : VKind
deriving DecidableEq, Repr

/-- Format V, unary (R117). -/
structure VUnary where
  vd : BitVec 5
  vs1 : BitVec 5
  vm : BitVec 3
deriving DecidableEq, Repr

/-- Format V, compare into a mask (R118). -/
structure VCmpArgs where
  md : BitVec 3
  vs1 : BitVec 5
  op2 : BitVec 5
  vm : BitVec 3
  kind : VKind
deriving DecidableEq, Repr

/-- Format V of major opcode 0x25 (R120): vx selects the scalar operand. -/
structure VFArgs where
  vd : BitVec 5
  vs1 : BitVec 5
  op2 : BitVec 5
  vm : BitVec 3
  vx : Bool
  rm : Rm
deriving DecidableEq, Repr

/-- Unary ops of major opcode 0x25 that round (R120). -/
structure VFUnary where
  vd : BitVec 5
  vs1 : BitVec 5
  vm : BitVec 3
  rm : Rm
deriving DecidableEq, Repr

/-- Major opcode 0x26 (R121): src is the source-type code, or xs2 in VBSCALE. -/
structure CvtArgs where
  vd : BitVec 5
  vs1 : BitVec 5
  src : BitVec 5
  vm : BitVec 3
  rm : Rm
deriving DecidableEq, Repr

/-- Major opcode 0x27 (R122): toX selects the scalar destination. -/
structure RedArgs where
  d : BitVec 5
  vs1 : BitVec 5
  vm : BitVec 3
  toX : Bool
  rm : Rm
deriving DecidableEq, Repr

/-- Format VM (R109, R124): r2 is xs2 or vs2, zero where the form has none. -/
structure VMemArgs where
  v : BitVec 5
  xs1 : BitVec 5
  r2 : BitVec 5
  vm : BitVec 3
  req : Req
  rx : Bool
deriving DecidableEq, Repr

/-- Vector atomics (R125). -/
structure VAmoArgs where
  vs3 : BitVec 5
  xs1 : BitVec 5
  vs2 : BitVec 5
  vm : BitVec 3
  scope : Scope
  acq : Bool
  rel : Bool
deriving DecidableEq, Repr

/-- Format T of TMMA and TMMAO (R128, R258): count is P minus 1. -/
structure TArgs where
  acc : BitVec 3
  vA : BitVec 5
  vB : BitVec 5
  count : BitVec 5
  rm : Rm
deriving DecidableEq, Repr

/-- Truth-table instruction (R119, R223). -/
structure VttArgs where
  vd : BitVec 5
  vs1 : BitVec 5
  vs2 : BitVec 5
  vm : BitVec 3
  slot : BitVec 4
deriving DecidableEq, Repr

/-- A pair entry (R26): node addresses below 2^48 and the ORIGIN bits STOLEN, FWD, SPILLED, SEED. -/
structure Pair where
  node1 : BitVec 48
  node2 : BitVec 48
  origin : BitVec 4
deriving DecidableEq, Repr

/-- The pool boundary registers (R264). -/
inductive PoolCsr | v | s | c
deriving DecidableEq, Repr

/-- Operation of a CSR write (R149). -/
inductive CsrOp | write | set | clear
deriving DecidableEq, Repr

/-- Operation of an atomic at its home (R291, R348): a CAS carries its expected value beside the operand, an FP
addition its rounding mode, random bits and overflow entry (R351). -/
inductive AmoOp | add | and | or | xor | min | max | minu | maxu | swap | cas | fadd | fmin | fmax
deriving DecidableEq, Repr

/-- Who issued a request that waits at a home unit or at a boundary interface; `copies` is a core's own
write-back, `notify` a context's notification word (R419). -/
inductive Requester
  | scalar (p : CoreId) (s : StrandId)
  | elem (p : CoreId) (s : StrandId) (i : Nat)
  | engine (desc : Nat)
  | host
  | peer (dev : BitVec 9)
  | copies (p : CoreId)
  | notify (c : CtxId)
  | walker (p : CoreId)
deriving DecidableEq, Repr

/-- An atomic request (R347). -/
structure AtomicReq where
  who : Requester
  pa : Nat
  size : ASize
  op : AmoOp
  operand : Word
  expected : Word
deriving DecidableEq, Repr

/-- A deposit into a channel (R358, R359): one element per lane, none where the lane is inactive. -/
structure Deposit where
  fromCore : CoreId
  fromStrand : StrandId
  vector : Bool
  ctx : CtxId
  lcore : BitVec 10
  strand : StrandId
  ch : BitVec 2
  offset : Nat
  elems : List (Option (BitVec 64))
deriving DecidableEq, Repr

/-- A message to a reduction server (R364). fromDev none is this device; `vector` says that a VSEND sent it. -/
structure RedMsg where
  vector : Bool
  ctx : CtxId
  fromDev : Option (BitVec 9)
  fromLcore : BitVec 10
  fromCore : Option CoreId
  fromStrand : StrandId
  lcore : BitVec 10
  stop : Bool
  value : Word
deriving DecidableEq, Repr

/-- What a neighbour device sends along a reduction chain (R361, R362): a header or an element group from the
previous device, a result group from the next, or an abort from either. An element goes with the flags of the
roundings that formed it. -/
inductive XredMsg
  | header (vlen : Nat) (vtype5 : BitVec 6) (op : XOp)
  | group (n : Nat) (elems : List (Option (BitVec 64 × BitVec 5)))
  | result (n : Nat) (elems : List (Option (BitVec 64 × BitVec 5)))
  | abort (fromNext : Bool)
deriving DecidableEq, Repr

/-- A memory request that crosses the host or peer interface (R426, R431). A merge writes some bits of a byte
(R305); a chain of compare-and-swaps carries the (expected, new) pairs after the first (R351). -/
inductive BusOp
  | read (pa : Nat) (len : Nat)
  | write (pa : Nat) (bytes : List Byte)
  | merge (pa bit width v : Nat)
  | atomic (r : AtomicReq)
  | casChain (r : AtomicReq) (more : List (Word × Word))
deriving DecidableEq, Repr

/-- How a request at the host or peer interface ends (R429, R431). -/
inductive BusStatus | ok | refused | memError
deriving DecidableEq, Repr

/-- Which sensor of a column (R436). -/
inductive Sensor | base | core
deriving DecidableEq, Repr

/-- What the self-test of one core found (R444): failing rows (way, array, row) and passing classes. -/
structure TestResult where
  rows : List (BitVec 4 × BitVec 4 × BitVec 12)
  classes : BitVec 128
deriving DecidableEq, Repr, Inhabited

/-- What a boot finds (R442, R443): whether the signatures of the image's two copies verify, and each core's self-test. -/
structure BootResult where
  firstOk : Bool
  secondOk : Bool
  tests : Vector TestResult 384
deriving DecidableEq, Repr, Inhabited

/-- A firmware image that the mailbox brings in recovery, and what the boot after it finds (R443). -/
structure NewImage where
  bytes : List Byte
  boot : BootResult
deriving DecidableEq, Repr, Inhabited

/-- A request for a measurement block (R438): its index, and the nonce of one that asks for a signature. -/
structure MeasureRequest where
  index : Nat
  nonce : Option (BitVec 256)
deriving DecidableEq, Repr, Inhabited

end Sys2Proof
end

