-- ==== Sys2Proof/Config.lean ====
section
/-! DEFINITION. Values that the spec leaves open, as constants without a body (assumption 3), and what one
device fixes at manufacture (R437, R438). -/

namespace Sys2Proof.Config

/-- The value of a hidden bit row (P rows and the carry C, R199, R200) that a way image shows, taken anew for
each column image: nothing constrains it. -/
opaque hiddenRow : Nat → BitVec 33

/-- The step at which a parity error stops a built-in sequence whose steps the spec does not list (R224): nothing
constrains it. -/
opaque parityStep : Nat → Nat

/-- What the rows that such a sequence writes hold in one lane when it stops (R224): nothing constrains it. -/
opaque partialRows : Nat → Nat → BitVec 2048

/-- floor(log2 L) of R236 for a narrow format whose largest finite value is zero: nothing constrains it. -/
opaque expOfZero : Int

/-- The memory port, of 768, that holds a piece of 256 bytes of HBM data (R278, R346): the hash is not given. -/
opaque memoryPort : Nat → Nat

/-- The firmware image that the flash holds in both copies when the device is delivered (R442, R443). -/
opaque shippedImage : List (BitVec 8)

/-- Digests of the parts of a firmware image that a boot measures beside the whole of it (R438, measurements 2 and 3). -/
opaque firmwareDigest : Nat → List (BitVec 8) → List (BitVec 8)

/-- What the boot finds that follows a write of 0x5a to RESETCMD (R442): nothing constrains it. -/
opaque bootOutcome : Nat → BootResult

/-- The certificate chain of the device identity key (R437). -/
opaque certificateChain : List (BitVec 8)

/-- The device's signature over a message (R437, R438). -/
opaque sign : List (BitVec 8) → List (BitVec 8)

/-- The body of an SPDM answer whose fields are those of the standard, not of this spec (R438). -/
opaque spdmBody : Nat → List (BitVec 8)

/-- The behaviour level of the device, which is at stepping B0 (R1, R85). -/
def deviceLevel : Nat := 2

end Sys2Proof.Config
end

