-- ==== Sys2Proof/Syntax.lean ====
section
/-! DEFINITION. The instruction set: one constructor for each row of the opcode table, the 227 rows with an
instruction word first, then the events, whose inputs are their arguments. -/

namespace Sys2Proof

/-- The operations and events of the A384, in the order of the opcode table. -/
inductive Instr
  | add (rd rs1 rs2 : BitVec 5)
  | sub (rd rs1 rs2 : BitVec 5)
  | and (rd rs1 rs2 : BitVec 5)
  | or (rd rs1 rs2 : BitVec 5)
  | xor (rd rs1 rs2 : BitVec 5)
  | andn (rd rs1 rs2 : BitVec 5)
  | sll (rd rs1 rs2 : BitVec 5)
  | srl (rd rs1 rs2 : BitVec 5)
  | sra (rd rs1 rs2 : BitVec 5)
  | rol (rd rs1 rs2 : BitVec 5)
  | slt (rd rs1 rs2 : BitVec 5)
  | sltu (rd rs1 rs2 : BitVec 5)
  | min (rd rs1 rs2 : BitVec 5)
  | max (rd rs1 rs2 : BitVec 5)
  | minu (rd rs1 rs2 : BitVec 5)
  | maxu (rd rs1 rs2 : BitVec 5)
  | clz (rd rs1 : BitVec 5)
  | ctz (rd rs1 : BitVec 5)
  | popc (rd rs1 : BitVec 5)
  | sext (size : Size) (rd rs1 : BitVec 5)
  | zext (size : Size) (rd rs1 : BitVec 5)
  | addi (rd rs1 : BitVec 5) (imm : BitVec 16)
  | andi (rd rs1 : BitVec 5) (imm : BitVec 16)
  | ori (rd rs1 : BitVec 5) (imm : BitVec 16)
  | xori (rd rs1 : BitVec 5) (imm : BitVec 16)
  | slti (rd rs1 : BitVec 5) (imm : BitVec 16)
  | sltiu (rd rs1 : BitVec 5) (imm : BitVec 16)
  | slli (rd rs1 : BitVec 5) (sh : BitVec 6)
  | srli (rd rs1 : BitVec 5) (sh : BitVec 6)
  | srai (rd rs1 : BitVec 5) (sh : BitVec 6)
  | roli (rd rs1 : BitVec 5) (sh : BitVec 6)
  | lui (rd : BitVec 5) (imm : BitVec 16)
  | mul (rd rs1 rs2 : BitVec 5)
  | mulh (rd rs1 rs2 : BitVec 5)
  | mulhu (rd rs1 rs2 : BitVec 5)
  | div (rd rs1 rs2 : BitVec 5)
  | divu (rd rs1 rs2 : BitVec 5)
  | rem (rd rs1 rs2 : BitVec 5)
  | remu (rd rs1 rs2 : BitVec 5)
  | beq (rs1 rs2 : BitVec 5) (off : BitVec 16)
  | bne (rs1 rs2 : BitVec 5) (off : BitVec 16)
  | blt (rs1 rs2 : BitVec 5) (off : BitVec 16)
  | bge (rs1 rs2 : BitVec 5) (off : BitVec 16)
  | bltu (rs1 rs2 : BitVec 5) (off : BitVec 16)
  | bgeu (rs1 rs2 : BitVec 5) (off : BitVec 16)
  | jal (off : BitVec 26)
  | jalr (rd rs1 : BitVec 5) (imm : BitVec 16)
  | ld (a : MArgs)
  | st (a : MArgs)
  | aadd (a : AArgs)
  | aand (a : AArgs)
  | aor (a : AArgs)
  | axor (a : AArgs)
  | amin (a : AArgs)
  | amax (a : AArgs)
  | aswap (a : AArgs)
  | acas (a : AArgs)
  | ldfK (rd rs1 : BitVec 5) (imm : BitVec 11)
  | ldfT (rd rs1 : BitVec 5) (imm : BitVec 11)
  | stf (rs2 rs1 : BitVec 5) (imm : BitVec 11)
  | stfW (rs2 rs1 : BitVec 5) (imm : BitVec 11)
  | sete (rs1 : BitVec 5) (imm : BitVec 11)
  | probef (rd rs1 : BitVec 5) (imm : BitVec 11)
  | fence (scope : Scope)
  | vsync
  | cflush (rs1 rs2 : BitVec 5)
  | cinv (rs1 rs2 : BitVec 5)
  | seal (rs1 rs2 : BitVec 5)
  | unseal (rs1 rs2 : BitVec 5)
  | csrr (rd : BitVec 5) (csr : BitVec 12)
  | csrw (rs1 : BitVec 5) (csr : BitVec 12)
  | csrs (rs1 : BitVec 5) (csr : BitVec 12)
  | csrc (rs1 : BitVec 5) (csr : BitVec 12)
  | trap (rs1 : BitVec 5)
  | tret
  | brk
  | wfe
  | haltc
  | fmtset (n : BitVec 2) (rs1 : BitVec 5)
  | ovtset (rs1 : BitVec 5)
  | rndset (rs1 : BitVec 5)
  | send (rs1 rs2 : BitVec 5)
  | rserve (rs1 : BitVec 5)
  | next
  | nalloc (rd : BitVec 5)
  | nfree (rs1 : BitVec 5)
  | ntake (rd rs1 : BitVec 5)
  | nlink (rs1 rs2 : BitVec 5)
  | npush (rs1 rs2 : BitVec 5)
  | nhdr (rd rs1 : BitVec 5)
  | nseth (rs1 rs2 : BitVec 5)
  | nfwd (rs1 : BitVec 5)
  | ndone
  | yield
  | resume (rs1 : BitVec 5)
  | cpy (rs1 : BitVec 5)
  | cpy2d (rs1 : BitVec 5)
  | cpyw (rd rs1 : BitVec 5)
  | sbinit (rs1 rs2 : BitVec 5)
  | sbwait (rs1 : BitVec 5)
  | sbadv (rs1 rs2 : BitVec 5)
  | snap (rd rs1 : BitVec 5)
  | publish (rd rs1 : BitVec 5)
  | objfree (rd rs1 : BitVec 5)
  | setlen (rd rs1 : BitVec 5)
  | setvt (rs1 : BitVec 5)
  | lanerel
  | setvti (imm : BitVec 16)
  | vadd (o : VArgs)
  | vsub (o : VArgs)
  | vrsub (o : VArgs)
  | vmul (o : VArgs)
  | vmulh (o : VArgs)
  | vmac (o : VArgs)
  | vdiv (o : VArgs)
  | vrem (o : VArgs)
  | vmin (o : VArgs)
  | vmax (o : VArgs)
  | vsadd (o : VArgs)
  | vssub (o : VArgs)
  | vavg (o : VArgs)
  | vabs (o : VUnary)
  | vneg (o : VUnary)
  | vpopc (o : VUnary)
  | vclz (o : VUnary)
  | vand (o : VArgs)
  | vor (o : VArgs)
  | vxor (o : VArgs)
  | vnot (o : VUnary)
  | vsll (o : VArgs)
  | vsrl (o : VArgs)
  | vsra (o : VArgs)
  | vmv (o : VUnary)
  | vmerge (o : VArgs)
  | vsplat (vd op2 : BitVec 5) (vm : BitVec 3) (kind : VKind)
  | vcmpeq (o : VCmpArgs)
  | vcmpne (o : VCmpArgs)
  | vcmplt (o : VCmpArgs)
  | vcmple (o : VCmpArgs)
  | vcmpgt (o : VCmpArgs)
  | vcmpge (o : VCmpArgs)
  | mand (md ms1 ms2 : BitVec 3)
  | mor (md ms1 ms2 : BitVec 3)
  | mxor (md ms1 ms2 : BitVec 3)
  | mnot (md ms1 : BitVec 3)
  | mpopc (rd : BitVec 5) (ms1 vm : BitVec 3)
  | mfirst (rd : BitVec 5) (ms1 vm : BitVec 3)
  | mset (md : BitVec 3)
  | vmatch (tgd : BitVec 2) (vs1 xs2 : BitVec 5) (vm : BitVec 3)
  | vwrite (vd xs2 : BitVec 5) (tgs : BitVec 2) (vm : BitVec 3)
  | tgmovToMask (md : BitVec 3) (tgs : BitVec 2)
  | tgmovToTag (tgd : BitVec 2) (ms1 : BitVec 3)
  | ttload (slot : BitVec 4) (xs1 : BitVec 5)
  | vtt (o : VttArgs)
  | vfadd (o : VFArgs)
  | vfsub (o : VFArgs)
  | vfmul (o : VFArgs)
  | vfma (o : VFArgs)
  | vfnma (o : VFArgs)
  | vfmin (vd vs1 op2 : BitVec 5) (vm : BitVec 3) (vx : Bool)
  | vfmax (vd vs1 op2 : BitVec 5) (vm : BitVec 3) (vx : Bool)
  | vfdiv (o : VFArgs)
  | vfsqrt (o : VFUnary)
  | vfrsq (o : VFUnary)
  | vfexp2 (o : VFUnary)
  | vflog2 (o : VFUnary)
  | vfabs (o : VUnary)
  | vfneg (o : VUnary)
  | vfclass (o : VUnary)
  | vfcmp (cond : FCond) (md : BitVec 3) (vs1 op2 : BitVec 5) (vm : BitVec 3) (vx : Bool)
  | vcvt (o : CvtArgs)
  | vnarrow (o : CvtArgs)
  | vwiden (o : CvtArgs)
  | vbscale (o : CvtArgs)
  | vbquant (o : CvtArgs)
  | vbdeq (o : CvtArgs)
  | vredsum (o : RedArgs)
  | vredsumo (o : RedArgs)
  | vredmin (d vs1 : BitVec 5) (vm : BitVec 3) (toX : Bool)
  | vredmax (d vs1 : BitVec 5) (vm : BitVec 3) (toX : Bool)
  | vredand (d vs1 : BitVec 5) (vm : BitVec 3) (toX : Bool)
  | vredor (d vs1 : BitVec 5) (vm : BitVec 3) (toX : Bool)
  | vredxor (d vs1 : BitVec 5) (vm : BitVec 3) (toX : Bool)
  | vscansum (o : VFUnary)
  | vscanmin (o : VUnary)
  | vscanmax (o : VUnary)
  | vslideup (o : VArgs)
  | vslidedn (o : VArgs)
  | vgather (vd vs1 vs2 : BitVec 5) (vm : BitVec 3)
  | vcompress (o : VUnary)
  | vexpand (o : VUnary)
  | vbcast (o : VArgs)
  | vextr (o : VArgs)
  | vins (o : VArgs)
  | vbshuf (vd vs1 vs2 : BitVec 5) (vm : BitVec 3)
  | vidx (vd : BitVec 5) (start : BitVec 11) (inc : BitVec 10)
  | vld (a : VMemArgs)
  | vlds (a : VMemArgs)
  | vldx (a : VMemArgs)
  | vldt (a : VMemArgs)
  | vldb (a : VMemArgs)
  | vldsb (vd xs1 : BitVec 5) (vm : BitVec 3) (rx : Bool)
  | vst (a : VMemArgs)
  | vsts (a : VMemArgs)
  | vstx (a : VMemArgs)
  | vstt (a : VMemArgs)
  | vamoadd (a : VAmoArgs)
  | vamomin (a : VAmoArgs)
  | vamomax (a : VAmoArgs)
  | vamoand (a : VAmoArgs)
  | vamoor (a : VAmoArgs)
  | vamoxor (a : VAmoArgs)
  | vamoswap (a : VAmoArgs)
  | vamocas (a : VAmoArgs)
  | vwait (cond : WCond) (md : BitVec 3) (vs1 vs2 : BitVec 5) (vm : BitVec 3)
  | vsend (vs1 xs2 : BitVec 5) (vm : BitVec 3)
  | xred (op : XOp) (vd xs2 : BitVec 5) (vm : BitVec 3)
  | bsload (xs1 xs2 : BitVec 5) (vm : BitVec 3)
  | bsmovToUpper (vs1 xs2 : BitVec 5) (vm : BitVec 3)
  | bsmovFromUpper (vd xs2 : BitVec 5) (vm : BitVec 3)
  | imma (vd vs1 xs2 : BitVec 5) (vm : BitVec 3)
  | tmma (o : TArgs)
  | tmmao (o : TArgs)
  | taccz (acc : BitVec 3)
  | taccld (acc : BitVec 3) (vA : BitVec 5)
  | taccst (acc : BitVec 3) (vA : BitVec 5)
  | vpf (a : VMemArgs)
  | hint (maj : HintMajor) (imm : BitVec 26)
  | illegalWordFetch (w : IWord)
  | poolCsrWrite (r : PoolCsr) (op : CsrOp) (v : Word)
  | launch (c : CtxId) (v : Word)
  | launchDistributionResume (c : CtxId)
  | ctxrefresh (c : CtxId)
  | yreqWrite (p : CoreId) (v : Word)
  | tlbinvAll (c : CtxId)
  | tlbinvVpn (c : CtxId) (v : Word)
  | snapcmd (v : Word)
  | snapComplete
  | xredgrpWrite (g : Fin 16) (v : Word)
  | preemptNotify (c : CtxId) (v : Word)
  | preemptSave (c : CtxId) (v : Word)
  | ctxrun (c : CtxId) (v : Word)
  | ctxrunResume (c : CtxId) (l : BitVec 10)
  | dbgHalt (p : CoreId) (s : StrandId)
  | dbgRun (p : CoreId) (s : StrandId)
  | dbgStep (p : CoreId) (s : StrandId)
  | dregdataWrite (p : CoreId) (v : Word)
  | qdataWrite (p : CoreId) (k : Fin 8) (v : Word)
  | ctxretire (c : CtxId) (v : Word)
  | retireFinish (c : CtxId)
  | devnumWrite (v : Word)
  | registerWrite (off : BitVec 32) (v : Word)
  | coreTakeUp (p : CoreId) (c : CtxId)
  | steal (victim : CoreId) (c : CtxId) (thief : BitVec 10) (shortOk longOk : Bool)
  | give (thief : CoreId) (c : CtxId) (pairs : List Pair)
  | fwd (target : CoreId) (c : CtxId) (pair : Pair)
  | wake (p : CoreId) (c : CtxId) (pusher : BitVec 10)
  | ifetchFill (p : CoreId) (s : StrandId)
  | muldivResult (p : CoreId) (s : StrandId)
  | readQueueDelivery (p : CoreId) (s : StrandId)
  | scalarAccessPerform (p : CoreId) (s : StrandId) (n : Nat)
  | vqEntryExecute (p : CoreId) (s : StrandId)
  | vqEntryRetire (p : CoreId) (s : StrandId)
  | vectorFault (p : CoreId) (s : StrandId)
  | laneGrant (p : CoreId)
  | channelDeposit (d : Deposit)
  | redMessage (m : RedMsg)
  | xredMessage (g : Fin 16) (m : XredMsg)
  | atomicRequest (r : AtomicReq)
  | combineFetchArrival (pa : Nat)
  | homeAccess (p : CoreId) (s : StrandId) (n : Nat)
  | feRetry (n : Nat)
  | vwaitPoll (p : CoreId) (s : StrandId)
  | vwaitTimeout (p : CoreId) (s : StrandId)
  | enginePiece (e : Fin 48)
  | copyComplete (desc : Nat)
  | powerWindow (n : Vector Nat 384)
  | idleInsertion
  | vxArbitration (p : CoreId) (tileFull pipeFull : Bool)
  | sensorFail (p : CoreId) (w : Sensor)
  | thermalThrottle
  | thermalShutdown
  | railFault (r : BootResult)
  | coldReset (r : BootResult)
  | perst (r : BootResult)
  | resetcmd (v : Word) (r : BootResult)
  | selfTest (p : CoreId) (t : TestResult)
  | scrub (p : CoreId) (failing : BitVec 128)
  | mgmtCapmaskClear (p : CoreId) (clear : BitVec 128)
  | hostWrite (pa : Nat) (bytes : List Byte)
  | hostRead (pa : Nat) (len : Nat)
  | hostAtomic (r : AtomicReq)
  | hostCompletion (n : Nat) (st : BusStatus) (data : List Byte)
  | hostCompletionTimeout (n : Nat)
  | getVersion
  | getCapabilities
  | negotiateAlgorithms
  | getDigests
  | getCertificate
  | challenge (nonce : BitVec 256)
  | getMeasurements (q : MeasureRequest)
  | recoveryImage (x : NewImage)
  | peerRequest (dev : BitVec 9) (c : CtxId) (op : BusOp)
  | peerResponse (n : Nat) (st : BusStatus) (data : List Byte)
  | peerTimeout (n : Nat)
  | flitCrcFail (j : Fin 16)
  | portDown (j : Fin 16)
  | portRetrained (j : Fin 16)
  | allowanceRestore (n : Vector Nat 384)
  | thermalThrottleExit (n : Vector Nat 384)
  | hostConfigurationRequest
  | elementGroupArrival (p : CoreId) (s : StrandId) (n : Nat)
deriving DecidableEq, Repr

end Sys2Proof
end

