-- ==== Sys2Proof/Machine/State.lean ====
section
/-! DEFINITION. The state of an A384: per strand, per core, per context and per device, as plain data. -/

namespace Sys2Proof.Machine

/-- Bytes by address, strictly rising, no byte equal to the one an unlisted address reads as, which is zero
(R442 step 4; assumption 6). -/
abbrev Memory := List Host.Cell

/-- An array of a core, 16·way + number in its way (R11, R105). -/
abbrev ArrayId := Nat

/-- Lane class of a firing (R40). -/
inductive LaneClass | noLanes | short | long
deriving DecidableEq, Repr

/-- One column of an array in compute mode (R13, R199, R200): bit r of `low` is register row r, bit r of `upper`
is upper-store row r. m0 is not held: it reads 1. `vague` marks the P rows, and C in bit 32, that hold a value which no
rule gives (assumption 67). -/
structure Lane where
  low : BitVec 1024
  upper : BitVec 1024
  masks : BitVec 8
  work : BitVec 16
  hidden : BitVec 32
  tags : BitVec 4
  carry : Bool
  vague : BitVec 33
  arrived : BitVec 4
deriving DecidableEq, Repr

/-- Registers captured by a vector-queue entry at commit (R166, R392). `part` holds the arrays of the partition
the instruction was committed for, in lane order (R138): a loan takes effect only for later instructions (R106).
`ending` lists what the entry's retirement ends: one item for each NDONE that waits for it, saying whether that NDONE gave
up a firing (R184). `level1` says that the object it was fetched from is of level 1 (R85), `again` that it is a held entry
committed again (R386), `early` lists the elements that it has performed while an earlier entry was still performing, by
request, with the value read (R309). -/
structure QEntry where
  word : IWord
  addr : Word
  x1 : Word
  x2 : Word
  vtype : BitVec 16
  vlen : BitVec 17
  fmt : Vector (BitVec 18) 4
  ovt : BitVec 16
  seed : Word
  vstart : BitVec 25
  part : List ArrayId
  chans : BitVec 4
  ending : List Bool
  level1 : Bool
  again : Bool
  early : List (Nat × Option Nat)
  /-- The number of an XRED among those that its chain has seen issue on this device (R361). -/
  ticket : Nat
deriving DecidableEq, Repr

/-- A vector fault detected and not yet taken (R383, R388). -/
structure VFault where
  cause : BitVec 16
  tval : Word
  elem : BitVec 25
  vstart : BitVec 25
deriving DecidableEq, Repr

/-- What a vector memory instruction still asks of one element (R284, R303); `scale` reads a block's scale byte
and `high` the bits from a place up of an element that a byte boundary divides (R307). -/
inductive VOp
  | load
  | scale
  | high (low : Nat)
  | store (bits : Nat)
  | atomic (op : AmoOp) (pre : List (Nat × Nat × Nat))
  | watch (expected : Nat)
deriving DecidableEq, Repr

/-- A request of the entry at the head: its lane, physical and virtual address, width in bits and first bit
(sub-byte elements, R305). `got` is the value read, `sent` says that it waits beyond the package. -/
structure VReq where
  elem : Nat
  pa : Nat
  va : Word
  bit : Nat
  width : Nat
  req : Req
  dev : Bool
  grain : Nat
  op : VOp
  got : Option Nat
  sent : Bool
deriving DecidableEq, Repr

/-- The entry at the head of a queue once it has begun (R205, R384): requests left, element groups written
(R286), the fault found by the probe pass (R284), and for VWAIT the captured limit and the time of its first
read (R355). `result` is the x result of a finished entry (R168), `finished` says its effect is complete. -/
structure HeadRun where
  reqs : List VReq
  arrived : List Nat
  fault : Option VFault
  limit : Word
  since : Nat
  steps : Nat
  result : Option Word
  finished : Bool
deriving DecidableEq, Repr

/-- A slot of the read queue (R168): `dropped` marks a result that a debugger's write displaced (R399). -/
structure ReadSlot where
  rd : BitVec 5
  value : Option Word
  dropped : Bool
deriving DecidableEq, Repr

/-- A scalar access issued with rx and not yet performed (R288). A load names its destination. -/
structure RelaxedAcc where
  isStore : Bool
  r : BitVec 5
  va : Word
  pa : Nat
  size : Size
  req : Req
  dev : Bool
  grain : Nat
  data : Word
  addr : Word
deriving DecidableEq, Repr

/-- What a strand waits for (R42, R164). -/
inductive Wait
  | drain
  | latch
  | pair
  | lanes
  | fullEmpty
  | external
  | slot
  | copySlot
  /-- For the buffer of a key, with the operand of its SBWAIT (R321, R323). -/
  | sbuf (key : Nat) (x : Word)
  /-- For its scalar atomic at a scatter-add unit: the destination, the size, the scope of its acquire (R292, R347). -/
  | atomic (rd : BitVec 5) (size : ASize) (acq : Option Scope)
  | copyEnd (desc : Nat)
  | server
  | deposit
  | logRecord
  /-- For values of the x registers that its instruction restores or saves (R164, R194). -/
  | values
  /-- For its relaxed accesses to perform (R288, R298). -/
  | relaxed
  /-- For the write-backs of a release (R274). -/
  | writeBacks
  /-- For an entry of a page table beyond the package (R272, R280). -/
  | walk
deriving DecidableEq, Repr

/-- A strand (R11). TSTAT is held as its four fields (R153). -/
structure Strand where
  x : Vector Word 32
  pc : Word
  vtype : BitVec 16
  vlen : BitVec 17
  vstart : BitVec 25
  vstat : BitVec 5
  vicount : Word
  rndseed : Word
  fmt : Vector (BitVec 18) 4
  chanmap : BitVec 32
  treeRoot : Bool
  treeDev : BitVec 9
  treeLcore : BitVec 10
  sbbase : BitVec 45
  vfelem : BitVec 25
  trapvec : BitVec 50
  causeSw : Bool
  cause : BitVec 16
  tval : Word
  tepc : BitVec 50
  latch : Bool
  tact : Bool
  ppriv : BitVec 2
  priv : BitVec 2
  tscratch : Word
  halted : Bool
  dbgHalted : Bool
  dbgStep : Bool
  /-- A halt that a debugger asked for waits for the XRED in progress (R361, R398). -/
  dbgAsked : Bool
  wait : Option Wait
  queue : List QEntry
  head : Option HeadRun
  replay : List QEntry
  vfault : Option VFault
  preempt : Option Word
  asyncTraps : List (BitVec 16 × Word)
  readq : List ReadSlot
  relaxed : List RelaxedAcc
  relaxedFault : Option (Word × BitVec 16)
  /-- Registers whose load failed after issue: the register, the load's address, the cause (R288, R429). -/
  poisoned : List (BitVec 5 × Word × BitVec 16)
  muldiv : Bool
  firing : Option Pair
  resumed : Bool
  nstep : BitVec 3
  nextAt : Word
  /-- What NEXT has found at step 7 of R29: the nodes in the rule's order, the rule word and the handler's address. -/
  rulePair : Option (Word × Word × Word × Word)
  cls : LaneClass
  part : List ArrayId
  acc : List (Nat × Word)
  /-- Pairs that SPILL_FULL has left with the strand, oldest first: the pair, whether a YIELD pushes it, the TEPC of its trap
  (R191). -/
  counted : List (Pair × Bool × Word)
  /-- What an instruction that waits has gathered so far, and the address of that instruction. `taken` says that it is words
  of nodes, which the instruction holds empty through a trap (R189). -/
  progress : List Word
  progressAt : Word
  taken : Bool
  serving : Option (BitVec 16 × Word)
  cameFrom : Word
  /-- The strand's lanes are due for release, once its held entries have completed (R387). -/
  lanesDue : Bool
  /-- Decrements that NDONE has left to a release which waits for answers from beyond the package (R31, R184). -/
  owed : Nat
  /-- The line of 64 bytes in the fetch buffer, by number, with its contents; none where its fill met an uncorrectable
  error (R162, R163). -/
  fetchBuf : Option (Nat × Option Nat)
  /-- An instruction that has issued and not completed: its address and its word (R79). -/
  issuedWord : Option (Word × IWord)
deriving DecidableEq, Repr

/-- One array in the allocator's records (R105, R106): in use by a short strand, chosen for a loan that has not
taken effect, outside its owner's partition since a SETLEN that has not retired, returned by its borrower and not yet rejoined. -/
inductive ArrayUse
  | short (s : StrandId)
  | lending (s : StrandId)
  | leaving (s : StrandId)
  | returned
deriving DecidableEq, Repr

/-- Kind of a core's copy (R273). -/
inductive CopyKind | untracked | tracked | owned
deriving DecidableEq, Repr

/-- A core's copy of one 32-byte sector of HBM, of the host window or of a peer window (R271, R273, R276). An untracked
sector holds its own bytes, and the list of the dirty ones. The value of a tracked or owned sector is the one Memory
gives; for each dirty byte of an owned sector `bytes` keeps what the home held before, which it holds still if the dirty
data is lost (R401). `gen` is the generation of an owned sector (R326), `grain` the block's grain (R271), `inScalar` and
`way` say where it is held, and `ctx` and `va` belong to its dirty data: the context the core served, the sector's
virtual address. -/
structure Copy where
  sector : Nat
  kind : CopyKind
  bytes : List Byte
  dirty : List Nat
  gen : Bool
  grain : Nat
  inScalar : Bool
  way : Option Nat
  ctx : Option CtxId
  va : Word
  /-- Words that held an uncorrectable error in the home when they came, by number. -/
  bad : List Nat
deriving DecidableEq, Repr

/-- A translation held in a core (R283): the leaf entry, by virtual page, in the core's TLB or in the bank of an array. -/
structure TlbEntry where
  bank : Option ArrayId
  ctx : CtxId
  base : Nat
  size : Nat
  frame : Nat
  grain : Nat
  dev : Bool
  canRead : Bool
  canWrite : Bool
deriving DecidableEq, Repr

/-- An entry of an intermediate node that a core's walker holds (R283): the level, the virtual address bits from that
level's index up, and the node it points to. -/
structure NodeEntry where
  ctx : CtxId
  level : Nat
  index : Nat
  node : Nat
deriving DecidableEq, Repr

/-- The reduction-server unit of a waystation (R364). Contributions are keyed by sender: strand number for local
ones, (device, logical core) for children. -/
structure Server where
  strand : StrandId
  va : Word
  rec0 : Word
  pa0 : Nat
  pa1 : Nat
  round : Nat
  locals : List (Nat × Nat × Word)
  children : List (Nat × Nat × Nat × Word)
  waitingParent : Bool
deriving DecidableEq, Repr

/-- A delivery held at a waystation (R98): 1 a GIVE, 2 a FWD, 3 one released by
the base die, 4 a FWD released by it. -/
structure Delivery where
  kind : Nat
  pairs : List Pair
deriving DecidableEq, Repr

/-- The steal of a core in progress (R95, R99): victims still to ask, the generation recorded. -/
structure Sweep where
  victims : List Nat
  gen : Nat
deriving DecidableEq, Repr

/-- Debug registers of a core (R397). -/
structure Debug where
  arm : BitVec 8
  regStrand : BitVec 3
  regSpace : BitVec 2
  regNum : BitVec 12
  qStrand : BitVec 3
  qBuf : Bool
  qEntry : BitVec 5
deriving DecidableEq, Repr

/-- A thermal column (R435, R436). -/
structure Thermal where
  capped : Bool
  failBase : Bool
  failCore : Bool
  tempBase : BitVec 16
  tempCore : BitVec 16
  tileCount : Nat
  pipeCount : Nat
  /-- Readings of the last 4 ms and the one before them: the base cycle, both sensors, the column's power (R436). -/
  history : List (Nat × BitVec 16 × BitVec 16 × Nat)
deriving DecidableEq, Repr

/-- A core and its waystation (R11). -/
structure Core where
  strands : Vector Strand 8
  serves : Option CtxId
  lcore : BitVec 10
  ptroot : Nat
  capmask : BitVec 128
  ovt : BitVec 16
  poolV : BitVec 5
  poolS : BitVec 5
  poolC : BitVec 5
  npool : BitVec 43
  cpyshare : BitVec 8
  bag : List Pair
  sweepCount : Nat
  sweep : Option Sweep
  /-- A STEAL of the core has not been answered (R95). -/
  asked : Bool
  hungry : Bool
  deliveries : List Delivery
  whole : List (Nat × StrandId)
  uses : List (ArrayId × ArrayUse)
  laneReqs : List (StrandId × LaneClass)
  lanes : List (Nat × Lane)
  spad : Memory
  spadFull : List Nat
  wayTag : Vector (Option (CtxId × Bool)) 16
  /-- Parity mismatches: array, and 4·row + group of 64 columns, rows numbered as R224 and R249 do. -/
  parityBad : List (ArrayId × Nat)
  /-- Rows that have mismatched: array, and 2·row + 1 when the row has been rewritten since (R225). -/
  mismatched : List (ArrayId × Nat)
  /-- Rows that have failed and wait for a spare (R225): array and row. -/
  failed : List (ArrayId × Nat)
  /-- Words, by place in the 16 ways, that hold an uncorrectable error in a way that has contents and no window (R266). -/
  keptBad : List Nat
  copies : List Copy
  /-- A write-back beyond the package that was refused: the virtual address, the cause (R276, R429). -/
  copyFault : Option (Word × BitVec 16)
  tlb : List TlbEntry
  nodes : List NodeEntry
  /-- Table entries that have come from beyond the package, by address (R280; assumption 7): the answer and the word. -/
  tables : List (Nat × BusStatus × Word)
  rules : List (BitVec 24 × Option (Word × Word))
  /-- Lines of 64 bytes that the instruction cache holds, by number, with their contents, oldest first (R162). -/
  icache : List (Nat × Nat)
  lastIssued : StrandId
  yreq : BitVec 8
  waitTrap : Bool
  waitLimit : BitVec 32
  allowance : Nat
  channels : List Deposit
  server : Option Server
  redHeld : List RedMsg
  dbg : Debug
  thermal : Thermal
  wants : List CtxId
deriving DecidableEq, Repr

/-- An entry of the context table as the base die last read it (R87). -/
structure CtxEntry where
  valid : Bool
  width : Nat
  height : Nat
  longcl : Nat
  ptroot : Nat
  arenaBase : Nat
  arenaBound : Nat
  ruletab : Nat
  coretab : Nat
  routetab : Nat
  caproute : Nat
  ovt : BitVec 16
  poolC : BitVec 5
  poolS : BitVec 5
  poolV : BitVec 5
  spillBase : Nat
  spillSize : Nat
  saveBase : Nat
  saveSize : Nat
  gpool : Nat
  orphanBase : Nat
  orphanSize : Nat
deriving DecidableEq, Repr

/-- A launch that has not pushed all its seeds (R93). -/
structure Launching where
  list : Nat
  n : Nat
  one : Bool
  next : Nat
  ready : Bool
deriving DecidableEq, Repr

/-- Replay state of a context (R422 to R424). -/
structure Replay where
  mode : BitVec 2
  logBase : BitVec 40
  inLen : BitVec 20
  logSize : BitVec 20
  inBase : BitVec 40
  ovf : Bool
  diverged : Bool
  digest : Bool
  running : BitVec 2
  runBase : Nat
  runSize : Nat
  /-- The input region that the launches of the run digest (R422). -/
  runIn : Nat
  runInLen : Nat
  launches : Nat
deriving DecidableEq, Repr

/-- A delivery held in the base die for a logical core (R89, R394, R403). -/
inductive HeldMsg
  | pairs (kind : Nat) (lcore : Nat) (ps : List Pair)
  | deposit (d : Deposit)
  | steal (lcore : Nat) (thief : BitVec 10) (shortOk longOk : Bool)
  | wake (lcore : Nat) (pusher : BitVec 10)
  | red (m : RedMsg)
deriving DecidableEq, Repr

/-- What a forced save keeps of a logical core besides its save area (R392, R394; assumption 28): the parts of
its strands that a strand record does not list, the allocator's records, the server that goes on (R364), the core that it was
on. -/
structure Kept where
  strands : Vector Strand 8
  uses : List (ArrayId × ArrayUse)
  server : Option Server
  core : CoreId
deriving DecidableEq, Repr

/-- What the base die holds for one context. -/
structure Ctx where
  entry : CtxEntry
  cores : List (Option Nat)
  routes : List (Option Nat)
  caproutes : List Word
  count : Word
  note : Bool
  epoch : BitVec 32
  notifyEn : Bool
  notifyAddr : BitVec 49
  lBusy : Bool
  lDone : Bool
  lLost : Bool
  lPushed : BitVec 16
  lErr : BitVec 8
  launching : Option Launching
  pBusy : Bool
  pDone : Bool
  pErr : BitVec 8
  pWait : Option Word
  resuming : List Nat
  preempted : List Nat
  aborted : Bool
  recNo : BitVec 32
  rBusy : Bool
  rDone : Bool
  rErr : BitVec 8
  replay : Replay
  /-- By logical core: slots consumed, slots written, and records consumed or written (R423, R424). -/
  logPos : List (Nat × Nat)
  logCount : List (Nat × Nat)
  logRecs : List (Nat × Nat)
  gen : Nat
  hungrySet : List Nat
  heldMsgs : List HeldMsg
  spillTop : List (Nat × Nat)
  outWays : List (Nat × Nat)
  launched : Bool
  saved : List (Nat × Kept)
  slots : Vector (List Word) 16
deriving DecidableEq, Repr

/-- What a waiting full/empty operation does (R269). `peek` is a read of NEXT that leaves the word as it is. -/
inductive FeOp
  | ldfK (rd : BitVec 5)
  | ldfT (rd : BitVec 5)
  | stfW (v : Word)
  | sete
  | peek
  | ntake (rd : BitVec 5)
  | nalloc
deriving DecidableEq, Repr

/-- An entry of a waiter table (R269). -/
structure Waiter where
  core : CoreId
  strand : StrandId
  pa : Nat
  /-- The grain of the word's page. -/
  grain : Nat
  op : FeOp
deriving DecidableEq, Repr

/-- A watch of a VWAIT in a waiter table (R354): the strand, its request, the flag's place and bytes, and whether a write
has performed to the flag since the last test. -/
structure Watch where
  core : CoreId
  strand : StrandId
  key : Nat
  pa : Nat
  size : Nat
  woken : Bool
deriving DecidableEq, Repr

/-- An entry of the seal table (R277). -/
structure SealEntry where
  base : Nat
  bound : Nat
  owner : CtxId
deriving DecidableEq, Repr

/-- The active snapshot (R325 to R327): blocks of 512 bytes already copied. -/
structure Snapshot where
  src : Nat
  len : Nat
  dst : Nat
  comp : Nat
  copied : List Nat
  failed : Option (Nat × Nat)
deriving DecidableEq, Repr

/-- An accepted copy descriptor (R310 to R315). `done` counts the bytes of the stream performed, `slotOpen` says
that a slot of its stream buffer has been taken, `status` is set when it has ended but its completion word is not written.
`lcore` is the logical core of the strand that issued it, and `down` says that its rows go from the last to the first (R314). -/
structure CopyDesc where
  id : Nat
  ctx : CtxId
  core : CoreId
  lcore : Nat
  strand : StrandId
  ptroot : Nat
  background : Bool
  stream : Bool
  toReg : Option (BitVec 5)
  src : Nat
  dst : Nat
  len : Nat
  rows : Nat
  sstride : Int
  dstride : Int
  comp : Option Nat
  sbKey : Option Nat
  done : Nat
  slotOpen : Bool
  down : Bool
  status : Option Nat
deriving DecidableEq, Repr

/-- A copy engine (R317): the core (0 to 7 of its eight) whose foreground piece moved last, and for its last 255
base cycles the core whose background piece moved, if one did. -/
structure Engine where
  turn : Nat
  recent : List (Option CoreId)
deriving DecidableEq, Repr

/-- An active stream buffer (R320 to R324), keyed by the physical address of its table entry. `users` names the strands
that have executed SBINIT, SBWAIT or VLDSB on it, by context, logical core and strand (R321). `place` is the physical address of
slot 0, and `away` says that the buffer has left its unit with the way of its slots (R266). -/
structure StreamBuf where
  key : Nat
  core : CoreId
  ctx : CtxId
  base : Nat
  slots : Nat
  slotBytes : Nat
  filled : Nat
  free : Nat
  rp : Nat
  wp : Nat
  users : List (CtxId × Nat × StrandId)
  place : Nat
  away : Bool
deriving DecidableEq, Repr

/-- A word in the combining store of a scatter-add unit (R347), by address div 8: resident, or with its fetch
outstanding and a chain of operations. A resident word's value is the one Memory gives; `former` is what the home held
before a word not yet written back, which it holds still if the entry is lost, `bad` an uncorrectable error in the entry,
`ctx` the context the core served when the word was written (R401). -/
structure CombEntry where
  pa : Nat
  resident : Bool
  chain : List AtomicReq
  former : Option Word
  bad : Bool
  ctx : Option CtxId
deriving DecidableEq, Repr

/-- What a request outstanding at the host or a peer does when its response arrives (R276, R429, R431). -/
structure ExtReq where
  who : Requester
  va : Word
  pa : Nat
  op : BusOp
  rd : Option (BitVec 5 × Size)
  relaxed : Bool
  acq : Option Scope
  /-- The grain that the answer of a read gives the requester's core as untracked copies (R276), none without. -/
  fill : Option Nat
  /-- The bytes that an .s store writes at `pa` into the copy so obtained (R273). -/
  put : List Byte
deriving DecidableEq, Repr

/-- A chain of XRED on this device (R360 to R362): the strand served, one item for each XRED committed and not yet served,
in issue order, the header that the served one has met, the results it has, and what has arrived from the previous and
from the next device and is not yet used, oldest first. -/
structure Chain where
  valid : Bool
  last : Bool
  first : Bool
  next : BitVec 9
  prev : BitVec 9
  serving : Option (CoreId × StrandId)
  issued : Nat
  header : Option (Nat × BitVec 6 × XOp)
  results : List (Nat × List (Option (BitVec 64 × BitVec 5)))
  fromPrev : List XredMsg
  fromNext : List XredMsg
deriving DecidableEq, Repr

/-- A machine-check record or an event, as its four words (R402, R446). -/
structure LogRec where
  w0 : Word
  w1 : Word
  w2 : Word
  w3 : Word
deriving DecidableEq, Repr

/-- The state of the management processor and the power controller (R17, R438, R440 to R445). -/
structure Platform where
  ready : Bool
  recovery : Bool
  lastTrip : Bool
  stage : BitVec 8
  zeroCores : BitVec 8
  poweredDown : Bool
  throttled : Bool
  idleInserted : Bool
  /-- The base cycle at which an allowance was last lowered, none once all are restored (R17). -/
  loweredAt : Option Nat
  events : List LogRec
  evCount : Nat
  repair : List (CoreId × ArrayId × Nat)
  spares : List (CoreId × ArrayId × Nat)
  measured : BitVec 256
  spdmSent : List (List Byte)
  configRetries : Nat
  /-- The boot in progress: what it finds, and the cores that it has tested (R442). -/
  booting : Option (BootResult × List CoreId)
  /-- The two copies of the firmware image in flash, and the image that runs (R443). -/
  flash : List Byte × List Byte
  image : List Byte
deriving DecidableEq, Repr

/-- A message on its way over the caravan network, to a waystation or to a peer device (R94, R358, R361, R364).
The first four name the logical core that they are for, beside the core to which the tables route it. A RED or XRED
message that leaves for another device names it. -/
inductive Msg
  | steal (victim : CoreId) (c : CtxId) (lcore : Nat) (thief : BitVec 10) (shortOk longOk : Bool)
  | give (thief : CoreId) (c : CtxId) (lcore : Nat) (pairs : List Pair)
  | fwd (target : CoreId) (c : CtxId) (lcore : Nat) (pair : Pair)
  | wake (p : CoreId) (c : CtxId) (lcore : Nat) (pusher : BitVec 10)
  | deposit (d : Deposit)
  | red (m : RedMsg)
  | redOut (dev : BitVec 9) (m : RedMsg)
  | xredOut (dev : BitVec 9) (g : Fin 16) (m : XredMsg)
deriving DecidableEq, Repr

/-- What acts in the next step of the model (assumption 1). An `issue` lets the strand whose turn it is issue, an `event` is
an event row of the opcode table with its inputs, `idle` lets cycles pass. `poison` places an uncorrectable error in a word of
memory, `spoilCopy` in a sector of a pool cache, `spoilEntry` in a word of a combining store, `directoryError` in a directory
buffer, `flip` a parity error in a row's group of 64 columns (4·row + group). `evict` drops a core's copy of a sector, `dropTlb`
and `dropNode` what it holds of the page tables and `dropLine` a line of its instruction cache, as replacement may at any
time. `sense` is a new reading of a column's sensors with its power, `bootStep` the end of the step of a boot that is in progress,
`scrubAndClear` a scrub and a management command for one core in the same cycle, `spoilBuffer` an uncorrectable error in what a
copy engine holds of a descriptor, `maskVector` the host's masking or unmasking of an MSI-X vector, and
`overlap` lets request n of entry k of a queue perform while earlier entries are performing (R309). -/
inductive Pick
  | issue (p : CoreId) (s : StrandId)
  | event (i : Instr)
  | idle (n : Nat)
  | poison (pa : Nat)
  | flip (p : CoreId) (array row : Nat)
  | evict (p : CoreId) (sector : Nat)
  | dropTlb (p : CoreId) (n : Nat)
  | dropNode (p : CoreId) (n : Nat)
  | dropLine (p : CoreId) (line : Nat)
  | overlap (p : CoreId) (s : StrandId) (k n : Nat)
  | spoilCopy (p : CoreId) (sector : Nat)
  | spoilEntry (pa : Nat)
  | directoryError (pa : Nat)
  | sense (p : CoreId) (base core : BitVec 16) (power : Nat)
  | bootStep
  | scrubAndClear (p : CoreId) (failing clear : BitVec 128)
  | spoilBuffer (id : Nat)
  | maskVector (v : Fin 72) (masked : Bool)
  | deliver (n : Nat)
deriving DecidableEq, Repr

/-- The device. -/
structure State where
  /-- The strand whose instruction acts (the model's own). -/
  cur : CoreId
  str : StrandId
  /-- What acts next; with none listed the model's own rule chooses (assumption 1). -/
  agenda : List Pick
  /-- Counter of free values taken (assumption 3). -/
  fresh : Nat
  cores : Vector Core 384
  ctxs : Vector Ctx 64
  mem : Memory
  /-- Words (address div 8) that hold an uncorrectable error (R401). -/
  badWords : List Nat
  /-- Sectors of a core's pool cache that hold an uncorrectable error (R276). -/
  badCopies : List (CoreId × Nat)
  /-- Relaxed accesses of strands that an abort halted, which still perform (R398, R403). -/
  loose : List (CoreId × StrandId × RelaxedAcc)
  waiters : List Waiter
  retries : List Waiter
  watches : List Watch
  seals : List SealEntry
  snap : Option Snapshot
  snapCode : BitVec 8
  gen : Bool
  /-- Directory's record of a block's grain in bytes (R275). -/
  grains : List (Nat × Nat)
  descs : List CopyDesc
  nextDesc : Nat
  engines : Vector Engine 48
  sbufs : List StreamBuf
  /-- The combining stores of all units, the least recently used entry first. -/
  comb : List CombEntry
  /-- Atomic requests that wait at their unit for an entry or for room in a chain, oldest first (R347). -/
  combWait : List AtomicReq
  /-- Messages on the caravan network and to channels, servers and peers, oldest first (R94). -/
  net : List Msg
  ext : List ExtReq
  ctxtbase : BitVec 38
  chains : Vector Chain 16
  devnum : BitVec 9
  portsUp : BitVec 16
  dup : Bool
  hostErrV : Bool
  hostErrCount : BitVec 11
  hostErrAddr : BitVec 52
  machineChecks : List LogRec
  mcCount : Nat
  msix : List Nat
  /-- Vectors that the host masks, and those held pending meanwhile (R428). -/
  msixMask : BitVec 72
  msixPending : BitVec 72
  hostReplies : List (BusStatus × List Byte)
  /-- Writes of the host to MMIO registers that wait to perform, by offset, oldest first (R90, R283). -/
  hostHeld : List (Nat × List Byte)
  peerReplies : List (BitVec 9 × BusStatus × List Byte)
  /-- Base cycles since reset (R446). -/
  cycles : Nat
  plat : Platform
deriving DecidableEq, Repr

/-- Why a step stops. -/
inductive Fault
  /-- Raised by step for an agenda entry that holds an instruction with an encoding where an event belongs: the
  schedule is not one the hardware can follow. Safe: no run of the hardware is left out. -/
  | notAnEvent
deriving DecidableEq, Repr

/-- Why an instruction has no meaning. -/
inductive Refusal
  /-- Raised by an arm of exec whose instruction is not modelled yet. Safe. -/
  | notModelled (mnemonic : String)
deriving DecidableEq, Repr

/-- A column as a way enters compute mode (R265). -/
def Lane.zero : Lane := ⟨0, 0, 0, 0, 0, 0, false, 0, 0⟩

/-- A strand at reset: the Reset column where the spec gives one, zero elsewhere, halted (R416; assumption 2). -/
def Strand.reset : Strand where
  x := Vector.replicate 32 0
  pc := 0
  vtype := 0
  vlen := 0
  vstart := 0
  vstat := 0
  vicount := 0
  rndseed := 0
  fmt := Vector.replicate 4 0
  chanmap := 0
  treeRoot := false
  treeDev := 0
  treeLcore := 0
  sbbase := 0
  vfelem := 0
  trapvec := 0
  causeSw := false
  cause := 0
  tval := 0
  tepc := 0
  latch := false
  tact := false
  ppriv := 0
  priv := 0
  tscratch := 0
  halted := true
  dbgHalted := false
  dbgStep := false
  dbgAsked := false
  wait := none
  queue := []
  head := none
  replay := []
  vfault := none
  preempt := none
  asyncTraps := []
  readq := []
  relaxed := []
  relaxedFault := none
  poisoned := []
  muldiv := false
  firing := none
  resumed := false
  nstep := 0
  nextAt := 0
  rulePair := none
  cls := .noLanes
  part := []
  acc := []
  counted := []
  progress := []
  progressAt := 0
  taken := false
  serving := none
  cameFrom := 0
  lanesDue := false
  owed := 0
  fetchBuf := none
  issuedWord := none

/-- A core at reset (R62, R100, R165, R264, R317; assumptions 2 and 4). -/
def Core.reset : Core where
  strands := Vector.replicate 8 Strand.reset
  serves := none
  lcore := 0
  ptroot := 0
  capmask := 0
  ovt := 0x0055
  poolV := 0
  poolS := 0
  poolC := 0
  npool := 0
  cpyshare := 0x40
  bag := []
  sweepCount := 0
  sweep := none
  asked := false
  hungry := false
  deliveries := []
  whole := []
  uses := []
  laneReqs := []
  lanes := []
  spad := []
  spadFull := []
  wayTag := Vector.replicate 16 none
  parityBad := []
  mismatched := []
  failed := []
  keptBad := []
  copies := []
  copyFault := none
  tlb := []
  nodes := []
  tables := []
  rules := []
  icache := []
  lastIssued := 7
  yreq := 0
  waitTrap := false
  waitLimit := 0
  allowance := 256
  channels := []
  server := none
  redHeld := []
  dbg := ⟨0, 0, 0, 0, 0, false, 0⟩
  thermal := ⟨false, false, false, 0, 0, 0, 0, []⟩
  wants := []

/-- A context-table entry that reads as zero (R442 step 6). -/
def CtxEntry.zero : CtxEntry :=
  ⟨false, 1, 1, 0, 0, 0, 0, 0, 0, 0, 0, 0, 0, 0, 0, 0, 0, 0, 0, 0, 0, 0⟩

/-- A context at reset (R93, R390, R418, R420, R422). -/
def Ctx.reset : Ctx where
  entry := CtxEntry.zero
  cores := []
  routes := []
  caproutes := []
  count := 0
  note := false
  epoch := 0
  notifyEn := false
  notifyAddr := 0
  lBusy := false
  lDone := false
  lLost := false
  lPushed := 0
  lErr := 0
  launching := none
  pBusy := false
  pDone := false
  pErr := 0
  pWait := none
  resuming := []
  preempted := []
  aborted := false
  recNo := 0
  rBusy := false
  rDone := false
  rErr := 0
  replay := ⟨0, 0, 0, 0, 0, false, false, false, 0, 0, 0, 0, 0, 0⟩
  logPos := []
  logCount := []
  logRecs := []
  gen := 0
  hungrySet := []
  heldMsgs := []
  spillTop := []
  outWays := []
  launched := false
  saved := []
  slots := Vector.replicate 16 []

/-- A chain that is not configured (R360). -/
def Chain.reset : Chain := ⟨false, false, false, 0, 0, none, 0, none, [], [], []⟩

/-- The management processor before a boot (R445, R446). -/
def Platform.reset : Platform := ⟨false, false, false, 0, 0, false, false, false, none, [], 0, [], [], 0, [], 0,
  none, (Config.shippedImage, Config.shippedImage), []⟩

/-- The device right after reset: every field at the value of the spec's Reset columns, else as assumptions 2,
4 and 6 say. -/
def State.reset : State where
  cur := 0
  str := 0
  agenda := []
  fresh := 0
  cores := Vector.replicate 384 Core.reset
  ctxs := Vector.replicate 64 Ctx.reset
  mem := []
  badWords := []
  badCopies := []
  loose := []
  waiters := []
  retries := []
  watches := []
  seals := []
  snap := none
  snapCode := 0
  gen := false
  grains := []
  descs := []
  nextDesc := 0
  engines := Vector.replicate 48 ⟨7, []⟩
  sbufs := []
  comb := []
  combWait := []
  net := []
  ext := []
  ctxtbase := 0
  chains := Vector.replicate 16 Chain.reset
  devnum := 0
  portsUp := 0xffff
  dup := false
  hostErrV := false
  hostErrCount := 0
  hostErrAddr := 0
  machineChecks := []
  mcCount := 0
  msix := []
  msixMask := BitVec.allOnes 72
  msixPending := 0
  hostReplies := []
  hostHeld := []
  peerReplies := []
  cycles := 0
  plat := Platform.reset

end Sys2Proof.Machine
end

