-- ==== Sys2Proof/Machine/Bits.lean ====
section
/-! DEFINITION. Bit fields, byte order, sign extension, and maps kept as sorted lists. -/

namespace Sys2Proof.Machine

/-- Bits [hi:lo] of a word, as a number. -/
def field (w : Word) (hi lo : Nat) : Nat := (w.toNat >>> lo) % 2 ^ (hi + 1 - lo)

/-- Bit n of a word. -/
def bit (w : Word) (n : Nat) : Bool := w.getLsbD n

/-- A number as a word. -/
def word (n : Nat) : Word := BitVec.ofNat 64 n

/-- A Bool as a word. -/
def flag (b : Bool) : Word := if b then 1 else 0

/-- One bit at a place in a word. -/
def flagAt (b : Bool) (n : Nat) : Word := if b then word (2 ^ n) else 0

/-- The signed value of the low w bits of n. -/
def signed (w n : Nat) : Int :=
  let m := n % 2 ^ w
  if w ≠ 0 ∧ 2 ^ (w - 1) ≤ m then (m : Int) - (2 ^ w : Nat) else m

/-- The residue of an integer modulo 2^w. -/
def wrap (w : Nat) (v : Int) : Nat := (v % ((2 ^ w : Nat) : Int)).toNat

/-- An integer as a 64-bit word. -/
def wordInt (v : Int) : Word := word (wrap 64 v)

/-- Sign extension of the low w bits to 64 (R113, R289). -/
def sextTo64 (w n : Nat) : Word := wordInt (signed w n)

/-- An address moved by a signed distance, modulo 2^64. -/
def offsetBy (a : Word) (d : Int) : Word := wordInt ((a.toNat : Int) + d)

/-- The n bytes of a number, least significant first (R4). -/
def leBytes : Nat → Nat → List Byte
  | 0, _ => []
  | n + 1, v => BitVec.ofNat 8 v :: leBytes n (v / 256)

/-- The number that bytes hold, least significant first (R4). -/
def fromLe : List Byte → Nat
  | [] => 0
  | b :: bs => b.toNat + 256 * fromLe bs

/-- The value of a key in a sorted list, d where it is not listed. -/
def mapGet {α : Type} (d : α) : List (Nat × α) → Nat → α
  | [], _ => d
  | (k, v) :: rest, a => if a = k then v else if a < k then d else mapGet d rest a

/-- Set a key of a sorted list; a key set to d is not listed. -/
def mapSet {α : Type} [DecidableEq α] (d : α) : List (Nat × α) → Nat → α → List (Nat × α)
  | [], a, v => if v = d then [] else [(a, v)]
  | (k, w) :: rest, a, v =>
    if a = k then (if v = d then rest else (a, v) :: rest)
    else if a < k then (if v = d then (k, w) :: rest else (a, v) :: (k, w) :: rest)
    else (k, w) :: mapSet d rest a v

/-- The canonical form: keys strictly rising from a bound, no value d. -/
def mapWfFrom {α : Type} [DecidableEq α] (d : α) : Nat → List (Nat × α) → Bool
  | _, [] => true
  | lo, (k, v) :: rest => decide (lo ≤ k) && decide (v ≠ d) && mapWfFrom d (k + 1) rest

/-- The canonical form of memory: addresses strictly rising and no byte that an unlisted address reads as. -/
def Memory.wf (m : Memory) : Bool := mapWfFrom 0 0 m

/-- One byte of a memory. -/
def Memory.get (m : Memory) (a : Nat) : Byte := mapGet 0 m a

/-- A memory with one byte written. -/
def Memory.set (m : Memory) (a : Nat) (b : Byte) : Memory := mapSet 0 m a b

/-- The n bytes from an address. -/
def Memory.read (m : Memory) (a : Nat) : Nat → List Byte
  | 0 => []
  | n + 1 => m.get a :: Memory.read m (a + 1) n

/-- A memory with bytes written from an address. -/
def Memory.write (m : Memory) (a : Nat) : List Byte → Memory
  | [] => m
  | b :: bs => Memory.write (m.set a b) (a + 1) bs

/-- The number in n bytes of a memory. -/
def Memory.num (m : Memory) (a n : Nat) : Nat := fromLe (m.read a n)

/-- Set an element of a list, as List.set, counted from 0. -/
def setAt {α : Type} (l : List α) (n : Nat) (v : α) : List α := l.set n v

/-- Insert a number into a rising list without repeats. -/
def insertNat (n : Nat) : List Nat → List Nat
  | [] => [n]
  | k :: rest => if n < k then n :: k :: rest else if n = k then k :: rest else k :: insertNat n rest

/-- The numbers 0 to 7 as strands, 0 to 383 as cores. -/
def allStrands : List StrandId := List.finRange 8
/-- Every core. -/
def allCores : List CoreId := List.finRange 384
/-- Every context. -/
def allCtxs : List CtxId := List.finRange 64

/-- A number as a core, none when there is no such core. -/
def coreOf (n : Nat) : Option CoreId := if h : n < 384 then some ⟨n, h⟩ else none

/-- A number's low three bits as a strand. -/
def strandOf (n : Nat) : StrandId := ⟨n % 8, Nat.mod_lt _ (by decide)⟩

/-- A number's low six bits as a context. -/
def ctxOf (n : Nat) : CtxId := ⟨n % 64, Nat.mod_lt _ (by decide)⟩

/-- A number's low four bits as a row of a 16-fold table. -/
def fin16 (n : Nat) : Fin 16 := ⟨n % 16, Nat.mod_lt _ (by decide)⟩

end Sys2Proof.Machine
end

