-- ==== Sys2Proof/Machine/Formats.lean ====
section
/-! DEFINITION. Number formats (R46 to R58), rounding (R59, R60), conversion (R65), minimum and maximum (R66). A
real number on its way to a rounding is exact but for a mark that says that some positive part of the last
place is left out. -/

namespace Sys2Proof.Machine

/-- A floating-point format (R48, R50, R52): sign bit, exponent and mantissa bits, bias, special codes, whether
subnormals exist, whether a NaN can be signalling, and its OVT entry (R62). -/
structure FpFmt where
  s : Nat
  e : Nat
  m : Nat
  bias : Int
  spec : Nat
  sub : Bool
  ieee : Bool
  ovt : Nat
deriving DecidableEq, Repr

/-- The value of a code (R52): m·2^e for a finite one. -/
inductive FpVal
  | nan (signalling : Bool)
  | inf (neg : Bool)
  | fin (neg : Bool) (m : Nat) (e : Int)
deriving DecidableEq, Repr

/-- A real number (m + d)·2^e, with 0 < d < 1 when `sticky` and d = 0 otherwise. -/
structure Ex where
  neg : Bool
  m : Nat
  e : Int
  sticky : Bool
deriving DecidableEq, Repr

/-- The flags of VSTAT (R63). -/
abbrev VFlags := BitVec 5
/-- INVALID. -/
def fInvalid : VFlags := 16
/-- INEXACT. -/
def fInexact : VFlags := 8
/-- SAT. -/
def fSat : VFlags := 4
/-- EMPTY. -/
def fEmpty : VFlags := 2

/-- Field k of OVT (R62). -/
def ovtField (ovt : BitVec 16) (k : Nat) : Nat := (ovt.extractLsb' (2 * k) 2).toNat

/-- The binary formats of R48 under an OVT. -/
def fp16 (ovt : BitVec 16) : FpFmt := ⟨1, 5, 10, 15, 0, true, true, ovtField ovt 0⟩
/-- BF16. -/
def bf16 (ovt : BitVec 16) : FpFmt := ⟨1, 8, 7, 127, 0, true, true, ovtField ovt 1⟩
/-- FP32. -/
def fp32 (ovt : BitVec 16) : FpFmt := ⟨1, 8, 23, 127, 0, true, true, ovtField ovt 2⟩
/-- FP64. -/
def fp64 (ovt : BitVec 16) : FpFmt := ⟨1, 11, 52, 1023, 0, true, true, ovtField ovt 3⟩

/-- The narrow format that FMTn describes (R50). -/
def narrowFmt (f : BitVec 18) (ovt : BitVec 16) (n : Nat) : FpFmt where
  s := (f.extractLsb' 0 1).toNat
  e := (f.extractLsb' 1 3).toNat
  m := (f.extractLsb' 4 3).toNat
  bias := (f.extractLsb' 7 8).toInt
  spec := (f.extractLsb' 15 2).toNat
  sub := f.getLsbD 17
  ieee := false
  ovt := ovtField ovt (4 + n)

/-- Row width of a format (R55). -/
def FpFmt.width (f : FpFmt) : Nat := f.s + f.e + f.m

/-- The largest exponent field (R52). -/
def FpFmt.emax (f : FpFmt) : Nat := 2 ^ f.e - 1

/-- The exponent of the smallest normal. -/
def FpFmt.emin (f : FpFmt) : Int := 1 - f.bias

/-- Whether the format holds infinity (R52). -/
def FpFmt.hasInf (f : FpFmt) : Bool := f.spec == 0

/-- Whether the format holds NaN (R52). -/
def FpFmt.hasNan (f : FpFmt) : Bool := (f.spec == 0 && decide (0 < f.m)) || f.spec == 1

/-- The canonical NaN (R49, R52). -/
def FpFmt.nan (f : FpFmt) : Nat :=
  f.emax * 2 ^ f.m + (if f.spec = 0 then 2 ^ (f.m - 1) else 2 ^ f.m - 1)

/-- The sign bit of a code. -/
def FpFmt.signBit (f : FpFmt) (neg : Bool) : Nat := if neg && f.s = 1 then 2 ^ (f.e + f.m) else 0

/-- The code of infinity. -/
def FpFmt.inf (f : FpFmt) (neg : Bool) : Nat := f.signBit neg + f.emax * 2 ^ f.m

/-- The code of the largest finite magnitude L (R59). -/
def FpFmt.maxCode (f : FpFmt) : Nat :=
  if f.spec = 0 then
    (if f.emax = 1 then (if f.sub then 2 ^ f.m - 1 else 0) else (f.emax - 1) * 2 ^ f.m + (2 ^ f.m - 1))
  else if f.spec = 1 then
    (if f.m = 0 then
      (if f.emax = 1 then 0 else f.emax - 1)
     else f.emax * 2 ^ f.m + (2 ^ f.m - 2))
  else f.emax * 2 ^ f.m + (2 ^ f.m - 1)

/-- The value of a code (R52). -/
def FpFmt.value (f : FpFmt) (c : Nat) : FpVal :=
  let neg := f.s == 1 && c.testBit (f.e + f.m)
  let e := (c / 2 ^ f.m) % 2 ^ f.e
  let m := c % 2 ^ f.m
  if e = 0 then .fin neg (if f.sub then m else 0) (f.emin - f.m)
  else if f.spec = 0 ∧ e = f.emax then
    if m = 0 then .inf neg else .nan (f.ieee && m < 2 ^ (f.m - 1))
  else if f.spec = 1 ∧ e = f.emax ∧ m = 2 ^ f.m - 1 then .nan false
  else .fin neg (2 ^ f.m + m) ((e : Int) - f.bias - f.m)

/-- Number of binary digits. -/
def bitLen (n : Nat) : Nat := if n = 0 then 0 else Nat.log2 n + 1

/-- The code of a magnitude m·2^e that the format's grid holds. -/
def FpFmt.encodeMag (f : FpFmt) (m : Nat) (e : Int) : Nat :=
  if m = 0 then 0
  else
    let x : Int := e + bitLen m - 1
    let scale (g : Int) : Nat := if g ≤ e then m <<< (e - g).toNat else m >>> (g - e).toNat
    if x < f.emin then scale (f.emin - f.m)
    else (x + f.bias).toNat * 2 ^ f.m + (scale (x - f.m) - 2 ^ f.m)

/-- Compare magnitudes m·2^e. -/
def magLt (m1 : Nat) (e1 : Int) (m2 : Nat) (e2 : Int) : Bool :=
  let g := min e1 e2
  decide (m1 <<< (e1 - g).toNat < m2 <<< (e2 - g).toNat)

/-- The result of an overflow (R59 step 4). -/
def FpFmt.overflow (f : FpFmt) (mode : Nat) (neg : Bool) : Nat :=
  let big := f.signBit neg + f.maxCode
  let away := decide (mode = 0 ∨ mode = 4) || (decide (mode = 3) && !neg) || (decide (mode = 2) && neg)
  if f.ovt = 0 then big
  else if !f.hasNan then big
  else if f.ovt = 1 then (if !away then big else if f.hasInf then f.inf neg else f.nan)
  else f.nan

/-- Round(fmt, mode, x) of R59 and R60, with the flags it sets; `r` is the 16 random bits of RSR. -/
def FpFmt.round (f : FpFmt) (mode r : Nat) (x : Ex) : Nat × VFlags :=
  if x.m = 0 ∧ !x.sticky then (f.signBit x.neg, 0)
  else if f.s = 0 ∧ x.neg then (0, fSat ||| fInexact)
  else
    let ex : Int := x.e + bitLen x.m - 1
    let g : Int := if ex < f.emin then (if f.sub then f.emin - f.m else f.emin) else ex - f.m
    let k := (g - x.e).toNat
    let q := if g ≤ x.e then x.m <<< (x.e - g).toNat else x.m >>> k
    let rem := if g ≤ x.e then 0 else x.m % 2 ^ k
    let exact := decide (rem = 0) && !x.sticky
    let even :=
      if ex < f.emin then decide (q % 2 = 0)
      else decide (((ex + f.bias) * (2 ^ f.m : Nat) + ((q : Int) - (2 ^ f.m : Nat))) % 2 = 0)
    let up : Bool :=
      if mode = 1 then false
      else if mode = 2 then x.neg
      else if mode = 3 then !x.neg
      else if mode = 4 then decide (2 ^ 16 ≤ r + rem * 2 ^ 16 / 2 ^ k)
      else decide (2 ^ k < 2 * rem) || (decide (2 ^ k = 2 * rem ∧ 0 < k) && (x.sticky || !even))
    let n := if exact then q else if up then q + 1 else q
    let inex : VFlags := if exact = true then 0 else fInexact
    match f.value f.maxCode with
    | .fin _ lm le =>
      if magLt lm le n g then (f.overflow mode x.neg, fSat ||| fInexact)
      else (f.signBit x.neg + f.encodeMag n g, inex)
    | _ => (0, 0)

/-- A NaN result in a format (R49, R53). -/
def FpFmt.nanResult (f : FpFmt) : Nat × VFlags := if f.hasNan then (f.nan, 0) else (0, fInvalid)

/-- An infinite result in a format (R53, R59). -/
def FpFmt.infResult (f : FpFmt) (mode : Nat) (neg : Bool) : Nat × VFlags :=
  if f.s = 0 ∧ neg then (0, fSat ||| fInexact)
  else if f.hasInf then (f.inf neg, 0)
  else (f.overflow mode neg, fSat ||| fInexact)

/-- Result of an operation before its rounding. -/
inductive Res
  | nan
  | inf (neg : Bool)
  | num (x : Ex)
deriving DecidableEq, Repr

/-- Bring a result to a format (R53, R59). -/
def FpFmt.finish (f : FpFmt) (mode r : Nat) : Res → Nat × VFlags
  | .nan => f.nanResult
  | .inf neg => f.infResult mode neg
  | .num x => f.round mode r x

/-- The exact sum of two finite values; an exact zero of opposite signs is +0, under RDN −0 (R49). -/
def exAdd (mode : Nat) (n1 : Bool) (m1 : Nat) (e1 : Int) (n2 : Bool) (m2 : Nat) (e2 : Int) : Ex :=
  let g := min e1 e2
  let a : Int := (m1 <<< (e1 - g).toNat : Nat)
  let b : Int := (m2 <<< (e2 - g).toNat : Nat)
  let v := (if n1 then -a else a) + (if n2 then -b else b)
  let neg := if v = 0 then (if n1 == n2 then n1 else decide (mode = 2)) else decide (v < 0)
  ⟨neg, v.natAbs, g, false⟩

/-- Whether a value is a signalling NaN (R49). -/
def FpVal.isSnan : FpVal → Bool
  | .nan s => s
  | _ => false

/-- INVALID when a signalling NaN is consumed (R49). -/
def snanFlag (l : List FpVal) : VFlags := if l.any FpVal.isSnan then fInvalid else 0

/-- a + b (R49, R228): opposite infinities are an invalid operation. -/
def fpAdd (mode : Nat) : FpVal → FpVal → Res × VFlags
  | .nan _, _ | _, .nan _ => (.nan, 0)
  | .inf a, .inf b => if a == b then (.inf a, 0) else (.nan, fInvalid)
  | .inf a, .fin _ _ _ => (.inf a, 0)
  | .fin _ _ _, .inf b => (.inf b, 0)
  | .fin n1 m1 e1, .fin n2 m2 e2 => (.num (exAdd mode n1 m1 e1 n2 m2 e2), 0)

/-- The exact product of two values: zero times infinity is an invalid operation. -/
def fpMulVal : FpVal → FpVal → FpVal × VFlags
  | .nan _, _ | _, .nan _ => (.nan false, 0)
  | .inf a, .inf b => (.inf (a != b), 0)
  | .inf a, .fin b m _ | .fin b m _, .inf a => if m = 0 then (.nan false, fInvalid) else (.inf (a != b), 0)
  | .fin a m1 e1, .fin b m2 e2 => (.fin (a != b) (m1 * m2) (e1 + e2), 0)

/-- A value as a result. -/
def FpVal.res : FpVal → Res
  | .nan _ => .nan
  | .inf n => .inf n
  | .fin n m e => .num ⟨n, m, e, false⟩

/-- The opposite of a value. -/
def FpVal.neg : FpVal → FpVal
  | .nan s => .nan s
  | .inf n => .inf !n
  | .fin n m e => .fin (!n) m e

/-- a < b of two values that are no NaN; −0 is below +0 when `strict` (R66). -/
def fpLt (strict : Bool) : FpVal → FpVal → Bool
  | .nan _, _ | _, .nan _ => false
  | .inf a, .inf b => a && !b
  | .inf a, .fin _ _ _ => a
  | .fin _ _ _, .inf b => !b
  | .fin n1 m1 e1, .fin n2 m2 e2 =>
    if m1 = 0 ∧ m2 = 0 then strict && n1 && !n2
    else if m1 = 0 then !n2
    else if m2 = 0 then n1
    else if n1 && !n2 then true
    else if !n1 && n2 then false
    else if n1 then magLt m2 e2 m1 e1
    else magLt m1 e1 m2 e2

/-- Equality of two values that are no NaN: zeros are equal. -/
def fpEq (a b : FpVal) : Bool :=
  match a, b with
  | .nan _, _ | _, .nan _ => false
  | _, _ => !fpLt false a b && !fpLt false b a

/-- Round an exact number to an integer in a mode, with a flag for inexactness (R65). -/
def exToInt (mode r : Nat) (neg : Bool) (m : Nat) (e : Int) : Int × Bool :=
  let k := (-e).toNat
  let q := if 0 ≤ e then m <<< e.toNat else m >>> k
  let rem := if 0 ≤ e then 0 else m % 2 ^ k
  let up : Bool :=
    if rem = 0 then false
    else if mode = 1 then false
    else if mode = 2 then neg
    else if mode = 3 then !neg
    else if mode = 4 then decide (2 ^ 16 ≤ r + rem * 2 ^ 16 / 2 ^ k)
    else decide (2 ^ k < 2 * rem) || (decide (2 ^ k = 2 * rem) && decide (q % 2 = 1))
  let n := if up then q + 1 else q
  (if neg then -(n : Int) else n, decide (rem ≠ 0))

/-- The bounds of an integer format (R46). -/
def intMin (sgn : Bool) (w : Nat) : Int := if sgn then -(2 ^ (w - 1) : Nat) else 0
/-- The upper bound. -/
def intMax (sgn : Bool) (w : Nat) : Int := if sgn then (2 ^ (w - 1) : Nat) - 1 else (2 ^ w : Nat) - 1

/-- Sat(fmt, x) of R47, with its flag. -/
def satInt (sgn : Bool) (w : Nat) (x : Int) : Nat × VFlags :=
  if x < intMin sgn w then (wrap w (intMin sgn w), fSat)
  else if intMax sgn w < x then (wrap w (intMax sgn w), fSat)
  else (wrap w x, 0)

/-- FP to integer (R65). -/
def fpToInt (sgn : Bool) (w mode r : Nat) : FpVal → Nat × VFlags
  | .nan _ => (0, fInvalid)
  | .inf neg => (wrap w (if neg then intMin sgn w else intMax sgn w), fInvalid)
  | .fin neg m e =>
    let (v, inex) := exToInt mode r neg m e
    let (c, fl) := satInt sgn w v
    (c, fl ||| if inex then fInexact else 0)

/-- An integer as an exact number. -/
def intVal (v : Int) : FpVal := .fin (decide (v < 0)) v.natAbs 0

/-- The 16 random bits of R60. -/
def rsrBits (seed vicount : Word) (i j : Nat) : Nat :=
  let h := seed ^^^ (vicount * 0x8f3a5c61d2b74e19) ^^^ (word (j * 2 ^ 32 + i) * 0x6b2e97d4c53fa1e7)
  let h := h ^^^ (h >>> 29)
  let h := h * 0xd1c42a8b7e93605d
  let h := h ^^^ (h >>> 32)
  let h := h * 0xa7f03b5ec916d24b
  let h := h ^^^ (h >>> 29)
  h.toNat % 65536

/-- Smaller or larger of two values by R66, with their codes: a NaN is ignored unless both are NaN. Of two
equal values under different codes the first operand's code is written (assumption 96). -/
def fpMinMax (f : FpFmt) (isMax : Bool) (a b : Nat) : Nat :=
  match f.value a, f.value b with
  | .nan _, .nan _ => f.nanResult.1
  | .nan _, _ => b
  | _, .nan _ => a
  | x, y => if isMax then (if fpLt true x y then b else a) else (if fpLt true y x then b else a)

/-- Element types (R54), scale apart. -/
inductive ETy
  | int (sgn : Bool) (w : Nat)
  | fp (f : FpFmt)
deriving DecidableEq, Repr

/-- Row width (R55). -/
def ETy.width : ETy → Nat
  | .int _ w => w
  | .fp f => f.width

/-- The value of an element as a number. -/
def ETy.value (t : ETy) (c : Nat) : FpVal :=
  match t with
  | .int sgn w => intVal (if sgn then signed w c else (c % 2 ^ w : Nat))
  | .fp f => f.value c

/-- SEW of a code (R129). -/
def sewBits (code : Nat) : Nat := 2 ^ (code + 1)

/-- The element type that a class, SEW code and format register select (R54): none for a dash or an illegal
format (R51). -/
def elemTy (cls sew : Nat) (fmt : BitVec 18) (n : Nat) (valid : Bool) (ovt : BitVec 16) : Option ETy :=
  if 6 ≤ sew then none
  else match cls with
    | 0 => some (.int true (sewBits sew))
    | 1 => some (.int false (sewBits sew))
    | 2 => match sew with
      | 3 => some (.fp (fp16 ovt))
      | 4 => some (.fp (fp32 ovt))
      | 5 => some (.fp (fp64 ovt))
      | _ => none
    | 3 => if sew = 3 then some (.fp (bf16 ovt)) else none
    | 5 => if sew ≤ 2 then some (.int true (sewBits sew)) else none
    | 4 | 6 =>
      if sew ≤ 2 ∧ valid ∧ (narrowFmt fmt ovt n).width ≤ sewBits sew then some (.fp (narrowFmt fmt ovt n))
      else none
    | _ => none

end Sys2Proof.Machine
end

