-- ==== Sys2Proof/Decode.lean ====
section
/-! DEFINITION. The decoder, total on every 32-bit word, and the encoder (R108 to R128, R133, R134). -/

namespace Sys2Proof

/-- Why a word is not an instruction, in the order in which R133 makes the checks. -/
inductive DecodeError | unallocated | reservedSet | m0Write
deriving DecidableEq, Repr

/-! ## Codes of the operand fields (R110, R114, R120, R126) -/

def Size.bits : Size → BitVec 2 | .b => 0 | .h => 1 | .w => 2 | .d => 3
def Size.ofBits (x : BitVec 2) : Size :=
  if x = 0 then .b else if x = 1 then .h else if x = 2 then .w else .d
def ASize.bits : ASize → BitVec 1 | .w => 0 | .d => 1
def ASize.ofBits (x : BitVec 1) : ASize := if x = 0 then .w else .d
def Req.bits : Req → BitVec 2 | .o => 0 | .w => 1 | .s => 2 | .u => 3
def Req.ofBits (x : BitVec 2) : Req :=
  if x = 0 then .o else if x = 1 then .w else if x = 2 then .s else .u
def Scope.bits : Scope → BitVec 2 | .strand => 0 | .core => 1 | .dev => 2 | .dom => 3
def Scope.ofBits (x : BitVec 2) : Scope :=
  if x = 0 then .strand else if x = 1 then .core else if x = 2 then .dev else .dom
def VKind.bits : VKind → BitVec 2 | .vv => 0 | .vx => 1 | .vi => 2 | .vc => 3
def VKind.ofBits (x : BitVec 2) : VKind :=
  if x = 0 then .vv else if x = 1 then .vx else if x = 2 then .vi else .vc
def Rm.bits : Rm → BitVec 3 | .dflt => 0 | .rne => 1 | .rtz => 2 | .rdn => 3 | .rup => 4 | .rsr => 5
/-- The values 6 and 7 are unallocated (R110). -/
def Rm.ofBits (x : BitVec 3) : Option Rm :=
  if x = 0 then some .dflt else if x = 1 then some .rne else if x = 2 then some .rtz
  else if x = 3 then some .rdn else if x = 4 then some .rup else if x = 5 then some .rsr else none
def FCond.bits : FCond → BitVec 3 | .eq => 0 | .ne => 1 | .lt => 2 | .le => 3 | .gt => 4 | .ge => 5 | .un => 6
/-- The value 7 is unallocated (R120). -/
def FCond.ofBits (x : BitVec 3) : Option FCond :=
  if x = 0 then some .eq else if x = 1 then some .ne else if x = 2 then some .lt else if x = 3 then some .le
  else if x = 4 then some .gt else if x = 5 then some .ge else if x = 6 then some .un else none
def WCond.bits : WCond → BitVec 6 | .eq => 0 | .ne => 1 | .ge => 2 | .lt => 3
def XOp.bits : XOp → BitVec 6 | .add => 0x10 | .min => 0x11 | .max => 0x12
def HintMajor.bits : HintMajor → BitVec 6 | .h3c => 0x3c | .h3d => 0x3d | .h3e => 0x3e
def bit (b : Bool) : BitVec 1 := if b then 1 else 0
def isSet (b : BitVec 1) : Bool := b == 1

/-! ## Field layouts (R109): bit 31 down -/

def encR (op : BitVec 6) (rd rs1 rs2 : BitVec 5) (fn : BitVec 11) : IWord := op ++ rd ++ rs1 ++ rs2 ++ fn
def encI (op : BitVec 6) (rd rs1 : BitVec 5) (imm : BitVec 16) : IWord := op ++ rd ++ rs1 ++ imm
def encM (op : BitVec 6) (r xs1 : BitVec 5) (req : BitVec 2) (rx : BitVec 1) (size : BitVec 2)
    (imm : BitVec 11) : IWord := op ++ r ++ xs1 ++ req ++ rx ++ size ++ imm
def encJ (op : BitVec 6) (off : BitVec 26) : IWord := op ++ off
def encV (op : BitVec 6) (vd vs1 op2 : BitVec 5) (vm : BitVec 3) (kind : BitVec 2) (fn6 : BitVec 6) : IWord :=
  op ++ vd ++ vs1 ++ op2 ++ vm ++ kind ++ fn6
def encVI (op : BitVec 6) (vd : BitVec 5) (start : BitVec 11) (inc : BitVec 10) : IWord := op ++ vd ++ start ++ inc
def encVM (op : BitVec 6) (v xs1 r2 : BitVec 5) (vm : BitVec 3) (req mode : BitVec 2) (rx : BitVec 1)
    (fn3 : BitVec 3) : IWord := op ++ v ++ xs1 ++ r2 ++ vm ++ req ++ mode ++ rx ++ fn3
def encT (op : BitVec 6) (acc : BitVec 3) (vA vB count : BitVec 5) (fn8 : BitVec 8) : IWord :=
  op ++ acc ++ vA ++ vB ++ count ++ fn8

/-- A CSR number that R151 lists. -/
def csrListed (n : BitVec 12) : Bool :=
  let k := n.toNat
  k ≤ 5 || (8 ≤ k && k ≤ 0xb) || (0x10 ≤ k && k ≤ 0x17) || k == 0x20 || k == 0x21
    || (0x40 ≤ k && k ≤ 0x5f) || (0x100 ≤ k && k ≤ 0x106) || (0x108 ≤ k && k ≤ 0x10d)

/-- The answer for an allocated word: a nonzero reserved field, then a write to m0, then the instruction (R133). -/
def accept (reservedZero : Bool) (i : Instr) (writesM0 : Bool := false) : Except DecodeError Instr :=
  if reservedZero then (if writesM0 then .error .m0Write else .ok i) else .error .reservedSet

/-- A format V word whose kind must be one of ks; kind .vc reserves op2[15:14] (R110, R117). -/
def acceptKind (ks : List VKind) (k : VKind) (op2 : BitVec 5) (reservedZero : Bool) (i : Instr)
    (writesM0 : Bool := false) : Except DecodeError Instr :=
  if ks.contains k then accept (reservedZero && (k != .vc || op2.extractLsb' 3 2 == 0)) i writesM0
  else .error .unallocated

/-- The instruction word of an instruction; the events have none. -/
def encode : Instr → Option IWord
  | .add rd rs1 rs2 => some (encR 0x01 rd rs1 rs2 0x000)
  | .sub rd rs1 rs2 => some (encR 0x01 rd rs1 rs2 0x001)
  | .and rd rs1 rs2 => some (encR 0x01 rd rs1 rs2 0x002)
  | .or rd rs1 rs2 => some (encR 0x01 rd rs1 rs2 0x003)
  | .xor rd rs1 rs2 => some (encR 0x01 rd rs1 rs2 0x004)
  | .andn rd rs1 rs2 => some (encR 0x01 rd rs1 rs2 0x005)
  | .sll rd rs1 rs2 => some (encR 0x01 rd rs1 rs2 0x006)
  | .srl rd rs1 rs2 => some (encR 0x01 rd rs1 rs2 0x007)
  | .sra rd rs1 rs2 => some (encR 0x01 rd rs1 rs2 0x008)
  | .rol rd rs1 rs2 => some (encR 0x01 rd rs1 rs2 0x009)
  | .slt rd rs1 rs2 => some (encR 0x01 rd rs1 rs2 0x00a)
  | .sltu rd rs1 rs2 => some (encR 0x01 rd rs1 rs2 0x00b)
  | .min rd rs1 rs2 => some (encR 0x01 rd rs1 rs2 0x00c)
  | .max rd rs1 rs2 => some (encR 0x01 rd rs1 rs2 0x00d)
  | .minu rd rs1 rs2 => some (encR 0x01 rd rs1 rs2 0x00e)
  | .maxu rd rs1 rs2 => some (encR 0x01 rd rs1 rs2 0x00f)
  | .clz rd rs1 => some (encR 0x01 rd rs1 0 0x010)
  | .ctz rd rs1 => some (encR 0x01 rd rs1 0 0x011)
  | .popc rd rs1 => some (encR 0x01 rd rs1 0 0x012)
  | .sext z rd rs1 => some (encR 0x01 rd rs1 (0#3 ++ z.bits) 0x013)
  | .zext z rd rs1 => some (encR 0x01 rd rs1 (0#3 ++ z.bits) 0x014)
  | .addi rd rs1 imm => some (encI 0x02 rd rs1 imm)
  | .andi rd rs1 imm => some (encI 0x03 rd rs1 imm)
  | .ori rd rs1 imm => some (encI 0x04 rd rs1 imm)
  | .xori rd rs1 imm => some (encI 0x05 rd rs1 imm)
  | .slti rd rs1 imm => some (encI 0x06 rd rs1 imm)
  | .sltiu rd rs1 imm => some (encI 0x07 rd rs1 imm)
  | .slli rd rs1 sh => some (encI 0x08 rd rs1 (0#2 ++ 0#8 ++ sh))
  | .srli rd rs1 sh => some (encI 0x08 rd rs1 (1#2 ++ 0#8 ++ sh))
  | .srai rd rs1 sh => some (encI 0x08 rd rs1 (2#2 ++ 0#8 ++ sh))
  | .roli rd rs1 sh => some (encI 0x08 rd rs1 (3#2 ++ 0#8 ++ sh))
  | .lui rd imm => some (encI 0x09 rd 0 imm)
  | .mul rd rs1 rs2 => some (encR 0x0a rd rs1 rs2 0x000)
  | .mulh rd rs1 rs2 => some (encR 0x0a rd rs1 rs2 0x001)
  | .mulhu rd rs1 rs2 => some (encR 0x0a rd rs1 rs2 0x002)
  | .div rd rs1 rs2 => some (encR 0x0a rd rs1 rs2 0x003)
  | .divu rd rs1 rs2 => some (encR 0x0a rd rs1 rs2 0x004)
  | .rem rd rs1 rs2 => some (encR 0x0a rd rs1 rs2 0x005)
  | .remu rd rs1 rs2 => some (encR 0x0a rd rs1 rs2 0x006)
  | .beq rs1 rs2 off => some (encI 0x0b rs1 rs2 off)
  | .bne rs1 rs2 off => some (encI 0x0c rs1 rs2 off)
  | .blt rs1 rs2 off => some (encI 0x0d rs1 rs2 off)
  | .bge rs1 rs2 off => some (encI 0x0e rs1 rs2 off)
  | .bltu rs1 rs2 off => some (encI 0x0f rs1 rs2 off)
  | .bgeu rs1 rs2 off => some (encI 0x10 rs1 rs2 off)
  | .jal off => some (encJ 0x11 off)
  | .jalr rd rs1 imm => some (encI 0x12 rd rs1 imm)
  | .ld a => some (encM 0x13 a.r a.xs1 a.req.bits (bit a.rx) a.size.bits a.imm)
  | .st a => some (encM 0x14 a.r a.xs1 a.req.bits (bit a.rx) a.size.bits a.imm)
  | .aadd a => some (encR 0x15 a.rd a.xs1 a.xs2 (0#3 ++ a.size.bits ++ bit a.acq ++ bit a.rel ++ a.scope.bits ++ 0#3))
  | .aand a => some (encR 0x15 a.rd a.xs1 a.xs2 (1#3 ++ a.size.bits ++ bit a.acq ++ bit a.rel ++ a.scope.bits ++ 0#3))
  | .aor a => some (encR 0x15 a.rd a.xs1 a.xs2 (2#3 ++ a.size.bits ++ bit a.acq ++ bit a.rel ++ a.scope.bits ++ 0#3))
  | .axor a => some (encR 0x15 a.rd a.xs1 a.xs2 (3#3 ++ a.size.bits ++ bit a.acq ++ bit a.rel ++ a.scope.bits ++ 0#3))
  | .amin a => some (encR 0x15 a.rd a.xs1 a.xs2 (4#3 ++ a.size.bits ++ bit a.acq ++ bit a.rel ++ a.scope.bits ++ 0#3))
  | .amax a => some (encR 0x15 a.rd a.xs1 a.xs2 (5#3 ++ a.size.bits ++ bit a.acq ++ bit a.rel ++ a.scope.bits ++ 0#3))
  | .aswap a => some (encR 0x15 a.rd a.xs1 a.xs2 (6#3 ++ a.size.bits ++ bit a.acq ++ bit a.rel ++ a.scope.bits ++ 0#3))
  | .acas a => some (encR 0x15 a.rd a.xs1 a.xs2 (7#3 ++ a.size.bits ++ bit a.acq ++ bit a.rel ++ a.scope.bits ++ 0#3))
  | .ldfK rd rs1 imm => some (encM 0x16 rd rs1 0 0 3 imm)
  | .ldfT rd rs1 imm => some (encM 0x16 rd rs1 0 1 3 imm)
  | .stf rs2 rs1 imm => some (encM 0x16 rs2 rs1 1 0 3 imm)
  | .stfW rs2 rs1 imm => some (encM 0x16 rs2 rs1 1 1 3 imm)
  | .sete rs1 imm => some (encM 0x16 0 rs1 2 0 3 imm)
  | .probef rd rs1 imm => some (encM 0x16 rd rs1 2 1 3 imm)
  | .fence sc => some (encR 0x17 0 0 0 (0#5 ++ sc.bits ++ 0#4))
  | .vsync => some (encR 0x17 0 0 0 (1#5 ++ 0#6))
  | .cflush rs1 rs2 => some (encR 0x17 0 rs1 rs2 (2#5 ++ 0#6))
  | .cinv rs1 rs2 => some (encR 0x17 0 rs1 rs2 (3#5 ++ 0#6))
  | .seal rs1 rs2 => some (encR 0x17 0 rs1 rs2 (4#5 ++ 0#6))
  | .unseal rs1 rs2 => some (encR 0x17 0 rs1 rs2 (5#5 ++ 0#6))
  | .csrr rd csr => some (encI 0x18 rd 0 (0#2 ++ 0#2 ++ csr))
  | .csrw rs1 csr => some (encI 0x18 0 rs1 (1#2 ++ 0#2 ++ csr))
  | .csrs rs1 csr => some (encI 0x18 0 rs1 (2#2 ++ 0#2 ++ csr))
  | .csrc rs1 csr => some (encI 0x18 0 rs1 (3#2 ++ 0#2 ++ csr))
  | .trap rs1 => some (encR 0x19 0 rs1 0 0x000)
  | .tret => some (encR 0x19 0 0 0 0x001)
  | .brk => some (encR 0x19 0 0 0 0x002)
  | .wfe => some (encR 0x19 0 0 0 0x003)
  | .haltc => some (encR 0x19 0 0 0 0x004)
  | .fmtset n rs1 => some (encR 0x19 0 rs1 (0#3 ++ n) 5)
  | .ovtset rs1 => some (encR 0x19 0 rs1 0 0x006)
  | .rndset rs1 => some (encR 0x19 0 rs1 0 0x007)
  | .send rs1 rs2 => some (encR 0x19 0 rs1 rs2 0x008)
  | .rserve rs1 => some (encR 0x19 0 rs1 0 0x009)
  | .next => some (encR 0x1a 0 0 0 0x000)
  | .nalloc rd => some (encR 0x1a rd 0 0 0x001)
  | .nfree rs1 => some (encR 0x1a 0 rs1 0 0x002)
  | .ntake rd rs1 => some (encR 0x1a rd rs1 0 0x003)
  | .nlink rs1 rs2 => some (encR 0x1a 0 rs1 rs2 0x004)
  | .npush rs1 rs2 => some (encR 0x1a 0 rs1 rs2 0x005)
  | .nhdr rd rs1 => some (encR 0x1a rd rs1 0 0x006)
  | .nseth rs1 rs2 => some (encR 0x1a 0 rs1 rs2 0x007)
  | .nfwd rs1 => some (encR 0x1a 0 rs1 0 0x008)
  | .ndone => some (encR 0x1a 0 0 0 0x009)
  | .yield => some (encR 0x1a 0 0 0 0x00a)
  | .resume rs1 => some (encR 0x1a 0 rs1 0 0x00b)
  | .cpy rs1 => some (encR 0x1b 0 rs1 0 0x000)
  | .cpy2d rs1 => some (encR 0x1b 0 rs1 0 0x001)
  | .cpyw rd rs1 => some (encR 0x1b rd rs1 0 0x002)
  | .sbinit rs1 rs2 => some (encR 0x1b 0 rs1 rs2 0x003)
  | .sbwait rs1 => some (encR 0x1b 0 rs1 0 0x004)
  | .sbadv rs1 rs2 => some (encR 0x1b 0 rs1 rs2 0x005)
  | .snap rd rs1 => some (encR 0x1b rd rs1 0 0x006)
  | .publish rd rs1 => some (encR 0x1c rd rs1 0 0x000)
  | .objfree rd rs1 => some (encR 0x1c rd rs1 0 0x001)
  | .setlen rd rs1 => some (encR 0x20 rd rs1 0 0)
  | .setvt rs1 => some (encR 0x20 0 rs1 0 1)
  | .lanerel => some (encR 0x20 0 0 0 2)
  | .setvti imm => some ((0x20#6 ++ 0#5 ++ imm ++ 3#5 : IWord))
  | .vadd o => some (encV 0x21 o.vd o.vs1 o.op2 o.vm o.kind.bits 0x00)
  | .vsub o => some (encV 0x21 o.vd o.vs1 o.op2 o.vm o.kind.bits 0x01)
  | .vrsub o => some (encV 0x21 o.vd o.vs1 o.op2 o.vm o.kind.bits 0x02)
  | .vmul o => some (encV 0x21 o.vd o.vs1 o.op2 o.vm o.kind.bits 0x03)
  | .vmulh o => some (encV 0x21 o.vd o.vs1 o.op2 o.vm o.kind.bits 0x04)
  | .vmac o => some (encV 0x21 o.vd o.vs1 o.op2 o.vm o.kind.bits 0x05)
  | .vdiv o => some (encV 0x21 o.vd o.vs1 o.op2 o.vm o.kind.bits 0x06)
  | .vrem o => some (encV 0x21 o.vd o.vs1 o.op2 o.vm o.kind.bits 0x07)
  | .vmin o => some (encV 0x21 o.vd o.vs1 o.op2 o.vm o.kind.bits 0x08)
  | .vmax o => some (encV 0x21 o.vd o.vs1 o.op2 o.vm o.kind.bits 0x09)
  | .vsadd o => some (encV 0x21 o.vd o.vs1 o.op2 o.vm o.kind.bits 0x0a)
  | .vssub o => some (encV 0x21 o.vd o.vs1 o.op2 o.vm o.kind.bits 0x0b)
  | .vavg o => some (encV 0x21 o.vd o.vs1 o.op2 o.vm o.kind.bits 0x0c)
  | .vabs o => some (encV 0x21 o.vd o.vs1 0 o.vm 0 0x0d)
  | .vneg o => some (encV 0x21 o.vd o.vs1 0 o.vm 0 0x0e)
  | .vpopc o => some (encV 0x21 o.vd o.vs1 0 o.vm 0 0x0f)
  | .vclz o => some (encV 0x21 o.vd o.vs1 0 o.vm 0 0x10)
  | .vand o => some (encV 0x22 o.vd o.vs1 o.op2 o.vm o.kind.bits 0x00)
  | .vor o => some (encV 0x22 o.vd o.vs1 o.op2 o.vm o.kind.bits 0x01)
  | .vxor o => some (encV 0x22 o.vd o.vs1 o.op2 o.vm o.kind.bits 0x02)
  | .vsll o => some (encV 0x22 o.vd o.vs1 o.op2 o.vm o.kind.bits 0x04)
  | .vsrl o => some (encV 0x22 o.vd o.vs1 o.op2 o.vm o.kind.bits 0x05)
  | .vsra o => some (encV 0x22 o.vd o.vs1 o.op2 o.vm o.kind.bits 0x06)
  | .vmerge o => some (encV 0x22 o.vd o.vs1 o.op2 o.vm o.kind.bits 0x08)
  | .vnot o => some (encV 0x22 o.vd o.vs1 0 o.vm 0 0x03)
  | .vmv o => some (encV 0x22 o.vd o.vs1 0 o.vm 0 0x07)
  | .vsplat vd op2 vm k => some (encV 0x22 vd 0 op2 vm k.bits 9)
  | .vcmpeq o => some (encV 0x23 (0#2 ++ o.md) o.vs1 o.op2 o.vm o.kind.bits 0)
  | .vcmpne o => some (encV 0x23 (0#2 ++ o.md) o.vs1 o.op2 o.vm o.kind.bits 1)
  | .vcmplt o => some (encV 0x23 (0#2 ++ o.md) o.vs1 o.op2 o.vm o.kind.bits 2)
  | .vcmple o => some (encV 0x23 (0#2 ++ o.md) o.vs1 o.op2 o.vm o.kind.bits 3)
  | .vcmpgt o => some (encV 0x23 (0#2 ++ o.md) o.vs1 o.op2 o.vm o.kind.bits 4)
  | .vcmpge o => some (encV 0x23 (0#2 ++ o.md) o.vs1 o.op2 o.vm o.kind.bits 5)
  | .mand md ms1 ms2 => some (encV 0x23 (0#2 ++ md) (0#2 ++ ms1) (0#2 ++ ms2) 0 0 0x10)
  | .mor md ms1 ms2 => some (encV 0x23 (0#2 ++ md) (0#2 ++ ms1) (0#2 ++ ms2) 0 0 0x11)
  | .mxor md ms1 ms2 => some (encV 0x23 (0#2 ++ md) (0#2 ++ ms1) (0#2 ++ ms2) 0 0 0x12)
  | .mnot md ms1 => some (encV 0x23 (0#2 ++ md) (0#2 ++ ms1) 0 0 0 0x13)
  | .mpopc rd ms1 vm => some (encV 0x23 rd (0#2 ++ ms1) 0 vm 0 0x14)
  | .mfirst rd ms1 vm => some (encV 0x23 rd (0#2 ++ ms1) 0 vm 0 0x15)
  | .mset md => some (encV 0x23 (0#2 ++ md) 0 0 0 0 0x16)
  | .vmatch tgd vs1 xs2 vm => some (encV 0x24 (0#3 ++ tgd) vs1 xs2 vm 1 0)
  | .vwrite vd xs2 tgs vm => some (encV 0x24 vd (0#3 ++ tgs) xs2 vm 1 1)
  | .tgmovToMask md tgs => some (encV 0x24 (0#2 ++ md) (0#3 ++ tgs) 0 0 0 2)
  | .tgmovToTag tgd ms1 => some (encV 0x24 (0#3 ++ tgd) (0#2 ++ ms1) 0 0 0 3)
  | .ttload slot xs1 => some (encV 0x24 (0#1 ++ slot) xs1 0 0 0 4)
  | .vtt o => some (encV 0x24 o.vd o.vs1 o.vs2 o.vm 0 (1#2 ++ o.slot))
  | .vfadd o => some (encV 0x25 o.vd o.vs1 o.op2 o.vm (0#1 ++ bit o.vx) (o.rm.bits ++ 0#3))
  | .vfsub o => some (encV 0x25 o.vd o.vs1 o.op2 o.vm (0#1 ++ bit o.vx) (o.rm.bits ++ 1#3))
  | .vfmul o => some (encV 0x25 o.vd o.vs1 o.op2 o.vm (0#1 ++ bit o.vx) (o.rm.bits ++ 2#3))
  | .vfma o => some (encV 0x25 o.vd o.vs1 o.op2 o.vm (0#1 ++ bit o.vx) (o.rm.bits ++ 3#3))
  | .vfnma o => some (encV 0x25 o.vd o.vs1 o.op2 o.vm (0#1 ++ bit o.vx) (o.rm.bits ++ 4#3))
  | .vfdiv o => some (encV 0x25 o.vd o.vs1 o.op2 o.vm (0#1 ++ bit o.vx) (o.rm.bits ++ 7#3))
  | .vfmin vd vs1 op2 vm vx => some (encV 0x25 vd vs1 op2 vm (0#1 ++ bit vx) (0#3 ++ 5#3))
  | .vfmax vd vs1 op2 vm vx => some (encV 0x25 vd vs1 op2 vm (0#1 ++ bit vx) (0#3 ++ 6#3))
  | .vfsqrt o => some (encV 0x25 o.vd o.vs1 0 o.vm 2 (o.rm.bits ++ 0#3))
  | .vfrsq o => some (encV 0x25 o.vd o.vs1 0 o.vm 2 (o.rm.bits ++ 1#3))
  | .vfexp2 o => some (encV 0x25 o.vd o.vs1 0 o.vm 2 (o.rm.bits ++ 2#3))
  | .vflog2 o => some (encV 0x25 o.vd o.vs1 0 o.vm 2 (o.rm.bits ++ 3#3))
  | .vfabs o => some (encV 0x25 o.vd o.vs1 0 o.vm 2 (0#3 ++ 4#3))
  | .vfneg o => some (encV 0x25 o.vd o.vs1 0 o.vm 2 (0#3 ++ 5#3))
  | .vfclass o => some (encV 0x25 o.vd o.vs1 0 o.vm 2 (0#3 ++ 6#3))
  | .vfcmp c md vs1 op2 vm vx => some (encV 0x25 (0#2 ++ md) vs1 op2 vm (1#1 ++ bit vx) (c.bits ++ 7#3))
  | .vcvt o => some (encV 0x26 o.vd o.vs1 o.src o.vm 0 (o.rm.bits ++ 0#3))
  | .vnarrow o => some (encV 0x26 o.vd o.vs1 o.src o.vm 0 (o.rm.bits ++ 1#3))
  | .vwiden o => some (encV 0x26 o.vd o.vs1 o.src o.vm 0 (o.rm.bits ++ 2#3))
  | .vbscale o => some (encV 0x26 o.vd o.vs1 o.src o.vm 0 (o.rm.bits ++ 3#3))
  | .vbquant o => some (encV 0x26 o.vd o.vs1 o.src o.vm 0 (o.rm.bits ++ 4#3))
  | .vbdeq o => some (encV 0x26 o.vd o.vs1 o.src o.vm 0 (o.rm.bits ++ 5#3))
  | .vredsum o => some (encV 0x27 o.d o.vs1 0 o.vm (0#1 ++ bit o.toX) (o.rm.bits ++ 0#3))
  | .vredsumo o => some (encV 0x27 o.d o.vs1 1 o.vm (0#1 ++ bit o.toX) (o.rm.bits ++ 0#3))
  | .vredmin d vs1 vm toX => some (encV 0x27 d vs1 2 vm (0#1 ++ bit toX) 0)
  | .vredmax d vs1 vm toX => some (encV 0x27 d vs1 3 vm (0#1 ++ bit toX) 0)
  | .vredand d vs1 vm toX => some (encV 0x27 d vs1 4 vm (0#1 ++ bit toX) 0)
  | .vredor d vs1 vm toX => some (encV 0x27 d vs1 5 vm (0#1 ++ bit toX) 0)
  | .vredxor d vs1 vm toX => some (encV 0x27 d vs1 6 vm (0#1 ++ bit toX) 0)
  | .vscansum o => some (encV 0x27 o.vd o.vs1 8 o.vm 0 (o.rm.bits ++ 0#3))
  | .vscanmin o => some (encV 0x27 o.vd o.vs1 9 o.vm 0 0)
  | .vscanmax o => some (encV 0x27 o.vd o.vs1 10 o.vm 0 0)
  | .vslideup o => some (encV 0x28 o.vd o.vs1 o.op2 o.vm o.kind.bits 0x00)
  | .vslidedn o => some (encV 0x28 o.vd o.vs1 o.op2 o.vm o.kind.bits 0x01)
  | .vbcast o => some (encV 0x28 o.vd o.vs1 o.op2 o.vm o.kind.bits 0x05)
  | .vextr o => some (encV 0x28 o.vd o.vs1 o.op2 o.vm o.kind.bits 0x06)
  | .vins o => some (encV 0x28 o.vd o.vs1 o.op2 o.vm o.kind.bits 0x07)
  | .vcompress o => some (encV 0x28 o.vd o.vs1 0 o.vm 0 0x03)
  | .vexpand o => some (encV 0x28 o.vd o.vs1 0 o.vm 0 0x04)
  | .vgather vd vs1 vs2 vm => some (encV 0x28 vd vs1 vs2 vm 0 2)
  | .vbshuf vd vs1 vs2 vm => some (encV 0x28 vd vs1 vs2 vm 0 8)
  | .vidx vd start inc => some (encVI 0x29 vd start inc)
  | .vld a => some (encVM 0x2a a.v a.xs1 a.r2 a.vm a.req.bits 0 (bit a.rx) 0)
  | .vlds a => some (encVM 0x2a a.v a.xs1 a.r2 a.vm a.req.bits 1 (bit a.rx) 0)
  | .vldx a => some (encVM 0x2a a.v a.xs1 a.r2 a.vm a.req.bits 2 (bit a.rx) 0)
  | .vldt a => some (encVM 0x2a a.v a.xs1 a.r2 a.vm a.req.bits 3 (bit a.rx) 0)
  | .vldb a => some (encVM 0x2a a.v a.xs1 a.r2 a.vm a.req.bits 0 (bit a.rx) 1)
  | .vldsb vd xs1 vm rx => some (encVM 0x2a vd xs1 0 vm 0 0 (bit rx) 2)
  | .vst a => some (encVM 0x2b a.v a.xs1 a.r2 a.vm a.req.bits 0 (bit a.rx) 0)
  | .vsts a => some (encVM 0x2b a.v a.xs1 a.r2 a.vm a.req.bits 1 (bit a.rx) 0)
  | .vstx a => some (encVM 0x2b a.v a.xs1 a.r2 a.vm a.req.bits 2 (bit a.rx) 0)
  | .vstt a => some (encVM 0x2b a.v a.xs1 a.r2 a.vm a.req.bits 3 (bit a.rx) 0)
  | .vamoadd a => some (encV 0x2c a.vs3 a.xs1 a.vs2 a.vm a.scope.bits (bit a.acq ++ bit a.rel ++ 0#1 ++ 0#3))
  | .vamomin a => some (encV 0x2c a.vs3 a.xs1 a.vs2 a.vm a.scope.bits (bit a.acq ++ bit a.rel ++ 0#1 ++ 1#3))
  | .vamomax a => some (encV 0x2c a.vs3 a.xs1 a.vs2 a.vm a.scope.bits (bit a.acq ++ bit a.rel ++ 0#1 ++ 2#3))
  | .vamoand a => some (encV 0x2c a.vs3 a.xs1 a.vs2 a.vm a.scope.bits (bit a.acq ++ bit a.rel ++ 0#1 ++ 3#3))
  | .vamoor a => some (encV 0x2c a.vs3 a.xs1 a.vs2 a.vm a.scope.bits (bit a.acq ++ bit a.rel ++ 0#1 ++ 4#3))
  | .vamoxor a => some (encV 0x2c a.vs3 a.xs1 a.vs2 a.vm a.scope.bits (bit a.acq ++ bit a.rel ++ 0#1 ++ 5#3))
  | .vamoswap a => some (encV 0x2c a.vs3 a.xs1 a.vs2 a.vm a.scope.bits (bit a.acq ++ bit a.rel ++ 0#1 ++ 6#3))
  | .vamocas a => some (encV 0x2c a.vs3 a.xs1 a.vs2 a.vm a.scope.bits (bit a.acq ++ bit a.rel ++ 0#1 ++ 7#3))
  | .vwait c md vs1 vs2 vm => some (encV 0x2d (0#2 ++ md) vs1 vs2 vm 0 c.bits)
  | .vsend vs1 xs2 vm => some (encV 0x2d 0 vs1 xs2 vm 1 8)
  | .xred op vd xs2 vm => some (encV 0x2d vd 0 xs2 vm 1 op.bits)
  | .bsload xs1 xs2 vm => some (encV 0x2e 0 xs1 xs2 vm 1 0)
  | .bsmovToUpper vs1 xs2 vm => some (encV 0x2e 0 vs1 xs2 vm 1 1)
  | .bsmovFromUpper vd xs2 vm => some (encV 0x2e vd 0 xs2 vm 1 2)
  | .imma vd vs1 xs2 vm => some (encV 0x2e vd vs1 xs2 vm 1 3)
  | .tmma o => some (encT 0x2f o.acc o.vA o.vB o.count (o.rm.bits ++ 0#5))
  | .tmmao o => some (encT 0x2f o.acc o.vA o.vB o.count (o.rm.bits ++ 1#5))
  | .taccz acc => some (encT 0x2f acc 0 0 0 2)
  | .taccld acc vA => some (encT 0x2f acc vA 0 0 3)
  | .taccst acc vA => some (encT 0x2f acc vA 0 0 4)
  | .vpf a => some (encVM 0x3c a.v a.xs1 a.r2 a.vm a.req.bits 0 (bit a.rx) 0)
  | .hint m imm => some (m.bits ++ imm)
  | .illegalWordFetch _ => none
  | .poolCsrWrite _ _ _ => none
  | .launch _ _ => none
  | .launchDistributionResume _ => none
  | .ctxrefresh _ => none
  | .yreqWrite _ _ => none
  | .tlbinvAll _ => none
  | .tlbinvVpn _ _ => none
  | .snapcmd _ => none
  | .snapComplete => none
  | .xredgrpWrite _ _ => none
  | .preemptNotify _ _ => none
  | .preemptSave _ _ => none
  | .ctxrun _ _ => none
  | .ctxrunResume _ _ => none
  | .dbgHalt _ _ => none
  | .dbgRun _ _ => none
  | .dbgStep _ _ => none
  | .dregdataWrite _ _ => none
  | .qdataWrite _ _ _ => none
  | .ctxretire _ _ => none
  | .retireFinish _ => none
  | .devnumWrite _ => none
  | .registerWrite _ _ => none
  | .coreTakeUp _ _ => none
  | .steal _ _ _ _ _ => none
  | .give _ _ _ => none
  | .fwd _ _ _ => none
  | .wake _ _ _ => none
  | .ifetchFill _ _ => none
  | .muldivResult _ _ => none
  | .readQueueDelivery _ _ => none
  | .scalarAccessPerform _ _ _ => none
  | .vqEntryExecute _ _ => none
  | .vqEntryRetire _ _ => none
  | .vectorFault _ _ => none
  | .laneGrant _ => none
  | .channelDeposit _ => none
  | .redMessage _ => none
  | .xredMessage _ _ => none
  | .atomicRequest _ => none
  | .combineFetchArrival _ => none
  | .homeAccess _ _ _ => none
  | .feRetry _ => none
  | .vwaitPoll _ _ => none
  | .vwaitTimeout _ _ => none
  | .enginePiece _ => none
  | .copyComplete _ => none
  | .powerWindow _ => none
  | .idleInsertion => none
  | .vxArbitration _ _ _ => none
  | .sensorFail _ _ => none
  | .thermalThrottle => none
  | .thermalShutdown => none
  | .railFault _ => none
  | .coldReset _ => none
  | .perst _ => none
  | .resetcmd _ _ => none
  | .selfTest _ _ => none
  | .scrub _ _ => none
  | .mgmtCapmaskClear _ _ => none
  | .hostWrite _ _ => none
  | .hostRead _ _ => none
  | .hostAtomic _ => none
  | .hostCompletion _ _ _ => none
  | .hostCompletionTimeout _ => none
  | .getVersion => none
  | .getCapabilities => none
  | .negotiateAlgorithms => none
  | .getDigests => none
  | .getCertificate => none
  | .challenge _ => none
  | .getMeasurements _ => none
  | .recoveryImage _ => none
  | .peerRequest _ _ _ => none
  | .peerResponse _ _ _ => none
  | .peerTimeout _ => none
  | .flitCrcFail _ => none
  | .portDown _ => none
  | .portRetrained _ => none
  | .allowanceRestore _ => none
  | .thermalThrottleExit _ => none
  | .hostConfigurationRequest => none
  | .elementGroupArrival _ _ _ => none

/-- Major opcode 0x01 (R112). -/
def decAlu (rd rs1 rs2 : BitVec 5) (fn : BitVec 11) : Except DecodeError Instr :=
  match fn.toNat with
  | 0 => .ok (.add rd rs1 rs2)
  | 1 => .ok (.sub rd rs1 rs2)
  | 2 => .ok (.and rd rs1 rs2)
  | 3 => .ok (.or rd rs1 rs2)
  | 4 => .ok (.xor rd rs1 rs2)
  | 5 => .ok (.andn rd rs1 rs2)
  | 6 => .ok (.sll rd rs1 rs2)
  | 7 => .ok (.srl rd rs1 rs2)
  | 8 => .ok (.sra rd rs1 rs2)
  | 9 => .ok (.rol rd rs1 rs2)
  | 10 => .ok (.slt rd rs1 rs2)
  | 11 => .ok (.sltu rd rs1 rs2)
  | 12 => .ok (.min rd rs1 rs2)
  | 13 => .ok (.max rd rs1 rs2)
  | 14 => .ok (.minu rd rs1 rs2)
  | 15 => .ok (.maxu rd rs1 rs2)
  | 16 => accept (rs2 == 0) (.clz rd rs1)
  | 17 => accept (rs2 == 0) (.ctz rd rs1)
  | 18 => accept (rs2 == 0) (.popc rd rs1)
  | 19 => if rs2.toNat < 3 then .ok (.sext (Size.ofBits (rs2.extractLsb' 0 2)) rd rs1) else .error .unallocated
  | 20 => if rs2.toNat < 3 then .ok (.zext (Size.ofBits (rs2.extractLsb' 0 2)) rd rs1) else .error .unallocated
  | _ => .error .unallocated

/-- Major opcode 0x0a (R112). -/
def decMulDiv (rd rs1 rs2 : BitVec 5) (fn : BitVec 11) : Except DecodeError Instr :=
  match fn.toNat with
  | 0 => .ok (.mul rd rs1 rs2)
  | 1 => .ok (.mulh rd rs1 rs2)
  | 2 => .ok (.mulhu rd rs1 rs2)
  | 3 => .ok (.div rd rs1 rs2)
  | 4 => .ok (.divu rd rs1 rs2)
  | 5 => .ok (.rem rd rs1 rs2)
  | 6 => .ok (.remu rd rs1 rs2)
  | _ => .error .unallocated

/-- Shift immediate, major opcode 0x08 (R113). -/
def decShift (rd rs1 : BitVec 5) (imm : BitVec 16) : Except DecodeError Instr :=
  let sh := imm.extractLsb' 0 6
  let z := imm.extractLsb' 6 8 == 0
  match (imm.extractLsb' 14 2).toNat with
  | 0 => accept z (.slli rd rs1 sh)
  | 1 => accept z (.srli rd rs1 sh)
  | 2 => accept z (.srai rd rs1 sh)
  | _ => accept z (.roli rd rs1 sh)

/-- Scalar atomics, major opcode 0x15 (R114). -/
def decAtomic (rd rs1 rs2 : BitVec 5) (fn : BitVec 11) : Except DecodeError Instr :=
  let a : AArgs :=
    { rd := rd, xs1 := rs1, xs2 := rs2, size := ASize.ofBits (fn.extractLsb' 7 1)
      acq := isSet (fn.extractLsb' 6 1), rel := isSet (fn.extractLsb' 5 1)
      scope := Scope.ofBits (fn.extractLsb' 3 2) }
  let z := fn.extractLsb' 0 3 == 0
  match (fn.extractLsb' 8 3).toNat with
  | 0 => accept z (.aadd a)
  | 1 => accept z (.aand a)
  | 2 => accept z (.aor a)
  | 3 => accept z (.axor a)
  | 4 => accept z (.amin a)
  | 5 => accept z (.amax a)
  | 6 => accept z (.aswap a)
  | _ => accept z (.acas a)

/-- Full/empty operations, major opcode 0x16 (R114, R293): sizes 0 to 2 are unallocated. -/
def decFullEmpty (r rs1 : BitVec 5) (op : BitVec 3) (size : BitVec 2) (imm : BitVec 11) : Except DecodeError Instr :=
  if size = 3 then
    match op.toNat with
    | 0 => .ok (.ldfK r rs1 imm)
    | 1 => .ok (.ldfT r rs1 imm)
    | 2 => .ok (.stf r rs1 imm)
    | 3 => .ok (.stfW r rs1 imm)
    | 4 => accept (r == 0) (.sete rs1 imm)
    | 5 => .ok (.probef r rs1 imm)
    | _ => .error .unallocated
  else .error .unallocated

/-- Fences, cache operations and sealing, major opcode 0x17 (R114, R296). -/
def decFence (rd rs1 rs2 : BitVec 5) (fn : BitVec 11) : Except DecodeError Instr :=
  let low := fn.extractLsb' 0 6 == 0
  match (fn.extractLsb' 6 5).toNat with
  | 0 => accept (rd == 0 && rs1 == 0 && rs2 == 0 && fn.extractLsb' 0 4 == 0) (.fence (Scope.ofBits (fn.extractLsb' 4 2)))
  | 1 => accept (rd == 0 && rs1 == 0 && rs2 == 0 && low) .vsync
  | 2 => accept (rd == 0 && low) (.cflush rs1 rs2)
  | 3 => accept (rd == 0 && low) (.cinv rs1 rs2)
  | 4 => accept (rd == 0 && low) (.seal rs1 rs2)
  | 5 => accept (rd == 0 && low) (.unseal rs1 rs2)
  | _ => .error .unallocated

/-- CSR instructions, major opcode 0x18 (R149): a number absent from R151 is unallocated. -/
def decCsr (rd rs1 : BitVec 5) (imm : BitVec 16) : Except DecodeError Instr :=
  let csr := imm.extractLsb' 0 12
  let z := imm.extractLsb' 12 2 == 0
  if csrListed csr then
    match (imm.extractLsb' 14 2).toNat with
    | 0 => accept (z && rs1 == 0) (.csrr rd csr)
    | 1 => accept (z && rd == 0) (.csrw rs1 csr)
    | 2 => accept (z && rd == 0) (.csrs rs1 csr)
    | _ => accept (z && rd == 0) (.csrc rs1 csr)
  else .error .unallocated

/-- Trap group, major opcode 0x19 (R114, R155). -/
def decTrap (rd rs1 rs2 : BitVec 5) (fn : BitVec 11) : Except DecodeError Instr :=
  match fn.toNat with
  | 0 => accept (rd == 0 && rs2 == 0) (.trap rs1)
  | 1 => accept (rd == 0 && rs1 == 0 && rs2 == 0) .tret
  | 2 => accept (rd == 0 && rs1 == 0 && rs2 == 0) .brk
  | 3 => accept (rd == 0 && rs1 == 0 && rs2 == 0) .wfe
  | 4 => accept (rd == 0 && rs1 == 0 && rs2 == 0) .haltc
  | 5 => if rs2.toNat < 4 then accept (rd == 0) (.fmtset (rs2.extractLsb' 0 2) rs1) else .error .unallocated
  | 6 => accept (rd == 0 && rs2 == 0) (.ovtset rs1)
  | 7 => accept (rd == 0 && rs2 == 0) (.rndset rs1)
  | 8 => accept (rd == 0) (.send rs1 rs2)
  | 9 => accept (rd == 0 && rs2 == 0) (.rserve rs1)
  | _ => .error .unallocated

/-- Net instructions, major opcode 0x1a (R115). -/
def decNet (rd rs1 rs2 : BitVec 5) (fn : BitVec 11) : Except DecodeError Instr :=
  match fn.toNat with
  | 0 => accept (rd == 0 && rs1 == 0 && rs2 == 0) .next
  | 1 => accept (rs1 == 0 && rs2 == 0) (.nalloc rd)
  | 2 => accept (rd == 0 && rs2 == 0) (.nfree rs1)
  | 3 => accept (rs2 == 0) (.ntake rd rs1)
  | 4 => accept (rd == 0) (.nlink rs1 rs2)
  | 5 => accept (rd == 0) (.npush rs1 rs2)
  | 6 => accept (rs2 == 0) (.nhdr rd rs1)
  | 7 => accept (rd == 0) (.nseth rs1 rs2)
  | 8 => accept (rd == 0 && rs2 == 0) (.nfwd rs1)
  | 9 => accept (rd == 0 && rs1 == 0 && rs2 == 0) .ndone
  | 10 => accept (rd == 0 && rs1 == 0 && rs2 == 0) .yield
  | 11 => accept (rd == 0 && rs2 == 0) (.resume rs1)
  | _ => .error .unallocated

/-- Copy, stream buffer and snapshot, major opcode 0x1b (R115). -/
def decCopy (rd rs1 rs2 : BitVec 5) (fn : BitVec 11) : Except DecodeError Instr :=
  match fn.toNat with
  | 0 => accept (rd == 0 && rs2 == 0) (.cpy rs1)
  | 1 => accept (rd == 0 && rs2 == 0) (.cpy2d rs1)
  | 2 => accept (rs2 == 0) (.cpyw rd rs1)
  | 3 => accept (rd == 0) (.sbinit rs1 rs2)
  | 4 => accept (rd == 0 && rs2 == 0) (.sbwait rs1)
  | 5 => accept (rd == 0) (.sbadv rs1 rs2)
  | 6 => accept (rs2 == 0) (.snap rd rs1)
  | _ => .error .unallocated

/-- Code objects, major opcode 0x1c (R76). -/
def decObject (rd rs1 rs2 : BitVec 5) (fn : BitVec 11) : Except DecodeError Instr :=
  match fn.toNat with
  | 0 => accept (rs2 == 0) (.publish rd rs1)
  | 1 => accept (rs2 == 0) (.objfree rd rs1)
  | _ => .error .unallocated

/-- Vector configuration, major opcode 0x20 (R116). -/
def decConfig (rd rs1 rs2 : BitVec 5) (fn : BitVec 11) : Except DecodeError Instr :=
  let z := rs2 == 0 && fn.extractLsb' 5 6 == 0
  match (fn.extractLsb' 0 5).toNat with
  | 0 => accept z (.setlen rd rs1)
  | 1 => accept (z && rd == 0) (.setvt rs1)
  | 2 => accept (z && rd == 0 && rs1 == 0) .lanerel
  | 3 => accept (rd == 0) (.setvti (rs1 ++ rs2 ++ fn.extractLsb' 5 6))
  | _ => .error .unallocated

/-- Vector integer, major opcode 0x21 (R117). A nonzero op2 of a row with one operand is a reserved field (assumption 78). -/
def decVInt (vd vs1 op2 : BitVec 5) (vm : BitVec 3) (kind : BitVec 2) (fn : BitVec 6) : Except DecodeError Instr :=
  match fn.toNat with
  | 0 => acceptKind [.vv, .vx, .vi, .vc] (VKind.ofBits kind) op2 true (.vadd ⟨vd, vs1, op2, vm, VKind.ofBits kind⟩)
  | 1 => acceptKind [.vv, .vx, .vi, .vc] (VKind.ofBits kind) op2 true (.vsub ⟨vd, vs1, op2, vm, VKind.ofBits kind⟩)
  | 2 => acceptKind [.vx, .vi] (VKind.ofBits kind) op2 true (.vrsub ⟨vd, vs1, op2, vm, VKind.ofBits kind⟩)
  | 3 => acceptKind [.vv, .vx] (VKind.ofBits kind) op2 true (.vmul ⟨vd, vs1, op2, vm, VKind.ofBits kind⟩)
  | 4 => acceptKind [.vv, .vx] (VKind.ofBits kind) op2 true (.vmulh ⟨vd, vs1, op2, vm, VKind.ofBits kind⟩)
  | 5 => acceptKind [.vv, .vx] (VKind.ofBits kind) op2 true (.vmac ⟨vd, vs1, op2, vm, VKind.ofBits kind⟩)
  | 6 => acceptKind [.vv, .vx] (VKind.ofBits kind) op2 true (.vdiv ⟨vd, vs1, op2, vm, VKind.ofBits kind⟩)
  | 7 => acceptKind [.vv, .vx] (VKind.ofBits kind) op2 true (.vrem ⟨vd, vs1, op2, vm, VKind.ofBits kind⟩)
  | 8 => acceptKind [.vv, .vx, .vi] (VKind.ofBits kind) op2 true (.vmin ⟨vd, vs1, op2, vm, VKind.ofBits kind⟩)
  | 9 => acceptKind [.vv, .vx, .vi] (VKind.ofBits kind) op2 true (.vmax ⟨vd, vs1, op2, vm, VKind.ofBits kind⟩)
  | 10 => acceptKind [.vv, .vx, .vi] (VKind.ofBits kind) op2 true (.vsadd ⟨vd, vs1, op2, vm, VKind.ofBits kind⟩)
  | 11 => acceptKind [.vv, .vx, .vi] (VKind.ofBits kind) op2 true (.vssub ⟨vd, vs1, op2, vm, VKind.ofBits kind⟩)
  | 12 => acceptKind [.vv, .vx] (VKind.ofBits kind) op2 true (.vavg ⟨vd, vs1, op2, vm, VKind.ofBits kind⟩)
  | 13 => acceptKind [.vv] (VKind.ofBits kind) op2 (op2 == 0) (.vabs ⟨vd, vs1, vm⟩)
  | 14 => acceptKind [.vv] (VKind.ofBits kind) op2 (op2 == 0) (.vneg ⟨vd, vs1, vm⟩)
  | 15 => acceptKind [.vv] (VKind.ofBits kind) op2 (op2 == 0) (.vpopc ⟨vd, vs1, vm⟩)
  | 16 => acceptKind [.vv] (VKind.ofBits kind) op2 (op2 == 0) (.vclz ⟨vd, vs1, vm⟩)
  | _ => .error .unallocated

/-- Vector logic and shift, major opcode 0x22 (R117). A nonzero op2 of a row with one operand is a reserved field (assumption
78). -/
def decVLogic (vd vs1 op2 : BitVec 5) (vm : BitVec 3) (kind : BitVec 2) (fn : BitVec 6) : Except DecodeError Instr :=
  match fn.toNat with
  | 0 => acceptKind [.vv, .vx, .vi] (VKind.ofBits kind) op2 true (.vand ⟨vd, vs1, op2, vm, VKind.ofBits kind⟩)
  | 1 => acceptKind [.vv, .vx, .vi] (VKind.ofBits kind) op2 true (.vor ⟨vd, vs1, op2, vm, VKind.ofBits kind⟩)
  | 2 => acceptKind [.vv, .vx, .vi] (VKind.ofBits kind) op2 true (.vxor ⟨vd, vs1, op2, vm, VKind.ofBits kind⟩)
  | 3 => acceptKind [.vv] (VKind.ofBits kind) op2 (op2 == 0) (.vnot ⟨vd, vs1, vm⟩)
  | 4 => acceptKind [.vv, .vx, .vi] (VKind.ofBits kind) op2 true (.vsll ⟨vd, vs1, op2, vm, VKind.ofBits kind⟩)
  | 5 => acceptKind [.vv, .vx, .vi] (VKind.ofBits kind) op2 true (.vsrl ⟨vd, vs1, op2, vm, VKind.ofBits kind⟩)
  | 6 => acceptKind [.vv, .vx, .vi] (VKind.ofBits kind) op2 true (.vsra ⟨vd, vs1, op2, vm, VKind.ofBits kind⟩)
  | 7 => acceptKind [.vv] (VKind.ofBits kind) op2 (op2 == 0) (.vmv ⟨vd, vs1, vm⟩)
  | 8 => acceptKind [.vv, .vx, .vi] (VKind.ofBits kind) op2 true (.vmerge ⟨vd, vs1, op2, vm, VKind.ofBits kind⟩)
  | 9 => acceptKind [.vx, .vi] (VKind.ofBits kind) op2 (vs1 == 0) (.vsplat vd op2 vm (VKind.ofBits kind))
  | _ => .error .unallocated

/-- The low three bits of a five-bit field, where a mask register stands (R118). -/
def low3 (x : BitVec 5) : BitVec 3 := x.extractLsb' 0 3
/-- The low two bits of a five-bit field, where a tag stands (R119). -/
def low2 (x : BitVec 5) : BitVec 2 := x.extractLsb' 0 2
/-- Bits above a mask number are zero. -/
def hi2z (x : BitVec 5) : Bool := x.extractLsb' 3 2 == 0
/-- Bits above a tag number are zero. -/
def hi3z (x : BitVec 5) : Bool := x.extractLsb' 2 3 == 0

/-- Compare and mask, major opcode 0x23 (R118). The rows of MPOPC and MFIRST do not say what a nonzero op2 or kind is: both are
taken for reserved fields (assumption 78). -/
def decVMask (vd vs1 op2 : BitVec 5) (vm : BitVec 3) (kind : BitVec 2) (fn : BitVec 6) : Except DecodeError Instr :=
  match fn.toNat with
  | 0 => acceptKind [.vv, .vx, .vi] (VKind.ofBits kind) op2 (hi2z vd) (.vcmpeq ⟨low3 vd, vs1, op2, vm, VKind.ofBits kind⟩) (low3 vd == 0)
  | 1 => acceptKind [.vv, .vx, .vi] (VKind.ofBits kind) op2 (hi2z vd) (.vcmpne ⟨low3 vd, vs1, op2, vm, VKind.ofBits kind⟩) (low3 vd == 0)
  | 2 => acceptKind [.vv, .vx, .vi] (VKind.ofBits kind) op2 (hi2z vd) (.vcmplt ⟨low3 vd, vs1, op2, vm, VKind.ofBits kind⟩) (low3 vd == 0)
  | 3 => acceptKind [.vv, .vx, .vi] (VKind.ofBits kind) op2 (hi2z vd) (.vcmple ⟨low3 vd, vs1, op2, vm, VKind.ofBits kind⟩) (low3 vd == 0)
  | 4 => acceptKind [.vv, .vx, .vi] (VKind.ofBits kind) op2 (hi2z vd) (.vcmpgt ⟨low3 vd, vs1, op2, vm, VKind.ofBits kind⟩) (low3 vd == 0)
  | 5 => acceptKind [.vv, .vx, .vi] (VKind.ofBits kind) op2 (hi2z vd) (.vcmpge ⟨low3 vd, vs1, op2, vm, VKind.ofBits kind⟩) (low3 vd == 0)
  | 16 => acceptKind [.vv] (VKind.ofBits kind) op2 (hi2z vd && hi2z vs1 && hi2z op2 && vm == 0) (.mand (low3 vd) (low3 vs1) (low3 op2)) (low3 vd == 0)
  | 17 => acceptKind [.vv] (VKind.ofBits kind) op2 (hi2z vd && hi2z vs1 && hi2z op2 && vm == 0) (.mor (low3 vd) (low3 vs1) (low3 op2)) (low3 vd == 0)
  | 18 => acceptKind [.vv] (VKind.ofBits kind) op2 (hi2z vd && hi2z vs1 && hi2z op2 && vm == 0) (.mxor (low3 vd) (low3 vs1) (low3 op2)) (low3 vd == 0)
  | 19 => acceptKind [.vv] (VKind.ofBits kind) op2 (hi2z vd && hi2z vs1 && op2 == 0 && vm == 0) (.mnot (low3 vd) (low3 vs1)) (low3 vd == 0)
  | 20 => accept (hi2z vs1 && op2 == 0 && kind == 0) (.mpopc vd (low3 vs1) vm)
  | 21 => accept (hi2z vs1 && op2 == 0 && kind == 0) (.mfirst vd (low3 vs1) vm)
  | 22 => accept (hi2z vd && vs1 == 0 && op2 == 0 && vm == 0 && kind == 0) (.mset (low3 vd)) (low3 vd == 0)
  | _ => .error .unallocated

/-- Associative and truth-table, major opcode 0x24 (R119). The rows of TGMOV tgd, ms1 and of TTLOAD do not say what a nonzero
op2, vm or kind is: they are taken for reserved fields (assumption 78). -/
def decVAssoc (vd vs1 op2 : BitVec 5) (vm : BitVec 3) (kind : BitVec 2) (fn : BitVec 6) : Except DecodeError Instr :=
  if fn.extractLsb' 4 2 == 1 then
    acceptKind [.vv] (VKind.ofBits kind) op2 true (.vtt ⟨vd, vs1, op2, vm, fn.extractLsb' 0 4⟩)
  else
  match fn.toNat with
  | 0 => acceptKind [.vx] (VKind.ofBits kind) op2 (hi3z vd) (.vmatch (low2 vd) vs1 op2 vm)
  | 1 => acceptKind [.vx] (VKind.ofBits kind) op2 (hi3z vs1) (.vwrite vd op2 (low2 vs1) vm)
  | 2 => accept (hi2z vd && hi3z vs1 && op2 == 0 && vm == 0 && kind == 0) (.tgmovToMask (low3 vd) (low2 vs1)) (low3 vd == 0)
  | 3 => accept (hi3z vd && hi2z vs1 && op2 == 0 && vm == 0 && kind == 0) (.tgmovToTag (low2 vd) (low3 vs1))
  | 4 => accept (vd.extractLsb' 4 1 == 0 && op2 == 0 && vm == 0 && kind == 0) (.ttload (vd.extractLsb' 0 4) vs1)
  | _ => .error .unallocated

/-- The rounding field, or the unallocated codes 6 and 7 (R110). -/
def withRm (rm : BitVec 3) (k : Rm → Except DecodeError Instr) : Except DecodeError Instr :=
  match Rm.ofBits rm with
  | some r => k r
  | none => .error .unallocated

/-- A word that is allocated only when c holds. -/
def onlyIf (c : Bool) (r : Except DecodeError Instr) : Except DecodeError Instr :=
  if c then r else .error .unallocated

/-- Vector FP, major opcode 0x25 (R120, R226): the operation number is kind[7] * 8 + fn6[2:0]. -/
def decVFp (vd vs1 op2 : BitVec 5) (vm : BitVec 3) (kind : BitVec 2) (fn : BitVec 6) : Except DecodeError Instr :=
  let vx := isSet (kind.extractLsb' 0 1)
  let rm := fn.extractLsb' 3 3
  let un := !vx && op2 == 0
  match (kind.extractLsb' 1 1 ++ fn.extractLsb' 0 3).toNat with
  | 0 => withRm rm fun r => .ok (.vfadd ⟨vd, vs1, op2, vm, vx, r⟩)
  | 1 => withRm rm fun r => .ok (.vfsub ⟨vd, vs1, op2, vm, vx, r⟩)
  | 2 => withRm rm fun r => .ok (.vfmul ⟨vd, vs1, op2, vm, vx, r⟩)
  | 3 => withRm rm fun r => .ok (.vfma ⟨vd, vs1, op2, vm, vx, r⟩)
  | 4 => withRm rm fun r => .ok (.vfnma ⟨vd, vs1, op2, vm, vx, r⟩)
  | 5 => onlyIf (rm == 0) (.ok (.vfmin vd vs1 op2 vm vx))
  | 6 => onlyIf (rm == 0) (.ok (.vfmax vd vs1 op2 vm vx))
  | 7 => withRm rm fun r => .ok (.vfdiv ⟨vd, vs1, op2, vm, vx, r⟩)
  | 8 => withRm rm fun r => onlyIf un (.ok (.vfsqrt ⟨vd, vs1, vm, r⟩))
  | 9 => withRm rm fun r => onlyIf un (.ok (.vfrsq ⟨vd, vs1, vm, r⟩))
  | 10 => withRm rm fun r => onlyIf un (.ok (.vfexp2 ⟨vd, vs1, vm, r⟩))
  | 11 => withRm rm fun r => onlyIf un (.ok (.vflog2 ⟨vd, vs1, vm, r⟩))
  | 12 => onlyIf (un && rm == 0) (.ok (.vfabs ⟨vd, vs1, vm⟩))
  | 13 => onlyIf (un && rm == 0) (.ok (.vfneg ⟨vd, vs1, vm⟩))
  | 14 => onlyIf (un && rm == 0) (.ok (.vfclass ⟨vd, vs1, vm⟩))
  | _ =>
    match FCond.ofBits rm with
    | some c => accept (hi2z vd) (.vfcmp c (low3 vd) vs1 op2 vm vx) (low3 vd == 0)
    | none => .error .unallocated

/-- Conversion and block scale, major opcode 0x26 (R121): STC 27 to 31 are unallocated, kind is reserved. -/
def decVCvt (vd vs1 op2 : BitVec 5) (vm : BitVec 3) (kind : BitVec 2) (fn : BitVec 6) : Except DecodeError Instr :=
  let stc := decide (op2.toNat < 27)
  let z := kind == 0
  match (fn.extractLsb' 0 3).toNat with
  | 0 => withRm (fn.extractLsb' 3 3) fun r => onlyIf stc (accept z (.vcvt ⟨vd, vs1, op2, vm, r⟩))
  | 1 => withRm (fn.extractLsb' 3 3) fun r => onlyIf stc (accept z (.vnarrow ⟨vd, vs1, op2, vm, r⟩))
  | 2 => withRm (fn.extractLsb' 3 3) fun r => onlyIf stc (accept z (.vwiden ⟨vd, vs1, op2, vm, r⟩))
  | 3 => withRm (fn.extractLsb' 3 3) fun r => accept z (.vbscale ⟨vd, vs1, op2, vm, r⟩)
  | 4 => withRm (fn.extractLsb' 3 3) fun r => onlyIf stc (accept z (.vbquant ⟨vd, vs1, op2, vm, r⟩))
  | 5 => withRm (fn.extractLsb' 3 3) fun r => onlyIf stc (accept z (.vbdeq ⟨vd, vs1, op2, vm, r⟩))
  | _ => .error .unallocated

/-- Reduction and scan, major opcode 0x27 (R122): op2 is the operation, kind the destination class. -/
def decVRed (d vs1 op2 : BitVec 5) (vm : BitVec 3) (kind : BitVec 2) (fn : BitVec 6) : Except DecodeError Instr :=
  let rm := fn.extractLsb' 3 3
  let z := fn.extractLsb' 0 3 == 0
  let k := kind.extractLsb' 1 1 == 0
  let x := isSet (kind.extractLsb' 0 1)
  match op2.toNat with
  | 0 => withRm rm fun r => onlyIf k (accept z (.vredsum ⟨d, vs1, vm, x, r⟩))
  | 1 => withRm rm fun r => onlyIf k (accept z (.vredsumo ⟨d, vs1, vm, x, r⟩))
  | 2 => onlyIf (k && rm == 0) (accept z (.vredmin d vs1 vm x))
  | 3 => onlyIf (k && rm == 0) (accept z (.vredmax d vs1 vm x))
  | 4 => onlyIf (k && rm == 0) (accept z (.vredand d vs1 vm x))
  | 5 => onlyIf (k && rm == 0) (accept z (.vredor d vs1 vm x))
  | 6 => onlyIf (k && rm == 0) (accept z (.vredxor d vs1 vm x))
  | 8 => withRm rm fun r => onlyIf (kind == 0) (accept z (.vscansum ⟨d, vs1, vm, r⟩))
  | 9 => onlyIf (kind == 0 && rm == 0) (accept z (.vscanmin ⟨d, vs1, vm⟩))
  | 10 => onlyIf (kind == 0 && rm == 0) (accept z (.vscanmax ⟨d, vs1, vm⟩))
  | _ => .error .unallocated

/-- Permute, major opcode 0x28 (R117). A nonzero op2 of a row with one operand is a reserved field (assumption 78). -/
def decVPerm (vd vs1 op2 : BitVec 5) (vm : BitVec 3) (kind : BitVec 2) (fn : BitVec 6) : Except DecodeError Instr :=
  match fn.toNat with
  | 0 => acceptKind [.vx, .vi] (VKind.ofBits kind) op2 true (.vslideup ⟨vd, vs1, op2, vm, VKind.ofBits kind⟩)
  | 1 => acceptKind [.vx, .vi] (VKind.ofBits kind) op2 true (.vslidedn ⟨vd, vs1, op2, vm, VKind.ofBits kind⟩)
  | 2 => acceptKind [.vv] (VKind.ofBits kind) op2 true (.vgather vd vs1 op2 vm)
  | 3 => acceptKind [.vv] (VKind.ofBits kind) op2 (op2 == 0) (.vcompress ⟨vd, vs1, vm⟩)
  | 4 => acceptKind [.vv] (VKind.ofBits kind) op2 (op2 == 0) (.vexpand ⟨vd, vs1, vm⟩)
  | 5 => acceptKind [.vx, .vi] (VKind.ofBits kind) op2 true (.vbcast ⟨vd, vs1, op2, vm, VKind.ofBits kind⟩)
  | 6 => acceptKind [.vx, .vi] (VKind.ofBits kind) op2 true (.vextr ⟨vd, vs1, op2, vm, VKind.ofBits kind⟩)
  | 7 => acceptKind [.vx, .vi] (VKind.ofBits kind) op2 true (.vins ⟨vd, vs1, op2, vm, VKind.ofBits kind⟩)
  | 8 => acceptKind [.vv] (VKind.ofBits kind) op2 true (.vbshuf vd vs1 op2 vm)
  | _ => .error .unallocated

/-- Vector load and store, major opcodes 0x2a and 0x2b (R124). -/
def decVMem (store : Bool) (v xs1 r2 : BitVec 5) (vm : BitVec 3) (req mode : BitVec 2) (rx : BitVec 1)
    (fn3 : BitVec 3) : Except DecodeError Instr :=
  let a : VMemArgs := { v := v, xs1 := xs1, r2 := r2, vm := vm, req := Req.ofBits req, rx := isSet rx }
  match store, fn3.toNat, mode.toNat with
  | false, 0, 0 => accept (r2 == 0) (.vld a)
  | false, 0, 1 => .ok (.vlds a)
  | false, 0, 2 => .ok (.vldx a)
  | false, 0, _ => .ok (.vldt a)
  | false, 1, 0 => accept (r2 == 0) (.vldb a)
  | false, 2, 0 => accept (r2 == 0 && req == 0) (.vldsb v xs1 vm (isSet rx))
  | true, 0, 0 => accept (r2 == 0) (.vst a)
  | true, 0, 1 => .ok (.vsts a)
  | true, 0, 2 => .ok (.vstx a)
  | true, 0, _ => .ok (.vstt a)
  | _, _, _ => .error .unallocated

/-- Vector atomics, major opcode 0x2c (R125): bit 3 is reserved. -/
def decVAmo (vs3 xs1 vs2 : BitVec 5) (vm : BitVec 3) (scope : BitVec 2) (fn : BitVec 6) : Except DecodeError Instr :=
  let a : VAmoArgs :=
    { vs3 := vs3, xs1 := xs1, vs2 := vs2, vm := vm, scope := Scope.ofBits scope
      acq := isSet (fn.extractLsb' 5 1), rel := isSet (fn.extractLsb' 4 1) }
  let z := fn.extractLsb' 3 1 == 0
  match (fn.extractLsb' 0 3).toNat with
  | 0 => accept z (.vamoadd a)
  | 1 => accept z (.vamomin a)
  | 2 => accept z (.vamomax a)
  | 3 => accept z (.vamoand a)
  | 4 => accept z (.vamoor a)
  | 5 => accept z (.vamoxor a)
  | 6 => accept z (.vamoswap a)
  | _ => accept z (.vamocas a)

/-- VWAIT, VSEND and XRED, major opcode 0x2d (R126). -/
def decVSync (vd vs1 op2 : BitVec 5) (vm : BitVec 3) (kind : BitVec 2) (fn : BitVec 6) : Except DecodeError Instr :=
  match fn.toNat with
  | 0 => acceptKind [.vv] (VKind.ofBits kind) op2 (hi2z vd) (.vwait .eq (low3 vd) vs1 op2 vm) (low3 vd == 0)
  | 1 => acceptKind [.vv] (VKind.ofBits kind) op2 (hi2z vd) (.vwait .ne (low3 vd) vs1 op2 vm) (low3 vd == 0)
  | 2 => acceptKind [.vv] (VKind.ofBits kind) op2 (hi2z vd) (.vwait .ge (low3 vd) vs1 op2 vm) (low3 vd == 0)
  | 3 => acceptKind [.vv] (VKind.ofBits kind) op2 (hi2z vd) (.vwait .lt (low3 vd) vs1 op2 vm) (low3 vd == 0)
  | 8 => acceptKind [.vx] (VKind.ofBits kind) op2 (vd == 0) (.vsend vs1 op2 vm)
  | 16 => acceptKind [.vx] (VKind.ofBits kind) op2 (vs1 == 0) (.xred .add vd op2 vm)
  | 17 => acceptKind [.vx] (VKind.ofBits kind) op2 (vs1 == 0) (.xred .min vd op2 vm)
  | 18 => acceptKind [.vx] (VKind.ofBits kind) op2 (vs1 == 0) (.xred .max vd op2 vm)
  | _ => .error .unallocated

/-- In-array matrix and upper store, major opcode 0x2e (R127). -/
def decVMatrix (vd vs1 op2 : BitVec 5) (vm : BitVec 3) (kind : BitVec 2) (fn : BitVec 6) : Except DecodeError Instr :=
  match fn.toNat with
  | 0 => acceptKind [.vx] (VKind.ofBits kind) op2 (vd == 0) (.bsload vs1 op2 vm)
  | 1 => acceptKind [.vx] (VKind.ofBits kind) op2 (vd == 0) (.bsmovToUpper vs1 op2 vm)
  | 2 => acceptKind [.vx] (VKind.ofBits kind) op2 (vs1 == 0) (.bsmovFromUpper vd op2 vm)
  | 3 => acceptKind [.vx] (VKind.ofBits kind) op2 true (.imma vd vs1 op2 vm)
  | _ => .error .unallocated

/-- Tile unit, major opcode 0x2f (R128). -/
def decTile (acc : BitVec 3) (vA vB count : BitVec 5) (fn : BitVec 8) : Except DecodeError Instr :=
  let rm := fn.extractLsb' 5 3
  let z := vB == 0 && count == 0
  match (fn.extractLsb' 0 5).toNat with
  | 0 => withRm rm fun r => .ok (.tmma ⟨acc, vA, vB, count, r⟩)
  | 1 => withRm rm fun r => .ok (.tmmao ⟨acc, vA, vB, count, r⟩)
  | 2 => onlyIf (rm == 0) (accept (vA == 0 && z) (.taccz acc))
  | 3 => onlyIf (rm == 0) (accept z (.taccld acc vA))
  | 4 => onlyIf (rm == 0) (accept z (.taccst acc vA))
  | _ => .error .unallocated

/-- The word of a hint: VPF where the word has VLD's layout, HINT otherwise (R134). -/
def decHint (m : HintMajor) (imm : BitVec 26) : Instr :=
  if m = .h3c && imm.extractLsb' 11 5 == 0 && imm.extractLsb' 4 2 == 0 && imm.extractLsb' 0 3 == 0 then
    .vpf { v := imm.extractLsb' 21 5, xs1 := imm.extractLsb' 16 5, r2 := 0, vm := imm.extractLsb' 8 3
           req := Req.ofBits (imm.extractLsb' 6 2), rx := isSet (imm.extractLsb' 3 1) }
  else .hint m imm

/-- Decoding (R111): total, and every word that is not an instruction is rejected by its reason. -/
def decode (w : IWord) : Except DecodeError Instr :=
  let rd := w.extractLsb' 21 5
  let rs1 := w.extractLsb' 16 5
  let rs2 := w.extractLsb' 11 5
  let fn := w.extractLsb' 0 11
  let imm := w.extractLsb' 0 16
  let vm := w.extractLsb' 8 3
  let kind := w.extractLsb' 6 2
  let fn6 := w.extractLsb' 0 6
  match (w.extractLsb' 26 6).toNat with
  | 0x01 => decAlu rd rs1 rs2 fn
  | 0x02 => .ok (.addi rd rs1 imm)
  | 0x03 => .ok (.andi rd rs1 imm)
  | 0x04 => .ok (.ori rd rs1 imm)
  | 0x05 => .ok (.xori rd rs1 imm)
  | 0x06 => .ok (.slti rd rs1 imm)
  | 0x07 => .ok (.sltiu rd rs1 imm)
  | 0x08 => decShift rd rs1 imm
  | 0x09 => accept (rs1 == 0) (.lui rd imm)
  | 0x0a => decMulDiv rd rs1 rs2 fn
  | 0x0b => .ok (.beq rd rs1 imm)
  | 0x0c => .ok (.bne rd rs1 imm)
  | 0x0d => .ok (.blt rd rs1 imm)
  | 0x0e => .ok (.bge rd rs1 imm)
  | 0x0f => .ok (.bltu rd rs1 imm)
  | 0x10 => .ok (.bgeu rd rs1 imm)
  | 0x11 => .ok (.jal (w.extractLsb' 0 26))
  | 0x12 => .ok (.jalr rd rs1 imm)
  | 0x13 => .ok (.ld ⟨rd, rs1, Req.ofBits (w.extractLsb' 14 2), isSet (w.extractLsb' 13 1), Size.ofBits (w.extractLsb' 11 2), fn⟩)
  | 0x14 => .ok (.st ⟨rd, rs1, Req.ofBits (w.extractLsb' 14 2), isSet (w.extractLsb' 13 1), Size.ofBits (w.extractLsb' 11 2), fn⟩)
  | 0x15 => decAtomic rd rs1 rs2 fn
  | 0x16 => decFullEmpty rd rs1 (w.extractLsb' 13 3) (w.extractLsb' 11 2) fn
  | 0x17 => decFence rd rs1 rs2 fn
  | 0x18 => decCsr rd rs1 imm
  | 0x19 => decTrap rd rs1 rs2 fn
  | 0x1a => decNet rd rs1 rs2 fn
  | 0x1b => decCopy rd rs1 rs2 fn
  | 0x1c => decObject rd rs1 rs2 fn
  | 0x20 => decConfig rd rs1 rs2 fn
  | 0x21 => decVInt rd rs1 rs2 vm kind fn6
  | 0x22 => decVLogic rd rs1 rs2 vm kind fn6
  | 0x23 => decVMask rd rs1 rs2 vm kind fn6
  | 0x24 => decVAssoc rd rs1 rs2 vm kind fn6
  | 0x25 => decVFp rd rs1 rs2 vm kind fn6
  | 0x26 => decVCvt rd rs1 rs2 vm kind fn6
  | 0x27 => decVRed rd rs1 rs2 vm kind fn6
  | 0x28 => decVPerm rd rs1 rs2 vm kind fn6
  | 0x29 => .ok (.vidx rd (w.extractLsb' 10 11) (w.extractLsb' 0 10))
  | 0x2a => decVMem false rd rs1 rs2 vm kind (w.extractLsb' 4 2) (w.extractLsb' 3 1) (w.extractLsb' 0 3)
  | 0x2b => decVMem true rd rs1 rs2 vm kind (w.extractLsb' 4 2) (w.extractLsb' 3 1) (w.extractLsb' 0 3)
  | 0x2c => decVAmo rd rs1 rs2 vm kind fn6
  | 0x2d => decVSync rd rs1 rs2 vm kind fn6
  | 0x2e => decVMatrix rd rs1 rs2 vm kind fn6
  | 0x2f => decTile (w.extractLsb' 23 3) (w.extractLsb' 18 5) (w.extractLsb' 13 5) (w.extractLsb' 8 5) (w.extractLsb' 0 8)
  | 0x3c => .ok (decHint .h3c (w.extractLsb' 0 26))
  | 0x3d => .ok (decHint .h3d (w.extractLsb' 0 26))
  | 0x3e => .ok (decHint .h3e (w.extractLsb' 0 26))
  | _ => .error .unallocated

/-- The instruction at four bytes in ascending addresses, little-endian (R4, R108). -/
def decodeBytes (b0 b1 b2 b3 : Byte) : Except DecodeError Instr := decode (b3 ++ b2 ++ b1 ++ b0)

/-- The host's question: the instruction the decoder reads from the word w, laid out in memory as R4 says. -/
def decodeTableWord (nbits w : Nat) : Option Instr :=
  if nbits ≤ 32 then
    let v : IWord := BitVec.ofNat 32 w
    match decodeBytes (v.extractLsb' 0 8) (v.extractLsb' 8 8) (v.extractLsb' 16 8) (v.extractLsb' 24 8) with
    | .ok i => some i
    | .error _ => none
  else none

end Sys2Proof
end

