-- ==== Sys2Proof/Machine/Ops.lean ====
section
/-! DEFINITION. The named operations on registers and memory: accessors, trap entry and return (R153, R157),
machine checks and aborts (R401 to R403), the physical map (R278), accesses at home (R273 to R277, R326) and
translation (R279 to R283). -/

namespace Sys2Proof.Machine

/-! ### Accessors -/

/-- The core p. -/
def State.core (s : State) (p : CoreId) : Core := s.cores[p]

/-- The state with core p replaced. -/
def State.setCore (s : State) (p : CoreId) (c : Core) : State := { s with cores := s.cores.set p c }

/-- Strand t of core p. -/
def State.strand (s : State) (p : CoreId) (t : StrandId) : Strand := (s.core p).strands[t]

/-- The state with strand t of core p replaced. -/
def State.setStrand (s : State) (p : CoreId) (t : StrandId) (st : Strand) : State :=
  s.setCore p { s.core p with strands := (s.core p).strands.set t st }

/-- The strand that acts. -/
def State.me (s : State) : Strand := s.strand s.cur s.str

/-- The state with the acting strand replaced. -/
def State.setMe (s : State) (st : Strand) : State := s.setStrand s.cur s.str st

/-- The core of the acting strand. -/
def State.mine (s : State) : Core := s.core s.cur

/-- The state with the acting strand's core replaced. -/
def State.setMine (s : State) (c : Core) : State := s.setCore s.cur c

/-- Context c. -/
def State.ctx (s : State) (c : CtxId) : Ctx := s.ctxs[c]

/-- The state with context c replaced. -/
def State.setCtx (s : State) (c : CtxId) (k : Ctx) : State := { s with ctxs := s.ctxs.set c k }

/-- The context that the acting strand's core serves. A strand runs only while its core serves one (R416). -/
def State.myCtx (s : State) : CtxId := (s.mine.serves).getD 0

/-- An x register: x0 reads 0 (R141). -/
def State.reg (s : State) (r : BitVec 5) : Word :=
  if r = 0 then 0 else s.me.x[r.toFin]

/-- A strand with an x register written; a write to x0 is discarded (R141). A new value ends the mark of a failed
load (R288). -/
def Strand.withX (st : Strand) (r : BitVec 5) (v : Word) : Strand :=
  if r = 0 then st
  else { st with
    x := st.x.set r.toFin v
    poisoned := st.poisoned.filter fun (y : BitVec 5 × Word × BitVec 16) => y.1 ≠ r }

/-- The state with an x register of the acting strand written. -/
def State.setReg (s : State) (r : BitVec 5) (v : Word) : State := s.setMe (s.me.withX r v)

/-- The state with the acting strand's pc set. -/
def State.setPc (s : State) (a : Word) : State := s.setMe { s.me with pc := a }

/-- The pc moved past one instruction word (R108). -/
def State.advance (s : State) : State := s.setPc (s.me.pc + 4)

/-- Write a result and go on at the next instruction. -/
def State.finish (s : State) (r : BitVec 5) (v : Word) : State := (s.setReg r v).advance

/-- The acting strand waits at its instruction (R42, R164). -/
def State.park (s : State) (w : Wait) : State := s.setMe { s.me with wait := some w }

/-- Act at another strand, and come back. -/
def State.at (s : State) (p : CoreId) (t : StrandId) : State := { s with cur := p, str := t }

/-- Run an operation as another strand. -/
def State.asStrand (s : State) (p : CoreId) (t : StrandId) (f : State → State) : State :=
  { f (s.at p t) with cur := s.cur, str := s.str }

/-- Whether the acting strand is at runtime level or above (R139). -/
def State.isRuntime (s : State) : Bool := decide (1 ≤ s.me.priv.toNat)

/-- Core cycles since reset: three for every two base cycles (R15, R152). -/
def State.coreCycle (s : State) : Nat := 3 * s.cycles / 2

/-- Draw a free value's number (assumption 3). -/
def State.draw (s : State) : Nat × State := (s.fresh, { s with fresh := s.fresh + 1 })

/-! ### Machine checks, aborts and traps -/

/-- Signal an MSI-X vector. A masked one is held pending (R428). -/
def State.signal (s : State) (v : Nat) : State :=
  let masked := s.msixMask.getLsbD v
  { s with
    msix := if masked then s.msix else s.msix ++ [v]
    msixPending := if masked then s.msixPending ||| BitVec.ofNat 72 (2 ^ v) else s.msixPending }

/-- The host masks a vector, or unmasks it, which signals it where it was pending (R428, assumption 88). -/
def State.maskVector (s : State) (v : Fin 72) (masked : Bool) : State :=
  let b : BitVec 72 := BitVec.ofNat 72 (2 ^ v.val)
  if masked then { s with msixMask := s.msixMask ||| b }
  else
    let s1 : State := { s with
      msixMask := s.msixMask &&& ~~~b
      msixPending := s.msixPending &&& ~~~b }
    if s.msixPending.getLsbD v.val then s1.signal v.val else s1

/-- Write a machine-check record into the ring of 256 and signal vector 64 (R402, R428). -/
def State.machineCheck (s : State) (kind : Nat) (c : Option CtxId) (p : CoreId) (t : Option StrandId)
    (cause : BitVec 16) (addr pc : Word) : State :=
  let w0 := word (kind * 2 ^ 56 + (match c with | some c => c.val * 2 ^ 50 + 2 ^ 49 | none => 0) +
    p.val * 2 ^ 40 + (match t with | some t => t.val * 2 ^ 37 + 2 ^ 36 | none => 0) + cause.toNat)
  let r : LogRec := ⟨w0, addr, pc, word s.cycles⟩
  { s with machineChecks := (s.machineChecks ++ [r]).drop (s.machineChecks.length + 1 - 256),
           mcCount := s.mcCount + 1 }.signal 64

/-- A request whose requester no longer waits for it. The engine number 0 names nobody. -/
def AtomicReq.orphaned (f : Requester → Bool) (r : AtomicReq) : AtomicReq := if f r.who then { r with who := .engine 0 } else r

/-- Requests whose requester no longer waits for them, beyond the package or at a scatter-add unit: they still perform
(R383, R403). -/
def State.orphanExt (s : State) (f : Requester → Bool) : State :=
  { s with
    ext := s.ext.map fun (e : ExtReq) => if f e.who then { e with who := .engine 0, rd := none, fill := none } else e
    comb := s.comb.map fun (x : CombEntry) => { x with chain := x.chain.map (AtomicReq.orphaned f) }
    combWait := s.combWait.map (AtomicReq.orphaned f) }

/-- The wait for an access that has been sent, which an abort leaves to complete (R398, R403). -/
def Wait.sent : Wait → Option Wait
  | .external => some .external
  | .atomic rd size acq => some (.atomic rd size acq)
  | _ => none

/-- A strand halted by an abort (R403): queue and replay buffer discarded, lanes released, VLEN 0. Its firing never
ends: the strand leaves it, and what it was asked to take, behind. Its relaxed accesses are in State.loose. -/
def Strand.abort (st : Strand) : Strand :=
  let got := st.readq.foldl (fun (a : Strand) (r : ReadSlot) =>
    match r.value with
    | some v => if r.dropped then a else a.withX r.rd v
    | none => a) st
  { got with
    halted := true, wait := st.wait.bind Wait.sent, queue := [], head := none, replay := [], vfault := none
    readq := [], part := [], cls := .noLanes, vlen := 0, muldiv := false, firing := none, resumed := false
    nstep := 0, rulePair := none, counted := [], progress := [], taken := false, serving := none
    preempt := none, asyncTraps := [], relaxed := [], relaxedFault := none, lanesDue := false
    owed := 0, issuedWord := none }

/-- The number of logical cores of a context (R83). -/
def Ctx.size (k : Ctx) : Nat := k.entry.width * k.entry.height

/-- The logical cores that a written value names (R390). -/
def Ctx.named (k : Ctx) (v : Word) : List Nat := if bit v 62 then List.range k.size else [field v 9 0]

/-- Whether a launch still has a seed for one of the logical cores that a written value names (R93, R390). -/
def Ctx.launchesTo (k : Ctx) (v : Word) : Bool :=
  match k.launching with
  | none => false
  | some x => (List.range (x.n - x.next)).any fun i =>
      decide ((if x.one then 0 else (x.next + i) % k.size) ∈ k.named v)

/-- Whether core p serves a logical core that a forced save is stopping (R394 step 1): its strands issue nothing more, and no
entry of theirs begins. -/
def State.saving (s : State) (p : CoreId) : Bool :=
  match (s.core p).serves with
  | none => false
  | some c =>
    match (s.ctx c).pWait with
    | some v => !bit v 63 && !(s.ctx c).launchesTo v && decide ((s.core p).lcore.toNat ∈ (s.ctx c).named v)
    | none => false

/-- A core gives up its context; its ways keep their tags (R266, R403). -/
def Core.giveUp (c : Core) : Core :=
  { c with serves := none, whole := [], uses := [], laneReqs := [], sweep := none, asked := false, hungry := false,
           deliveries := [], channels := [], redHeld := [], server := none }

/-- What waits at the waystation of a core, as the base die holds it (R89, R403): the deliveries have arrived once. -/
def Core.heldHere (c : Core) : List HeldMsg :=
  c.deliveries.map (fun (d : Delivery) => .pairs (if d.kind = 2 ∨ d.kind = 4 then 4 else 3) c.lcore.toNat d.pairs) ++
    c.channels.map (fun (d : Deposit) => .deposit d) ++ c.redHeld.map fun (m : RedMsg) => .red m

/-- Abort of context c after record n of the machine-check ring (R403). Accesses already issued complete (R398): relaxed
ones perform later, and answers from beyond the package reach their registers. -/
def State.abortCtx (s : State) (c : CtxId) (n : Nat) : State :=
  let cores := s.cores.map fun k =>
    if k.serves = some c then { k.giveUp with strands := k.strands.map Strand.abort } else k
  let gone (w : Requester) : Bool :=
    match w with
    | .elem p _ _ => decide ((s.core p).serves = some c)
    | _ => false
  let loose := allCores.flatMap fun p => if (s.core p).serves ≠ some c then [] else
    allStrands.flatMap fun t => (s.strand p t).relaxed.map fun a => (p, t, a)
  let held := s.cores.toList.flatMap fun (k : Core) => if k.serves = some c then k.heldHere else []
  let k1 := { s.ctx c with
    aborted := true
    recNo := BitVec.ofNat 32 n
    pBusy := (s.ctx c).pBusy && (s.ctx c).pWait.isSome
    pDone := (s.ctx c).pDone || ((s.ctx c).pBusy && (s.ctx c).pWait.isNone && decide ((s.ctx c).resuming = []))
    resuming := []
    heldMsgs := (s.ctx c).heldMsgs ++ held }
  let s1 := { s.orphanExt gone with
    cores := cores
    loose := s.loose ++ loose
    waiters := s.waiters.filter fun w => (s.core w.core).serves ≠ some c
    watches := s.watches.filter fun w => (s.core w.core).serves ≠ some c
    retries := s.retries.filter fun w => (s.core w.core).serves ≠ some c }
  s1.setCtx c k1

/-- A second trap while TACT is 1 (R157): record of kind 1, then the abort; no trap register changes. -/
def State.doubleTrap (s : State) (cause : BitVec 16) (tval : Word) : State :=
  let n := s.mcCount
  let s1 := s.machineCheck 1 s.mine.serves s.cur (some s.str) cause tval s.me.pc
  match s.mine.serves with
  | some c => s1.abortCtx c n
  | none => s1.setMe s1.me.abort

/-- TrapEntry (R153). -/
def State.trapEntry (s : State) (cause : BitVec 16) (sw : Bool) (tval epc : Word) : State :=
  if s.me.tact then s.doubleTrap cause tval
  else s.setMe { s.me with
    causeSw := sw, cause := cause, tval := tval, tepc := (epc.extractLsb' 2 50),
    ppriv := s.me.priv, priv := 1, tact := true, wait := none, issuedWord := none,
    progress := if s.me.taken then s.me.progress else [],
    pc := (0 : BitVec 12) ++ s.me.trapvec ++ (0 : BitVec 2) }

/-- Cause numbers of R154. -/
inductive Cause
  | illegal | illegalType | capability | capabilityNone | arenaBound | pageFault | access | sealedStore | align
  | arrayParity | memUncorrectable | channelWrite | nodePoolEmpty | spillFull | levelUnsupported | brk | timeout
  | preempt
  /-- No cause: a walk waits for a table entry beyond the package (R272, R280). -/
  | await
deriving DecidableEq, Repr

/-- The number of a cause (R154). -/
def Cause.num : Cause → BitVec 16
  | .illegal => 1 | .illegalType => 2 | .capability => 3 | .capabilityNone => 4 | .arenaBound => 5
  | .pageFault => 6 | .access => 7 | .sealedStore => 8 | .align => 9 | .arrayParity => 10
  | .memUncorrectable => 11 | .channelWrite => 12 | .nodePoolEmpty => 13 | .spillFull => 14
  | .levelUnsupported => 15 | .brk => 16 | .timeout => 17 | .preempt => 18 | .await => 0

/-- A trap precise at the issuing instruction (R380): TEPC is its address. An instruction whose walk waits for a table entry
begins again once the entry has come. -/
def State.trap (s : State) (c : Cause) (tval : Word) : State :=
  if c = .await then s.park .walk else s.trapEntry c.num false tval s.me.pc

/-- A trap that leaves TEPC after the instruction. -/
def State.trapAfter (s : State) (c : Cause) (tval : Word) : State :=
  s.trapEntry c.num false tval (s.me.pc + 4)

/-! ### The physical map -/

/-- What a physical address names (R278). -/
inductive Region
  | hbm (a : Nat)
  | feStore (a : Nat)
  | spad (p : CoreId) (off : Nat)
  | mmio (off : Nat)
  | host (off : Nat)
  | peer (d : BitVec 9) (off : Nat)
  | nowhere
deriving DecidableEq, Repr

/-- First address of the full/empty store, which ends HBM data (R270). -/
def feBase : Nat := 0x7e00000000
/-- First address past HBM. -/
def hbmEnd : Nat := 0x8000000000
/-- First scratchpad window (R267). -/
def spadBase : Nat := 0x10000000000
/-- First address of MMIO control space (R278). -/
def mmioBase : Nat := 0x20000000000

/-- The region of a physical address (R278). -/
def region (pa : Nat) : Region :=
  if pa < feBase then .hbm pa
  else if pa < hbmEnd then .feStore pa
  else if spadBase ≤ pa ∧ pa < spadBase + 384 * 2 ^ 24 then
    .spad ⟨((pa - spadBase) / 2 ^ 24) % 384, Nat.mod_lt _ (by decide)⟩ ((pa - spadBase) % 2 ^ 24)
  else if mmioBase ≤ pa ∧ pa < mmioBase + 2 ^ 32 then .mmio (pa - mmioBase)
  else if 2 ^ 50 ≤ pa ∧ pa < 2 ^ 51 then .host (pa - 2 ^ 50)
  else if 2 ^ 51 ≤ pa ∧ pa < 2 ^ 51 + 2 ^ 49 then
    .peer (BitVec.ofNat 9 ((pa - 2 ^ 51) / 2 ^ 40)) ((pa - 2 ^ 51) % 2 ^ 40)
  else .nowhere

/-- Whether n bytes from pa lie in HBM data. -/
def inHbm (pa n : Nat) : Bool := decide (pa + n ≤ feBase)

/-- Whether an address lies in some context's arena (R73). -/
def State.inArena (s : State) (pa : Nat) : Bool :=
  s.ctxs.toList.any fun k => decide (k.entry.arenaBase ≤ pa ∧ pa < k.entry.arenaBound)

/-- Whether an address is sealed (R277), or in the destination of the active snapshot (R327). -/
def State.isSealed (s : State) (pa : Nat) : Bool :=
  (s.seals.any fun e => decide (e.base ≤ pa ∧ pa < e.bound)) ||
  (match s.snap with | some n => decide (n.dst ≤ pa ∧ pa < n.dst + n.len) | none => false)

/-- Whether any word that n bytes from pa touch holds an uncorrectable error: at home, in a dirty owned copy, which is read
in its home's place (R273), or in a combining store (R276, R347, R401). -/
def State.isBad (s : State) (pa n : Nat) : Bool :=
  (s.badWords.any fun w => decide (pa / 8 ≤ w ∧ w ≤ (pa + n - 1) / 8)) ||
  (s.badCopies.any fun x => decide (pa / 32 ≤ x.2 ∧ x.2 ≤ (pa + n - 1) / 32) &&
    (s.core x.1).copies.any fun c => decide (c.sector = x.2 ∧ c.kind = .owned ∧ c.dirty ≠ [])) ||
  s.comb.any fun x => x.bad && decide (pa / 8 ≤ x.pa ∧ x.pa ≤ (pa + n - 1) / 8)

/-! ### Scratchpad -/

/-- Where a window offset of core p lies: way·2^20 + place in the way (R267), none at or above the window's end. -/
def Core.spadPlace (c : Core) (off : Nat) : Option Nat :=
  if off < 2 ^ 20 * (c.poolS.toNat - c.poolV.toNat) then some (2 ^ 20 * c.poolV.toNat + off) else none

/-- The owner tag of the way that holds a place (R266). -/
def Core.tagAt (c : Core) (place : Nat) : Option CtxId := (c.wayTag[fin16 (place / 2 ^ 20)]).map (·.1)

/-- The place of a scratchpad address for context `who`, none when R266 or R267 raises ACCESS. -/
def State.spadFor (s : State) (who : CtxId) (p : CoreId) (off : Nat) : Option Nat :=
  match (s.core p).spadPlace off with
  | none => none
  | some place =>
    match (s.core p).tagAt place with
    | some t => if t = who then some place else none
    | none => if (s.core p).serves = some who then some place else none

/-! ### Coherence of core copies -/

/-- The sectors of 32 bytes of the grain that holds pa. -/
def grainSectors (pa grain : Nat) : List Nat :=
  (List.range (grain / 32)).map fun k => pa / grain * (grain / 32) + k

/-- Whether some core holds a tracked or owned copy in a block of 512 bytes (R275). -/
def State.blockTracked (s : State) (block : Nat) : Bool :=
  s.cores.toList.any fun k => k.copies.any fun c => decide (c.sector / 16 = block) && decide (c.kind ≠ .untracked)

/-- The grain at which a request performs: the one the directory recorded for the block while a core holds a tracked or
owned copy of it, else the page's (R275). -/
def State.grainAt (s : State) (pa grain : Nat) : Nat :=
  match s.grains.find? (fun g => g.1 = pa / 512) with
  | some g => if s.blockTracked (pa / 512) then g.2 else grain
  | none => grain

/-- The home records a block's grain when it first tracks a copy of it (R275). -/
def State.recordGrain (s : State) (pa grain : Nat) : State :=
  if s.grains.any (fun g => g.1 = pa / 512) && s.blockTracked (pa / 512) then s
  else { s with grains := (pa / 512, grain) :: s.grains.filter fun g => g.1 ≠ pa / 512 }

/-- The watches with those woken that some bytes written belong to (R354). -/
def State.wakeWatches (s : State) (pa n : Nat) : List Watch :=
  s.watches.map fun (w : Watch) => if pa < w.pa + w.size ∧ w.pa < pa + n then { w with woken := true } else w

/-- Whether an engine's write to an address is refused: to an arena (R73), or to a range of the seal table (R277, R314). -/
def State.engineRefused (s : State) (pa : Nat) : Bool :=
  s.inArena pa || s.seals.any fun (e : SealEntry) => decide (e.base ≤ pa ∧ pa < e.bound)

/-- A block of the active snapshot, by its offset, has failed with a status of R315: the lowest one is reported (R327). -/
def Snapshot.fails (n : Snapshot) (off st : Nat) : Option (Nat × Nat) :=
  match n.failed with
  | some x => if x.1 ≤ off then some x else some (off, st)
  | none => some (off, st)

/-- Copy one block of the active snapshot, as it stood at the cut, unless it is copied already (R326, R327). Nothing is
written where the engine's write is refused, and the snapshot says so (R73, R314; assumption 49). -/
def State.snapBlock (s : State) (b : Nat) : State :=
  match s.snap with
  | none => s
  | some n =>
    if 512 * b < n.src ∨ n.src + n.len ≤ 512 * b ∨ b ∈ n.copied then s
    else
      let tgt := n.dst + (512 * b - n.src)
      let isHost := decide (feBase ≤ n.dst)
      let refused := s.engineRefused tgt
      let kept := isHost || refused
      let bad := s.isBad (512 * b) 512
      let off := 512 * b - n.src
      let old := if bad then List.replicate 512 0 else s.mem.read (512 * b) 512
      { s with
        mem := if kept then s.mem else s.mem.write tgt old
        badWords := if kept then s.badWords
          else s.badWords.filter fun w => !decide (tgt ≤ w * 8 ∧ w * 8 + 8 ≤ tgt + 512)
        watches := if kept then s.watches else s.wakeWatches tgt 512
        ext := if isHost then s.ext ++ [ExtReq.mk (.engine 0) 0 tgt (.write tgt old) none false none none []] else s.ext
        snap := some { n with
          copied := insertNat b n.copied
          failed := if refused then n.fails off 5 else if bad then n.fails off 6 else n.failed } }

/-- Perform bytes at their home in HBM: pre-cut contents of a snapshot are copied first (R326), then the bytes
are written; a word written whole loses its error. -/
def State.homeWrite (s : State) (pa : Nat) (bytes : List Byte) : State :=
  let blocks := if s.snap.isNone then []
    else (List.range ((pa + bytes.length - 1) / 512 + 1 - pa / 512)).map (pa / 512 + ·)
  let s1 := blocks.foldl (fun (a : State) b => a.snapBlock b) s
  { s1 with mem := s1.mem.write pa bytes,
            watches := s1.wakeWatches pa bytes.length,
            badWords := s1.badWords.filter fun w => !decide (pa ≤ w * 8 ∧ w * 8 + 8 ≤ pa + bytes.length) }

/-- A write of some bytes of HBM that must wait (R326): the active snapshot goes to the host window, and the copy of a block
that they touch has not performed there yet. The copies that it waits for are on their way. -/
def State.snapHold (s : State) (pa n : Nat) : Option State :=
  match s.snap with
  | none => none
  | some x =>
    if x.dst < feBase then none
    else
      let blocks := ((List.range ((pa + n - 1) / 512 + 1 - pa / 512)).map (pa / 512 + ·)).filter fun b =>
        decide (x.src ≤ 512 * b ∧ 512 * b < x.src + x.len)
      let s1 := blocks.foldl (fun (a : State) b => a.snapBlock b) s
      if blocks.any fun b => s1.ext.any fun e => decide (e.who = .engine 0 ∧ e.pa = x.dst + (512 * b - x.src)) then some s1
      else none

/-- Change the copies that every core holds. -/
def State.mapCopies (s : State) (f : CoreId → List Copy → List Copy) : State :=
  { s with cores := Vector.ofFn fun (p : CoreId) => { s.core p with copies := f p (s.core p).copies } }

/-- The copy of a sector in core p. -/
def State.copyAt (s : State) (p : CoreId) (sector : Nat) : Option Copy :=
  (s.core p).copies.find? fun c => c.sector = sector

/-- Whether a copy holds an uncorrectable error (R276). -/
def State.copyBad (s : State) (p : CoreId) (c : Copy) : Bool := s.badCopies.any fun x => decide (x = (p, c.sector))

/-- Dirty data with an uncorrectable error and no consumer (R276, R401 kind 2): what the home held stays, a record is
written, and the context the core served when the data was written is aborted. -/
def State.lostDirty (s : State) (p : CoreId) (c : Copy) : State :=
  let m := if c.kind = .untracked then s.mem
    else c.dirty.foldl (fun (m : Memory) d => m.set (32 * c.sector + d) (c.bytes.getD d 0)) s.mem
  let n := s.mcCount
  let s1 := { s with mem := m, badCopies := s.badCopies.filter fun x => x ≠ (p, c.sector) }.machineCheck 2 c.ctx p
    none 0 (word (32 * c.sector)) 0
  match c.ctx with
  | some x => s1.abortCtx x n
  | none => s1

/-- Runs of neighbouring numbers of a rising list, each with its first number. -/
def runsOf : List Nat → List (Nat × Nat)
  | [] => []
  | a :: rest =>
    match runsOf rest with
    | (b, n) :: more => if a + 1 = b then (a, n + 1) :: more else (a, 1) :: (b, n) :: more
    | [] => [(a, 1)]

/-- The dirty data of some copies that cannot be read is lost as they are written back (R276). -/
def State.loseDirty (s : State) (picked : CoreId → Copy → Bool) : State :=
  s.badCopies.foldl (fun (a : State) x =>
    match a.copyAt x.1 x.2 with
    | some c => if picked x.1 c && decide (c.dirty ≠ []) then a.lostDirty x.1 c else a
    | none => a) s

/-- The home recalls owned copies and invalidates tracked ones of some sectors in every core but `keep`
(R273): untracked copies are not known to it. -/
def State.recall (s : State) (secs : List Nat) (keep : Option CoreId) : State :=
  let taken (p : CoreId) (c : Copy) : Bool :=
    decide (some p ≠ keep) && decide (c.sector ∈ secs) && decide (c.kind ≠ .untracked)
  (s.loseDirty taken).mapCopies fun p cs => cs.filter fun c => !taken p c

/-- The write of a run of a copy's dirty bytes to the window it belongs to (R276). -/
def Copy.windowWrite (c : Copy) (p : CoreId) (x : Nat × Nat) : ExtReq :=
  let pa := 32 * c.sector + x.1
  ⟨.copies p, c.va + word x.1, pa, .write pa ((c.bytes.drop x.1).take x.2), none, false, none, none, []⟩

/-- Write back the dirty bytes of one copy (R273): an owned one's leave its value as it is, an untracked one's perform
as a .u store of those bytes, in the windows as writes to the host or the peer. -/
def State.writeBack (s : State) (p : CoreId) (c : Copy) : State :=
  if c.dirty = [] then s
  else if s.copyBad p c then
    let s1 := s.lostDirty p c
    s1.setCore p { s1.core p with copies := (s1.core p).copies.filter fun x => x.sector ≠ c.sector }
  else
    let s1 :=
      if c.kind ≠ .untracked then s
      else if 32 * c.sector < feBase then
        c.dirty.foldl (fun (a : State) d => a.homeWrite (32 * c.sector + d) [c.bytes.getD d 0])
          (s.recall (grainSectors (32 * c.sector) (s.grainAt (32 * c.sector) c.grain)) (some p))
      else { s with ext := s.ext ++ (runsOf c.dirty).map (c.windowWrite p) }
    s1.setCore p { s1.core p with
      copies := (s1.core p).copies.map fun x => if x.sector = c.sector then { x with dirty := [], ctx := none } else x }

/-- Write back the dirty bytes that core p holds in some sectors. -/
def State.writeBackOwn (s : State) (p : CoreId) (secs : List Nat) : State :=
  ((s.core p).copies.filter fun c => decide (c.sector ∈ secs)).foldl (fun a c => a.writeBack p c) s

/-- Drop core p's copies of some sectors. -/
def State.dropOwn (s : State) (p : CoreId) (secs : List Nat) : State :=
  s.setCore p { s.core p with copies := (s.core p).copies.filter fun c => !decide (c.sector ∈ secs) }

/-- The ways of the pool cache (R263, R271). -/
def Core.poolWays (c : Core) : List Nat := (List.range (c.poolC.toNat - c.poolS.toNat)).map (c.poolS.toNat + ·)

/-- Whether the accesses of a core may keep copies: it has cache ways (R271). -/
def Core.keeps (c : Core) : Bool := decide (c.poolS < c.poolC)

/-- Take sectors out of one of a core's caches: dirty bytes of those that no cache then holds are written back, and
these copies go (R273). `out` says what remains of each copy's places. -/
def State.leaveCache (s : State) (p : CoreId) (picked : Copy → Bool) (out : Copy → Copy) : State :=
  let gone (c : Copy) : Bool := picked c && !(out c).inScalar && (out c).way.isNone
  let s1 := ((s.core p).copies.filter gone).foldl (fun a c => a.writeBack p c) s
  s1.setCore p { s1.core p with
    copies := ((s1.core p).copies.filter fun c => !gone c).map fun c => if picked c then out c else c }

/-- Room in the scalar data cache of core p for a line of 128 bytes: 128 sets of 4 lines (R271). The line that was filled
first leaves a full set (assumption 9). -/
def State.scalarRoom (s : State) (p : CoreId) (line : Nat) : State :=
  let lines := (((s.core p).copies.filter fun c => c.inScalar && decide (c.sector / 4 % 128 = line % 128)).map
    fun (c : Copy) => c.sector / 4).dedup
  if line ∈ lines ∨ lines.length < 4 then s
  else match lines with
    | [] => s
    | old :: _ => s.leaveCache p (fun c => c.inScalar && decide (c.sector / 4 = old)) fun c => { c with inScalar := false }

/-- A way of the pool cache for a block of 512 bytes, with room made in its set of 2,048 (R271): the block that was
filled first leaves a full set (assumption 9). None without cache ways. -/
def State.poolRoom (s : State) (p : CoreId) (block : Nat) : Option Nat × State :=
  let here := (s.core p).copies.filter fun c => c.way.isSome && decide (c.sector / 16 % 2048 = block % 2048)
  match here.find? (fun c => c.sector / 16 = block) with
  | some c => (c.way, s)
  | none =>
    match (s.core p).poolWays.find? (fun w => !here.any fun c => decide (c.way = some w)) with
    | some w => (some w, s)
    | none =>
      match here with
      | [] => (none, s)
      | old :: _ =>
        (old.way, s.leaveCache p (fun c => c.way.isSome && decide (c.sector / 16 = old.sector / 16))
          fun c => { c with way := none })

/-- Give core p copies of a kind of some sectors of one grain, with their contents. A sector that the core holds already
is replaced. -/
def State.placeCopies (s : State) (p : CoreId) (vec : Bool) (pa grain : Nat) (k : CopyKind) (va : Word)
    (new : List (Nat × List Byte)) : State :=
  let lines := if vec then [] else (new.map fun (x : Nat × List Byte) => x.1 / 4).dedup
  let s1 := lines.foldl (fun (a : State) l => a.scalarRoom p l) s
  let (way, s2) := s1.poolRoom p (pa / 512)
  let secs := new.map fun (x : Nat × List Byte) => x.1
  let s3 := { s2 with badCopies := s2.badCopies.filter fun x => !(decide (x.1 = p) && decide (x.2 ∈ secs)) }
  s3.setCore p { s3.core p with
    copies := ((s3.core p).copies.filter fun c => !decide (c.sector ∈ secs)) ++ new.map fun (x : Nat × List Byte) =>
      ⟨x.1, k, x.2, [], s.gen, grain, !vec, way, none, va - word (pa % 32) + word (32 * x.1) - word (32 * (pa / 32)),
        s.badWords.filter fun y => decide (y / 4 = x.1)⟩ }

/-- Give core p copies of a kind of the sectors of a grain, holding what home holds: an untracked fill leaves the sectors
that the core holds as they are, a stronger one replaces them once their dirty bytes are written back (R273, R275). -/
def State.fillCopies (s : State) (p : CoreId) (vec : Bool) (pa grain : Nat) (k : CopyKind) : State :=
  let secs := grainSectors pa grain
  if k = .untracked then
    s.placeCopies p vec pa grain k 0 ((secs.filter fun n => (s.copyAt p n).isNone).map fun n =>
      (n, s.mem.read (32 * n) 32))
  else
    let s1 := s.writeBackOwn p secs
    s1.placeCopies p vec pa grain k 0 (secs.map fun n => (n, []))

/-- A core's use of its pool cache by a vector access to a sector that only its scalar cache holds (R271). -/
def State.intoPool (s : State) (p : CoreId) (pa : Nat) : State :=
  let (way, s1) := s.poolRoom p (pa / 512)
  s1.setCore p { s1.core p with
    copies := (s1.core p).copies.map fun c => if c.sector = pa / 32 then { c with way := way } else c }

/-- A hit of a copy: a vector access brings one that only the scalar cache holds into the pool cache (R271). -/
def State.useCopy (s : State) (p : CoreId) (vec : Bool) (pa : Nat) (c : Copy) : State :=
  if vec && c.way.isNone then s.intoPool p pa else s

/-- The request type as a core performs it: without cache ways at home (R271; assumption 9), in the windows as .s (R276), and
in sealed memory for an untracked copy (R277). -/
def State.reqAt (s : State) (p : CoreId) (pa : Nat) (req : Req) : Req :=
  if req = .u ∨ !(s.core p).keeps then .u
  else if feBase ≤ pa ∨ s.isSealed pa then .s else req

/-- The copy of core p's own that a load is served from: of any kind for an .s load, of a tracked kind for an .o or .w one
(R273). -/
def State.loadHit (s : State) (p : CoreId) (pa : Nat) (req : Req) : Option Copy :=
  match s.copyAt p (pa / 32) with
  | none => none
  | some c =>
    if s.reqAt p pa req = .u then none
    else if c.kind = .untracked ∧ req ≠ .s ∧ pa < feBase then none
    else some c

/-- Whether a copy of core p's holds an uncorrectable error in n bytes from an address (R276). -/
def State.copyFails (s : State) (p : CoreId) (c : Copy) (pa n : Nat) : Bool :=
  s.copyBad p c || c.bad.any fun w => decide (pa / 8 ≤ w ∧ w ≤ (pa + n - 1) / 8)

/-- Whether a load of core p meets an uncorrectable error (R276, R287): in the dirty copy that serves it, else at home or in
dirty data that the load's request brings there. -/
def State.isBadFor (s : State) (p : CoreId) (pa n : Nat) (req : Req) : Bool :=
  match (s.loadHit p pa req).filter fun c => !s.copyFails p c pa n || decide (c.dirty ≠ []) with
  | some c => s.copyFails p c pa n
  | none => s.isBad pa n || s.badCopies.any fun x => decide (x.1 = p ∧ pa / 32 ≤ x.2 ∧ x.2 ≤ (pa + n - 1) / 32) &&
    (s.core p).copies.any fun c => decide (c.sector = x.2 ∧ c.dirty ≠ [])

/-- Drop a clean copy that holds an uncorrectable error, which is then fetched again (R276). -/
def State.refetch (s : State) (p : CoreId) (pa n : Nat) : State :=
  match s.copyAt p (pa / 32) with
  | some c => if s.copyFails p c pa n && decide (c.dirty = []) then s.dropOwn p [pa / 32] else s
  | none => s

/-- Owned copies of some sectors in other cores become tracked ones, their dirty data written back (R273). -/
def State.downgrade (s : State) (p : CoreId) (secs : List Nat) : State :=
  let taken (q : CoreId) (c : Copy) : Bool := decide (q ≠ p) && decide (c.sector ∈ secs) && decide (c.kind = .owned)
  (s.loseDirty taken).mapCopies fun q cs => cs.map fun c =>
    if taken q c then { c with kind := .tracked, dirty := [], bytes := [], ctx := none } else c

/-! ### Combining stores -/

/-- The unit that is an address's home for atomics (R346): a memory port's, or a waystation's for a scratchpad. -/
def unitOf (pa : Nat) : Nat :=
  match region pa with
  | .spad p _ => 768 + p.val
  | _ => Config.memoryPort (pa / 256) % 768

/-- A word of HBM or of a scratchpad takes a value back. -/
def State.restoreWord (s : State) (pa : Nat) (w : Word) : State :=
  match region pa with
  | .spad p off =>
    match (s.core p).spadPlace off with
    | some place => s.setCore p { s.core p with spad := (s.core p).spad.write place (leBytes 8 w.toNat) }
    | none => s
  | _ => { s with mem := s.mem.write pa (leBytes 8 w.toNat) }

/-- The core whose scratchpad an address is in; core 0 for HBM. -/
def coreAt (pa : Nat) : CoreId := match region pa with | .spad p _ => p | _ => 0

/-- A resident word is written back and leaves its store (R347). With an uncorrectable error in it the home keeps what it
held before (R401 kind 2; assumption 63). -/
def State.combOut (s : State) (x : CombEntry) : State :=
  let s1 := { s with comb := s.comb.filter fun y => y.pa ≠ x.pa }
  match x.bad, x.former with
  | true, some f =>
    let pa := 8 * x.pa
    let s2 := (s1.restoreWord pa f).machineCheck 2 x.ctx (coreAt pa) none 0 (word pa) 0
    match x.ctx with
    | some c => s2.abortCtx c s.mcCount
    | none => s2
  | _, _ => s1

/-- An ordinary access to some sectors: the words resident there are written back first (R347). -/
def State.combSettle (s : State) (secs : List Nat) : State :=
  (s.comb.filter fun x => x.resident && decide (x.pa / 4 ∈ secs)).foldl (fun (a : State) x => a.combOut x) s

/-- Room in the store of 64 entries of an address's unit (R347): the least recently used idle entry of a full one is written
back. None where every entry is busy. -/
def State.combRoom (s : State) (pa : Nat) : Option State :=
  let here := s.comb.filter fun x => decide (unitOf (8 * x.pa) = unitOf pa)
  if here.length < 64 then some s
  else (here.find? fun x => x.resident).map fun x => s.combOut x

/-- The state in which an atomic to a word may be applied at once (R347): the word is resident, or an entry takes it in and
its fetch is complete. None while the entry is busy, the store has no room, or an earlier request for the word waits. -/
def State.combReady (s : State) (pa : Nat) : Option State :=
  if s.combWait.any fun r => decide (r.pa / 8 = pa / 8) then none
  else match s.comb.find? fun x => decide (x.pa = pa / 8) with
    | some x => if x.resident then some s else none
    | none => (s.combRoom pa).map fun a => { a with comb := a.comb ++ [⟨pa / 8, true, [], none, false, none⟩] }

/-- A request joins what waits for its word (R347): the chain of an entry whose fetch is outstanding, a new entry, or, with
no room there, the requests that wait at the unit. -/
def State.combJoin (s : State) (r : AtomicReq) : State :=
  let later := { s with combWait := s.combWait ++ [r] }
  if s.combWait.any fun x => decide (x.pa / 8 = r.pa / 8) then later
  else match s.comb.find? fun x => decide (x.pa = r.pa / 8) with
    | some x =>
      if x.resident || decide (32 ≤ x.chain.length) then later
      else { s with comb := s.comb.map fun y => if y.pa = x.pa then { y with chain := y.chain ++ [r] } else y }
    | none => match s.combRoom r.pa with
      | some a => { a with comb := a.comb ++ [⟨r.pa / 8, false, [r], none, false, none⟩] }
      | none => later

/-- A resident word has taken an atomic (R347): its entry is the one used last, and keeps what the home holds. -/
def State.combUsed (s : State) (pa : Nat) (old : Word) (c : Option CtxId) : State :=
  match s.comb.find? fun x => decide (x.pa = pa / 8) with
  | none => s
  | some x => { s with comb := (s.comb.filter fun y => y.pa ≠ x.pa) ++ [{ x with
      former := some (x.former.getD old), ctx := c }] }

/-- Read n bytes of HBM within one sector for core p under a request type (R271, R273, R277), for a scalar or a vector
access. An .o or .w load of sealed memory fetches an untracked copy anew: one that the core holds may be of before the seal
(R277, R335). -/
def State.loadHbm (s0 : State) (p : CoreId) (pa n pageGrain : Nat) (req0 : Req) (vec : Bool) :
    List Byte × State :=
  let s := s0.refetch p pa n
  let grain := s.grainAt pa pageGrain
  let secs := grainSectors pa grain
  match s.loadHit p pa req0, s.reqAt p pa req0 with
  | some c, _ =>
    let s1 := s.useCopy p vec pa c
    (if c.kind = .untracked then (c.bytes.drop (pa % 32)).take n else s1.mem.read pa n, s1)
  | none, .u =>
    let s1 := (s.combSettle secs).writeBackOwn p secs
    (s1.mem.read pa n, s1)
  | none, .s =>
    let s1 := s.combSettle secs
    let s2 := if req0 = .s then s1 else (s1.writeBackOwn p secs).dropOwn p secs
    (s2.mem.read pa n, s2.fillCopies p vec pa grain .untracked)
  | none, _ =>
    let s1 := ((((s.recordGrain pa pageGrain).combSettle secs).writeBackOwn p secs).downgrade p secs).fillCopies p vec pa grain .tracked
    (s1.mem.read pa n, s1)

/-- Replace bytes of a list from a place. -/
def patch (l : List Byte) (o : Nat) (bs : List Byte) : List Byte := l.take o ++ bs ++ l.drop (o + bs.length)

/-- A copy of the sector at pa with bytes written into it, and marked dirty: an untracked one's contents change, an owned
one keeps for its dirty bytes what the home held before (`old` is what it holds now). -/
def Copy.dirtied (c : Copy) (who : Option CtxId) (gen : Bool) (old : List Byte) (pa : Nat) (bytes : List Byte)
    (va : Word) : Copy :=
  let places := (List.range bytes.length).map (pa % 32 + ·)
  let dirty := places.foldl (fun (d : List Nat) k => insertNat k d) c.dirty
  let bad := c.bad.filter fun w => !decide (pa ≤ w * 8 ∧ w * 8 + 8 ≤ pa + bytes.length)
  if c.sector ≠ pa / 32 then c
  else if c.kind = .untracked then
    { c with bytes := patch c.bytes (pa % 32) bytes, dirty := dirty, ctx := who, va := va, bad := bad }
  else
    { c with bytes := (List.range 32).map (fun k => if k ∈ c.dirty then c.bytes.getD k 0 else old.getD k 0),
             dirty := dirty, gen := gen, ctx := who, bad := bad }

/-- Bytes written into core p's own copy of a sector, and marked dirty. -/
def State.putCopy (s : State) (p : CoreId) (pa : Nat) (bytes : List Byte) (va : Word) : State :=
  let old := s.mem.read (pa / 32 * 32) 32
  s.setCore p { s.core p with copies := (s.core p).copies.map (fun c => c.dirtied (s.core p).serves s.gen old pa bytes va) }

/-- Before the first store into an owned block of the earlier generation, the block is written back through its home, which
copies it to the active snapshot; it then takes the new generation (R326). -/
def State.newGeneration (s : State) (p : CoreId) (block : Nat) : State :=
  let old (c : Copy) : Bool := decide (c.sector / 16 = block ∧ c.kind = .owned ∧ c.gen ≠ s.gen)
  let l := (s.core p).copies.filter old
  if l = [] then s
  else
    let s1 := l.foldl (fun (a : State) c => a.writeBack p c) (s.snapBlock block)
    s1.setCore p { s1.core p with copies := (s1.core p).copies.map fun c => if old c then { c with gen := s.gen } else c }

/-- Bytes of a store that performs in core p's owned copy (R273, R326). -/
def State.storeOwned (s : State) (p : CoreId) (pa : Nat) (bytes : List Byte) : State :=
  ((s.newGeneration p (pa / 512)).putCopy p pa bytes 0).homeWrite pa bytes

/-- Write bytes within one sector of HBM for core p under a request type (R273, R334), for a scalar or a vector
access. An .s store leaves a tracked copy untracked (assumption 90). -/
def State.storeHbm (s : State) (p : CoreId) (pa : Nat) (bytes : List Byte) (pageGrain : Nat) (req : Req)
    (vec : Bool) : State :=
  let grain := s.grainAt pa pageGrain
  let secs := grainSectors pa grain
  let own : State :=
    (((((((s.recordGrain pa pageGrain).combSettle secs).writeBackOwn p secs).recall secs (some p)).fillCopies p vec pa grain
      .owned)).storeOwned p pa bytes)
  match (if (s.core p).keeps then req else Req.u) with
  | .u => (((((s.combSettle secs).writeBackOwn p secs).dropOwn p secs).recall secs none).homeWrite pa bytes)
  | .w =>
    let s1 := (((s.combSettle secs).writeBackOwn p secs).recall secs (some p)).homeWrite pa bytes
    s1.setCore p { s1.core p with
     copies := (s1.core p).copies.filterMap fun c =>
      if c.sector ∈ secs ∧ c.kind = .owned then none
      else if c.sector = pa / 32 ∧ c.kind = .untracked then some { c with bytes := patch c.bytes (pa % 32) bytes }
      else some c }
  | .o =>
    match s.copyAt p (pa / 32) with
    | some c => if c.kind = .owned then (s.useCopy p vec pa c).storeOwned p pa bytes else own
    | none => own
  | .s =>
    match s.copyAt p (pa / 32) with
    | some c =>
      let s0 := s.useCopy p vec pa c
      if c.kind = .owned then s0.storeOwned p pa bytes
      else
        let s1 := s0.setCore p { s0.core p with
          copies := (s0.core p).copies.map fun x =>
            if x.sector = pa / 32 ∧ x.kind ≠ .untracked then
              { x with kind := .untracked, bytes := s.mem.read (pa / 32 * 32) 32, dirty := [] } else x }
        s1.putCopy p pa bytes 0
    | none => ((s.combSettle secs).fillCopies p vec pa grain .untracked).putCopy p pa bytes 0

/-- Before an atomic of core p: its own copies of the grain are written back and invalidated, other cores' tracked ones
recalled (R273, R292, R346). -/
def State.prepareAtomic (s : State) (p : CoreId) (pa grain : Nat) : State :=
  let secs := grainSectors pa (s.grainAt pa grain)
  ((s.writeBackOwn p secs).dropOwn p secs).recall secs none

/-- The same before a full/empty operation or a sub-byte merge, which the words in combining stores precede (R270, R305,
R347). -/
def State.prepareHome (s : State) (p : CoreId) (pa grain : Nat) : State :=
  (s.combSettle (grainSectors pa (s.grainAt pa grain))).prepareAtomic p pa grain

/-- Copy actions of an acquire (R274). -/
def State.acquire (s : State) (p : CoreId) (sc : Scope) : State :=
  if sc = .strand then s else
  s.setCore p { s.core p with
    copies := (s.core p).copies.filter fun c => !(decide (c.kind = .untracked) && decide (c.dirty = [])) }

/-- Copy actions of a release (R274): the dirty untracked bytes are written back. -/
def State.releaseCopies (s : State) (p : CoreId) (sc : Scope) : State :=
  match sc with
  | .strand | .core => s
  | _ => ((s.core p).copies.filter fun c => decide (c.kind = .untracked)).foldl (fun a c => a.writeBack p c) s

/-- Whether core p holds dirty data of the windows, or has write-backs outstanding there. -/
def State.windowDirty (s : State) (p : CoreId) : Bool :=
  ((s.core p).copies.any fun c => decide (feBase ≤ 32 * c.sector) && decide (c.dirty ≠ [])) ||
    s.ext.any fun e => decide (e.who = .copies p)

/-! ### Raw accesses at home -/

/-- Bytes at a physical address of HBM or of a scratchpad, read at home (.u) by an agent that holds no copy. -/
def State.peekHome (s : State) (pa n : Nat) : List Byte :=
  match region pa with
  | .spad p off =>
    match (s.core p).spadPlace off with
    | some place => (s.core p).spad.read place n
    | none => List.replicate n 0
  | _ => s.mem.read pa n

/-- A 64-bit word read at home. -/
def State.homeWord (s : State) (pa : Nat) : Word := word (fromLe (s.peekHome pa 8))

/-- The sectors of the grains that n bytes of HBM from an address meet, for an agent that knows no page's grain. -/
def State.homeSectors (s : State) (a n : Nat) : List Nat :=
  ((List.range ((a + n - 1) / 32 + 1 - a / 32)).flatMap fun k =>
    grainSectors (32 * (a / 32 + k)) (s.grainAt (32 * (a / 32 + k)) 32)).dedup

/-- Bytes perform at their home, in HBM or in a scratchpad; a word written whole loses its error. -/
def State.putHome (s : State) (pa : Nat) (bytes : List Byte) : State :=
  match region pa with
  | .spad p off =>
    match (s.core p).spadPlace off with
    | some place =>
      { s.setCore p { s.core p with spad := (s.core p).spad.write place bytes } with
        watches := s.wakeWatches pa bytes.length
        badWords := s.badWords.filter fun w => !decide (pa ≤ w * 8 ∧ w * 8 + 8 ≤ pa + bytes.length) }
    | none => s
  | .hbm a => s.homeWrite a bytes
  | _ => s

/-- Write bytes at home as a .u store by an agent that holds no copy. -/
def State.pokeHome (s : State) (pa : Nat) (bytes : List Byte) : State :=
  let secs := s.homeSectors pa bytes.length
  let s1 := s.combSettle secs
  (match region pa with
    | .hbm _ => s1.recall secs none
    | _ => s1).putHome pa bytes

/-- Write a 64-bit word at home. -/
def State.pokeWord (s : State) (pa : Nat) (v : Word) : State := s.pokeHome pa (leBytes 8 v.toNat)

/-- The byte and bit of the full/empty store for an HBM word (R270). -/
def fePlace (pa : Nat) : Nat × Nat := (feBase + pa / 64, pa / 8 % 8)

/-- Whether the word at a physical address is full (R268, R270). -/
def State.isFull (s : State) (pa : Nat) : Bool :=
  match region pa with
  | .spad p off =>
    match (s.core p).spadPlace off with
    | some place => decide (place / 8 ∈ (s.core p).spadFull)
    | none => false
  | _ => !(s.mem.get (fePlace pa).1).getLsbD (fePlace pa).2

/-- Set the full/empty bit of the word at a physical address. -/
def State.setFull (s : State) (pa : Nat) (full : Bool) : State :=
  match region pa with
  | .spad p off =>
    match (s.core p).spadPlace off with
    | some place => s.setCore p { s.core p with
        spadFull := if full then insertNat (place / 8) (s.core p).spadFull
          else (s.core p).spadFull.filter (· ≠ place / 8) }
    | none => s
  | _ =>
    let b := s.mem.get (fePlace pa).1
    let m : Byte := BitVec.ofNat 8 (2 ^ (fePlace pa).2)
    { s with mem := s.mem.set (fePlace pa).1 (if full then b &&& ~~~m else b ||| m) }

/-! ### Accesses beyond the package -/

/-- A scalar or vector access of core p to the host window or a peer window (R276, R429): `plain` ones go to the window's
interface as they are, once the core's own copy of the grain is written back, the others perform as .s on the core's
untracked copies. Answers the bytes of a load, or
nothing more of a store, that a copy serves at once; else a request is outstanding. -/
def State.windowAccess (s : State) (p : CoreId) (vec : Bool) (who : Requester) (va : Word) (pa n grain : Nat)
    (plain : Bool) (store : Option (List Byte)) (rd : Option (BitVec 5 × Size)) (relaxed : Bool) :
    Option (List Byte) × State :=
  let direct := plain || !(s.core p).keeps
  if direct then
    let secs := grainSectors pa grain
    let s1 := s.writeBackOwn p secs
    match store with
    | some bs =>
      let s2 := s1.dropOwn p secs
      (none, { s2 with ext := s2.ext ++ [ExtReq.mk who va pa (.write pa bs) rd relaxed none none []] })
    | none => (none, { s1 with ext := s1.ext ++ [ExtReq.mk who va pa (.read pa n) rd relaxed none none []] })
  else
    let s := s.refetch p pa n
    match s.copyAt p (pa / 32) with
    | some c =>
      let s1 := s.useCopy p vec pa c
      match store with
      | some bs => (some [], s1.putCopy p pa bs va)
      | none => (some ((c.bytes.drop (pa % 32)).take n), s1)
    | none =>
      (none, { s with ext := s.ext ++ [ExtReq.mk who va pa (.read (pa / grain * grain) grain) rd relaxed none
        (some grain) (store.getD [])] })

/-- What the answer to a request with a fill does in the requester's core (R273, R276): untracked copies of the grain's
sectors that the core does not hold, and the bytes of a store. Answers the bytes at the place asked for. -/
def State.windowFill (s : State) (p : CoreId) (vec : Bool) (e : ExtReq) (grain n : Nat) (data : List Byte) :
    List Byte × State :=
  let base := e.pa / grain * grain
  let full := data.take grain ++ List.replicate (grain - data.length) 0
  let new := ((grainSectors e.pa grain).filter fun k => (s.copyAt p k).isNone).map fun k =>
    (k, (full.drop (32 * k - base)).take 32)
  let s1 := s.placeCopies p vec e.pa grain .untracked e.va new
  let s2 := if e.put = [] then s1 else s1.putCopy p e.pa e.put e.va
  (match s2.copyAt p (e.pa / 32) with
    | some c => (c.bytes.drop (e.pa % 32)).take n
    | none => (full.drop (e.pa - base)).take n, s2)

/-! ### Translation -/

/-- The page size of a leaf code, with the level it belongs to (R281). -/
def pageSize (code : Nat) : Option (Nat × Nat) :=
  match code with
  | 0 => some (2 ^ 12, 0) | 1 => some (2 ^ 14, 0) | 2 => some (2 ^ 16, 0) | 3 => some (2 ^ 18, 0)
  | 4 => some (2 ^ 20, 0) | 5 => some (2 ^ 21, 1) | 6 => some (2 ^ 22, 1) | 7 => some (2 ^ 24, 1)
  | 8 => some (2 ^ 26, 1) | 9 => some (2 ^ 28, 1) | 10 => some (2 ^ 30, 2) | 11 => some (2 ^ 32, 2)
  | 12 => some (2 ^ 34, 2)
  | _ => none

/-- Whether a frame lies in the physical map and outside the full/empty store (R282). -/
def frameOk (f : Nat) : Bool :=
  match region f with
  | .nowhere | .feStore _ => false
  | _ => true

/-- What one page-table entry says at a level: a fault, a leaf, or the next node (R280, R282). -/
def pteStep (c : CtxId) (va level : Nat) (e : Word) : Except Cause (Sum TlbEntry Nat) :=
  let frame := 4096 * field e 51 12
  if !bit e 0 then .error .pageFault
  else if bit e 6 then
    if 3 ≤ level then .error .pageFault
    else match pageSize (field e 11 8) with
      | none => .error .pageFault
      | some (size, lv) =>
        if bit e 7 || lv != level || field e 5 4 == 3 || frame % size != 0 then .error .pageFault
        else if !frameOk frame then .error .access
        else .ok (.inl ⟨none, c, va / size * size, size, frame,
          (match field e 5 4 with | 0 => 32 | 1 => 128 | _ => 512), bit e 3, bit e 1, bit e 2⟩)
  else if level = 0 || bit e 7 || field e 11 8 != 0 || field e 5 4 != 0 || bit e 3 then .error .pageFault
  else if !frameOk frame then .error .access
  else .ok (.inr frame)

/-- A page-table entry read at home, as a .u load of core p (R280). One beyond the package is asked for and held once it has come,
as long as it is valid (R283; assumption 7); one in MMIO control space or in a scratchpad that the context may not read is
refused (R267, R278). -/
def State.pteAt (s : State) (p : CoreId) (c : CtxId) (pa : Nat) : Except Cause Word × State :=
  match region pa with
  | .hbm _ =>
    if s.isBad pa 8 then (.error .memUncorrectable, s)
    else
      let secs := grainSectors pa (s.grainAt pa 32)
      let s1 := (s.combSettle secs).writeBackOwn p secs
      (.ok (word (s1.mem.num pa 8)), s1)
  | .spad q off =>
    if (s.spadFor c q off).isNone then (.error .access, s)
    else if s.isBad pa 8 then (.error .memUncorrectable, s) else (.ok (s.homeWord pa), s)
  | .host _ | .peer _ _ =>
    let k := s.core p
    match k.tables.find? fun (x : Nat × BusStatus × Word) => x.1 = pa with
    | some (_, .ok, w) =>
      (.ok w, if bit w 0 then s
        else s.setCore p { k with tables := k.tables.filter fun (x : Nat × BusStatus × Word) => x.1 ≠ pa })
    | some (_, st, _) =>
      (.error (if st = .memError then .memUncorrectable else .access),
        s.setCore p { k with tables := k.tables.filter fun (x : Nat × BusStatus × Word) => x.1 ≠ pa })
    | none =>
      (.error .await,
        if s.ext.any fun (e : ExtReq) => decide (e.who = .walker p ∧ e.pa = pa) then s
        else { s with ext := s.ext ++ [ExtReq.mk (.walker p) 0 pa (.read pa 8) none false none none []] })
  | _ => (.error .access, s)

/-- A walk of core p down to a leaf (R279, R282): the levels left, and the node. Entries of intermediate nodes that the
walker holds are used, and those read are held (R283). -/
def State.walk (s : State) (p : CoreId) (c : CtxId) (va : Nat) : Nat → Nat → Except Cause TlbEntry × State
  | 0, _ => (.error .pageFault, s)
  | level + 1, node =>
    let index := va >>> (12 + 9 * level)
    match (s.core p).nodes.find? fun e => decide (e.ctx = c ∧ e.level = level ∧ e.index = index) with
    | some e => s.walk p c va level e.node
    | none =>
      match s.pteAt p c (node + 8 * (index % 512)) with
      | (.error x, s1) => (.error x, s1)
      | (.ok e, s1) =>
        match pteStep c va level e with
        | .error x => (.error x, s1)
        | .ok (.inl x) => (.ok x, s1)
        | .ok (.inr next) =>
          (s1.setCore p { s1.core p with nodes := ⟨c, level, index, next⟩ :: (s1.core p).nodes }).walk p c va level next

/-- A list of translations with one more, of 128 in the core's TLB and 32 in each array's bank: the one held longest
leaves a full one (R283; assumption 9). -/
def holdEntry (l : List TlbEntry) (e : TlbEntry) : List TlbEntry :=
  e :: (l.filter fun x => x.bank = e.bank).take (if e.bank.isNone then 127 else 31) ++ l.filter fun x => x.bank ≠ e.bank

/-- The translation of a virtual address in context c through the tables rooted at a node: an entry held in the core's TLB
or in an array's bank if there is one, else a walk that is then held (R283, R284). -/
def State.lookup (s : State) (p : CoreId) (c : CtxId) (root : Nat) (va : Word) (bank : Option ArrayId := none) :
    Except Cause TlbEntry × State :=
  if bit va 63 || field va 63 56 ≠ 0 then (.error .pageFault, s)
  else
    match (s.core p).tlb.find? (fun e => decide (e.bank = bank ∧ e.ctx = c ∧ e.base ≤ va.toNat ∧
        va.toNat < e.base + e.size)) with
    | some e => (.ok e, s)
    | none =>
      if 256 ≤ field va 55 48 then (.error .pageFault, s)
      else match s.walk p c va.toNat 5 root with
        | (.error x, s1) => (.error x, s1)
        | (.ok e, s1) =>
          (.ok { e with bank := bank }, s1.setCore p { s1.core p with tlb := holdEntry (s1.core p).tlb { e with bank := bank } })

/-- The kinds of access that R287 distinguishes. -/
inductive Acc
  | read
  | write
  | atomic
  | peek
  | change
deriving DecidableEq, Repr

/-- Whether an access writes the word or changes its bit (R282, R287). -/
def Acc.writes : Acc → Bool
  | .read | .peek => false
  | _ => true

/-- Whether an access reads, needing R: a plain store does not. -/
def Acc.reads : Acc → Bool
  | .write => false
  | _ => true

/-- A checked address: physical address, page class and grain. -/
structure Place where
  pa : Nat
  dev : Bool
  grain : Nat
deriving DecidableEq, Repr

/-- Checks 2 to 5 of R287 for context c of core p at some level. `vec` says a vector access (R304, R349), `bank` the TLB
bank of an indexed one (R284), `narrow` an element of less than 8 bits, which a DEV-class page does not take (R304). -/
def State.place (s : State) (p : CoreId) (c : CtxId) (runtime vec : Bool) (va : Word) (size : Nat)
    (k : Acc) (bank : Option ArrayId := none) (narrow : Bool := false) : Except Cause Place × State :=
  match s.lookup p c (s.core p).ptroot va bank with
  | (.error x, s1) => (.error x, s1)
  | (.ok e, s1) =>
    let pa := e.frame + (va.toNat - e.base)
    let fe := decide (k = .peek ∨ k = .change)
    let mapOk := match region pa with
      | .nowhere | .feStore _ => false
      | .mmio _ => e.dev && runtime && !vec && decide (size = 8) && decide (k = .read ∨ k = .write)
      | .spad q off => (s.spadFor c q off).isSome && !(e.dev && decide (k = .atomic ∨ fe))
      | .host _ => !fe && !(e.dev && decide (k = .atomic)) && !(vec && decide (k = .atomic))
      | .peer d off => !fe && !(e.dev && decide (k = .atomic)) && decide (d ≠ s.devnum) &&
          (decide (off < feBase) || decide (2 ^ 39 ≤ off ∧ off < 2 ^ 39 + 384 * 2 ^ 24))
      | .hbm _ => !(e.dev && decide (k = .atomic ∨ fe))
    if !mapOk || (narrow && e.dev) then (.error .access, s1)
    else if (k.reads && !e.canRead) || (k.writes && !e.canWrite) then (.error .access, s1)
    else if k.writes && (s.inArena pa || s.isSealed pa) then (.error .sealedStore, s1)
    else (.ok ⟨pa, e.dev, e.grain⟩, s1)

/-- All checks of R287 of the acting strand for a scalar access. -/
def State.check (s : State) (va : Word) (size : Nat) (k : Acc) : Except Cause Place × State :=
  if va.toNat % size ≠ 0 then (.error .align, s)
  else s.place s.cur s.myCtx s.isRuntime false va size k

/-! ### Ordering -/

/-- The bytes of a relaxed access. -/
def RelaxedAcc.length (a : RelaxedAcc) : Nat := match a.size with | .b => 1 | .h => 2 | .w => 4 | .d => 8

/-- Perform one relaxed access of a strand (R288). -/
def State.performRelaxed (s : State) (p : CoreId) (t : StrandId) (a : RelaxedAcc) : State :=
  let n := a.length
  let bytes := leBytes n a.data.toNat
  let fail (x : State) : State :=
    x.setStrand p t { x.strand p t with poisoned := (a.r, a.va, 11) :: (x.strand p t).poisoned }
  let got (x : State) (bs : List Byte) : State :=
    x.setStrand p t ((x.strand p t).withX a.r (sextTo64 (8 * n) (fromLe bs)))
  match region a.pa with
  | .hbm _ =>
    if a.isStore then s.storeHbm p a.pa bytes a.grain (if a.dev then .u else a.req) false
    else if s.isBadFor p a.pa n (if a.dev then .u else a.req) then fail s
    else
      let (bs, s1) := s.loadHbm p a.pa n a.grain (if a.dev then .u else a.req) false
      got s1 bs
  | .host _ | .peer _ _ =>
    if !a.isStore && s.isBadFor p a.pa n (if a.dev then .u else a.req) then fail s
    else match s.windowAccess p false (.scalar p t) a.va a.pa n a.grain (a.dev || decide (a.req = .u))
        (if a.isStore then some bytes else none) (if a.isStore then none else some (a.r, a.size)) true with
    | (some bs, s1) => if a.isStore then s1 else got s1 bs
    | (none, s1) => s1
  | _ =>
    if a.isStore then s.pokeHome a.pa bytes
    else if s.isBad a.pa n then fail s
    else got s (s.peekHome a.pa n)

/-- Perform every relaxed access of a strand, oldest first. -/
def State.drainRelaxed (s : State) (p : CoreId) (t : StrandId) : State :=
  let l := (s.strand p t).relaxed
  let s0 := s.setStrand p t { s.strand p t with relaxed := [] }
  l.foldl (fun a r => a.performRelaxed p t r) s0

/-- Whether a relaxed access touches any of n bytes from an address. -/
def RelaxedAcc.meets (a : RelaxedAcc) (pa n : Nat) : Bool :=
  decide (a.pa < pa + n) && decide (pa < a.pa + a.length)

/-- Perform a strand's relaxed accesses to some bytes, which a later access to them may not pass (R339). -/
def State.performSame (s : State) (p : CoreId) (t : StrandId) (pa n : Nat) : State :=
  let l := (s.strand p t).relaxed
  if l.any fun (a : RelaxedAcc) => a.meets pa n then
    (l.filter fun (a : RelaxedAcc) => a.meets pa n).foldl (fun x r => x.performRelaxed p t r)
      (s.setStrand p t { s.strand p t with relaxed := l.filter fun (a : RelaxedAcc) => !a.meets pa n })
  else s

/-- A release of the acting strand at a scope: its relaxed accesses perform, then the copy actions (R274, R288). -/
def State.release (s : State) (sc : Scope) : State :=
  (s.drainRelaxed s.cur s.str).releaseCopies s.cur sc

/-- An acquire of the acting strand at a scope. -/
def State.acquireAt (s : State) (sc : Scope) : State := s.acquire s.cur sc

/-- Whether relaxed requests of a strand still wait beyond the package. -/
def State.extRelaxed (s : State) (p : CoreId) (t : StrandId) : Bool :=
  s.ext.any fun e => decide (e.who = .scalar p t) && e.relaxed

/-! ### Set the pending-event latch -/

/-- Set a strand's pending-event latch (R158): WFE and the other parking instructions test again. -/
def State.setLatch (s : State) (p : CoreId) (t : StrandId) : State :=
  if (s.strand p t).halted then s else s.setStrand p t { s.strand p t with latch := true }

end Sys2Proof.Machine
end

