-- ==== Sys2Proof/Machine/Lanes.lean ====
section
/-! DEFINITION. The lane allocator (R40, R105, R106), LANEPART (R107) and power allowance (R173). -/

namespace Sys2Proof.Machine

/-- The use an array is in, none when it is free or wholly its cluster owner's. -/
def Core.useOf (c : Core) (a : ArrayId) : Option ArrayUse := (c.uses.find? (fun u => u.1 = a)).map (·.2)

/-- The strand that holds a cluster whole. -/
def Core.ownerOf (c : Core) (k : Nat) : Option StrandId := (c.whole.find? (fun u => u.1 = k)).map (·.2)

/-- Whether a strand is the borrower or user that an array's record names. -/
def ArrayUse.user : ArrayUse → Option StrandId
  | .short t | .lending t | .leaving t => some t
  | .returned => none

/-- Clusters of the compute ways (R105). -/
def Core.clusters (c : Core) : List Nat := List.range (4 * c.poolV.toNat)

/-- The four arrays of a cluster. -/
def clusterArrays (k : Nat) : List ArrayId := [4 * k, 4 * k + 1, 4 * k + 2, 4 * k + 3]

/-- A cluster not held whole with at least one array in use. -/
def Core.isPacked (c : Core) (k : Nat) : Bool :=
  (c.ownerOf k).isNone && (clusterArrays k).any fun a => (c.useOf a).isSome

/-- A cluster not held whole with no array in use. -/
def Core.isFreeCluster (c : Core) (k : Nat) : Bool :=
  (c.ownerOf k).isNone && (clusterArrays k).all fun a => (c.useOf a).isNone

/-- Arrays of a strand's whole clusters that are in no other use (R106). -/
def Core.unlent (c : Core) (t : StrandId) : List ArrayId :=
  (c.clusters.filter fun k => c.ownerOf k = some t).flatMap fun k =>
    (clusterArrays k).filter fun a => (c.useOf a).isNone

/-- The array that serves a short request at once (R105): the lowest free one of the lowest packed cluster that
has one, else the first of the lowest free cluster. -/
def Core.shortArray (c : Core) : Option ArrayId :=
  match (c.clusters.filter c.isPacked).flatMap (fun k => (clusterArrays k).filter fun a => (c.useOf a).isNone) with
  | a :: _ => some a
  | [] => (c.clusters.find? c.isFreeCluster).map (4 * ·)

/-- The array to lend (R106): the highest unlent one of the cluster whose owner keeps the most, the lowest
cluster on a tie, and never the owner's last. -/
def Core.loanArray (c : Core) : Option ArrayId :=
  let cand := c.clusters.filterMap fun k =>
    match c.ownerOf k with
    | none => none
    | some t =>
      match ((clusterArrays k).filter fun a => (c.useOf a).isNone).getLast? with
      | none => none
      | some a => if 2 ≤ (c.unlent t).length then some ((c.unlent t).length, a) else none
  (cand.foldl (fun (b : Option (Nat × ArrayId)) x =>
    match b with
    | none => some x
    | some y => if y.1 < x.1 then some x else some y) none).map (·.2)

/-- Give a strand lanes of a class (R105, R171). -/
def Strand.grant (st : Strand) (k : LaneClass) (part : List ArrayId) : Strand :=
  { st with cls := k, part := part, vlen := 0,
            wait := if st.wait = some .lanes then none else st.wait }

/-- Serve the oldest lane request of a core, if it can be served (R105, R106). -/
def Core.grantOne (c : Core) (longcl : Nat) : Core :=
  match c.laneReqs with
  | [] => c
  | (t, k) :: rest =>
    let st := c.strands[t]
    match k with
    | .noLanes => { c with laneReqs := rest }
    | .short =>
      match c.shortArray with
      | some a => { c with
          laneReqs := rest, uses := c.uses ++ [(a, .short t)],
          strands := c.strands.set t (st.grant .short [a]) }
      | none =>
        match c.loanArray with
        | some a => { c with laneReqs := rest, uses := c.uses ++ [(a, .lending t)] }
        | none => c
    | .long =>
      match (c.clusters.filter c.isFreeCluster).take (longcl + 1) with
      | [] => c
      | ks => { c with
          laneReqs := rest, whole := c.whole ++ ks.map fun k => (k, t),
          strands := c.strands.set t (st.grant .long (ks.flatMap clusterArrays)) }

/-- Loans of some arrays take effect: the borrowers hold their arrays (R106). -/
def Core.loansTake (c : Core) (arrays : List ArrayId) : Core :=
  arrays.foldl (fun (c : Core) a =>
    match c.useOf a with
    | some (.lending t) | some (.leaving t) =>
      { c with
        uses := c.uses.map fun u => if u.1 = a then (a, .short t) else u
        strands := c.strands.set t ((c.strands[t]).grant .short [a]) }
    | _ => c) c

/-- Release a strand's lanes (R40, R106, R171). -/
def Core.release (c : Core) (t : StrandId) : Core :=
  let own := (c.whole.filter fun w => w.2 = t).map (·.1)
  let arrays := own.flatMap clusterArrays
  let c1 := { c with whole := c.whole.filter fun w => w.2 ≠ t }
  let c2 := { c1.loansTake arrays with
    uses := (c1.loansTake arrays).uses.filterMap fun (u : ArrayId × ArrayUse) =>
      if u.1 ∈ arrays ∧ u.2 = ArrayUse.returned then none
      else if u.2 = ArrayUse.lending t then none
      else if u.2 = ArrayUse.leaving t then some (u.1, .returned)
      else if u.2 = ArrayUse.short t then (if (c1.ownerOf (u.1 / 4)).isSome then some (u.1, .returned) else none)
      else some u
    laneReqs := c.laneReqs.filter fun r => r.1 ≠ t }
  let st := c2.strands[t]
  { c2 with strands := c2.strands.set t { st with cls := .noLanes, part := [], vlen := 0 } }

/-- Release the lanes of a strand. -/
def State.releaseLanes (s : State) (p : CoreId) (t : StrandId) : State := s.setCore p ((s.core p).release t)

/-- The LONGCL of the context a core serves (R87). -/
def State.longcl (s : State) (p : CoreId) : Nat :=
  match (s.core p).serves with
  | some c => (s.ctx c).entry.longcl
  | none => 0

/-- Serve lane requests in order until one must wait. -/
def State.serveLanes (s : State) (p : CoreId) : Nat → State
  | 0 => s
  | fuel + 1 =>
    let c := (s.core p).grantOne (s.longcl p)
    if c.laneReqs.length < (s.core p).laneReqs.length then (s.setCore p c).serveLanes p fuel else s

/-- The arrays a long strand's partition takes at a SETLEN: returned arrays rejoin, arrays chosen for a loan
leave, effective when the SETLEN retires (R106, R170). -/
def Core.repartition (c : Core) (t : StrandId) : Core :=
  let own := (c.whole.filter fun w => w.2 = t).flatMap fun w => clusterArrays w.1
  let uses := c.uses.filterMap fun (u : ArrayId × ArrayUse) =>
    if u.1 ∈ own then
      match u.2 with
      | .returned => none
      | .lending b => some (u.1, ArrayUse.leaving b)
      | x => some (u.1, x)
    else some u
  let st := c.strands[t]
  if st.cls = .long then
    { c with
      uses := uses
      strands := c.strands.set t { st with
        part := own.filter fun a => (uses.find? (fun u => u.1 = a)).isNone } }
  else c

/-- Whether a strand has held entries that have not completed, re-committed ones among them (R386, R387). -/
def Strand.heldLeft (st : Strand) : Bool := decide (st.replay ≠ []) || st.queue.any (·.again)

/-- Loans that a long strand's SETLENs have begun and that wait for no entry of its queue: the borrowers hold their arrays
once every instruction committed for a partition with the array has finished, held ones included (R106, R387). -/
def Core.loansSettle (c : Core) (t : StrandId) : Core :=
  let st := c.strands[t]
  let ready (u : ArrayId × ArrayUse) : Bool :=
    (match u.2 with | .leaving _ => true | _ => false) && decide (c.ownerOf (u.1 / 4) = some t) &&
      !st.queue.any fun (e : QEntry) => decide (u.1 ∈ e.part)
  if st.heldLeft then c else c.loansTake ((c.uses.filter ready).map (·.1))

/-- The power allowance of a strand in lanes (R173): arrays lent do not count. -/
def Core.allowanceOf (c : Core) (t : StrandId) : Nat :=
  256 * max 1 ((c.strands[t]).part.length * c.allowance / 256)

/-- The lanes of a strand's partition (R106). -/
def Strand.lanesHeld (st : Strand) : Nat := 256 * st.part.length

/-- The field of one cluster in LANEPART (R107): a loan shows from the owner's SETLEN on (R413). -/
def Core.lanepartField (c : Core) (k : Nat) : Nat :=
  if 4 * c.poolV.toNat ≤ k then 3 * 2 ^ 30
  else
    let nib (j : Nat) : Nat :=
      match c.useOf (4 * k + j) with
      | some (.short t) | some (.leaving t) => (8 + t.val) * 16 ^ j
      | _ => 0
    let low := nib 0 + nib 1 + nib 2 + nib 3
    match c.ownerOf k with
    | some t => 2 ^ 30 + t.val * 2 ^ 16 + low
    | none => if c.isPacked k then 2 ^ 31 + low else low

/-- LANEPARTn (R107). -/
def Core.lanepart (c : Core) (n : Nat) : Word :=
  word (c.lanepartField (2 * n) + c.lanepartField (2 * n + 1) * 2 ^ 32)

end Sys2Proof.Machine
end

