-- ==== Sys2Proof/Machine/Waiters.lean ====
section
/-! DEFINITION. Full/empty words and the strands that wait on them (R42, R269, R270, R294, R295). -/

namespace Sys2Proof.Machine

/-- Whether an operation waits for the word to be full; STF.w waits for it to be empty (R293). -/
def FeOp.wantsFull : FeOp → Bool
  | .stfW _ => false
  | _ => true

/-- Whether an operation changes the state of the word when it completes (R269). -/
def FeOp.changes : FeOp → Bool
  | .ldfK _ | .peek => false
  | _ => true

/-- A strand leaves its wait: its waiter entries and retries are dropped (R295). -/
def State.unpark (s : State) (p : CoreId) (t : StrandId) : State :=
  { s with
    waiters := s.waiters.filter fun w => !decide (w.core = p ∧ w.strand = t)
    retries := s.retries.filter fun w => !decide (w.core = p ∧ w.strand = t) }.setStrand p t
    { s.strand p t with wait := none }

/-- The head of a core's free list changes (R178): a NALLOC or YIELD that waits for the first word of the old head
tests again (R189). -/
def State.setNpool (s : State) (p : CoreId) (n : BitVec 43) : State :=
  let s1 := s.setCore p { s.core p with npool := n }
  (s1.waiters ++ s1.retries).foldl (fun (a : State) w =>
    if w.core = p ∧ w.op = .nalloc ∧ (s.strand p w.strand).progress.length % 5 = 0 then a.unpark p w.strand else a) s1

/-- Complete a full/empty operation of a strand on a word whose condition holds: the data action, the bit, and
the strand's own part. The word holds no error. -/
def State.completeFe (s : State) (p : CoreId) (t : StrandId) (pa : Nat) (op : FeOp) : State :=
  let v := s.homeWord pa
  let st := { s.strand p t with wait := none }
  let next := { st with pc := st.pc + 4 }
  match op with
  | .ldfK rd => (s.setStrand p t (next.withX rd v)).acquire p .dev
  | .ldfT rd | .ntake rd => ((s.setFull pa false).setStrand p t (next.withX rd v)).acquire p .dev
  | .sete => ((s.setFull pa false).setStrand p t next).acquire p .dev
  | .stfW d => (((s.releaseCopies p .dev).pokeWord pa d).setFull pa true).setStrand p t next
  | .peek => (s.setStrand p t st).acquire p .dev
  | .nalloc =>
    let first := decide (st.progress.length % 5 = 0)
    let new := if first then [word ((s.core p).npool.toNat * 32), v] else [v]
    let s1 := ((s.setFull pa false).setStrand p t { st with progress := st.progress ++ new, taken := true }).acquire p .dev
    if first then s1.setNpool p (v.extractLsb' 1 43) else s1

/-- Serve the waiters of a word in rounds (R269): every waiter that leaves the state as it is, then the
earliest that changes it, until none changes it. Waiters for a full word whose data hold an error leave their
wait and run again (R295). -/
def State.serveRounds (s : State) (pa : Nat) : Nat → State
  | 0 => s
  | fuel + 1 =>
    let full := s.isFull pa
    let here := s.waiters.filter fun w => decide (w.pa = pa) && (w.op.wantsFull == full)
    let still := here.filter fun w => !w.op.changes
    let rest := s.waiters.filter fun w => !(decide (w.pa = pa) && (w.op.wantsFull == full) && !w.op.changes)
    if full && s.isBad pa 8 then
      here.foldl (fun a w => a.unpark w.core w.strand) s
    else
      let s1 := still.foldl (fun a w => a.completeFe w.core w.strand pa w.op) { s with waiters := rest }
      match s1.waiters.find? (fun w => decide (w.pa = pa) && (w.op.wantsFull == full) && w.op.changes) with
      | none => s1
      | some w =>
        let s2 := { s1 with waiters := s1.waiters.erase w }.completeFe w.core w.strand pa w.op
        s2.serveRounds pa fuel

/-- Serve every waiter that the state of a word now satisfies. -/
def State.serve (s : State) (pa : Nat) : State := s.serveRounds pa (s.waiters.length + 1)

/-- The waiter table that holds a word's waiters (R269, R272): a scratchpad way's, or a directory slice's. -/
def tableOf (s : State) (pa : Nat) : Nat :=
  match region pa with
  | .spad p off => 1000 + p.val * 16 + ((s.core p).spadPlace off).getD 0 / 2 ^ 20
  | _ => 384 * (0x9e3779b1 * (pa / 512) % 2 ^ 32) / 2 ^ 32

/-- Whether a waiter table of 64 entries has one free for a word: watches take entries too (R269, R354). -/
def State.tableFree (s : State) (pa : Nat) : Bool :=
  decide ((s.waiters.filter fun x => tableOf s x.pa == tableOf s pa).length +
    (s.watches.filter fun x => tableOf s x.pa == tableOf s pa).length < 64)

/-- Enter a waiter, or keep the request for a retry when the table of 64 is full (R269). -/
def State.enterWaiter (s : State) (w : Waiter) : State :=
  if s.tableFree w.pa then
    { s with waiters := s.waiters ++ [w] }
  else { s with retries := s.retries ++ [w] }

/-- A full/empty operation of the acting strand on a checked word (R294): it performs, or parks the strand. -/
def State.feOperate (s : State) (pl : Place) (va : Word) (op : FeOp) : State :=
  let s1 := s.prepareHome s.cur pl.pa pl.grain
  if s1.isFull pl.pa == op.wantsFull then
    if op.wantsFull && s1.isBad pl.pa 8 then s1.trap .memUncorrectable va
    else
      let s2 := s1.completeFe s.cur s.str pl.pa op
      if op.changes then s2.serve pl.pa else s2
  else (s1.park .fullEmpty).enterWaiter ⟨s.cur, s.str, pl.pa, pl.grain, op⟩

/-- A store that fills a word whatever its state and serves its waiters: STF, NLINK, NFREE, a refill (R269,
R293). -/
def State.fillWord (s : State) (pl : Place) (v : Word) : State :=
  let s1 := s.prepareHome s.cur pl.pa pl.grain
  ((s1.pokeWord pl.pa v).setFull pl.pa true).serve pl.pa

/-- Retry the n-th refused request (R269): a new request to the home, which recalls the grain's copies (R270). -/
def State.retryFe (s : State) (n : Nat) : State :=
  match s.retries[n]? with
  | none => s
  | some w =>
    let s1 := { s with retries := s.retries.eraseIdx n }.prepareHome w.core w.pa w.grain
    if s1.isFull w.pa == w.op.wantsFull then
      if w.op.wantsFull && s1.isBad w.pa 8 then s1.unpark w.core w.strand
      else
        let s2 := s1.completeFe w.core w.strand w.pa w.op
        if w.op.changes then s2.serve w.pa else s2
    else s1.enterWaiter w

end Sys2Proof.Machine
end

