-- ==== Sys2Proof/Machine/Work.lean ====
section
/-! DEFINITION. Pairs, saddlebags and spill areas (R26 to R28, R191), the quiescence count (R32, R33, R419), the
caravan network (R94 to R99), forwarding and the orphan list (R103, R104), capture and replay (R422 to R424). -/

namespace Sys2Proof.Machine

/-- A pair entry as its two words (R26). -/
def pairWords (p : Pair) : Word × Word :=
  (word (p.node1.toNat / 32 * 32 + p.origin.toNat), word (p.node2.toNat / 32 * 32))

/-- A pair entry from its two words (R26). -/
def pairOf (a b : Word) : Pair :=
  ⟨BitVec.ofNat 48 (field a 47 5 * 32), BitVec.ofNat 48 (field b 47 5 * 32), BitVec.ofNat 4 a.toNat⟩

/-- Mark an ORIGIN bit: 1 STOLEN, 2 FWD, 4 SPILLED, 8 SEED (R26). -/
def pairMark (p : Pair) (m : BitVec 4) : Pair := { p with origin := p.origin ||| m }

/-- Bytes of pair entries in order. -/
def pairBytes (ps : List Pair) : List Byte :=
  ps.flatMap fun p => leBytes 8 (pairWords p).1.toNat ++ leBytes 8 (pairWords p).2.toNat

/-- Pair entries read at home from a physical address. -/
def State.readPairs (s : State) (pa : Nat) : Nat → List Pair
  | 0 => []
  | n + 1 => pairOf (s.homeWord pa) (s.homeWord (pa + 8)) :: s.readPairs (pa + 16) n

/-- Every strand of a core that waits for something leaves that wait, to test again. -/
def Core.wakeFor (c : Core) (w : Wait) : Core :=
  { c with strands := c.strands.map fun (st : Strand) =>
      if st.wait = some w then { st with wait := none } else st }

/-! ### Routes -/

/-- Distance on the context's torus (R95). -/
def Ctx.distance (k : Ctx) (a b : Nat) : Nat :=
  let w := k.entry.width
  let h := k.entry.height
  let dx := max (a % w) (b % w) - min (a % w) (b % w)
  let dy := max (a / w) (b / w) - min (a / w) (b / w)
  min dx (w - dx) + min dy (h - dy)

/-- The core to which deliveries for a logical core go, by the base die's copy (R89, R90). -/
def Ctx.route (k : Ctx) (l : Nat) : Option CoreId :=
  match k.routes[l]? with
  | some (some p) => coreOf p
  | _ => none

/-- Put a message for logical core l of context c on its way; with no valid route, or with the context
pre-empted there or aborted, the base die holds it (R89, R394, R403). -/
def State.sendTo (s : State) (c : CtxId) (l : Nat) (msg : CoreId → Msg) (held : HeldMsg) : State :=
  let k := s.ctx c
  match (if k.aborted || decide (l ∈ k.preempted) then none else k.route l) with
  | some p => { s with net := s.net ++ [msg p] }
  | none => s.setCtx c { k with heldMsgs := k.heldMsgs ++ [held] }

/-! ### Capture and replay -/

/-- The log of a logical core (R423). -/
def Ctx.logAt (k : Ctx) (l : Nat) : Nat := k.replay.runBase + l * k.replay.runSize

/-- The physical core that serves logical core l of context c. -/
def State.serverOf (s : State) (c : CtxId) (l : Nat) : Option CoreId :=
  allCores.find? fun p => decide ((s.core p).serves = some c ∧ (s.core p).lcore.toNat = l)

/-- Write a capture record of the given slots for logical core l of context c; a record that does not fit stops capture
on every core (R423). Word 0 of the log counts records, of which a LAUNCH takes three slots (assumption 70). -/
def State.logRecordAt (s : State) (l : Nat) (c : CtxId) (ws : List (Word × Word)) : State :=
  let k := s.ctx c
  if k.replay.running ≠ 1 then s else
  let n := mapGet 0 k.logCount l
  if k.replay.runSize < 16 + 16 * (n + ws.length) then
    s.setCtx c { k with replay := { k.replay with running := 0, ovf := true } }
  else
    let s1 := (ws.zipIdx).foldl (fun (a : State) w =>
      (a.pokeWord (k.logAt l + 16 + 16 * (n + w.2)) w.1.1).pokeWord (k.logAt l + 24 + 16 * (n + w.2)) w.1.2) s
    let m := mapGet 0 k.logRecs l + 1
    (s1.pokeWord (k.logAt l) (word m)).setCtx c { k with
      logCount := mapSet 0 k.logCount l (n + ws.length)
      logRecs := mapSet 0 k.logRecs l m }

/-- A capture record of what core p does (R423). -/
def State.logRecord (s : State) (p : CoreId) (c : CtxId) (ws : List (Word × Word)) : State :=
  s.logRecordAt (s.core p).lcore.toNat c ws

/-- The next unconsumed record of a logical core under replay (R424). -/
def State.nextRecordAt (s : State) (l : Nat) (c : CtxId) : Option (Word × Word) :=
  let k := s.ctx c
  if k.replay.running ≠ 2 then none else
  let base := k.logAt l
  let n := mapGet 0 k.logPos l
  if mapGet 0 k.logRecs l < (s.homeWord base).toNat then
    some (s.homeWord (base + 16 + 16 * n), s.homeWord (base + 24 + 16 * n))
  else none

/-- The next unconsumed record of the logical core that p serves. -/
def State.nextRecord (s : State) (p : CoreId) (c : CtxId) : Option (Word × Word) :=
  s.nextRecordAt (s.core p).lcore.toNat c

/-- The thief of a record that is a GIVE (R423). -/
def giveThief (r : Option (Word × Word)) : Option Nat :=
  match r with
  | some (w0, _) => if field w0 63 60 = 3 then some (field w0 9 0) else none
  | none => none

/-- A hungry core that the next record of a logical core names as its thief is woken to ask it (R424, R425;
assumption 95). -/
def State.wakeThief (s : State) (l : Nat) (c : CtxId) : State :=
  let k := s.ctx c
  match (giveThief (s.nextRecordAt l c)).filter fun t => decide (t ∈ k.hungrySet) with
  | none => s
  | some t =>
    (s.setCtx c { k with hungrySet := k.hungrySet.filter (· ≠ t) }).sendTo c t
      (fun q => .wake q c t (BitVec.ofNat 10 l)) (.wake t (BitVec.ofNat 10 l))

/-- The logical core whose next record is a GIVE to a core: that core does not go hungry but asks there (R424, R425;
assumption 95). -/
def State.giverTo (s : State) (l : Nat) (c : CtxId) : Option Nat :=
  (List.range (s.ctx c).size).find? fun v => decide (v ≠ l ∧ giveThief (s.nextRecordAt v c) = some l)

/-- Consume a record of n slots of a logical core's log (R424): strands that wait for their record test again, and so does
the thief that a GIVE now names. -/
def State.consumeAt (s : State) (l : Nat) (c : CtxId) (n : Nat) : State :=
  let k := s.ctx c
  let s1 := s.setCtx c { k with
    logPos := mapSet 0 k.logPos l (mapGet 0 k.logPos l + n)
    logRecs := mapSet 0 k.logRecs l (mapGet 0 k.logRecs l + 1) }
  let s2 := match s1.serverOf c l with
    | some p => s1.setCore p ((s1.core p).wakeFor .logRecord)
    | none => s1
  s2.wakeThief l c

/-- Consume the next record of the logical core that p serves. -/
def State.consume (s : State) (p : CoreId) (c : CtxId) (n : Nat) : State := s.consumeAt (s.core p).lcore.toNat c n

/-- A record that cannot be met ends replay on every core of the context (R424): strands that wait for a record, or for
the pair that one names, run free. -/
def State.diverge (s : State) (c : CtxId) : State :=
  let k := s.ctx c
  let s1 := s.setCtx c { k with replay := { k.replay with running := 0, diverged := true } }
  { s1 with cores := s1.cores.map fun (q : Core) =>
      if q.serves = some c then (q.wakeFor .logRecord).wakeFor .pair else q }

/-! ### Quiescence -/

/-- Raise a context's count (R32). A launch or push clears Q, which is count = 0 (R418). -/
def State.countUp (s : State) (c : CtxId) (n : Nat) : State :=
  s.setCtx c { s.ctx c with count := (s.ctx c).count + word n }

/-- Whether the instruction at the pc is going on as NEXT (R182, R193, R194). -/
def Strand.inNext (st : Strand) : Bool := decide (st.nextAt = st.pc ∧ st.nstep ≠ 0)

/-- Whether a strand is parked in NEXT without a pair: for one to come, or for its turn in the log (R29, R424). -/
def Strand.nextWaits (st : Strand) : Bool :=
  decide (st.wait = some Wait.pair) ||
    (decide (st.wait = some Wait.logRecord ∧ st.firing = none) && st.inNext)

/-- A strand parked in NEXT falls through with Q set (R30, R33). -/
def Strand.fallThrough (st : Strand) : Strand :=
  { ((((st.withX 26 0).withX 27 0).withX 28 0).withX 29 (word (2 ^ 63))) with
    wait := none, nstep := 0, pc := st.pc + 4 }

/-- Every strand of a core parked in NEXT falls through, as an acquire of device scope (R33, R337). The sweep ends; a STEAL
that is out stays the core's one (R95). -/
def Core.fallThrough (q : Core) : Core :=
  let waits := q.strands.toList.any Strand.nextWaits
  { q with
    hungry := false
    sweep := none
    copies := if waits then q.copies.filter fun (x : Copy) =>
        !(decide (x.kind = CopyKind.untracked) && decide (x.dirty = [])) else q.copies
    strands := q.strands.map fun (st : Strand) => if st.nextWaits then st.fallThrough else st }

/-- Apply a function to every core that serves a context. -/
def State.onServing (s : State) (c : CtxId) (f : Core → Core) : State :=
  { s with cores := s.cores.map fun (q : Core) => if q.serves = some c then f q else q }

/-- The count of a context has fallen to zero: epoch, fall-through, notification (R419). NOTE follows the word's performing,
in the host window its answer. -/
def State.quiescent (s : State) (c : CtxId) : State :=
  let k := s.ctx c
  let k1 := { k with epoch := k.epoch + 1, hungrySet := [] }
  let s1 := (s.onServing c Core.fallThrough).setCtx c k1
  let left := decide (k.replay.running = 2) && (List.range k.size).any fun l => (s1.nextRecordAt l c).isSome
  let s2 := if left then s1.diverge c else s1
  if !k1.notifyEn then s2 else
  let pa := k1.notifyAddr.toNat * 8
  let v := word (2 ^ 63 + k1.epoch.toNat)
  match region pa with
  | .hbm _ => ((s2.pokeWord pa v).setCtx c { (s2.pokeWord pa v).ctx c with note := true }).signal c.val
  | .host _ =>
    { s2 with ext := s2.ext ++ [ExtReq.mk (.notify c) 0 pa (.write pa (leBytes 8 v.toNat)) none false none none []] }
  | _ => s2

/-- Lower a context's count by 1 (R32). -/
def State.countDown (s : State) (c : CtxId) : State :=
  let s1 := s.setCtx c { s.ctx c with count := (s.ctx c).count - 1 }
  if (s1.ctx c).count = 0 then s1.quiescent c else s1

/-- End the acting strand's firing: the release, then the decrement (R31). -/
def State.endFiring (s : State) : State :=
  match s.me.firing with
  | none => s
  | some _ =>
    let s1 := s.release .dev
    (s1.setMe { s1.me with firing := none, resumed := false, rulePair := none }).countDown s.myCtx

/-! ### Saddlebags -/

/-- Batches of 256 pairs in a logical core's spill area (R28). -/
def Ctx.spills (k : Ctx) (l : Nat) : Nat := mapGet 0 k.spillTop l

/-- Enter a pair into core p's saddlebag, spilling the 256 coldest first when it is full; none when the spill
area is full as well (R27, R28). -/
def State.enterBag (s : State) (p : CoreId) (c : CtxId) (x : Pair) (cold : Bool) : Option State :=
  let put (s : State) : State :=
    s.setCore p { s.core p with bag := if cold then x :: (s.core p).bag else (s.core p).bag ++ [x] }
  if (s.core p).bag.length < 1024 then some (put s)
  else
    let k := s.ctx c
    let l := (s.core p).lcore.toNat
    let n := k.spills l
    if k.entry.spillSize / 4096 ≤ n then none
    else
      let batch := ((s.core p).bag.take 256).map fun q => pairMark q 4
      let s1 := s.pokeHome (k.entry.spillBase + l * k.entry.spillSize + 4096 * n) (pairBytes batch)
      let s2 := s1.setCore p { s1.core p with bag := (s1.core p).bag.drop 256 }
      some (put (s2.setCtx c { s2.ctx c with spillTop := mapSet 0 (s2.ctx c).spillTop l (n + 1) }))

/-- Refill an empty saddlebag from the topmost batch (R28). -/
def State.refill (s : State) (p : CoreId) (c : CtxId) : State :=
  let k := s.ctx c
  let l := (s.core p).lcore.toNat
  let n := k.spills l
  if (s.core p).bag ≠ [] ∨ n = 0 then s
  else
    let ps := s.readPairs (k.entry.spillBase + l * k.entry.spillSize + 4096 * (n - 1)) 256
    let s1 := s.setCore p { s.core p with bag := ps }
    s1.setCtx c { k with spillTop := mapSet 0 k.spillTop l (n - 1) }

/-- The topmost place in a logical core's first n batches that holds a pair which replay asks for (R28, R424). -/
def State.findSpilled (s : State) (c : CtxId) (l : Nat) (same : Pair → Bool) : Nat → Option (Nat × Pair)
  | 0 => none
  | n + 1 =>
    let a := (s.ctx c).entry.spillBase + l * (s.ctx c).entry.spillSize + 4096 * n
    match (s.readPairs a 256).zipIdx.reverse.find? fun (x : Pair × Nat) => same x.1 with
    | some (x, i) => some (a + 16 * i, x)
    | none => s.findSpilled c l same n

/-- The coldest pair of the acting core's saddlebag takes the place in a batch of a pair that replay has taken from there
(assumption 97). -/
def State.fillSpilled (s : State) (a : Nat) : State :=
  match s.mine.bag with
  | [] => s
  | y :: rest => (s.pokeHome a (pairBytes [pairMark y 4])).setMine { s.mine with bag := rest }

/-- Wake every strand of a core that waits for a pair. -/
def State.wakePairs (s : State) (p : CoreId) : State :=
  s.setCore p ((s.core p).wakeFor .pair)

/-- The push generation rises and one hungry core is woken (R99). -/
def State.entered (s : State) (p : CoreId) (c : CtxId) : State :=
  let k := s.ctx c
  let l := (s.core p).lcore.toNat
  let best := k.hungrySet.foldl (fun (b : Option Nat) x =>
    match b with
    | none => some x
    | some y =>
      if k.distance l x < k.distance l y ∨ (k.distance l x = k.distance l y ∧ x < y) then some x else some y) none
  match best with
  | none => s.setCtx c { k with gen := k.gen + 1 }
  | some x =>
    let s1 := s.setCtx c { k with gen := k.gen + 1, hungrySet := k.hungrySet.filter (· ≠ x) }
    s1.sendTo c x (fun q => .wake q c x (s.core p).lcore) (.wake x (s.core p).lcore)

/-- A push by the acting strand (R191): the increment, the entry, the generation. A full spill area raises
SPILL_FULL with TEPC at the next instruction, and the strand keeps the pair. -/
def State.push (s : State) (x : Pair) (cold count : Bool) (k : State → State) : State :=
  let c := s.myCtx
  let s1 := s.releaseCopies s.cur .dev
  let s2 := if count then s1.countUp c 1 else s1
  match s2.enterBag s.cur c x cold with
  | some s3 => k ((s3.wakePairs s.cur).entered s.cur c)
  | none => (s2.setMe { s2.me with counted := s2.me.counted ++ [(x, cold, s2.me.pc + 4)] }).trapAfter .spillFull 0

/-- Whether a strand is halted, by HALTC or by a debugger (R160, R397). -/
def Strand.stopped (st : Strand) : Bool := st.halted || st.dbgHalted

/-- The lowest-numbered strand of a core that is not halted (R98). -/
def Core.lowest (c : Core) : Option StrandId := allStrands.find? fun t => !(c.strands[t]).stopped

/-- An asynchronous SPILL_FULL waits at a strand, which takes it at an issue boundary, leaving its wait if it is
parked (R93, R98, R380). -/
def State.askTrap (s : State) (p : CoreId) (t : StrandId) (cause : BitVec 16) (tval : Word) : State :=
  s.setStrand p t { s.strand p t with asyncTraps := (s.strand p t).asyncTraps ++ [(cause, tval)] }

/-- Enter every pair of a delivery, none when one of them finds no room. -/
def State.enterAll (s : State) (p : CoreId) (c : CtxId) (cold : Bool) : List Pair → Option State
  | [] => some s
  | x :: xs =>
    match s.enterBag p c x cold with
    | none => none
    | some s1 => (s1.entered p c).enterAll p c cold xs

/-- Whether a SPILL_FULL for a held delivery is asked of a strand of the core that is not halted, or in its handler. -/
def Core.spillAsked (c : Core) : Bool :=
  let isDelivery (x : BitVec 16 × Word) : Bool := decide (x.1 = 14 ∧ x.2.toNat ≤ 3)
  c.strands.toList.any fun (st : Strand) =>
    (!st.stopped && st.asyncTraps.any isDelivery) || (!st.halted && (st.serving.map isDelivery).getD false)

/-- Try the deliveries held at a waystation, oldest first (R98); the first that still finds no room raises
SPILL_FULL on the lowest-numbered strand that is not halted. With every strand halted it stays held. -/
def State.retryDeliveries (s : State) (p : CoreId) (c : CtxId) : Nat → State
  | 0 => s
  | fuel + 1 =>
    match (s.core p).deliveries with
    | [] => s
    | d :: rest =>
      match s.enterAll p c (d.kind == 2 || d.kind == 4) d.pairs with
      | some s1 => ((s1.setCore p { s1.core p with deliveries := rest }).wakePairs p).retryDeliveries p c fuel
      | none =>
        match (if (s.core p).spillAsked then none else (s.core p).lowest) with
        | none => s
        | some t => s.askTrap p t 14 (word (min d.kind 3))

/-- A delivery arrives at a core (R97, R98, R103): it queues behind held ones, else it is entered whole. -/
def State.deliver (s : State) (p : CoreId) (c : CtxId) (d : Delivery) : State :=
  let s1 := s.setCore p { s.core p with deliveries := (s.core p).deliveries ++ [d] }
  if (s.core p).deliveries ≠ [] then s1 else s1.retryDeliveries p c 2

/-! ### Stealing -/

/-- Logical cores at one distance from l, starting at position s mod their number (R95). -/
def Ctx.ring (k : Ctx) (l d pos : Nat) : List Nat :=
  let r := (List.range k.size).filter fun x => decide (k.distance l x = d ∧ x ≠ l)
  if r = [] then [] else r.drop (pos % r.length) ++ r.take (pos % r.length)

/-- The victims of a sweep in order (R95, R99). -/
def Ctx.sweepOrder (k : Ctx) (l pos : Nat) (first : Option Nat) : List Nat :=
  let all := (List.range (k.entry.width + k.entry.height)).flatMap fun d => k.ring l d pos
  match first with
  | none => all
  | some f => if f = l then all else f :: all.filter (· ≠ f)

/-- Whether a thief's core could grant a class without waiting (R96). -/
def Core.canGrant (c : Core) (k : LaneClass) : Bool :=
  (c.strands.toList.any fun st => st.cls = k) ||
  match k with
  | .short => c.laneReqs = [] && c.shortArray.isSome
  | .long => c.laneReqs = [] && c.clusters.any c.isFreeCluster
  | .noLanes => true

/-- Ask the first of some victims (R95, R96), or join the hungry set when there is none (R99). -/
def State.askVictim (s : State) (p : CoreId) (c : CtxId) (gen : Nat) (victims : List Nat) : State :=
  let k := s.ctx c
  let l := (s.core p).lcore.toNat
  match (if victims = [] then (s.giverTo l c).toList else victims) with
  | v :: rest =>
    let s1 := s.setCore p { s.core p with sweep := some ⟨rest, gen⟩, asked := true }
    let so := (s.core p).canGrant .short
    let lo := (s.core p).canGrant .long
    s1.sendTo c v (fun q => .steal q c v (BitVec.ofNat 10 l) so lo) (.steal v (BitVec.ofNat 10 l) so lo)
  | [] =>
    (s.setCore p { s.core p with sweep := none, hungry := true }).setCtx c
      { k with hungrySet := insertNat l k.hungrySet }

/-- Go on with a sweep: the next victim; at its end a new sweep when the generation has changed, else the hungry set
(R95, R99). -/
def State.sweepOn (s : State) (p : CoreId) (c : CtxId) : State :=
  match (s.core p).sweep with
  | none => s
  | some w =>
    let k := s.ctx c
    if w.victims = [] ∧ k.gen ≠ w.gen then
      let n := (s.core p).sweepCount + 1
      (s.setCore p { s.core p with sweepCount := n }).askVictim p c k.gen (k.sweepOrder (s.core p).lcore.toNat n none)
    else s.askVictim p c w.gen w.victims

/-- Start a sweep (R95, R99). -/
def State.startSweep (s : State) (p : CoreId) (c : CtxId) (first : Option Nat) : State :=
  let k := s.ctx c
  let n := (s.core p).sweepCount + 1
  (s.setCore p { s.core p with
    sweepCount := n, hungry := false,
    sweep := some ⟨k.sweepOrder (s.core p).lcore.toNat n first, k.gen⟩ }).sweepOn p c

/-! ### Net and arena tables -/

/-- The directory entry of an object of a context: VALID, level, base, size and mask (R72). -/
structure ObjEntry where
  valid : Bool
  level : Nat
  isRuntime : Bool
  base : Nat
  size : Nat
  mask : BitVec 128
deriving DecidableEq, Repr

/-- Read the directory entry of a handle (R72). -/
def State.object (s : State) (c : CtxId) (h : Nat) : ObjEntry :=
  let a := (s.ctx c).entry.arenaBase
  let w0 := s.homeWord (a + 32 * h)
  ⟨decide (h ≠ 0 ∧ h < 4096) && bit w0 63, field w0 55 48, bit w0 47, a + field w0 31 0,
    field (s.homeWord (a + 32 * h + 8)) 31 0,
    BitVec.ofNat 128 ((s.homeWord (a + 32 * h + 16)).toNat + (s.homeWord (a + 32 * h + 24)).toNat * 2 ^ 64)⟩

/-- The object that holds an address, with its handle: the first valid entry (R72, R82). -/
def State.objectAt (s : State) (c : CtxId) (pa : Nat) : Option (Nat × ObjEntry) :=
  let rec go (h : Nat) : Nat → Option (Nat × ObjEntry)
    | 0 => none
    | fuel + 1 =>
      let o := s.object c h
      if o.valid && decide (o.base ≤ pa ∧ pa < o.base + o.size) then some (h, o) else go (h + 1) fuel
  go 1 4095

/-- Whether the object at an address, by the directory, is of level 1 (R85). -/
def State.levelOneAt (s : State) (pc : Word) : Bool :=
  match s.mine.serves with
  | some c => (match s.objectAt c pc.toNat with | some (_, o) => decide (o.level = 1) | none => false)
  | none => false

/-- Whether an address may be fetched (R71). -/
def Ctx.inCode (k : Ctx) (pa : Nat) : Bool :=
  decide (k.entry.arenaBase + 131072 ≤ pa ∧ pa < k.entry.arenaBound)

/-- The hash of R176. -/
def ruleHash (lo hi k : Nat) : Nat := (0x9e3779b1 * (4096 * lo + hi) % 2 ^ 32) / 2 ^ (32 - k)

/-- Probe the rule table (R176): entries are read from home. -/
def State.probe (s : State) (tab k t1 t2 h : Nat) : Nat → Nat → Option (Word × Word)
  | 0, _ => none
  | fuel + 1, n =>
    let a := tab + 64 + 16 * ((h + n) % 2 ^ k)
    let w := s.homeWord a
    if !bit w 37 then none
    else if (field w 63 52 = t1 ∧ field w 51 40 = t2) ∨ (field w 63 52 = t2 ∧ field w 51 40 = t1) then
      some (w, s.homeWord (a + 8))
    else s.probe tab k t1 t2 h fuel (n + 1)

/-- The lookup of R176 in core p's cache or in memory (R177); a found entry with CLASS 2 or 3 or a handler
outside the arena is no rule. -/
def State.lookupRule (s : State) (p : CoreId) (c : CtxId) (t1 t2 : Nat) : Option (Word × Word) × State :=
  let key := BitVec.ofNat 24 (4096 * min t1 t2 + max t1 t2)
  match (s.core p).rules.find? (fun r => r.1 = key) with
  | some r => (r.2, s)
  | none =>
    let tab := (s.ctx c).entry.ruletab
    let k := field (s.homeWord tab) 4 0
    let e := if k < 4 ∨ 20 < k then none
      else s.probe tab k t1 t2 (ruleHash (min t1 t2) (max t1 t2) k) (2 ^ k) 0
    let e1 := match e with
      | some (w, a) =>
        if 2 ≤ field w 39 38 || !(s.ctx c).inCode (field a 51 2 * 4) then none else some (w, a)
      | none => none
    (e1, match e1 with
      | some _ => s.setCore p { s.core p with rules := (key, e1) :: (s.core p).rules }
      | none => s)

/-- Whether a node address passes R21: 32-byte aligned, below 2^48 and not below 0x20. -/
def nodeOk (a : Nat) : Bool := decide (a % 32 = 0 ∧ a < 2 ^ 48 ∧ 32 ≤ a)

/-- Checks of R21 and R287 on a port word of a node. The fault's TVAL is the node's address where R21 raises it, else
the word's. -/
def State.nodeWord (s : State) (a : Nat) (k : Acc) : Except (Cause × Word) Place × State :=
  let node := a / 32 * 32
  if !nodeOk node then (.error (.align, word node), s)
  else
    match s.place s.cur s.myCtx s.isRuntime false (word a) 8 k with
    | (.ok pl, s1) => (.ok pl, s1)
    | (.error x, s1) =>
      let beyond : Bool := match (s1.lookup s.cur s.myCtx s.mine.ptroot (word a)).1 with
        | .ok e => (match region (e.frame + (a - e.base)) with
          | .host _ | .peer _ _ | .mmio _ => true
          | _ => false)
        | .error _ => false
      (.error (x, word (if beyond then node else a)), s1)

/-- The steal server's reading of a pair's lane class (R96): short whenever anything is amiss. -/
def State.pairClass (s : State) (p : CoreId) (c : CtxId) (x : Pair) : LaneClass :=
  let hdr (a : Nat) : Option Word :=
    if !nodeOk a then none
    else match (s.place p c true false (word a) 8 .read).1 with
      | .error _ => none
      | .ok pl => match region pl.pa with
        | .hbm _ | .spad _ _ => if s.isFull pl.pa && !s.isBad pl.pa 8 then some (s.homeWord pl.pa) else none
        | _ => none
  match hdr x.node1.toNat, hdr x.node2.toNat with
  | some h1, some h2 =>
    let t1 := field h1 63 52
    let t2 := field h2 63 52
    let cont := if t1 = 0xffe ∧ bit h1 50 ∧ t2 = 0xfff then some x.node1.toNat
      else if t2 = 0xffe ∧ bit h2 50 ∧ t1 = 0xfff then some x.node2.toNat else none
    match cont with
    | some n =>
      match (s.place p c true false (word (n + 16)) 8 .read).1 with
      | .ok pl => if field (s.homeWord pl.pa) 1 0 = 1 then .long else .short
      | .error _ => .short
    | none =>
      match (s.lookupRule p c t1 t2).1 with
      | some (w, _) => if field w 39 38 = 1 && (s.object c (field w 35 24)).valid then .long else .short
      | none => .short
  | _, _ => .short

/-- Take the first k eligible pairs from the cold end (R96). -/
def takeEligible (ok : Pair → Bool) : Nat → List Pair → List Pair × List Pair
  | _, [] => ([], [])
  | 0, l => ([], l)
  | n + 1, x :: xs =>
    if ok x then let r := takeEligible ok n xs; (x :: r.1, r.2)
    else let r := takeEligible ok (n + 1) xs; (r.1, x :: r.2)

/-- A victim serves a STEAL (R96, R424): the pairs that leave, marked STOLEN, and the state. -/
def State.serveSteal (s : State) (v : CoreId) (c : CtxId) (thief : BitVec 10) (shortOk longOk : Bool) :
    List Pair × State :=
  if (s.core v).serves ≠ some c || (s.core v).deliveries ≠ [] then ([], s)
  else
    let s1 := s.refill v c
    let ok (x : Pair) : Bool :=
      match s1.pairClass v c x with
      | .long => longOk
      | _ => shortOk
    let bag := (s1.core v).bag
    let n := min 8 ((bag.length + 1) / 2)
    match s1.nextRecord v c with
    | some (w0, _) =>
      if field w0 63 60 = 3 ∧ field w0 9 0 = thief.toNat then
        let k := field w0 19 16
        let (out, rest) := takeEligible ok k bag
        if out.length = k then (out, ((s1.setCore v { s1.core v with bag := rest }).consume v c 1))
        else ([], s1)
      else ([], s1)
    | none =>
      let (out, rest) := takeEligible ok n bag
      if out = [] then ([], s1)
      else
        let s2 := s1.setCore v { s1.core v with bag := rest }
        (out, s2.logRecord v c [(word (3 * 2 ^ 60 + out.length * 2 ^ 16 + thief.toNat), 0)])

/-- Append a pair to the orphan list (R104): false when it is full. -/
def State.orphan (s : State) (c : CtxId) (x : Pair) : Bool × State :=
  let e := (s.ctx c).entry
  let n := s.homeWord e.orphanBase
  if n.toNat = e.orphanSize then (false, s)
  else
    let s1 := s.pokeHome (e.orphanBase + 16 + 16 * n.toNat) (pairBytes [pairMark x 2])
    (true, s1.pokeWord e.orphanBase (n + 1))

/-- The first core that a capability forward may take (R103). -/
def State.capTarget (s : State) (p : CoreId) (c : CtxId) (cls : Nat) (need : BitVec 128) : Option (Nat × CoreId) :=
  let k := s.ctx c
  let w := (k.caproutes[cls]?).getD 0
  let cand := [field w 9 0, field w 19 10, field w 29 20, field w 39 30].take (field w 42 40)
  cand.findSome? fun l =>
    if l = (s.core p).lcore.toNat ∨ k.size ≤ l then none
    else match k.route l with
      | none => none
      | some q => if need &&& ~~~(s.core q).capmask = 0 then some (l, q) else none

/-- The lowest class of a mask that another mask lacks. -/
def lowestMissing (need have' : BitVec 128) : Option Nat :=
  (List.range 128).find? fun i => need.getLsbD i && !have'.getLsbD i

end Sys2Proof.Machine
end

