-- ==== Sys2Proof/Machine/Operands.lean ====
section
/-! DEFINITION. Operand forms: which x registers an instruction names (R141, R168), the operand kinds of format V
(R110, R206), register groups and elements in lanes (R44, R131, R138), masks. -/

namespace Sys2Proof.Machine

/-- The x register that a format-V operand names under kind VX (R110). -/
def vxSrc (k : VKind) (r : BitVec 5) : List (BitVec 5) := if k = .vx then [r] else []

/-- The x registers an instruction reads, in field order (R166, R168). -/
def xSources : Instr → List (BitVec 5)
  | .add _ a b | .sub _ a b | .and _ a b | .or _ a b | .xor _ a b | .andn _ a b | .sll _ a b | .srl _ a b
  | .sra _ a b | .rol _ a b | .slt _ a b | .sltu _ a b | .min _ a b | .max _ a b | .minu _ a b | .maxu _ a b
  | .mul _ a b | .mulh _ a b | .mulhu _ a b | .div _ a b | .divu _ a b | .rem _ a b | .remu _ a b => [a, b]
  | .clz _ a | .ctz _ a | .popc _ a | .sext _ _ a | .zext _ _ a => [a]
  | .addi _ a _ | .andi _ a _ | .ori _ a _ | .xori _ a _ | .slti _ a _ | .sltiu _ a _ | .slli _ a _
  | .srli _ a _ | .srai _ a _ | .roli _ a _ | .jalr _ a _ => [a]
  | .beq a b _ | .bne a b _ | .blt a b _ | .bge a b _ | .bltu a b _ | .bgeu a b _ => [a, b]
  | .ld m => [m.xs1]
  | .st m => [m.r, m.xs1]
  | .aadd a | .aand a | .aor a | .axor a | .amin a | .amax a | .aswap a => [a.xs1, a.xs2]
  | .acas a => [a.rd, a.xs1, a.xs2]
  | .ldfK _ a _ | .ldfT _ a _ | .probef _ a _ | .sete a _ => [a]
  | .stf b a _ | .stfW b a _ => [b, a]
  | .cflush a b | .cinv a b | .seal a b | .unseal a b => [a, b]
  | .csrw a _ | .csrs a _ | .csrc a _ | .trap a | .fmtset _ a | .ovtset a | .rndset a | .rserve a => [a]
  | .send a b => [a, b]
  | .nfree a | .ntake _ a | .nhdr _ a | .nfwd a | .resume a => [a]
  | .nlink a b | .npush a b | .nseth a b => [a, b]
  | .cpy a | .cpy2d a | .cpyw _ a | .sbwait a | .snap _ a | .publish _ a | .objfree _ a => [a]
  | .sbinit a b | .sbadv a b => [a, b]
  | .setlen _ a | .setvt a => [a]
  | .vadd o | .vsub o | .vrsub o | .vmul o | .vmulh o | .vmac o | .vdiv o | .vrem o | .vmin o | .vmax o
  | .vsadd o | .vssub o | .vavg o | .vand o | .vor o | .vxor o | .vsll o | .vsrl o | .vsra o | .vmerge o
  | .vslideup o | .vslidedn o | .vbcast o | .vextr o => vxSrc o.kind o.op2
  | .vins o => o.vs1 :: vxSrc o.kind o.op2
  | .vsplat _ b _ k => vxSrc k b
  | .vcmpeq o | .vcmpne o | .vcmplt o | .vcmple o | .vcmpgt o | .vcmpge o => vxSrc o.kind o.op2
  | .vmatch _ _ b _ | .vwrite _ b _ _ | .ttload _ b => [b]
  | .vfadd o | .vfsub o | .vfmul o | .vfma o | .vfnma o | .vfdiv o => if o.vx then [o.op2] else []
  | .vfmin _ _ b _ vx | .vfmax _ _ b _ vx | .vfcmp _ _ _ b _ vx => if vx then [b] else []
  | .vbscale o => [o.src]
  | .vld a | .vldb a | .vst a | .vldx a | .vstx a => [a.xs1]
  | .vlds a | .vldt a | .vsts a | .vstt a => [a.xs1, a.r2]
  | .vldsb _ a _ _ => [a]
  | .vamoadd a | .vamomin a | .vamomax a | .vamoand a | .vamoor a | .vamoxor a | .vamoswap a | .vamocas a =>
    [a.xs1]
  | .vsend _ b _ | .xred _ _ b _ => [b]
  | .bsload a b _ => [a, b]
  | .bsmovToUpper _ b _ | .bsmovFromUpper _ b _ | .imma _ _ b _ => [b]
  | _ => []

/-- The x register an instruction writes through the read queue (R168). -/
def queuedDest : Instr → Option (BitVec 5)
  | .mpopc r _ _ | .mfirst r _ _ => some r
  | .vredsum o | .vredsumo o => if o.toX then some o.d else none
  | .vredmin d _ _ t | .vredmax d _ _ t | .vredand d _ _ t | .vredor d _ _ t | .vredxor d _ _ t =>
    if t then some d else none
  | .vextr o => some o.vd
  | _ => none

/-- The x registers an instruction writes, at issue or later (R141, R168). -/
def xDests : Instr → List (BitVec 5)
  | .add d _ _ | .sub d _ _ | .and d _ _ | .or d _ _ | .xor d _ _ | .andn d _ _ | .sll d _ _ | .srl d _ _
  | .sra d _ _ | .rol d _ _ | .slt d _ _ | .sltu d _ _ | .min d _ _ | .max d _ _ | .minu d _ _ | .maxu d _ _
  | .mul d _ _ | .mulh d _ _ | .mulhu d _ _ | .div d _ _ | .divu d _ _ | .rem d _ _ | .remu d _ _ => [d]
  | .clz d _ | .ctz d _ | .popc d _ | .sext _ d _ | .zext _ d _ => [d]
  | .addi d _ _ | .andi d _ _ | .ori d _ _ | .xori d _ _ | .slti d _ _ | .sltiu d _ _ | .slli d _ _
  | .srli d _ _ | .srai d _ _ | .roli d _ _ | .jalr d _ _ | .lui d _ => [d]
  | .jal _ => [1]
  | .ld m => [m.r]
  | .aadd a | .aand a | .aor a | .axor a | .amin a | .amax a | .aswap a | .acas a => [a.rd]
  | .ldfK d _ _ | .ldfT d _ _ | .probef d _ _ => [d]
  | .csrr d _ | .nalloc d | .ntake d _ | .nhdr d _ | .cpyw d _ | .snap d _ | .publish d _ | .objfree d _
  | .setlen d _ => [d]
  | .next | .yield | .nfwd _ => [26, 27, 28, 29]
  | .resume _ => (List.range 31).map fun k => BitVec.ofNat 5 (k + 1)
  | .mpopc r _ _ | .mfirst r _ _ => [r]
  | .vredsum o | .vredsumo o => if o.toX then [o.d] else []
  | .vredmin d _ _ t | .vredmax d _ _ t | .vredand d _ _ t | .vredor d _ _ t | .vredxor d _ _ t =>
    if t then [d] else []
  | .vextr o => [o.vd]
  | _ => []

/-- x registers whose value has not been delivered: read-queue slots and relaxed loads (R168, R288). -/
def Strand.pending (st : Strand) : List (BitVec 5) :=
  (st.readq.filter fun (r : ReadSlot) => !r.dropped).map (·.rd) ++
    (st.relaxed.filter fun (r : RelaxedAcc) => !r.isStore).map (·.r)

/-- Whether a strand waits for the answer to an access that it has sent: its instruction completes before the strand stops
for anything else (R383, R398). -/
def Strand.awaitsAnswer (st : Strand) : Bool :=
  match st.wait with
  | some .external | some (.atomic _ _ _) => true
  | _ => false

/-- The VTYPE fields of R129. -/
def vtSew (v : BitVec 16) : Nat := (v.extractLsb' 0 3).toNat
/-- CLASS. -/
def vtClass (v : BitVec 16) : Nat := (v.extractLsb' 3 3).toNat
/-- FMT. -/
def vtFmt (v : BitVec 16) : Nat := (v.extractLsb' 6 2).toNat
/-- G = 2^GRP. -/
def vtGroup (v : BitVec 16) : Nat := 2 ^ (v.extractLsb' 8 2).toNat
/-- Tile rows 2^TR. -/
def vtTile (v : BitVec 16) : Nat := 2 ^ (v.extractLsb' 10 3).toNat
/-- RM. -/
def vtRm (v : BitVec 16) : Nat := (v.extractLsb' 13 3).toNat

/-- A lane of a core by array and column (R138). -/
def Core.laneAt (c : Core) (a col : Nat) : Lane := mapGet Lane.zero c.lanes (256 * a + col)

/-- A core with one lane replaced. -/
def Core.setLaneAt (c : Core) (a col : Nat) (l : Lane) : Core :=
  { c with lanes := mapSet Lane.zero c.lanes (256 * a + col) l }

/-- Lane i of a partition: column i mod 256 of its array number i div 256 (R138). A lane past the partition
has no column and reads zero. -/
def Core.lane (c : Core) (part : List ArrayId) (i : Nat) : Lane :=
  match part[i / 256]? with
  | some a => c.laneAt a (i % 256)
  | none => Lane.zero

/-- A core with lane i of a partition replaced; a lane past the partition is discarded. -/
def Core.setLane (c : Core) (part : List ArrayId) (i : Nat) (l : Lane) : Core :=
  match part[i / 256]? with
  | some a => c.setLaneAt a (i % 256) l
  | none => c

/-- w bits of a lane from a register row, as a number (R44). -/
def Lane.rows (l : Lane) (row w : Nat) : Nat := (l.low.toNat >>> row) % 2 ^ w

/-- A lane with w register rows from a row written (R44). -/
def Lane.withRows (l : Lane) (row w v : Nat) : Lane :=
  let m := (2 ^ w - 1) <<< row
  { l with low := BitVec.ofNat 1024 ((l.low.toNat &&& (2 ^ 1024 - 1 - m)) ||| ((v % 2 ^ w) <<< row)) }

/-- Bit of a mask row: m0 reads 1 (R199). -/
def Lane.mask (l : Lane) (m : BitVec 3) : Bool := m = 0 || l.masks.getLsbD m.toNat

/-- A lane with one mask row written. -/
def Lane.withMask (l : Lane) (m : BitVec 3) (b : Bool) : Lane :=
  { l with masks := if b then l.masks ||| BitVec.ofNat 8 (2 ^ m.toNat)
      else l.masks &&& ~~~BitVec.ofNat 8 (2 ^ m.toNat) }

/-- A lane's tag latch. -/
def Lane.tag (l : Lane) (t : BitVec 2) : Bool := l.tags.getLsbD t.toNat

/-- A lane with one tag latch set to a value. -/
def Lane.withTag (l : Lane) (t : BitVec 2) (b : Bool) : Lane :=
  { l with tags := if b then l.tags ||| BitVec.ofNat 4 (2 ^ t.toNat)
      else l.tags &&& ~~~BitVec.ofNat 4 (2 ^ t.toNat) }

/-- Whether a group of 64 columns of the partition's array number pos holds one of some lanes. -/
def groupHas (sel : Nat → Bool) (pos grp : Nat) : Bool :=
  (List.range 64).any fun k => sel (256 * pos + 64 * grp + k)

/-- Rows of some lanes are written, and their parity regenerated, for each group of 64 columns that holds such a lane
(R204); a later mismatch of such a row is one after a rewriting (R225). -/
def Core.regen (c : Core) (part : List ArrayId) (rows : List (Nat × Nat)) (sel : Nat → Bool) : Core :=
  if c.parityBad = [] ∧ c.mismatched = [] then c
  else
    let hit (a : ArrayId) (r : Nat) (grps : List Nat) : Bool :=
      (rows.any fun (x : Nat × Nat) => decide (x.1 ≤ r ∧ r < x.1 + x.2)) &&
      (part.zipIdx).any fun (y : ArrayId × Nat) => decide (y.1 = a) && grps.any (groupHas sel y.2)
    { c with
      parityBad := c.parityBad.filter fun (b : ArrayId × Nat) => !hit b.1 (b.2 / 4) [b.2 % 4]
      mismatched := c.mismatched.map fun (b : ArrayId × Nat) =>
        if b.2 % 2 = 0 ∧ hit b.1 (b.2 / 2) [0, 1, 2, 3] then (b.1, b.2 + 1) else b }

end Sys2Proof.Machine
end

