-- ==== Sys2Proof/Machine/Queue.lean ====
section
/-! DEFINITION. The vector queue and read queue (R166 to R169), drain waits (R150, R156, R388), re-commit of held
entries (R386), the values of the control and status registers (R149 to R153). -/

namespace Sys2Proof.Machine

/-- The instruction word of an entry, decoded. -/
def QEntry.instr (e : QEntry) : Option Instr :=
  match decode e.word with
  | .ok i => some i
  | .error _ => none

/-- The x destination of an entry; x0 takes no slot (R168). -/
def QEntry.dest (e : QEntry) : Option (BitVec 5) :=
  match e.instr with
  | some i => (match queuedDest i with | some r => if r = 0 then none else some r | none => none)
  | none => none

/-- Whether a committed instruction keeps its strand from issuing until it completes (R164, R354). -/
def holdsIssue : Instr → Bool
  | .tmma _ | .tmmao _ | .taccz _ | .taccld _ _ | .taccst _ _ | .vwait _ _ _ _ _ => true
  | _ => false

/-- Whether a queued instruction keeps its strand from issuing. -/
def Strand.queueHolds (st : Strand) : Bool :=
  st.queue.any fun (e : QEntry) => match e.instr with | some i => holdsIssue i | none => false

/-- Whether an entry releases its strand's lanes when it retires: a LANEREL, or one marked by an NDONE (R184,
R211). -/
def QEntry.releases (e : QEntry) : Bool :=
  decide (e.ending ≠ []) || (match e.instr with | some i => (match i with | .lanerel => true | _ => false) | none => false)

/-- Whether a strand has given up its lanes and they wait for its queue to retire: it holds none for what it
commits from then on (R184, R211). -/
def Strand.leaving (st : Strand) : Bool := (st.queue ++ st.replay).any QEntry.releases || st.lanesDue

/-- Enter an entry at the tail of a strand's queue, with a read-queue slot where it has an x destination. -/
def Strand.enqueue (st : Strand) (e : QEntry) : Strand :=
  { st with
    queue := st.queue ++ [e]
    readq := match e.dest with
      | some r => st.readq ++ [⟨r, none, false⟩]
      | none => st.readq }

/-- Whether a strand's queues have room for an entry (R164). -/
def Strand.hasRoom (st : Strand) (dest : Option (BitVec 5)) : Bool :=
  decide (st.queue.length < 32) && (dest.isNone || decide ((st.readq.filter fun (r : ReadSlot) => !r.dropped).length < 8))

/-- Re-commit held entries in order while there is room, else wait for a slot (R386): an entry captures VSTART as it stands,
which the first leaves 0. -/
def Strand.recommit (st : Strand) : Nat → Strand
  | 0 => st
  | fuel + 1 =>
    match st.replay with
    | [] => { st with wait := if st.wait = some .slot then none else st.wait }
    | e :: rest =>
      if st.hasRoom e.dest then
        ({ st with replay := rest, vstart := 0 }.enqueue { e with vstart := st.vstart, again := true }).recommit fuel
      else { st with wait := some .slot }

/-- Begin the re-commit at TRET, or go on with one that a trap has cut short (R386). -/
def Strand.startRecommit (st : Strand) : Strand := if st.replay = [] then st else st.recommit 33

/-- Discard the held entries (R385, R389). -/
def Strand.discardReplay (st : Strand) : Strand := { st with replay := [] }

/-- Wait until the acting strand's live queue is empty, then go on (R156, R387). A head frozen on a pending
fault makes the wait a double trap (R388). -/
def State.drained (s : State) (k : State → State) : State :=
  if s.me.queue = [] then k s
  else match s.me.vfault with
    | some f => if s.me.tact then s.doubleTrap f.cause f.tval else s.park .drain
    | none => s.park .drain

/-! ### Values of the registers -/

/-- Whether a format register's fields describe a legal format (R51). -/
def fmtValid (f : BitVec 18) : Bool :=
  let e := (f.extractLsb' 1 3).toNat
  decide (1 ≤ e ∧ (f.extractLsb' 0 1).toNat + e + (f.extractLsb' 4 3).toNat ≤ 8) &&
    decide (f.extractLsb' 15 2 ≠ 3)

/-- FMTn as it reads, with VALID in bit 31 (R50). -/
def fmtWord (f : BitVec 18) : Word := (f.zeroExtend 64) ||| flagAt (fmtValid f) 31

/-- TCAUSE as it reads (R153). -/
def Strand.tcauseWord (st : Strand) : Word := st.cause.zeroExtend 64 ||| flagAt st.causeSw 63

/-- TSTAT as it reads (R153). -/
def Strand.tstatWord (st : Strand) : Word :=
  flagAt st.latch 6 ||| flagAt st.tact 4 ||| word (st.ppriv.toNat * 4 + st.priv.toNat)

/-- TREEP as it reads (R363). -/
def Strand.treepWord (st : Strand) : Word :=
  flagAt st.treeRoot 63 ||| word (st.treeDev.toNat * 2 ^ 48 + st.treeLcore.toNat)

/-- VFQPOS as it reads (R385). -/
def Strand.vfqposWord (st : Strand) : Word :=
  match st.replay with
  | [] => 0
  | _ :: rest => flagAt true 63 ||| word rest.length

/-- An address register whose bits [51:2] are held (R153). -/
def addr50 (a : BitVec 50) : Word := word (a.toNat * 4)

/-- A per-strand CSR as it reads (R151). -/
def Strand.csr (st : Strand) (t : StrandId) (n : Nat) : Word :=
  match n with
  | 0x000 => st.vtype.zeroExtend 64
  | 0x001 => st.vlen.zeroExtend 64
  | 0x002 => st.vstart.zeroExtend 64
  | 0x003 => st.vstat.zeroExtend 64
  | 0x004 => st.vicount
  | 0x005 => st.rndseed
  | 0x008 => fmtWord st.fmt[0]
  | 0x009 => fmtWord st.fmt[1]
  | 0x00a => fmtWord st.fmt[2]
  | 0x00b => fmtWord st.fmt[3]
  | 0x010 => st.chanmap.zeroExtend 64
  | 0x011 => st.treepWord
  | 0x012 => word (st.sbbase.toNat * 2048)
  | 0x015 => word t.val
  | 0x104 => st.vfqposWord
  | 0x105 => st.vfelem.zeroExtend 64
  | 0x108 => addr50 st.trapvec
  | 0x109 => st.tcauseWord
  | 0x10a => st.tval
  | 0x10b => addr50 st.tepc
  | 0x10c => st.tstatWord
  | 0x10d => st.tscratch
  | _ => 0

/-- LCORE as it reads (R83). -/
def State.lcoreWord (s : State) (p : CoreId) : Word :=
  match (s.core p).serves with
  | none => 0
  | some c =>
    let e := (s.ctx c).entry
    word ((e.height - 1) * 2 ^ 21 + (e.width - 1) * 2 ^ 16 + (s.core p).lcore.toNat)

/-- A CSR as it reads on strand t of core p (R151, R152). CTXID is loaded at a take-up; it reads 0 on a core that serves no
context, which the spec leaves open (assumption 84). -/
def State.csr (s : State) (p : CoreId) (t : StrandId) (n : Nat) : Word :=
  let c := s.core p
  match n with
  | 0x013 => word (c.npool.toNat * 32)
  | 0x014 => s.lcoreWord p
  | 0x016 => word s.coreCycle
  | 0x017 => match c.serves with | some k => word k.val | none => 0
  | 0x020 => c.capmask.extractLsb' 0 64
  | 0x021 => c.capmask.extractLsb' 64 64
  | 0x100 => c.ovt.zeroExtend 64
  | 0x101 => c.poolV.zeroExtend 64
  | 0x102 => c.poolS.zeroExtend 64
  | 0x103 => c.poolC.zeroExtend 64
  | 0x106 => c.cpyshare.zeroExtend 64
  | _ => if 0x040 ≤ n ∧ n < 0x060 then c.lanepart (n - 0x040) else (s.strand p t).csr t n

/-- The value a CSR instruction would store in RW fields (R149). -/
def csrApply (op : CsrOp) (old v : Word) : Word :=
  match op with
  | .write => v
  | .set => old ||| v
  | .clear => old &&& ~~~v

/-- The bits of W1C fields that a CSR instruction clears (R149). -/
def csrClears (op : CsrOp) (v : Word) : Word :=
  match op with
  | .set => 0
  | _ => v

/-- OVT with each field of value 3 stored as 0 (R62). -/
def ovtStore (v : BitVec 16) : BitVec 16 :=
  (List.range 8).foldl (fun a k =>
    if v.extractLsb' (2 * k) 2 = (3 : BitVec 2) then a else a ||| (v &&& BitVec.ofNat 16 (3 * 4 ^ k))) 0

/-- A strand with a per-strand CSR written, CHANMAP apart (R151). -/
def Strand.writeCsr (st : Strand) (n : Nat) (op : CsrOp) (old v : Word) : Strand :=
  let nv := csrApply op old v
  match n with
  | 0x002 => { st with vstart := nv.extractLsb' 0 25 }
  | 0x003 => { st with vstat := st.vstat &&& ~~~((csrClears op v).extractLsb' 0 5 &&& 0x1e) }
  | 0x004 => { st with vicount := nv }
  | 0x005 => { st with rndseed := nv }
  | 0x008 => { st with fmt := st.fmt.set 0 (nv.extractLsb' 0 18) }
  | 0x009 => { st with fmt := st.fmt.set 1 (nv.extractLsb' 0 18) }
  | 0x00a => { st with fmt := st.fmt.set 2 (nv.extractLsb' 0 18) }
  | 0x00b => { st with fmt := st.fmt.set 3 (nv.extractLsb' 0 18) }
  | 0x011 => { st with treeRoot := bit nv 63, treeDev := nv.extractLsb' 48 9, treeLcore := nv.extractLsb' 0 10 }
  | 0x012 => { st with sbbase := nv.extractLsb' 11 45 }
  | 0x104 => if bit (csrClears op v) 63 then st.discardReplay else st
  | 0x105 => { st with vfelem := nv.extractLsb' 0 25 }
  | 0x108 => { st with trapvec := nv.extractLsb' 2 50 }
  | 0x109 => { st with causeSw := bit nv 63, cause := nv.extractLsb' 0 16 }
  | 0x10a => { st with tval := nv }
  | 0x10b => { st with tepc := nv.extractLsb' 2 50 }
  | 0x10c => { st with tact := bit nv 4, ppriv := nv.extractLsb' 2 2 }
  | 0x10d => { st with tscratch := nv }
  | _ => st

/-- A core with a per-core CSR written, the pool boundaries apart (R151). -/
def Core.writeCsr (c : Core) (n : Nat) (op : CsrOp) (old v : Word) : Core :=
  let nv := csrApply op old v
  match n with
  | 0x013 => { c with npool := nv.extractLsb' 5 43 }
  | 0x100 => { c with ovt := ovtStore (nv.extractLsb' 0 16) }
  | 0x106 => { c with cpyshare := nv.extractLsb' 0 8 }
  | _ => c

/-- Whether task level may read a CSR (R151). -/
def csrTaskReads (n : Nat) : Bool := !decide (0x108 ≤ n ∧ n ≤ 0x10d)

/-- Whether a write at task level is permitted, RO included: an RO write is ignored (R151). -/
def csrTaskWrites (n : Nat) : Bool :=
  decide (n ≤ 0x003) || decide (n = 0x005) || decide (0x008 ≤ n ∧ n ≤ 0x00b) || decide (0x010 ≤ n ∧ n ≤ 0x012) ||
    decide (0x014 ≤ n ∧ n < 0x060)

/-- CSRs whose access waits for the vector queue (R150). -/
def csrDrains (n : Nat) : Bool :=
  decide (n = 0x003 ∨ n = 0x004 ∨ n = 0x001 ∨ n = 0x002 ∨ n = 0x104 ∨ n = 0x105)

end Sys2Proof.Machine
end

