-- ==== Sys2Proof/Machine/Server.lean ====
section
/-! DEFINITION. Channels and their deposits (R356 to R359), reduction servers (R363, R364), the messages of the
caravan network on their arrival (R94), and how a strand leaves a wait. -/

namespace Sys2Proof.Machine

/-- The enabled map of CHANMAP that binds a channel: which of v28 to v31, and the width (R356). -/
def chanBinding (m : BitVec 32) (ch : BitVec 2) : Option (Nat × Nat) :=
  (List.range 4).findSome? fun k =>
    if m.getLsbD (8 * k + 7) ∧ m.extractLsb' (8 * k) 2 = ch then
      some (28 + k, sewBits (m.extractLsb' (8 * k + 4) 3).toNat) else none

/-- A strand whose SEND or RED message has been accepted goes on (R358). -/
def State.accepted (s : State) (p : CoreId) (t : StrandId) : State :=
  let st := s.strand p t
  if st.wait = some .deposit then s.setStrand p t { st with wait := none, pc := st.pc + 4 } else s

/-- A VSEND whose deposit has been accepted is complete (R358). -/
def State.vsendAccepted (s : State) (p : CoreId) (t : StrandId) : State :=
  let st := s.strand p t
  match st.head with
  | some h => s.setStrand p t { st with head := some { h with finished := true } }
  | none => s

/-- A RED message has been accepted: its SEND goes on, or its VSEND has one element less to deliver (R358). -/
def State.redAccepted (s : State) (p : CoreId) (t : StrandId) (vector : Bool) : State :=
  if !vector then s.accepted p t
  else
    let st := s.strand p t
    match st.head with
    | some h => s.setStrand p t { st with head := some { h with
        steps := h.steps - 1, finished := decide (h.steps ≤ 1) } }
    | none => s

/-- Whether a deposit can land: its channel is bound, and none of its lanes that the strand holds has an
arrival bit set (R357, R359). -/
def Core.canLand (c : Core) (d : Deposit) : Bool :=
  let st := c.strands[d.strand]
  match chanBinding st.chanmap d.ch with
  | none => false
  | some _ => (List.range d.elems.length).all fun j =>
      decide (st.lanesHeld ≤ d.offset + j) || !(c.lane st.part (d.offset + j)).arrived.getLsbD d.ch.toNat

/-- Land a deposit (R357): rows 0 to W−1 of the bound register, whose parity is regenerated (R204), and the arrival bits. -/
def Core.land (c : Core) (d : Deposit) : Core :=
  let st := c.strands[d.strand]
  match chanBinding st.chanmap d.ch with
  | none => c
  | some (reg, w) =>
    let rec go (c : Core) (j : Nat) : List (Option (BitVec 64)) → Core
      | [] => c
      | e :: es =>
        if st.lanesHeld ≤ d.offset + j then go c (j + 1) es
        else
          let l := c.lane st.part (d.offset + j)
          let l1 := match e with
            | some v => l.withRows (32 * reg) w v.toNat
            | none => l
          go (c.setLane st.part (d.offset + j)
            { l1 with arrived := l1.arrived ||| BitVec.ofNat 4 (2 ^ d.ch.toNat) }) (j + 1) es
    let sent (j : Nat) : Bool := decide (d.offset ≤ j) && ((d.elems[j - d.offset]?).join).isSome
    (go c 0 d.elems).regen st.part [(32 * reg, w)] sent

/-- Land every deposit of a waystation that may land, in order, one behind another in each channel (R359). -/
def State.landAll (s : State) (p : CoreId) : List Deposit → List Deposit → State
  | [], kept => s.setCore p { s.core p with channels := kept }
  | d :: rest, kept =>
    if (kept.any fun (k : Deposit) => decide (k.strand = d.strand ∧ k.ch = d.ch)) || !(s.core p).canLand d then
      s.landAll p rest (kept ++ [d])
    else
      let s1 := s.setCore p ((s.core p).land d)
      let s2 := s1.setLatch p d.strand
      let s3 := if d.vector then s2.vsendAccepted d.fromCore d.fromStrand else s2.accepted d.fromCore d.fromStrand
      s3.landAll p rest kept

/-- Try the deposits held at a waystation. -/
def State.landDeposits (s : State) (p : CoreId) : State := s.landAll p (s.core p).channels []

/-- Whether core p serves logical core l of context c. -/
def State.servesAs (s : State) (p : CoreId) (c : CtxId) (l : Nat) : Bool :=
  decide ((s.core p).serves = some c ∧ (s.core p).lcore.toNat = l)

/-- A deposit arrives at the core that serves its logical core, else the base die holds it (R89, R359). -/
def State.receiveDeposit (s : State) (d : Deposit) : State :=
  let k := s.ctx d.ctx
  match (if k.aborted || decide (d.lcore.toNat ∈ k.preempted) then none else k.route d.lcore.toNat) with
  | some p =>
    if s.servesAs p d.ctx d.lcore.toNat then
      (s.setCore p { s.core p with channels := (s.core p).channels ++ [d] }).landDeposits p
    else s.setCtx d.ctx { k with heldMsgs := k.heldMsgs ++ [.deposit d] }
  | none => s.setCtx d.ctx { k with heldMsgs := k.heldMsgs ++ [.deposit d] }

/-! ### Reduction servers -/

/-- The element type of a server's record (R363): none when CLASS and SEW do not go together. -/
def recordTy (w : Word) (ovt : BitVec 16) : Option ETy :=
  let sew := field w 2 0
  match field w 5 3 with
  | 0 => if sew = 4 ∨ sew = 5 then some (.int true (sewBits sew)) else none
  | 1 => if sew = 4 ∨ sew = 5 then some (.int false (sewBits sew)) else none
  | 2 => match sew with
    | 3 => some (.fp (fp16 ovt))
    | 4 => some (.fp (fp32 ovt))
    | 5 => some (.fp (fp64 ovt))
    | _ => none
  | 3 => if sew = 3 then some (.fp (bf16 ovt)) else none
  | _ => none

/-- One combination of two elements: 0 add, 1 min, 2 max, with the flags of its rounding (R361, R364). -/
def combine (t : ETy) (op mode r : Nat) (a b : Nat) : Nat × VFlags :=
  match t with
  | .int sgn w =>
    let x : Int := if sgn then signed w a else (a % 2 ^ w : Nat)
    let y : Int := if sgn then signed w b else (b % 2 ^ w : Nat)
    (wrap w (if op = 0 then x + y else if op = 1 then min x y else max x y), 0)
  | .fp f =>
    let fl := snanFlag [f.value a, f.value b]
    if op = 0 then
      let (x, f1) := fpAdd mode (f.value a) (f.value b)
      let (c, f2) := f.finish mode r x
      (c, fl ||| f1 ||| f2)
    else (fpMinMax f (op = 2) a b, fl)

/-- Insert a contribution in ascending key order. -/
def insertKey (k v : Nat) : List (Nat × Nat) → List (Nat × Nat)
  | [] => [(k, v)]
  | (a, b) :: rest => if k < a then (k, v) :: (a, b) :: rest else (a, b) :: insertKey k v rest

/-- The result of a round: local values by strand, then children by (device, logical core) (R364). -/
def Server.partial' (v : Server) (ovt : BitVec 16) : Nat :=
  let loc := (v.locals.filter fun (c : Nat × Nat × Word) => c.1 = v.round).foldl
    (fun l c => insertKey c.2.1 c.2.2.toNat l) []
  let chi := (v.children.filter fun (c : Nat × Nat × Nat × Word) => c.1 = v.round).foldl
    (fun l c => insertKey (c.2.1 * 1024 + c.2.2.1) c.2.2.2.toNat l) []
  match recordTy v.rec0 ovt with
  | none => 0
  | some t =>
    match (loc ++ chi).map (fun (c : Nat × Nat) => c.2 % 2 ^ t.width) with
    | [] => 0
    | x :: xs => xs.foldl (fun a b => (combine t (field v.rec0 7 6) (field v.rec0 10 8) 0 a b).1) x

/-- Send a RED message of the server on core p to (device, logical core): no SEND waits for it. -/
def State.sendRed (s : State) (p : CoreId) (c : CtxId) (t : StrandId) (dev lcore : Nat) (v : Word) : State :=
  let m : RedMsg := ⟨false, c, none, (s.core p).lcore, none, t, BitVec.ofNat 10 lcore, false, v⟩
  if dev = s.devnum.toNat then s.sendTo c lcore (fun _ => .red m) (.red m)
  else { s with net := s.net ++ [.redOut (BitVec.ofNat 9 dev) { m with fromDev := some s.devnum }] }

/-- The end of a round: the result to every child, the next result word emptied, this one filled (R364). -/
def State.finishRound (s : State) (p : CoreId) (c : CtxId) (v : Server) (res : Word) : State :=
  let kids := (v.children.filter fun (x : Nat × Nat × Nat × Word) => x.1 = v.round).map fun x => (x.2.1, x.2.2.1)
  let s1 := kids.foldl (fun (a : State) (k : Nat × Nat) => a.sendRed p c v.strand k.1 k.2 res) s
  let (now, nxt) := if v.round % 2 = 0 then (v.pa0, v.pa1) else (v.pa1, v.pa0)
  let s2 := (((s1.setFull nxt false).serve nxt).fillWord ⟨now, false, 32⟩ res)
  s2.setCore p { s2.core p with server := some { v with
    round := v.round + 1
    waitingParent := false
    locals := v.locals.filter fun (x : Nat × Nat × Word) => x.1 ≠ v.round
    children := v.children.filter fun (x : Nat × Nat × Nat × Word) => x.1 ≠ v.round } }

/-- A contribution to a round, or to the next one if its sender has given for this one already (R364): a sender two rounds
ahead is held. `isLocal` says that a strand of the server's own logical core sent it. -/
def Server.collect (v : Server) (isLocal : Bool) (dev : Nat) (m : RedMsg) : Option Server :=
  if isLocal then
    let k := m.fromStrand.val
    let has (r : Nat) : Bool := v.locals.any fun (x : Nat × Nat × Word) => x.1 = r ∧ x.2.1 = k
    if !has v.round then some { v with locals := v.locals ++ [(v.round, k, m.value)] }
    else if !has (v.round + 1) then some { v with locals := v.locals ++ [(v.round + 1, k, m.value)] }
    else none
  else
    let has (r : Nat) : Bool := v.children.any fun (x : Nat × Nat × Nat × Word) =>
      x.1 = r ∧ x.2.1 = dev ∧ x.2.2.1 = m.fromLcore.toNat
    if !has v.round then some { v with children := v.children ++ [(v.round, dev, m.fromLcore.toNat, m.value)] }
    else if !has (v.round + 1) then
      some { v with children := v.children ++ [(v.round + 1, dev, m.fromLcore.toNat, m.value)] }
    else none

/-- Whether a message comes from a strand of the logical core that it is for. -/
def redLocal (m : RedMsg) : Bool := m.fromDev.isNone && decide (m.fromLcore = m.lcore)

/-- The device that a message comes from. -/
def State.redFrom (s : State) (m : RedMsg) : Nat := (m.fromDev.getD s.devnum).toNat

/-- A message whose sender has gone on already. -/
def redTaken (m : RedMsg) : RedMsg := { m with fromCore := none }

/-- The sender of a RED message goes on (R358), unless it has done so already. -/
def State.redSenderGoes (s : State) (m : RedMsg) : State :=
  match m.fromCore with
  | some q => s.redAccepted q m.fromStrand m.vector
  | none => s

/-- Without a server, messages are held at the waystation, and their senders go on (R364). -/
def State.redHold (s : State) (p : CoreId) : State :=
  let l := (s.core p).redHeld
  l.foldl (fun (a : State) m => a.redSenderGoes m) (s.setCore p { s.core p with redHeld := l.map redTaken })

/-- What the server does with one message: none when it stays held (R364). A STOP ends an RSERVE that waits; while the
server's strand is in a trap the STOP stays held. -/
def State.serverTake (s : State) (p : CoreId) (c : CtxId) (v : Server) (m : RedMsg) : Option State :=
  let st := (s.core p).strands[v.strand]
  let dev := s.redFrom m
  if m.stop then
    if !redLocal m then some s
    else if st.wait ≠ some .server || v.waitingParent || (v.locals.any fun (x : Nat × Nat × Word) => x.1 = v.round) ||
        (v.children.any fun (x : Nat × Nat × Nat × Word) => x.1 = v.round) then none
    else
      let s1 := s.setCore p { s.core p with server := none }
      some (s1.setStrand p v.strand { st with wait := none, pc := st.pc + 4 })
  else if !redLocal m && v.waitingParent && !st.treeRoot &&
      decide (st.treeDev.toNat = dev ∧ st.treeLcore = m.fromLcore) then
    some (s.finishRound p c v (word (m.value.toNat %
      2 ^ ((recordTy v.rec0 (s.core p).ovt).map ETy.width).getD 64)))
  else (v.collect (redLocal m) dev m).map fun v1 => s.setCore p { s.core p with server := some v1 }

/-- Complete a round whose contributions are all held (R364). -/
def State.serverRound (s : State) (p : CoreId) (c : CtxId) : State :=
  match (s.core p).server with
  | none => s
  | some v =>
    let n := (v.locals.filter fun (x : Nat × Nat × Word) => x.1 = v.round).length
    let m := (v.children.filter fun (x : Nat × Nat × Nat × Word) => x.1 = v.round).length
    if v.waitingParent || n ≠ field v.rec0 31 24 || m ≠ field v.rec0 23 16 then s
    else
      let st := (s.core p).strands[v.strand]
      let r := word (v.partial' (s.core p).ovt)
      if st.treeRoot then s.finishRound p c v r
      else (s.setCore p { s.core p with server := some { v with waitingParent := true } }).sendRed p c v.strand
        st.treeDev.toNat st.treeLcore.toNat r

/-- Let the server of core p take, one at a time, the first message held at its waystation that it can take, until it can
take none: a message held for a later round, or a STOP, is looked at again after each (R364). -/
def State.serverTakes (s : State) (p : CoreId) (c : CtxId) : Nat → State
  | 0 => s
  | fuel + 1 =>
    match (s.core p).server with
    | none => s.redHold p
    | some v =>
      match ((s.core p).redHeld.zipIdx).findSome? fun (x : RedMsg × Nat) =>
          (s.serverTake p c v x.1).map fun s1 => (x.1, x.2, s1) with
      | none => s
      | some (m, k, s1) =>
        let s2 := (s1.setCore p { s1.core p with redHeld := (s.core p).redHeld.eraseIdx k }).redSenderGoes m
        (s2.serverRound p c).serverTakes p c fuel

/-- The server of core p goes on as far as what it has lets it: it may hold all of two rounds when it resumes (R364). -/
def State.serverRun (s : State) (p : CoreId) (c : CtxId) : State :=
  ((s.serverRound p c).serverRound p c).serverTakes p c ((s.core p).redHeld.length + 1)

/-- A RED message for a pre-empted logical core whose unit goes on collecting (R364, R394): a contribution is held there
for its round, whose end waits for the resumption (assumption 28). -/
def State.keptTakes (s : State) (c : CtxId) (m : RedMsg) : Option State :=
  let k := s.ctx c
  match k.saved.find? fun (x : Nat × Kept) => x.1 = m.lcore.toNat with
  | none => none
  | some (l, q) =>
    match q.server with
    | none => none
    | some v =>
      let st := q.strands[v.strand]
      let isResult := !redLocal m && v.waitingParent && !st.treeRoot &&
        decide (st.treeDev.toNat = s.redFrom m ∧ st.treeLcore = m.fromLcore)
      if m.stop || isResult then none
      else (v.collect (redLocal m) (s.redFrom m) m).map fun v1 =>
        (s.setCtx c { k with saved := k.saved.map fun (x : Nat × Kept) =>
          if x.1 = l then (l, { q with server := some v1 }) else x }).redSenderGoes m

/-- A RED message arrives (R364): with no active server it is held and its sender goes on. -/
def State.receiveRed (s : State) (m : RedMsg) : State :=
  let k := s.ctx m.ctx
  let hold := s.setCtx m.ctx { k with heldMsgs := k.heldMsgs ++ [.red m] }
  if k.aborted then hold
  else if m.lcore.toNat ∈ k.preempted then (s.keptTakes m.ctx m).getD hold
  else match k.route m.lcore.toNat with
    | some p =>
      if s.servesAs p m.ctx m.lcore.toNat then
        (s.setCore p { s.core p with redHeld := (s.core p).redHeld ++ [m] }).serverRun p m.ctx
      else hold
    | none => hold

/-! ### Messages of the caravan network -/

/-- The base die holds a message for a context (R89, R394). -/
def State.holdMsg (s : State) (c : CtxId) (m : HeldMsg) : State :=
  s.setCtx c { s.ctx c with heldMsgs := (s.ctx c).heldMsgs ++ [m] }

/-- A STEAL for logical core l arrives: the victim serves it and replies with a GIVE (R96). -/
def State.receiveSteal (s : State) (v : CoreId) (c : CtxId) (l : Nat) (thief : BitVec 10) (so lo : Bool) : State :=
  if l ∈ (s.ctx c).preempted then s.holdMsg c (.steal l thief so lo)
  else
    let (ps, s1) := s.serveSteal v c thief so lo
    let out := ps.map fun x => pairMark x 1
    s1.sendTo c thief.toNat (fun q => .give q c thief.toNat out) (.pairs 1 thief.toNat out)

/-- The answer to a core's STEAL (R95, R97): pairs end the sweep, none sends the thief to its next victim. An answer that
finds its sweep ended already, with a strand in NEXT since, starts a new one. -/
def State.takeGive (s : State) (p : CoreId) (c : CtxId) (kind : Nat) (ps : List Pair) : State :=
  let s1 := s.setCore p { s.core p with asked := false }
  if ps ≠ [] then (s1.setCore p { s1.core p with sweep := none }).deliver p c ⟨kind, ps⟩
  else if !(s.core p).asked then s
  else if (s.core p).sweep.isSome then s1.sweepOn p c
  else if (s.core p).strands.toList.any fun (st : Strand) => decide (st.wait = some Wait.pair) then s1.startSweep p c none
  else s1

/-- A GIVE for logical core l arrives. -/
def State.receiveGive (s : State) (p : CoreId) (c : CtxId) (l : Nat) (ps : List Pair) : State :=
  if s.servesAs p c l then s.takeGive p c 1 ps else s.holdMsg c (.pairs 1 l ps)

/-- A FWD for logical core l arrives (R103). -/
def State.receiveFwd (s : State) (p : CoreId) (c : CtxId) (l : Nat) (x : Pair) : State :=
  if s.servesAs p c l then s.deliver p c ⟨2, [pairMark x 2]⟩ else s.holdMsg c (.pairs 2 l [pairMark x 2])

/-- A WAKE for logical core l arrives (R99): pairs at hand are popped, else the core sweeps, the pusher first. While a STEAL of
the core is out its answer goes on with the sweep (R95). -/
def State.receiveWake (s : State) (p : CoreId) (c : CtxId) (l : Nat) (pusher : BitVec 10) : State :=
  if !s.servesAs p c l then s.holdMsg c (.wake l pusher)
  else
    let s1 := s.setCore p { s.core p with hungry := false }
    if (s.core p).bag ≠ [] ∨ 0 < (s.ctx c).spills l then s1.wakePairs p
    else if (s.core p).asked then s1
    else if (s.core p).strands.toList.any (fun (st : Strand) => decide (st.wait = some Wait.pair)) then
      s1.startSweep p c (some pusher.toNat)
    else s1

/-- A message arrives (R94). A message to another device leaves the package. -/
def State.receive (s : State) (m : Msg) : State :=
  match m with
  | .steal v c l t so lo => s.receiveSteal v c l t so lo
  | .give p c l ps => s.receiveGive p c l ps
  | .fwd p c l x => s.receiveFwd p c l x
  | .wake p c l x => s.receiveWake p c l x
  | .deposit d => s.receiveDeposit d
  | .red r => s.receiveRed r
  | .redOut _ _ => s
  | .xredOut _ _ _ => s

/-- Whether two messages may not pass each other: deposits of one strand to one channel (R359), and what goes to one
device along one chain or to one server (R361, R364). -/
def Msg.ordered (a b : Msg) : Bool :=
  match a, b with
  | .deposit d, .deposit e => decide (d.fromCore = e.fromCore ∧ d.fromStrand = e.fromStrand ∧ d.ctx = e.ctx ∧
      d.lcore = e.lcore ∧ d.strand = e.strand ∧ d.ch = e.ch)
  | .red d, .red e => decide (d.fromCore = e.fromCore ∧ d.fromLcore = e.fromLcore ∧
      d.fromStrand = e.fromStrand ∧ d.ctx = e.ctx ∧ d.lcore = e.lcore)
  | .redOut d x, .redOut e y => decide (d = e ∧ x.ctx = y.ctx ∧ x.lcore = y.lcore)
  | .xredOut d g _, .xredOut e h _ => decide (d = e ∧ g = h)
  | _, _ => false

/-- Deliver the n-th message in flight, or the oldest one that it may not pass. -/
def State.deliverNth (s : State) (n : Nat) : State :=
  match s.net[n]? with
  | none => s
  | some m =>
    let k := (s.net.findIdx? fun (x : Msg) => x.ordered m).getD n
    match s.net[min k n]? with
    | none => s
    | some y => { s with net := s.net.eraseIdx (min k n) }.receive y

/-- The context of a message, none for one that leaves the package. -/
def Msg.ctx? : Msg → Option CtxId
  | .steal _ c _ _ _ _ | .give _ c _ _ | .fwd _ c _ _ | .wake _ c _ _ => some c
  | .deposit d => some d.ctx
  | .red m => some m.ctx
  | .redOut _ _ | .xredOut _ _ _ => none

/-- Deliver every message of a context that is in flight (R90). -/
def State.flushNet (s : State) (c : CtxId) : State :=
  (s.net.filter fun m => m.ctx? = some c).foldl (fun a m => a.receive m)
    { s with net := s.net.filter fun m => m.ctx? ≠ some c }

/-- Put a message on its way by the routes as they now are. -/
def State.resend (s : State) (m : Msg) : State :=
  match m with
  | .steal _ c l t so lo => s.sendTo c l (fun q => .steal q c l t so lo) (.steal l t so lo)
  | .give _ c l ps => s.sendTo c l (fun q => .give q c l ps) (.pairs 1 l ps)
  | .fwd _ c l x => s.sendTo c l (fun q => .fwd q c l x) (.pairs 2 l [pairMark x 2])
  | .wake _ c l x => s.sendTo c l (fun q => .wake q c l x) (.wake l x)
  | .deposit d => s.sendTo d.ctx d.lcore.toNat (fun _ => .deposit d) (.deposit d)
  | .red r => s.sendTo r.ctx r.lcore.toNat (fun _ => .red r) (.red r)
  | .redOut _ _ | .xredOut _ _ _ => { s with net := s.net ++ [m] }

/-- The messages of a context that are in flight take the routes of its new tables (R90). -/
def State.reroute (s : State) (c : CtxId) : State :=
  (s.net.filter fun m => m.ctx? = some c).foldl (fun a m => a.resend m)
    { s with net := s.net.filter fun m => m.ctx? ≠ some c }

/-! ### Leaving a wait -/

/-- Whether a strand may leave its wait for a trap, a halt or a save (R295, R358): an ordinary access that is
outstanding beyond the package completes first (R383). -/
def Strand.canLeave (st : Strand) : Bool := !st.awaitsAnswer && !st.muldiv

/-- A strand leaves its wait as its instruction states for a trap (R295, R316, R364): waiter entries are
dropped, a deposit not yet accepted and a lane request are withdrawn, a CPYW is left behind. The lane requests behind a
withdrawn one are served (R41). -/
def State.leaveWait (s : State) (p : CoreId) (t : StrandId) : State :=
  let st := s.strand p t
  let mineD (d : Deposit) : Bool := decide (d.fromCore = p ∧ d.fromStrand = t) && !d.vector
  let mineR (m : RedMsg) : Bool := decide (m.fromCore = some p ∧ m.fromStrand = t) && !m.vector
  let s1 := match st.wait with
    | some .deposit =>
      { s with
        net := s.net.filter fun (m : Msg) =>
          match m with
          | .deposit d => !mineD d
          | .red r | .redOut _ r => !mineR r
          | _ => true
        cores := s.cores.map fun (c : Core) => { c with
          channels := c.channels.filter fun d => !mineD d
          redHeld := c.redHeld.filter fun m => !mineR m }
        ctxs := s.ctxs.map fun (k : Ctx) => { k with
          heldMsgs := k.heldMsgs.filter fun (m : HeldMsg) =>
            match m with
            | .deposit d => !mineD d
            | .red r => !mineR r
            | _ => true } }
    | some (.copyEnd _) => s.setStrand p t { st with pc := st.pc + 4 }
    | _ => s
  let s2 := s1.unpark p t
  (s2.setCore p { s2.core p with
    laneReqs := (s2.core p).laneReqs.filter fun (r : StrandId × LaneClass) => r.1 ≠ t }).serveLanes p 16

end Sys2Proof.Machine
end

