-- ==== Sys2Proof/Machine/VNum.lean ====
section
/-! DEFINITION. What vector instructions compute on one element: integers (R213, R214, R215), floating point
(R227 to R231), conversions (R234) and the two-operand steps of reductions and scans (R241, R243). -/

namespace Sys2Proof.Machine

/-! ### Integers -/

/-- The signed or unsigned value of an element of width w under class 0 or 1. -/
def elemInt (sgn : Bool) (w n : Nat) : Int := if sgn then signed w n else (n % 2 ^ w : Nat)

/-- Quotient of R214. -/
def intDiv (sgn : Bool) (w a b : Nat) : Nat :=
  if b % 2 ^ w = 0 then 2 ^ w - 1 else wrap w (Int.tdiv (elemInt sgn w a) (elemInt sgn w b))

/-- Remainder of R214. -/
def intRem (sgn : Bool) (w a b : Nat) : Nat :=
  if b % 2 ^ w = 0 then a % 2 ^ w else wrap w (Int.tmod (elemInt sgn w a) (elemInt sgn w b))

/-- Number of 1 bits among the low n bits of v (R213). -/
def onesOf (v : Nat) : Nat → Nat
  | 0 => 0
  | n + 1 => onesOf v n + (if v.testBit n then 1 else 0)

/-- Number of 0 bits above the highest 1 bit of the low w bits, w for none (R213). -/
def zerosAbove (w v : Nat) : Nat := w - bitLen (v % 2 ^ w)

/-- The bitwise complement of w bits. -/
def notBits (w v : Nat) : Nat := 2 ^ w - 1 - v % 2 ^ w

/-- VSRA's value (R215): the sign copies shift in, under either class. -/
def sraBits (w a s : Nat) : Nat := wrap w (signed w a / (2 ^ min s (w - 1) : Nat))

/-! ### Exact functions -/

/-- The integer square root, one bit at a time from bit k − 1 down. -/
def isqrtFrom (n : Nat) : Nat → Nat → Nat
  | 0, r => r
  | k + 1, r =>
    let t := r + 2 ^ k
    isqrtFrom n k (if t * t ≤ n then t else r)

/-- The integer square root. -/
def isqrt (n : Nat) : Nat := isqrtFrom n (bitLen n / 2 + 1) 0

/-- √(m·2^e) with 2·100 bits below the leading one. -/
def exSqrt (m : Nat) (e : Int) : Ex :=
  let sh : Nat := 400 + (if e % 2 = 0 then 0 else 1)
  let n := m <<< sh
  let q := isqrt n
  ⟨false, q, (e - sh) / 2, decide (q * q ≠ n)⟩

/-- 1/√(m·2^e) for m > 0. -/
def exRsqrt (m : Nat) (e : Int) : Ex :=
  let k : Nat := 400 + 2 * bitLen m + (if e % 2 = 0 then 0 else 1)
  let n := 2 ^ k / m
  let q := isqrt n
  ⟨false, q, (-e - k) / 2, decide (q * q * m ≠ 2 ^ k)⟩

/-- m1·2^e1 / (m2·2^e2) for m2 > 0. -/
def exDiv (neg : Bool) (m1 : Nat) (e1 : Int) (m2 : Nat) (e2 : Int) : Ex :=
  let k := 200 + bitLen m2
  ⟨neg, (m1 <<< k) / m2, e1 - e2 - k, decide ((m1 <<< k) % m2 ≠ 0)⟩

/-- ceil(a / b). -/
def ceilDiv (a b : Nat) : Nat := (a + b - 1) / b

/-- Bounds of 2^(f/2^q), scaled by 2^q: the product of the roots 2^(2^−i) over the 1 bits of f, from the bounds
of the last root. -/
def pow2Bits (q f : Nat) : Nat → Nat → Nat → Nat → Nat → Nat × Nat
  | 0, _, _, lo, hi => (lo, hi)
  | k + 1, rl, rh, lo, hi =>
    let rl' := isqrt (rl <<< q)
    let rh' := isqrt (rh <<< q) + 1
    let on := f.testBit k
    pow2Bits q f k rl' rh' (if on then lo * rl' / 2 ^ q else lo) (if on then ceilDiv (hi * rh') (2 ^ q) else hi)

/-- floor(2^p · 2^f) for f = n / 2^d in (0, 1), by bounds that get tighter until they agree (R227). -/
def pow2Floor (p n d : Nat) : Nat → Nat → Nat
  | 0, _ => 2 ^ p
  | fuel + 1, q =>
    let f := if d ≤ q then n <<< (q - d) else n >>> (d - q)
    let (lo, hi0) := pow2Bits q f q (2 ^ (q + 1)) (2 ^ (q + 1)) (2 ^ q) (2 ^ q)
    let hi := if d ≤ q then hi0 else hi0 + ceilDiv hi0 (2 ^ q)
    if lo >>> (q - p) = hi >>> (q - p) then lo >>> (q - p) else pow2Floor p n d fuel (2 * q)

/-- 2^x for x = ±m·2^e. An exponent past ±5000 is beyond every format and every rounding of R59 alike. -/
def exExp2 (neg : Bool) (m : Nat) (e : Int) : Ex :=
  let p := 160
  if m = 0 then ⟨false, 1, 0, false⟩
  else if 5000 ≤ e + bitLen m ∨ (0 ≤ e ∧ 5000 ≤ m <<< e.toNat) then ⟨false, 1, if neg then -5000 else 5000, false⟩
  else if 0 ≤ e then
    let v : Int := (m <<< e.toNat : Nat)
    ⟨false, 1, if neg then -v else v, false⟩
  else
    let d := (-e).toNat
    let i : Nat := m >>> d
    let fr := m % 2 ^ d
    if 5000 ≤ i then ⟨false, 1, if neg then -5000 else 5000, false⟩
    else if fr = 0 then ⟨false, 1, if neg then -(i : Int) else i, false⟩
    else
      let n := if neg then 2 ^ d - fr else fr
      let whole : Int := if neg then -(i : Int) - 1 else i
      -- f within 2^−(p+2) of 0 or 1: the floor is known
      if n <<< (p + 2) < 2 ^ d then ⟨false, 2 ^ p, whole - p, true⟩
      else if (2 ^ d - n) <<< (p + 2) < 2 ^ d then ⟨false, 2 ^ (p + 1) - 1, whole - p, true⟩
      else ⟨false, pow2Floor p n d 8 (p + 64), whole - p, true⟩

/-- The fraction bits of log2(y / 2^q) for y in [2^q, 2^(q+1)), from bounds of y: none when the bounds part. -/
def log2Bits (q : Nat) : Nat → Nat → Nat → Nat → Option Nat
  | 0, _, _, acc => some acc
  | k + 1, lo, hi, acc =>
    let lo2 := lo * lo / 2 ^ q
    let hi2 := ceilDiv (hi * hi) (2 ^ q)
    if 2 ^ (q + 1) ≤ lo2 then log2Bits q k (lo2 / 2) (ceilDiv hi2 2) (2 * acc + 1)
    else if hi2 < 2 ^ (q + 1) then log2Bits q k lo2 hi2 (2 * acc)
    else none

/-- floor(2^p · log2(m / 2^(bitLen m − 1))), by wider and wider arithmetic (R227). -/
def log2Floor (p m : Nat) : Nat → Nat → Nat
  | 0, _ => 0
  | fuel + 1, q =>
    let y := m <<< (q + 1 - bitLen m)
    match log2Bits q p y y 0 with
    | some v => v
    | none => log2Floor p m fuel (2 * q)

/-- log2(m·2^e) for m > 0. -/
def exLog2 (m : Nat) (e : Int) : Ex :=
  let p := 160
  let x : Int := e + bitLen m - 1
  if m = 2 ^ (bitLen m - 1) then ⟨decide (x < 0), x.natAbs, 0, false⟩
  else
    let f := log2Floor p m 8 (2 * p + 64)
    if 0 ≤ x then ⟨false, x.toNat * 2 ^ p + f, -p, true⟩
    else ⟨true, x.natAbs * 2 ^ p - f - 1, -p, true⟩

/-! ### Floating point -/

/-- a·b + c or c − a·b with one rounding (R227, R228). -/
def fpFma (mode : Nat) (a b c : FpVal) : Res × VFlags :=
  match fpMulVal a b with
  | (.nan _, f) => (.nan, f)
  | (x, f) => let r := fpAdd mode x c; (r.1, f ||| r.2)

/-- Division (R228). -/
def fpDiv : FpVal → FpVal → Res × VFlags
  | .nan _, _ | _, .nan _ => (.nan, 0)
  | .inf _, .inf _ => (.nan, fInvalid)
  | .inf a, .fin b _ _ => (.inf (a != b), 0)
  | .fin a _ _, .inf b => (.num ⟨a != b, 0, 0, false⟩, 0)
  | .fin a m1 e1, .fin b m2 e2 =>
    if m2 = 0 then (if m1 = 0 then (.nan, fInvalid) else (.inf (a != b), 0))
    else (.num (exDiv (a != b) m1 e1 m2 e2), 0)

/-- Square root (R228). -/
def fpSqrt : FpVal → Res × VFlags
  | .nan _ => (.nan, 0)
  | .inf true => (.nan, fInvalid)
  | .inf false => (.inf false, 0)
  | .fin neg m e =>
    if m = 0 then (.num ⟨neg, 0, 0, false⟩, 0)
    else if neg then (.nan, fInvalid)
    else (.num (exSqrt m e), 0)

/-- Reciprocal square root (R228). -/
def fpRsqrt : FpVal → Res × VFlags
  | .nan _ => (.nan, 0)
  | .inf true => (.nan, fInvalid)
  | .inf false => (.num ⟨false, 0, 0, false⟩, 0)
  | .fin neg m e =>
    if m = 0 then (.inf neg, 0)
    else if neg then (.nan, fInvalid)
    else (.num (exRsqrt m e), 0)

/-- 2^A (R228). -/
def fpExp2 : FpVal → Res × VFlags
  | .nan _ => (.nan, 0)
  | .inf true => (.num ⟨false, 0, 0, false⟩, 0)
  | .inf false => (.inf false, 0)
  | .fin neg m e => (.num (exExp2 neg m e), 0)

/-- log2 A (R228). -/
def fpLog2 : FpVal → Res × VFlags
  | .nan _ => (.nan, 0)
  | .inf true => (.nan, fInvalid)
  | .inf false => (.inf false, 0)
  | .fin neg m e =>
    if m = 0 then (.inf true, 0)
    else if neg then (.nan, fInvalid)
    else (.num (exLog2 m e), 0)

/-- One operation of R227 on operand values, rounded once into a format. -/
def fpOp (f : FpFmt) (mode r : Nat) (ops : List FpVal) (x : Res × VFlags) : Nat × VFlags :=
  let (c, fl) := f.finish mode r x.1
  (c, fl ||| x.2 ||| snanFlag ops)

/-- The class code of R230. -/
def fpClass (f : FpFmt) (c : Nat) : Nat :=
  let neg := f.s == 1 && c.testBit (f.e + f.m)
  match f.value c with
  | .nan s => if s then 8 else 9
  | .inf n => if n then 0 else 7
  | .fin _ m _ =>
    if m = 0 then (if neg then 3 else 4)
    else if (c / 2 ^ f.m) % 2 ^ f.e = 0 then (if neg then 2 else 5)
    else (if neg then 1 else 6)

/-- VFCMP (R231): the bit and the flag. -/
def fpCompare (k : FCond) (a b : FpVal) : Bool × VFlags :=
  let isNan (x : FpVal) : Bool := match x with | .nan _ => true | _ => false
  let un := isNan a || isNan b
  let sn := snanFlag [a, b]
  let any : VFlags := if un = true then fInvalid else 0
  match k with
  | .eq => (!un && fpEq a b, sn)
  | .ne => (un || !fpEq a b, sn)
  | .lt => (!un && fpLt false a b, any)
  | .le => (!un && !fpLt false b a, any)
  | .gt => (!un && fpLt false b a, any)
  | .ge => (!un && !fpLt false a b, any)
  | .un => (un, sn)

/-- Clear or invert the sign bit (R229). -/
def fpAbsBits (f : FpFmt) (c : Nat) : Nat := if f.s = 1 then c % 2 ^ (f.e + f.m) else c
/-- VFNEG's value. -/
def fpNegBits (f : FpFmt) (c : Nat) : Nat := if f.s = 1 then c ^^^ 2 ^ (f.e + f.m) else c

/-- VFMIN and VFMAX on one element (R66, R229): a signalling NaN sets INVALID. -/
def fpMinMaxOp (f : FpFmt) (isMax : Bool) (a b : Nat) : Nat × VFlags :=
  (fpMinMax f isMax a b, snanFlag [f.value a, f.value b])

/-! ### Conversions -/

/-- Convert of R234. -/
def convert (dst : ETy) (mode r : Nat) (src : ETy) (c : Nat) : Nat × VFlags :=
  match dst, src with
  | .int sgn w, .int ssgn sw => satInt sgn w (elemInt ssgn sw c)
  | .int sgn w, .fp f => fpToInt sgn w mode r (f.value c)
  | .fp d, .int ssgn sw => d.finish mode r (intVal (elemInt ssgn sw c)).res
  | .fp d, .fp f => fpOp d mode r [f.value c] ((f.value c).res, 0)

/-- A value times a power of two. -/
def FpVal.scale (v : FpVal) (k : Int) : FpVal :=
  match v with
  | .fin n m e => .fin n m (e + k)
  | x => x

/-- floor(log2 |x|) of a nonzero finite value. -/
def FpVal.expo : FpVal → Int
  | .fin _ m e => e + bitLen m - 1
  | _ => 0

/-- The source type of a code STC (R121): its element type, and whether a block scale goes with it. A format
register that describes no legal format gives none (R51). -/
def stcType (stc : Nat) (fmt : Vector (BitVec 18) 4) (valid : BitVec 18 → Bool) (ovt : BitVec 16) :
    Option (ETy × Bool) :=
  let nar (n : Nat) (h : n < 4) : Option ETy := if valid fmt[n] then some (.fp (narrowFmt fmt[n] ovt n)) else none
  match stc with
  | 0 => some (.int true 2, false) | 1 => some (.int true 4, false) | 2 => some (.int true 8, false)
  | 3 => some (.int true 16, false) | 4 => some (.int true 32, false) | 5 => some (.int true 64, false)
  | 6 => some (.int false 2, false) | 7 => some (.int false 4, false) | 8 => some (.int false 8, false)
  | 9 => some (.int false 16, false) | 10 => some (.int false 32, false) | 11 => some (.int false 64, false)
  | 12 => some (.fp (fp16 ovt), false) | 13 => some (.fp (bf16 ovt), false)
  | 14 => some (.fp (fp32 ovt), false) | 15 => some (.fp (fp64 ovt), false)
  | 16 => (nar 0 (by decide)).map (·, false) | 17 => (nar 1 (by decide)).map (·, false)
  | 18 => (nar 2 (by decide)).map (·, false) | 19 => (nar 3 (by decide)).map (·, false)
  | 20 => some (.int true 2, true) | 21 => some (.int true 4, true) | 22 => some (.int true 8, true)
  | 23 => (nar 0 (by decide)).map (·, true) | 24 => (nar 1 (by decide)).map (·, true)
  | 25 => (nar 2 (by decide)).map (·, true) | 26 => (nar 3 (by decide)).map (·, true)
  | _ => none

/-! ### Reductions and scans -/

/-- The operations of major opcode 0x27. -/
inductive RedOp | sum | min | max | and | or | xor
deriving DecidableEq, Repr

/-- One combination of two elements; an integer sum is kept exact by its caller (R241, R243). -/
def redStep (t : ETy) (op : RedOp) (mode r : Nat) (a b : Nat) : Nat × VFlags :=
  match op with
  | .and => (a &&& b, 0)
  | .or => (a ||| b, 0)
  | .xor => (a ^^^ b, 0)
  | .sum =>
    match t with
    | .int sgn w => (wrap w (elemInt sgn w a + elemInt sgn w b), 0)
    | .fp f => fpOp f mode r [f.value a, f.value b] (fpAdd mode (f.value a) (f.value b))
  | .min =>
    match t with
    | .int sgn w => (if elemInt sgn w b < elemInt sgn w a then b else a, 0)
    | .fp f => fpMinMaxOp f false a b
  | .max =>
    match t with
    | .int sgn w => (if elemInt sgn w a < elemInt sgn w b then b else a, 0)
    | .fp f => fpMinMaxOp f true a b

/-- The identity of an empty reduction (R67). -/
def redIdentity (t : ETy) (op : RedOp) : Nat :=
  match op, t with
  | .sum, _ | .or, _ | .xor, _ => 0
  | .and, _ => 2 ^ t.width - 1
  | .min, .int sgn w => wrap w (intMax sgn w)
  | .max, .int sgn w => wrap w (intMin sgn w)
  | .min, .fp f => if f.hasInf then f.inf false else f.maxCode
  | .max, .fp f => if f.s = 0 then 0 else if f.hasInf then f.inf true else f.signBit true + f.maxCode

/-- A lone element of an FP sum, minimum or maximum: a NaN gives the canonical NaN, a signalling one sets INVALID (R49, R66,
R241). -/
def redLone (t : ETy) (op : RedOp) (a : Nat) : Nat × VFlags :=
  match t, op with
  | .fp f, .min | .fp f, .max | .fp f, .sum => fpMinMaxOp f false a a
  | _, _ => (a, 0)

/-- One level of the tree of R69 over the leaves of a level: `base` is the heap index of its first node. -/
def treeLevel (t : ETy) (op : RedOp) (mode : Nat) (rnd : Nat → Nat) (base : Nat) :
    Nat → List (Option Nat) → List (Option Nat) × VFlags
  | n, a :: b :: rest =>
    let (l, fl) := treeLevel t op mode rnd base (n + 1) rest
    match a, b with
    | some x, some y => let (c, f) := redStep t op mode (rnd (base + n)) x y; (some c :: l, fl ||| f)
    | some x, none => (some x :: l, fl)
    | none, y => (y :: l, fl)
  | _, [a] => ([a], 0)
  | _, [] => ([], 0)

/-- The tree of R69 with k levels over 2^k leaves. -/
def treeFold (t : ETy) (op : RedOp) (mode : Nat) (rnd : Nat → Nat) :
    Nat → List (Option Nat) → Option Nat × VFlags
  | 0, l => (l.head?.join, 0)
  | k + 1, l =>
    let (l1, f1) := treeLevel t op mode rnd (2 ^ k) 0 l
    let (r, f2) := treeFold t op mode rnd k l1
    (r, f1 ||| f2)

/-- The smallest k with 2^k ≥ n (R69). -/
def ceilLog2 (n : Nat) : Nat := if n ≤ 1 then 0 else Nat.log2 (n - 1) + 1

end Sys2Proof.Machine
end

