-- ==== Sys2Proof/Machine/VCommit.lean ====
section
/-! DEFINITION. Commit of vector and tile instructions: the checks of R130 to R132 with the rows that each
instruction reads and writes, the capability classes of R82, channel bindings (R356, R357), and the entry that a
commit makes (R166). -/

namespace Sys2Proof.Machine

/-- What a vector instruction reads of its strand besides x registers (R130, R166). -/
structure VCfg where
  vtype : BitVec 16
  fmt : Vector (BitVec 18) 4
  ovt : BitVec 16
  vlen : Nat
  x1 : Word
  x2 : Word

/-- What the checks of a vector instruction find: whether a combination check fails (R131, R132), its classes
(R82), the rows it reads and writes, numbered as R224 and R249 do, and its gate (R200): a mask row, or none for
every lane below VLEN. -/
structure VSpec where
  bad : Bool
  classes : List Nat
  reads : List (Nat × Nat)
  writes : List (Nat × Nat)
  gate : Option (BitVec 3)
deriving DecidableEq, Repr

/-! ### VTYPE -/

/-- FMTn of VTYPE. -/
def VCfg.fmtReg (c : VCfg) : BitVec 18 := c.fmt[vtFmt c.vtype % 4]'(Nat.mod_lt _ (by decide))

/-- The element type that VTYPE selects, scale apart (R54). -/
def VCfg.ty (c : VCfg) : Option ETy :=
  elemTy (vtClass c.vtype) (vtSew c.vtype) c.fmtReg (vtFmt c.vtype) (fmtValid c.fmtReg) c.ovt

/-- Whether VTYPE selects a block-scaled format. -/
def VCfg.scaled (c : VCfg) : Bool := decide (vtClass c.vtype = 5 ∨ vtClass c.vtype = 6)

/-- Row width of an element (R55). -/
def VCfg.w (c : VCfg) : Nat := match c.ty with | some t => t.width | none => 0

/-- Rows with the scale (R55). -/
def VCfg.rows (c : VCfg) : Nat := c.w + if c.scaled then 8 else 0

/-- G. -/
def VCfg.g (c : VCfg) : Nat := vtGroup c.vtype

/-- Whether VTYPE is legal (R131). -/
def VCfg.legal (c : VCfg) : Bool := c.ty.isSome && decide (c.rows ≤ 32 * c.g)

/-- Whether a field names a group (R131). -/
def VCfg.grp (c : VCfg) (r : Nat) : Bool := decide (r % c.g = 0 ∧ r + c.g ≤ 32)

/-- The format column of R80. -/
def formatColumn (cls sew : Nat) : Nat :=
  match cls with
  | 0 | 1 => if sew ≤ 2 then 1 else 2
  | 2 => if sew = 3 then 3 else if sew = 4 then 5 else 6
  | 3 => 4
  | 5 => 1
  | _ => 7

/-- The class of family f under VTYPE (R80). -/
def VCfg.cls (c : VCfg) (f : Nat) : Nat := 8 * f + formatColumn (vtClass c.vtype) (vtSew c.vtype)

/-- The rounding code of an instruction's RM field (R110). -/
def rmCode : Rm → Option Nat
  | .dflt => none
  | .rne => some 0 | .rtz => some 1 | .rdn => some 2 | .rup => some 3 | .rsr => some 4

/-- The rounding mode: RM, or VTYPE[15:13] (R138). -/
def VCfg.mode (c : VCfg) (rm : Rm) : Nat := (rmCode rm).getD (vtRm c.vtype)

/-- Whether the mode an instruction takes is a legal one (R131). -/
def VCfg.modeOk (c : VCfg) (rm : Rm) : Bool := decide (c.mode rm ≤ 4)

/-- Whether VTYPE selects an FP or narrow format. -/
def VCfg.isFp (c : VCfg) : Bool := match c.ty with | some (.fp _) => true | _ => false

/-- Whether VTYPE's class is one of a list and VTYPE legal. -/
def VCfg.among (c : VCfg) (l : List Nat) : Bool := c.legal && decide (vtClass c.vtype ∈ l)

/-- The element rows of a group. -/
def VCfg.span (c : VCfg) (r : Nat) : Nat × Nat := (32 * r, c.w)

/-- The element rows of a group and the scale rows. -/
def VCfg.spans (c : VCfg) (r : Nat) : List (Nat × Nat) :=
  if c.scaled then [(32 * r, c.w), (32 * (r + c.g) - 8, 8)] else [(32 * r, c.w)]

/-- A mask row as a range (R224). -/
def maskSpan (m : BitVec 3) : List (Nat × Nat) := if m = 0 then [] else [(1024 + m.toNat, 1)]

/-- Whether two groups share a register. -/
def overlaps (a n b m : Nat) : Bool := decide (a < b + m ∧ b < a + n)

/-! ### Specifications of one form each -/

/-- Rows of a second operand: a register group, or a mask row (R110). -/
def VCfg.op2Span (c : VCfg) (k : VKind) (r : BitVec 5) : List (Nat × Nat) :=
  match k with
  | .vv => [c.span r.toNat]
  | .vc => maskSpan (r.extractLsb' 0 3)
  | _ => []

/-- Whether a second operand is legal. -/
def VCfg.op2Ok (c : VCfg) (k : VKind) (r : BitVec 5) : Bool := k ≠ .vv || c.grp r.toNat

/-- A binary instruction of major opcodes 0x21 and 0x22. -/
def VCfg.binary (c : VCfg) (f : Nat) (classes : List Nat) (strict acc : Bool) (o : VArgs) : VSpec where
  bad := !c.among classes || !c.grp o.vd.toNat || !c.grp o.vs1.toNat || !c.op2Ok o.kind o.op2 ||
    (strict && (decide (o.vd = o.vs1) || decide (o.kind = .vv ∧ o.vd = o.op2)))
  classes := [c.cls f]
  reads := [c.span o.vs1.toNat] ++ c.op2Span o.kind o.op2 ++ if acc then [c.span o.vd.toNat] else []
  writes := [c.span o.vd.toNat]
  gate := some o.vm

/-- A unary instruction. -/
def VCfg.unary (c : VCfg) (f : Nat) (classes : List Nat) (o : VUnary) : VSpec where
  bad := !c.among classes || !c.grp o.vd.toNat || !c.grp o.vs1.toNat
  classes := [c.cls f]
  reads := [c.span o.vs1.toNat]
  writes := [c.span o.vd.toNat]
  gate := some o.vm

/-- A compare into a mask row. -/
def VCfg.compare (c : VCfg) (o : VCmpArgs) : VSpec where
  bad := !c.among [0, 1] || !c.grp o.vs1.toNat || !c.op2Ok o.kind o.op2
  classes := [c.cls 8]
  reads := [c.span o.vs1.toNat] ++ c.op2Span o.kind o.op2
  writes := [(1024 + o.md.toNat, 1)]
  gate := some o.vm

/-- An instruction that reads no VTYPE, of one class. -/
def maskSpec (cls : Nat) (reads : List (BitVec 3)) (write : Option (BitVec 3)) (gate : Option (BitVec 3)) : VSpec where
  bad := false
  classes := [cls]
  reads := reads.flatMap maskSpan
  writes := match write with | some m => [(1024 + m.toNat, 1)] | none => []
  gate := gate

/-- A binary op of major opcode 0x25: `rounds` is its RM when it rounds. -/
def VCfg.fpBinary (c : VCfg) (f : Nat) (acc : Bool) (vd vs1 op2 : BitVec 5) (vm : BitVec 3) (vx : Bool)
    (rounds : Option Rm) : VSpec where
  bad := !c.among [2, 3, 4] || !c.grp vd.toNat || !c.grp vs1.toNat || !(vx || c.grp op2.toNat) ||
    (match rounds with | some rm => !c.modeOk rm | none => false)
  classes := [c.cls f]
  reads := [c.span vs1.toNat] ++ (if vx then [] else [c.span op2.toNat]) ++ if acc then [c.span vd.toNat] else []
  writes := [c.span vd.toNat]
  gate := some vm

/-- A unary op of major opcode 0x25. -/
def VCfg.fpUnary (c : VCfg) (f : Nat) (vd vs1 : BitVec 5) (vm : BitVec 3) (rounds : Option Rm) (rows : Nat) : VSpec where
  bad := !c.among [2, 3, 4] || !c.grp vd.toNat || !c.grp vs1.toNat ||
    (match rounds with | some rm => !c.modeOk rm | none => false)
  classes := [c.cls f]
  reads := [c.span vs1.toNat]
  writes := [(32 * vd.toNat, rows)]
  gate := some vm

/-- The source type of an STC (R121). -/
def VCfg.stc (c : VCfg) (stc : BitVec 5) : Option (ETy × Bool) := stcType stc.toNat c.fmt fmtValid c.ovt

/-- The smallest group that holds n rows (R121). -/
def groupFor (n : Nat) : Nat := if n ≤ 32 then 1 else if n ≤ 64 then 2 else if n ≤ 128 then 4 else 8

/-- The format column of a source type (R80). -/
def stcColumn (stc : Nat) : Nat :=
  if stc ≤ 2 ∨ (6 ≤ stc ∧ stc ≤ 8) ∨ (20 ≤ stc ∧ stc ≤ 22) then 1
  else if stc ≤ 11 then 2
  else if stc = 12 then 3 else if stc = 13 then 4 else if stc = 14 then 5 else if stc = 15 then 6 else 7

/-- A conversion of major opcode 0x26 with a source type (R132, R233): `kind` 0 VCVT, 1 VNARROW, 2 VWIDEN,
3 VBQUANT, 4 VBDEQ. -/
def VCfg.conversion (c : VCfg) (kind : Nat) (o : CvtArgs) : VSpec :=
  match c.stc o.src with
  | none => ⟨true, [c.cls 12], [], [], some o.vm⟩
  | some (t, sc) =>
    let n := t.width + if sc then 8 else 0
    let gs := groupFor n
    let st := o.src.toNat
    let dst := if kind ≤ 2 then c.among [0, 1, 2, 3, 4] else if kind = 3 then c.among [5, 6] else c.among [2, 3, 4]
    let srcOk := if kind ≤ 2 then !sc else if kind = 3 then decide (12 ≤ st ∧ st ≤ 19) else sc
    let width := if kind = 1 then decide (c.w ≤ t.width) else if kind = 2 then decide (t.width ≤ c.w) else true
    let ints := match t, c.ty with | .int _ _, some (.int _ _) => decide (kind ≤ 2) | _, _ => false
    { bad := !dst || !srcOk || !width || decide (o.vs1.toNat % gs ≠ 0 ∨ 32 < o.vs1.toNat + gs) || !c.grp o.vd.toNat ||
        overlaps o.vd.toNat c.g o.vs1.toNat gs || (!ints && !c.modeOk o.rm)
      classes := [c.cls 12, 8 * 12 + stcColumn st]
      reads := [(32 * o.vs1.toNat, t.width)] ++ if sc then [(32 * (o.vs1.toNat + gs) - 8, 8)] else []
      writes := c.spans o.vd.toNat
      gate := some o.vm }

/-- A reduction (R122, R241): `sum` says that it takes a rounding mode. -/
def VCfg.reduction (c : VCfg) (classes : List Nat) (sum : Bool) (d vs1 : BitVec 5) (vm : BitVec 3) (toX : Bool)
    (rm : Rm) : VSpec where
  bad := !c.among classes || !c.grp vs1.toNat || !(toX || c.grp d.toNat) ||
    (sum && (if c.isFp then !c.modeOk rm else decide (rm ≠ .dflt)))
  classes := [c.cls 13]
  reads := [c.span vs1.toNat]
  writes := if toX then [] else [c.span d.toNat]
  gate := some vm

/-- A permute of major opcode 0x28 (R244): `vd` and `vs1` name groups where given, `idx` is the index register. -/
def VCfg.permute (c : VCfg) (classes : List Nat) (vd vs1 : Option (BitVec 5)) (idx : Option (BitVec 5)) (apart : Bool)
    (vm : BitVec 3) : VSpec where
  bad := !c.among classes || (vd.toList ++ vs1.toList).any (fun (r : BitVec 5) => !c.grp r.toNat) ||
    (match vd, vs1 with
     | some d, some a => apart && overlaps d.toNat c.g a.toNat c.g
     | _, _ => false) ||
    (match vd, idx with
     | some d, some x => overlaps d.toNat c.g x.toNat 1
     | _, _ => false)
  classes := [c.cls 13]
  reads := vs1.toList.flatMap (fun (r : BitVec 5) => c.spans r.toNat) ++
    idx.toList.map fun (r : BitVec 5) => (32 * r.toNat, 32)
  writes := vd.toList.flatMap fun (r : BitVec 5) => c.spans r.toNat
  gate := some vm

/-- A vector load or store of R301. -/
def VCfg.memory (c : VCfg) (load wide tiled : Bool) (classes : List Nat) (v : BitVec 5) (idx : Option (BitVec 5))
    (vm : BitVec 3) : VSpec where
  bad := !c.among classes || !c.grp v.toNat || (wide && decide (vtSew c.vtype < 2)) ||
    (tiled && decide (c.vlen % vtTile c.vtype ≠ 0)) ||
    (match idx with | some x => overlaps v.toNat c.g x.toNat 1 | none => false)
  classes := [c.cls 14]
  reads := (if load then [] else [c.span v.toNat]) ++ idx.toList.map fun (r : BitVec 5) => (32 * r.toNat, 32)
  writes := if load then c.spans v.toNat else []
  gate := some vm

/-- A vector atomic (R349). -/
def VCfg.atomic (c : VCfg) (fp cas round : Bool) (o : VAmoArgs) : VSpec :=
  let ok := c.legal && decide (4 ≤ vtSew c.vtype) &&
    (decide (vtClass c.vtype ≤ 1) || (fp && decide (vtClass c.vtype = 2)))
  let n := if cas then 2 * c.g else c.g
  { bad := !ok || !c.grp o.vs3.toNat || decide (32 < o.vs3.toNat + n) || overlaps o.vs3.toNat n o.vs2.toNat 1 ||
      (round && decide (vtClass c.vtype = 2) && !c.modeOk .dflt)
    classes := [c.cls 14]
    reads := [c.span o.vs3.toNat, (32 * o.vs2.toNat, 32)] ++ if cas then [c.span (o.vs3.toNat + c.g)] else []
    writes := [c.span o.vs3.toNat]
    gate := some o.vm }

/-- ROW, Ne and Nr of an upper-store operand (R250). -/
def usRow (x : Word) : Nat := field x 9 0
/-- Ne. -/
def usNe (x : Word) : Nat := field x 23 16 + 1
/-- Nr. -/
def usNr (x : Word) : Nat := field x 27 24 + 1

/-- The rows of a slice (R250), numbered as R249 does. -/
def VCfg.slice (c : VCfg) (x : Word) : Nat × Nat := (2048 + usRow x, usNe x * c.rows)

/-- Whether a slice fits (R250). -/
def VCfg.sliceOk (c : VCfg) (x : Word) : Bool := decide (usRow x + usNe x * c.rows ≤ 1024)

/-- BSMOV (R252). -/
def VCfg.bsmov (c : VCfg) (toUpper : Bool) (v : BitVec 5) (vm : BitVec 3) : VSpec :=
  let groups := (List.range (usNe c.x1)).map fun e => (32 * (v.toNat + e * c.g), c.rows)
  { bad := !c.among [0, 1, 2, 3, 4, 5, 6] || !c.sliceOk c.x1 ||
      decide (v.toNat % c.g ≠ 0 ∨ 32 < v.toNat + usNe c.x1 * c.g)
    classes := [c.cls 15]
    reads := if toUpper then groups else [c.slice c.x1]
    writes := if toUpper then [c.slice c.x1] else groups
    gate := some vm }

/-- IMMA (R254). -/
def VCfg.imma (c : VCfg) (vd vs1 : BitVec 5) (vm : BitVec 3) : VSpec :=
  let n := 2 * usNr c.x1
  { bad := !c.among [0, 1] || decide (2 < vtSew c.vtype) || !c.grp vs1.toNat || !c.sliceOk c.x1 ||
      decide (vd.toNat % 2 ≠ 0 ∨ 32 < vd.toNat + n) || overlaps vd.toNat n vs1.toNat c.g
    classes := [c.cls 15]
    reads := [c.span vs1.toNat, c.slice c.x1] ++ (List.range (usNr c.x1)).map fun r => (32 * (vd.toNat + 2 * r), 48)
    writes := (List.range (usNr c.x1)).map fun r => (32 * (vd.toNat + 2 * r), 48)
    gate := some vm }

/-- TMMA and TMMAO (R257 to R259). -/
def VCfg.tmma (c : VCfg) (o : TArgs) : VSpec :=
  let p := o.count.toNat + 1
  let tr := vtTile c.vtype
  let ok := c.legal && (decide (vtClass c.vtype = 2 ∨ vtClass c.vtype = 3 ∨ vtClass c.vtype = 4) ||
    decide (vtClass c.vtype ≤ 1 ∧ vtSew c.vtype = 2))
  let chain (v : BitVec 5) : Bool := decide (v.toNat % c.g = 0 ∧ v.toNat + p * c.g ≤ 32)
  { bad := !ok || decide (16 < tr ∨ c.vlen % tr ≠ 0) || !chain o.vA || !chain o.vB ||
      (if c.isFp then !c.modeOk o.rm else decide (o.rm ≠ .dflt))
    classes := [c.cls 15]
    reads := (List.range p).flatMap fun k => [c.span (o.vA.toNat + k * c.g), c.span (o.vB.toNat + k * c.g)]
    writes := []
    gate := none }

/-- TACCLD and TACCST (R261). -/
def VCfg.tacc (c : VCfg) (load : Bool) (vA : BitVec 5) : VSpec where
  bad := !c.legal || !c.grp vA.toNat || (c.isFp && !c.modeOk .dflt)
  classes := [c.cls 15]
  reads := if load then [c.span vA.toNat] else []
  writes := if load then [] else c.spans vA.toNat
  gate := none

/-- VSEND's width: SZ of its target (R358), none for a reserved code. -/
def sendWidth (x : Word) : Option Nat := if field x 19 17 ≤ 5 then some (sewBits (field x 19 17)) else none

/-- The checks and rows of each vector and tile instruction. -/
def vspec (i : Instr) (c : VCfg) : VSpec :=
  match i with
  | .vadd o | .vsub o | .vrsub o | .vmin o | .vmax o | .vsadd o | .vssub o | .vavg o => c.binary 6 [0, 1] false false o
  | .vmul o | .vmulh o | .vdiv o | .vrem o => c.binary 7 [0, 1] true false o
  | .vmac o => c.binary 7 [0, 1] true true o
  | .vabs o | .vneg o | .vpopc o | .vclz o => c.unary 6 [0, 1] o
  | .vand o | .vor o | .vxor o => c.binary 8 [0, 1, 2, 3, 4] false false o
  | .vnot o | .vmv o => c.unary 8 [0, 1, 2, 3, 4] o
  | .vsll o | .vsrl o | .vsra o => c.binary 8 [0, 1] false false o
  | .vmerge o =>
    let b := c.binary 8 [0, 1, 2, 3, 4] false false o
    { b with reads := b.reads ++ maskSpan o.vm, gate := none }
  | .vsplat vd _ vm _ => ⟨!c.among [0, 1, 2, 3, 4] || !c.grp vd.toNat, [c.cls 8], [], [c.span vd.toNat], some vm⟩
  | .vcmpeq o | .vcmpne o | .vcmplt o | .vcmple o | .vcmpgt o | .vcmpge o => c.compare o
  | .mand md a b | .mor md a b | .mxor md a b => maskSpec 64 [a, b] (some md) none
  | .mnot md a => maskSpec 64 [a] (some md) none
  | .mpopc _ a vm | .mfirst _ a vm => maskSpec 64 [a] none (some vm)
  | .mset md => maskSpec 64 [] (some md) none
  | .vmatch _ vs1 _ vm => ⟨!c.among [0, 1, 2, 3, 4] || !c.grp vs1.toNat, [c.cls 9], [c.span vs1.toNat], [], some vm⟩
  | .vwrite vd _ _ vm => ⟨!c.among [0, 1, 2, 3, 4] || !c.grp vd.toNat, [c.cls 9], [], [c.span vd.toNat], some vm⟩
  | .tgmovToMask md _ => maskSpec 72 [] (some md) none
  | .tgmovToTag _ a => maskSpec 72 [a] none none
  | .ttload _ _ => maskSpec 72 [] none none
  | .vtt o =>
    let g := c.g
    { bad := !c.among [0, 1, 2, 3, 4] || !c.grp o.vd.toNat || !c.grp o.vs1.toNat || !c.grp o.vs2.toNat
      classes := [c.cls 9]
      reads := [(32 * o.vs1.toNat, 32 * g), (32 * o.vs2.toNat, 32 * g), (32 * o.vd.toNat, 32 * g)]
      writes := [(32 * o.vd.toNat, 32 * g), (1032, 16)]
      gate := some o.vm }
  | .vfadd o | .vfsub o => c.fpBinary 10 false o.vd o.vs1 o.op2 o.vm o.vx (some o.rm)
  | .vfmul o | .vfdiv o => c.fpBinary 11 false o.vd o.vs1 o.op2 o.vm o.vx (some o.rm)
  | .vfma o | .vfnma o => c.fpBinary 11 true o.vd o.vs1 o.op2 o.vm o.vx (some o.rm)
  | .vfmin vd vs1 op2 vm vx | .vfmax vd vs1 op2 vm vx => c.fpBinary 10 false vd vs1 op2 vm vx none
  | .vfsqrt o | .vfrsq o | .vfexp2 o | .vflog2 o => c.fpUnary 11 o.vd o.vs1 o.vm (some o.rm) c.w
  | .vfabs o | .vfneg o => c.fpUnary 10 o.vd o.vs1 o.vm none c.w
  | .vfclass o => c.fpUnary 10 o.vd o.vs1 o.vm none (max c.w 4)
  | .vfcmp _ md vs1 op2 vm vx =>
    { bad := !c.among [2, 3, 4] || !c.grp vs1.toNat || !(vx || c.grp op2.toNat)
      classes := [c.cls 10]
      reads := [c.span vs1.toNat] ++ if vx then [] else [c.span op2.toNat]
      writes := [(1024 + md.toNat, 1)]
      gate := some vm }
  | .vcvt o => c.conversion 0 o
  | .vnarrow o => c.conversion 1 o
  | .vwiden o => c.conversion 2 o
  | .vbquant o => c.conversion 3 o
  | .vbdeq o => c.conversion 4 o
  | .vbscale o =>
    ⟨!c.among [5, 6] || !c.grp o.vd.toNat || !c.grp o.vs1.toNat || (decide (o.vd ≠ o.vs1) && overlaps o.vd.toNat c.g o.vs1.toNat c.g),
      [c.cls 12], c.spans o.vs1.toNat, c.spans o.vd.toNat, some o.vm⟩
  | .vredsum o | .vredsumo o => c.reduction [0, 1, 2, 3, 4] true o.d o.vs1 o.vm o.toX o.rm
  | .vredmin d vs1 vm x | .vredmax d vs1 vm x => c.reduction [0, 1, 2, 3, 4] false d vs1 vm x .dflt
  | .vredand d vs1 vm x | .vredor d vs1 vm x | .vredxor d vs1 vm x => c.reduction [0, 1] false d vs1 vm x .dflt
  | .vscansum o => c.reduction [0, 1, 2, 3, 4] true o.vd o.vs1 o.vm false o.rm
  | .vscanmin o | .vscanmax o => c.reduction [0, 1, 2, 3, 4] false o.vd o.vs1 o.vm false .dflt
  | .vslideup o | .vslidedn o => c.permute [0, 1, 2, 3, 4] (some o.vd) (some o.vs1) none true o.vm
  | .vgather vd vs1 vs2 vm => c.permute [0, 1, 2, 3, 4] (some vd) (some vs1) (some vs2) true vm
  | .vcompress o | .vexpand o => c.permute [0, 1, 2, 3, 4] (some o.vd) (some o.vs1) none true o.vm
  | .vbcast o => c.permute [0, 1, 2, 3, 4] (some o.vd) (some o.vs1) none false o.vm
  | .vextr o => c.permute [0, 1, 2, 3, 4] none (some o.vs1) none false o.vm
  | .vins o => c.permute [0, 1, 2, 3, 4] (some o.vd) none none false o.vm
  | .vbshuf vd vs1 vs2 vm => c.permute [5, 6] (some vd) (some vs1) (some vs2) true vm
  | .vidx vd _ _ => ⟨!c.among [0, 1] || !c.grp vd.toNat, [40], [], [c.span vd.toNat], none⟩
  | .vld a => c.memory true false false [0, 1, 2, 3, 4] a.v none a.vm
  | .vlds a => c.memory true true false [0, 1, 2, 3, 4] a.v none a.vm
  | .vldx a => c.memory true true false [0, 1, 2, 3, 4] a.v (some a.r2) a.vm
  | .vldt a => c.memory true true true [0, 1, 2, 3, 4] a.v none a.vm
  | .vldb a => c.memory true false false [5, 6] a.v none a.vm
  | .vldsb vd _ vm _ => c.memory true false false [0, 1, 2, 3, 4] vd none vm
  | .vst a => c.memory false false false [0, 1, 2, 3, 4] a.v none a.vm
  | .vsts a => c.memory false true false [0, 1, 2, 3, 4] a.v none a.vm
  | .vstx a => c.memory false true false [0, 1, 2, 3, 4] a.v (some a.r2) a.vm
  | .vstt a => c.memory false true true [0, 1, 2, 3, 4] a.v none a.vm
  | .vamoadd o => c.atomic true false true o
  | .vamomin o | .vamomax o => c.atomic true false false o
  | .vamoand o | .vamoor o | .vamoxor o | .vamoswap o => c.atomic false false false o
  | .vamocas o => c.atomic false true false o
  | .vwait _ md vs1 vs2 vm =>
    ⟨!c.among [0, 1] || decide (vtSew c.vtype < 4) || decide (vs1.toNat % 2 ≠ 0) || !c.grp vs2.toNat, [c.cls 13],
      [(32 * vs1.toNat, 64), c.span vs2.toNat], [(1024 + md.toNat, 1)], some vm⟩
  | .vsend vs1 _ vm =>
    let w := (sendWidth c.x1).getD 0
    ⟨decide (1024 < 32 * vs1.toNat + w), [104], [(32 * vs1.toNat, w)], [], some vm⟩
  | .xred _ vd _ vm =>
    ⟨!c.among [0, 1, 2, 3] || !c.grp vd.toNat || (c.isFp && !c.modeOk .dflt), [c.cls 13], [c.span vd.toNat],
      [c.span vd.toNat], some vm⟩
  | .bsload _ _ vm =>
    ⟨!c.among [0, 1, 2, 3, 4, 5, 6] || !c.sliceOk c.x2, [c.cls 15], [], [c.slice c.x2], some vm⟩
  | .bsmovToUpper vs1 _ vm => c.bsmov true vs1 vm
  | .bsmovFromUpper vd _ vm => c.bsmov false vd vm
  | .imma vd vs1 _ vm => c.imma vd vs1 vm
  | .tmma o | .tmmao o => c.tmma o
  | .taccz _ => ⟨!c.legal, [c.cls 15], [], [], none⟩
  | .taccld _ vA => c.tacc true vA
  | .taccst _ vA => c.tacc false vA
  | _ => ⟨false, [], [], [], none⟩

/-! ### Channels -/

/-- The enabled maps of CHANMAP: channel, first row and rows of the bound register (R356). -/
def chanRows (m : BitVec 32) : List (BitVec 2 × Nat × Nat) :=
  (List.range 4).filterMap fun k =>
    if m.getLsbD (8 * k + 7) then
      some (m.extractLsb' (8 * k) 2, 32 * (28 + k), max 32 (sewBits (m.extractLsb' (8 * k + 4) 3).toNat))
    else none

/-- Whether a row range meets any of a list. -/
def meets (r : Nat × Nat) (l : List (Nat × Nat)) : Bool :=
  l.any fun (x : Nat × Nat) => decide (0 < x.2 ∧ 0 < r.2) && overlaps r.1 r.2 x.1 x.2

/-- The channels whose bound registers an instruction reads (R357). -/
def chansRead (m : BitVec 32) (reads : List (Nat × Nat)) : BitVec 4 :=
  (chanRows m).foldl (fun (a : BitVec 4) x => if meets x.2 reads then a ||| BitVec.ofNat 4 (2 ^ x.1.toNat) else a) 0

/-! ### Commit -/

/-- What a strand's vector instruction reads at commit. -/
def State.vcfg (s : State) (i : Instr) : VCfg where
  vtype := s.me.vtype
  fmt := s.me.fmt
  ovt := s.mine.ovt
  vlen := s.me.vlen.toNat
  x1 := match xSources i with | a :: _ => s.reg a | [] => 0
  x2 := match xSources i with | _ :: b :: _ => s.reg b | _ => 0

/-- The entry that a commit makes (R166): VSTART is captured. -/
def State.entryOf (s : State) (i : Instr) (chans : BitVec 4) : QEntry :=
  let c := s.vcfg i
  { word := (encode i).getD 0, addr := s.me.pc, x1 := c.x1, x2 := c.x2, vtype := c.vtype, vlen := s.me.vlen, fmt := c.fmt,
    ovt := c.ovt, seed := s.me.rndseed, vstart := s.me.vstart, part := s.me.part, chans := chans,
    ending := [], level1 := s.levelOneAt s.me.pc, again := false, early := []
    ticket := match i with | .xred _ _ _ _ => (s.chains[fin16 (field c.x1 3 0)]).issued | _ => 0 }

/-- The classes that an object's mask admits at an address: those of the first valid object that holds it, and
none where no object does (R82; assumption 22). -/
def State.maskAt (s : State) (pa : Word) : BitVec 128 :=
  match s.objectAt s.myCtx pa.toNat with
  | some (_, o) => o.mask
  | none => 0

/-- The lowest class of a list that a mask lacks. -/
def lowestLacking (l : List Nat) (m : BitVec 128) : Option Nat :=
  (l.filter fun k => !m.getLsbD k).foldl (fun (b : Option Nat) k =>
    match b with | none => some k | some x => some (min x k)) none

/-- An XRED that commits takes its place in its chain's issue order (R361). -/
def State.chainOrder (s : State) (i : Instr) (e : QEntry) : State :=
  match i with
  | .xred _ _ _ _ =>
    let g := fin16 (field e.x1 3 0)
    let k := s.chains[g]
    if field e.x1 63 4 ≠ 0 then s
    else { s with chains := s.chains.set g { k with issued := k.issued + 1 } }
  | _ => s

/-- Commit of a vector or tile instruction of major opcodes 0x21 to 0x2f (R130, R166): with no room in its
queues it waits at its address (R164). -/
def State.commit (s : State) (i : Instr) : State :=
  let c := s.vcfg i
  let v := vspec i c
  let e := s.entryOf i (chansRead s.me.chanmap v.reads)
  if !s.me.hasRoom e.dest then s
  else if v.bad then s.trap .illegalType (flagAt true 63 ||| c.vtype.zeroExtend 64)
  else match lowestLacking v.classes (s.maskAt s.me.pc) with
  | some k => s.trap .illegalType (word k)
  | none =>
    match lowestLacking v.classes s.mine.capmask with
    | some k => s.trap .capability (word k)
    | none =>
      if (chanRows s.me.chanmap).any (fun (x : BitVec 2 × Nat × Nat) => meets x.2 v.writes) then
        s.trap .channelWrite (word e.word.toNat)
      else ((s.setMe { s.me.enqueue e with vstart := 0 }).advance).chainOrder i e

/-- A zero-step entry of major opcode 0x20 (R210, R211): it makes none of the checks of R130. -/
def State.commitPlain (s : State) (i : Instr) : State :=
  (s.setMe (s.me.enqueue (s.entryOf i 0))).advance

end Sys2Proof.Machine
end

