-- ==== Sys2Proof/Machine/VExec.lean ====
section
/-! DEFINITION. What the vector and tile instructions that access no memory do to the lanes of their strand, once
they run (R205): integers and logic (R207 to R216), masks and tags (R217 to R219), truth tables (R223), floating
point and conversions (R226 to R238), reductions, scans and permutes (R241 to R246), the upper store and in-array
products (R252, R254), the tile unit (R256 to R261). -/

namespace Sys2Proof.Machine

/-- What an entry sees as it runs: its core, partition, captured registers and vector length, the random bits of
R60, whether its object is of level 1 (R86), its context's truth-table slots and its strand's accumulators. -/
structure VEnv where
  core : Core
  part : List ArrayId
  vlen : Nat
  cfg : VCfg
  seed : Word
  vicount : Word
  level1 : Bool
  slots : Vector (List Word) 16
  acc : List (Nat × Word)

/-- What an entry leaves: lanes, flags, an x result, accumulators. -/
structure VOut where
  core : Core
  flags : VFlags
  result : Option Word
  acc : List (Nat × Word)

/-- Lane i as it stood before the instruction. -/
def VEnv.lane (v : VEnv) (i : Nat) : Lane := v.core.lane v.part i

/-- The element type of VTYPE; a legal VTYPE always has one. -/
def VEnv.ty (v : VEnv) : ETy := v.cfg.ty.getD (.int true 2)

/-- Row width. -/
def VEnv.w (v : VEnv) : Nat := v.cfg.w

/-- Whether the class is signed. -/
def VEnv.sgn (v : VEnv) : Bool := match v.ty with | .int s _ => s | .fp _ => true

/-- Elem(r, i) as bits (R138). -/
def VEnv.elem (v : VEnv) (r i : Nat) : Nat := (v.lane i).rows (32 * r) v.w

/-- Active(i) (R138). -/
def VEnv.active (v : VEnv) (vm : BitVec 3) (i : Nat) : Bool := decide (i < v.vlen) && (v.lane i).mask vm

/-- The random bits of a rounding (R60). -/
def VEnv.rnd (v : VEnv) (i j : Nat) : Nat := rsrBits v.seed v.vicount i j

/-- Nothing happens. -/
def VEnv.same (v : VEnv) : VOut := ⟨v.core, 0, none, v.acc⟩

/-- Only an x result. -/
def VEnv.toX (v : VEnv) (x : Word) (f : VFlags) : VOut := ⟨v.core, f, some x, v.acc⟩

/-- Write chosen lanes below VLEN: each from its own old contents and the old contents of all. -/
def VEnv.write (v : VEnv) (sel : Nat → Bool) (f : Nat → Lane → Lane × VFlags) : VOut :=
  let r := (List.range v.vlen).foldl (fun (a : Core × VFlags) i =>
    if sel i then
      let (l, fl) := f i (v.lane i)
      (a.1.setLane v.part i l, a.2 ||| fl)
    else a) (v.core, 0)
  ⟨r.1, r.2, none, v.acc⟩

/-- Write rows 0 to w − 1 of a group in active lanes. -/
def VEnv.each (v : VEnv) (vd : BitVec 5) (vm : BitVec 3) (f : Nat → Nat × VFlags) : VOut :=
  v.write (v.active vm) fun i l => let (x, fl) := f i; (l.withRows (32 * vd.toNat) v.w x, fl)

/-- As `each` without flags. -/
def VEnv.map (v : VEnv) (vd : BitVec 5) (vm : BitVec 3) (f : Nat → Nat) : VOut := v.each vd vm fun i => (f i, 0)

/-- Write a mask row in active lanes. -/
def VEnv.maskEach (v : VEnv) (md vm : BitVec 3) (f : Nat → Bool × VFlags) : VOut :=
  v.write (v.active vm) fun i l => let (b, fl) := f i; (l.withMask md b, fl)

/-- Write a mask row in every lane below VLEN. -/
def VEnv.maskAll (v : VEnv) (md : BitVec 3) (f : Lane → Bool) : VOut :=
  v.write (fun _ => true) fun _ l => (l.withMask md (f l), 0)

/-- The second operand of format V for lane i (R206). -/
def VEnv.op2 (v : VEnv) (k : VKind) (r : BitVec 5) (i : Nat) : Nat :=
  match k with
  | .vv => v.elem r.toNat i
  | .vx => v.cfg.x1.toNat % 2 ^ v.w
  | .vi => wrap v.w r.toInt
  | .vc => if (v.lane i).mask (r.extractLsb' 0 3) then 1 else 0

/-- A distance or position (R244): xs2, or imm5 zero-extended. -/
def VEnv.position (_v : VEnv) (k : VKind) (r : BitVec 5) (x : Word) : Nat :=
  if k = .vx then x.toNat else r.toNat

/-! ### Integers and logic -/

/-- A binary integer or logic instruction (R212, R215). -/
def VEnv.binary (v : VEnv) (o : VArgs) (f : Nat → Nat → Nat) : VOut :=
  v.map o.vd o.vm fun i => f (v.elem o.vs1.toNat i) (v.op2 o.kind o.op2 i)

/-- A unary instruction. -/
def VEnv.unary (v : VEnv) (o : VUnary) (f : Nat → Nat) : VOut :=
  v.map o.vd o.vm fun i => f (v.elem o.vs1.toNat i)

/-- VADD (R213). -/
def runVadd (v : VEnv) (o : VArgs) : VOut := v.binary o fun a b => (a + b) % 2 ^ v.w
/-- VSUB (R213). -/
def runVsub (v : VEnv) (o : VArgs) : VOut := v.binary o fun a b => wrap v.w ((a : Int) - b)
/-- VRSUB (R213). -/
def runVrsub (v : VEnv) (o : VArgs) : VOut := v.binary o fun a b => wrap v.w ((b : Int) - a)
/-- VMUL (R213). -/
def runVmul (v : VEnv) (o : VArgs) : VOut := v.binary o fun a b => a * b % 2 ^ v.w
/-- VMULH (R213). -/
def runVmulh (v : VEnv) (o : VArgs) : VOut :=
  v.binary o fun a b => wrap v.w (elemInt v.sgn v.w a * elemInt v.sgn v.w b / (2 ^ v.w : Nat))
/-- VMAC (R213). -/
def runVmac (v : VEnv) (o : VArgs) : VOut :=
  v.map o.vd o.vm fun i =>
    (v.elem o.vd.toNat i + v.elem o.vs1.toNat i * v.op2 o.kind o.op2 i) % 2 ^ v.w
/-- VDIV (R214). -/
def runVdiv (v : VEnv) (o : VArgs) : VOut := v.binary o (intDiv v.sgn v.w)
/-- VREM (R214). -/
def runVrem (v : VEnv) (o : VArgs) : VOut := v.binary o (intRem v.sgn v.w)
/-- VMIN (R213). -/
def runVmin (v : VEnv) (o : VArgs) : VOut :=
  v.binary o fun a b => if elemInt v.sgn v.w b < elemInt v.sgn v.w a then b else a
/-- VMAX (R213). -/
def runVmax (v : VEnv) (o : VArgs) : VOut :=
  v.binary o fun a b => if elemInt v.sgn v.w a < elemInt v.sgn v.w b then b else a
/-- VSADD (R213). -/
def runVsadd (v : VEnv) (o : VArgs) : VOut :=
  v.each o.vd o.vm fun i =>
    satInt v.sgn v.w (elemInt v.sgn v.w (v.elem o.vs1.toNat i) + elemInt v.sgn v.w (v.op2 o.kind o.op2 i))
/-- VSSUB (R213). -/
def runVssub (v : VEnv) (o : VArgs) : VOut :=
  v.each o.vd o.vm fun i =>
    satInt v.sgn v.w (elemInt v.sgn v.w (v.elem o.vs1.toNat i) - elemInt v.sgn v.w (v.op2 o.kind o.op2 i))
/-- VAVG (R213). -/
def runVavg (v : VEnv) (o : VArgs) : VOut :=
  v.binary o fun a b => wrap v.w ((elemInt v.sgn v.w a + elemInt v.sgn v.w b + 1) / 2)
/-- VABS (R213). -/
def runVabs (v : VEnv) (o : VUnary) : VOut := v.unary o fun a => wrap v.w (elemInt v.sgn v.w a).natAbs
/-- VNEG (R213). -/
def runVneg (v : VEnv) (o : VUnary) : VOut := v.unary o fun a => wrap v.w (-(a : Int))
/-- VPOPC (R213). -/
def runVpopc (v : VEnv) (o : VUnary) : VOut := v.unary o fun a => onesOf a v.w
/-- VCLZ (R213). -/
def runVclz (v : VEnv) (o : VUnary) : VOut := v.unary o fun a => zerosAbove v.w a
/-- VAND (R215). -/
def runVand (v : VEnv) (o : VArgs) : VOut := v.binary o fun a b => a &&& b
/-- VOR (R215). -/
def runVor (v : VEnv) (o : VArgs) : VOut := v.binary o fun a b => a ||| b
/-- VXOR (R215). -/
def runVxor (v : VEnv) (o : VArgs) : VOut := v.binary o fun a b => a ^^^ b
/-- VNOT (R215). -/
def runVnot (v : VEnv) (o : VUnary) : VOut := v.unary o (notBits v.w)
/-- VMV (R215). -/
def runVmv (v : VEnv) (o : VUnary) : VOut := v.unary o fun a => a

/-- A shift amount (R215): B's bits, all of xs2, or imm5 zero-extended. -/
def VEnv.amount (v : VEnv) (o : VArgs) (i : Nat) : Nat :=
  match o.kind with
  | .vv => v.elem o.op2.toNat i
  | .vx => v.cfg.x1.toNat
  | _ => o.op2.toNat

/-- VSLL (R215). -/
def runVsll (v : VEnv) (o : VArgs) : VOut :=
  v.map o.vd o.vm fun i =>
    if v.w ≤ v.amount o i then 0 else v.elem o.vs1.toNat i * 2 ^ v.amount o i % 2 ^ v.w
/-- VSRL (R215). -/
def runVsrl (v : VEnv) (o : VArgs) : VOut :=
  v.map o.vd o.vm fun i => if v.w ≤ v.amount o i then 0 else v.elem o.vs1.toNat i / 2 ^ v.amount o i
/-- VSRA (R215). -/
def runVsra (v : VEnv) (o : VArgs) : VOut :=
  v.map o.vd o.vm fun i => sraBits v.w (v.elem o.vs1.toNat i) (v.amount o i)
/-- VMERGE (R215): the mask operand selects, and every lane below VLEN is written. -/
def runVmerge (v : VEnv) (o : VArgs) : VOut :=
  v.write (fun _ => true) fun i l =>
    (l.withRows (32 * o.vd.toNat) v.w (if l.mask o.vm then v.elem o.vs1.toNat i else v.op2 o.kind o.op2 i), 0)
/-- VSPLAT (R215). -/
def runVsplat (v : VEnv) (vd op2 : BitVec 5) (vm : BitVec 3) (k : VKind) : VOut := v.map vd vm fun i => v.op2 k op2 i
/-- VIDX (R216). -/
def runVidx (v : VEnv) (vd : BitVec 5) (start : BitVec 11) (inc : BitVec 10) : VOut :=
  v.write (fun _ => true) fun i l =>
    (l.withRows (32 * vd.toNat) v.w (wrap v.w (start.toInt + (i : Int) * inc.toInt)), 0)

/-! ### Compares, masks, tags -/

/-- An integer compare (R208, R217). -/
def VEnv.compare (v : VEnv) (o : VCmpArgs) (f : Int → Int → Bool) : VOut :=
  v.maskEach o.md o.vm fun i =>
    (f (elemInt v.sgn v.w (v.elem o.vs1.toNat i)) (elemInt v.sgn v.w (v.op2 o.kind o.op2 i)), 0)

/-- VCMPEQ (R208). -/
def runVcmpeq (v : VEnv) (o : VCmpArgs) : VOut := v.compare o fun a b => decide (a = b)
/-- VCMPNE (R208). -/
def runVcmpne (v : VEnv) (o : VCmpArgs) : VOut := v.compare o fun a b => decide (a ≠ b)
/-- VCMPLT (R208). -/
def runVcmplt (v : VEnv) (o : VCmpArgs) : VOut := v.compare o fun a b => decide (a < b)
/-- VCMPLE (R208). -/
def runVcmple (v : VEnv) (o : VCmpArgs) : VOut := v.compare o fun a b => decide (a ≤ b)
/-- VCMPGT (R208). -/
def runVcmpgt (v : VEnv) (o : VCmpArgs) : VOut := v.compare o fun a b => decide (b < a)
/-- VCMPGE (R208). -/
def runVcmpge (v : VEnv) (o : VCmpArgs) : VOut := v.compare o fun a b => decide (b ≤ a)
/-- MAND (R217). -/
def runMand (v : VEnv) (md a b : BitVec 3) : VOut := v.maskAll md fun l => l.mask a && l.mask b
/-- MOR (R217). -/
def runMor (v : VEnv) (md a b : BitVec 3) : VOut := v.maskAll md fun l => l.mask a || l.mask b
/-- MXOR (R217). -/
def runMxor (v : VEnv) (md a b : BitVec 3) : VOut := v.maskAll md fun l => l.mask a != l.mask b
/-- MNOT (R217). -/
def runMnot (v : VEnv) (md a : BitVec 3) : VOut := v.maskAll md fun l => !l.mask a
/-- MSET (R217). -/
def runMset (v : VEnv) (md : BitVec 3) : VOut := v.maskAll md fun _ => true

/-- The active lanes with a bit of a mask row set, in ascending order. -/
def VEnv.setLanes (v : VEnv) (a vm : BitVec 3) : List Nat :=
  (List.range v.vlen).filter fun i => v.active vm i && (v.lane i).mask a

/-- MPOPC (R217). -/
def runMpopc (v : VEnv) (a vm : BitVec 3) : VOut := v.toX (word (v.setLanes a vm).length) 0
/-- MFIRST (R217). -/
def runMfirst (v : VEnv) (a vm : BitVec 3) : VOut :=
  v.toX (match v.setLanes a vm with | i :: _ => word i | [] => BitVec.allOnes 64) 0

/-- The element bits that take part in VMATCH and VWRITE (R218). -/
def VEnv.care (v : VEnv) : Nat := field v.cfg.x1 63 32 % 2 ^ min v.w 32

/-- VMATCH (R218). -/
def runVmatch (v : VEnv) (tgd : BitVec 2) (vs1 : BitVec 5) (vm : BitVec 3) : VOut :=
  v.write (v.active vm) fun i l =>
    (l.withTag tgd (decide (v.elem vs1.toNat i &&& v.care = v.cfg.x1.toNat % 2 ^ 32 &&& v.care)), 0)
/-- VWRITE (R218). -/
def runVwrite (v : VEnv) (vd : BitVec 5) (tgs : BitVec 2) (vm : BitVec 3) : VOut :=
  v.write (fun i => v.active vm i && (v.lane i).tag tgs) fun i l =>
    (l.withRows (32 * vd.toNat) v.w
      ((v.elem vd.toNat i &&& notBits 64 v.care) ||| (v.cfg.x1.toNat % 2 ^ 32 &&& v.care)), 0)
/-- TGMOV md, tgs (R219). -/
def runTgmovToMask (v : VEnv) (md : BitVec 3) (tgs : BitVec 2) : VOut := v.maskAll md fun l => l.tag tgs
/-- TGMOV tgd, ms1 (R219). -/
def runTgmovToTag (v : VEnv) (tgd : BitVec 2) (a : BitVec 3) : VOut :=
  v.write (fun _ => true) fun _ l => (l.withTag tgd (l.mask a), 0)

/-! ### Truth tables -/

/-- A sense slot of a step word (R221): base, row, key. -/
def stepSlot (w : Word) (n : Nat) : Nat × Nat × Nat :=
  (field w (10 * n + 9) (10 * n + 8), field w (10 * n + 7) (10 * n + 2), field w (10 * n + 1) (10 * n))

/-- A row write of a step word: enabled, base, source, row. -/
def stepWrite (w : Word) (n : Nat) : Bool × Nat × Nat × Nat :=
  let o := 30 + 11 * n
  (bit w (o + 10), field w (o + 9) (o + 9), field w (o + 8) (o + 6), field w (o + 5) o)

/-- The row that a base and offset name, numbered as R224 does. -/
def stepRow (o : VttArgs) (base off : Nat) : Nat :=
  match base with
  | 0 => 32 * o.vd.toNat + off
  | 1 => 32 * o.vs1.toNat + off
  | 2 => 32 * o.vs2.toNat + off
  | _ => 1032 + off

/-- The rows that a step word senses. -/
def stepSenses (o : VttArgs) (w : Word) : List Nat :=
  [0, 1, 2].filterMap fun n =>
    let (b, off, k) := stepSlot w n
    if k = 0 then none else some (stepRow o b off)

/-- A bit of a lane by row number: register rows, then work rows. -/
def Lane.rowBit (l : Lane) (r : Nat) : Bool := if r < 1024 then l.low.getLsbD r else l.work.getLsbD (r - 1032)

/-- A lane with such a bit written. -/
def Lane.withRowBit (l : Lane) (r : Nat) (b : Bool) : Lane :=
  if r < 1024 then l.withRows r 1 (if b then 1 else 0)
  else { l with work := if b then l.work ||| BitVec.ofNat 16 (2 ^ (r - 1032))
      else l.work &&& ~~~BitVec.ofNat 16 (2 ^ (r - 1032)) }

/-- A latch's new value by a write code of R221. -/
def latchWrite (code : Nat) (m old : Bool) : Bool :=
  match code with
  | 1 => old && !m
  | 2 => old || m
  | 3 => m
  | _ => old

/-- One step of a sequence in one column whose gate is open (R201, R221). -/
def stepLane (o : VttArgs) (w : Word) (l : Lane) : Lane :=
  let s (n : Nat) : Nat × Nat × Nat := stepSlot w n
  let b (n : Nat) : Bool := l.rowBit (stepRow o (s n).1 (s n).2.1)
  let key (n : Nat) : Bool := match (s n).2.2 with | 1 => !b n | 2 => b n | _ => true
  let ag := match field w 53 52 with | 1 => b 0 == b 1 | 2 => b 0 != b 1 | _ => true
  let ck := match field w 55 54 with | 1 => !l.carry | 2 => l.carry | _ => true
  let t : BitVec 2 := w.extractLsb' 58 2
  let tk := match field w 57 56 with | 1 => !l.tag t | 2 => l.tag t | _ => true
  let m := key 0 && key 1 && key 2 && ag && ck && tk
  let put (n : Nat) (x : Lane) : Lane :=
    let (en, base, src, off) := stepWrite w n
    if en && m then
      x.withRowBit (stepRow o (if base = 0 then 0 else 3) off)
        (match src with | 0 => false | 1 => true | 2 => l.carry | 3 => !l.carry | _ => !b 0)
    else x
  let x := put 1 (put 0 l)
  { x with carry := latchWrite (field w 61 60) m l.carry }.withTag t (latchWrite (field w 63 62) m (l.tag t))

/-- Whether a step names a row past a group (R223). -/
def stepTooFar (g : Nat) (w : Word) : Bool :=
  ([0, 1, 2].any fun n => let (b, off, k) := stepSlot w n; decide (k ≠ 0 ∧ b ≠ 3 ∧ 32 * g ≤ off)) ||
  ([0, 1].any fun n => let (en, b, _, off) := stepWrite w n; en && decide (b = 0 ∧ 32 * g ≤ off))

/-- Whether the slot of a VTT passes the check of R223. -/
def vttOk (v : VEnv) (o : VttArgs) : Bool := !(v.slots[o.slot.toFin]).any (stepTooFar v.cfg.g)

/-- VTT (R223) up to a number of steps of its slot. -/
def runVttTo (v : VEnv) (o : VttArgs) (n : Nat) : VOut :=
  v.write (v.active o.vm) fun _ l =>
    (((v.slots[o.slot.toFin]).take n).foldl (fun (x : Lane) w => stepLane o w x) { l with carry := false }, 0)

/-- VTT (R223). -/
def runVtt (v : VEnv) (o : VttArgs) : VOut := runVttTo v o (v.slots[o.slot.toFin]).length

/-! ### Floating point -/

/-- The FP format of VTYPE; a committed instruction of opcode 0x25 has one. -/
def VEnv.fp (v : VEnv) : FpFmt := match v.ty with | .fp f => f | .int _ _ => fp16 v.cfg.ovt

/-- The second operand of opcode 0x25 (R226). -/
def VEnv.fop2 (v : VEnv) (vx : Bool) (r : BitVec 5) (i : Nat) : Nat :=
  if vx then v.cfg.x1.toNat % 2 ^ v.w else v.elem r.toNat i

/-- A binary op of R227. -/
def VEnv.fpBinary (v : VEnv) (o : VFArgs) (f : Nat → FpVal → FpVal → Res × VFlags) : VOut :=
  let mode := v.cfg.mode o.rm
  v.each o.vd o.vm fun i =>
    let a := v.fp.value (v.elem o.vs1.toNat i)
    let b := v.fp.value (v.fop2 o.vx o.op2 i)
    fpOp v.fp mode (v.rnd i 0) [a, b] (f mode a b)

/-- VFMA and VFNMA (R227): `flip` negates the product. -/
def VEnv.fpFused (v : VEnv) (o : VFArgs) (flip : Bool) : VOut :=
  let mode := v.cfg.mode o.rm
  v.each o.vd o.vm fun i =>
    let a := v.fp.value (v.elem o.vs1.toNat i)
    let b := v.fp.value (v.fop2 o.vx o.op2 i)
    let d := v.fp.value (v.elem o.vd.toNat i)
    fpOp v.fp mode (v.rnd i 0) [a, b, d] (fpFma mode (if flip then a.neg else a) b d)

/-- A unary op of R227. -/
def VEnv.fpUnary (v : VEnv) (o : VFUnary) (f : FpVal → Res × VFlags) : VOut :=
  v.each o.vd o.vm fun i =>
    let a := v.fp.value (v.elem o.vs1.toNat i)
    fpOp v.fp (v.cfg.mode o.rm) (v.rnd i 0) [a] (f a)

/-- VFADD (R227). -/
def runVfadd (v : VEnv) (o : VFArgs) : VOut := v.fpBinary o fpAdd
/-- VFSUB (R227). -/
def runVfsub (v : VEnv) (o : VFArgs) : VOut := v.fpBinary o fun m a b => fpAdd m a b.neg
/-- VFMUL (R227). -/
def runVfmul (v : VEnv) (o : VFArgs) : VOut :=
  v.fpBinary o fun _ a b => let (x, f) := fpMulVal a b; (x.res, f)
/-- VFMA (R227). -/
def runVfma (v : VEnv) (o : VFArgs) : VOut := v.fpFused o false
/-- VFNMA (R227). -/
def runVfnma (v : VEnv) (o : VFArgs) : VOut := v.fpFused o true
/-- VFDIV (R227). -/
def runVfdiv (v : VEnv) (o : VFArgs) : VOut := v.fpBinary o fun _ a b => fpDiv a b
/-- VFSQRT (R227). -/
def runVfsqrt (v : VEnv) (o : VFUnary) : VOut := v.fpUnary o fpSqrt
/-- VFRSQ (R227). -/
def runVfrsq (v : VEnv) (o : VFUnary) : VOut := v.fpUnary o fpRsqrt
/-- VFEXP2 (R227). -/
def runVfexp2 (v : VEnv) (o : VFUnary) : VOut := v.fpUnary o fpExp2
/-- VFLOG2 (R227). -/
def runVflog2 (v : VEnv) (o : VFUnary) : VOut := v.fpUnary o fpLog2

/-- VFMIN and VFMAX (R229). -/
def VEnv.fpMinMax (v : VEnv) (isMax : Bool) (vd vs1 op2 : BitVec 5) (vm : BitVec 3) (vx : Bool) : VOut :=
  v.each vd vm fun i => fpMinMaxOp v.fp isMax (v.elem vs1.toNat i) (v.fop2 vx op2 i)
/-- VFMIN (R229). -/
def runVfmin (v : VEnv) (vd vs1 op2 : BitVec 5) (vm : BitVec 3) (vx : Bool) : VOut := v.fpMinMax false vd vs1 op2 vm vx
/-- VFMAX (R229). -/
def runVfmax (v : VEnv) (vd vs1 op2 : BitVec 5) (vm : BitVec 3) (vx : Bool) : VOut := v.fpMinMax true vd vs1 op2 vm vx
/-- VFABS (R229). -/
def runVfabs (v : VEnv) (o : VUnary) : VOut := v.unary o (fpAbsBits v.fp)
/-- VFNEG (R229). -/
def runVfneg (v : VEnv) (o : VUnary) : VOut := v.unary o (fpNegBits v.fp)
/-- VFCLASS (R230): rows 0 to 3 and zero in rows 4 to w − 1. -/
def runVfclass (v : VEnv) (o : VUnary) : VOut :=
  v.write (v.active o.vm) fun i l =>
    (l.withRows (32 * o.vd.toNat) (max v.w 4) (fpClass v.fp (v.elem o.vs1.toNat i)), 0)
/-- VFCMP (R231). -/
def runVfcmp (v : VEnv) (k : FCond) (md : BitVec 3) (vs1 op2 : BitVec 5) (vm : BitVec 3) (vx : Bool) : VOut :=
  v.maskEach md vm fun i => fpCompare k (v.fp.value (v.elem vs1.toNat i)) (v.fp.value (v.fop2 vx op2 i))

/-! ### Conversions and block scale -/

/-- The source type of a conversion (R121). -/
def VEnv.source (v : VEnv) (o : CvtArgs) : ETy := ((v.cfg.stc o.src).map (·.1)).getD (.int true 2)

/-- Source bits of lane i. -/
def VEnv.sourceBits (v : VEnv) (o : CvtArgs) (i : Nat) : Nat :=
  (v.lane i).rows (32 * o.vs1.toNat) (v.source o).width

/-- VCVT, VNARROW, VWIDEN (R234). -/
def runConvert (v : VEnv) (o : CvtArgs) : VOut :=
  v.each o.vd o.vm fun i => convert v.ty (v.cfg.mode o.rm) (v.rnd i 0) (v.source o) (v.sourceBits o i)
/-- VCVT (R234). -/
def runVcvt (v : VEnv) (o : CvtArgs) : VOut := runConvert v o
/-- VNARROW (R234). -/
def runVnarrow (v : VEnv) (o : CvtArgs) : VOut := runConvert v o
/-- VWIDEN (R234). -/
def runVwiden (v : VEnv) (o : CvtArgs) : VOut := runConvert v o

/-- First row of the scale of a group of g registers (R57). -/
def scaleRow (r g : Nat) : Nat := 32 * (r + g) - 8

/-- e_Q of R236; a format whose only finite value is zero has none (assumption 25). -/
def largestExp (t : ETy) : Int :=
  match t with
  | .int _ w => (w : Int) - 2
  | .fp f =>
    match f.value f.maxCode with
    | .fin _ 0 _ => Config.expOfZero
    | x => x.expo

/-- Whether a value is a NaN or an infinity. -/
def FpVal.special : FpVal → Bool
  | .fin _ _ _ => false
  | _ => true

/-- |a| < |b| of two finite values. -/
def FpVal.absLt : FpVal → FpVal → Bool
  | .fin _ m1 e1, .fin _ m2 e2 => magLt m1 e1 m2 e2
  | _, _ => false

/-- The scale code and whether the block holds a special value, from the values of its active lanes (R236). -/
def quantScale (t : ETy) (xs : List FpVal) : Nat × Bool :=
  if xs.any FpVal.special then (255, true)
  else
    let amax := xs.foldl (fun (a : FpVal) x => if a.absLt x then x else a) (.fin false 0 0)
    match amax with
    | .fin _ m _ =>
      if m = 0 then (127, false)
      else (min 254 (amax.expo - largestExp t + 127).toNat, false)
    | _ => (127, false)

/-- The Q-conversion of R236 of a finite value. -/
def quantValue (t : ETy) (mode r : Nat) (x : FpVal) : Nat × VFlags :=
  match t with
  | .int sgn w => fpToInt sgn w mode r x
  | .fp f => f.finish mode r x.res

/-- VBQUANT (R236). -/
def runVbquant (v : VEnv) (o : CvtArgs) : VOut :=
  let value (i : Nat) : FpVal := (v.source o).value (v.sourceBits o i)
  let scales := (List.range (ceilDiv v.vlen 32)).map fun b =>
    quantScale v.ty (((List.range 32).map (32 * b + ·)).filter (v.active o.vm) |>.map value)
  v.write (fun i => v.active o.vm i && v.active o.vm (i / 32 * 32)) fun i l =>
    let (c, bad) := (scales[i / 32]?).getD (127, false)
    let (x, fl) := if bad then (0, fInvalid)
      else quantValue v.ty (v.cfg.mode o.rm) (v.rnd i 0) ((value i).scale (127 - (c : Int)))
    ((l.withRows (32 * o.vd.toNat) v.w x).withRows (scaleRow o.vd.toNat v.cfg.g) 8 (if i % 32 = 0 then c else 0), fl)

/-- VBDEQ (R237). -/
def runVbdeq (v : VEnv) (o : CvtArgs) : VOut :=
  let gs := groupFor ((v.source o).width + 8)
  v.each o.vd o.vm fun i =>
    let c := (v.lane (i / 32 * 32)).rows (scaleRow o.vs1.toNat gs) 8
    if c = 255 then v.fp.nanResult
    else v.fp.finish (v.cfg.mode o.rm) (v.rnd i 0)
      (((v.source o).value (v.sourceBits o i)).scale ((c : Int) - 127)).res

/-- The new scale of VBSCALE (R238). -/
def newScale (x : Word) (old : Nat) : Nat × VFlags :=
  if !bit x 63 then (field x 7 0, 0)
  else if old = 255 then (255, 0)
  else
    let n : Int := old + signed 9 x.toNat
    if n < 0 then (0, fSat) else if 254 < n then (254, fSat) else (n.toNat, 0)

/-- VBSCALE (R238). Its source has the group of VTYPE (assumption 96). -/
def runVbscale (v : VEnv) (o : CvtArgs) : VOut :=
  v.write (fun i => v.active o.vm i && v.active o.vm (i / 32 * 32)) fun i l =>
    let (c, fl) := newScale v.cfg.x1 ((v.lane (i / 32 * 32)).rows (scaleRow o.vs1.toNat v.cfg.g) 8)
    ((l.withRows (32 * o.vd.toNat) v.w (v.elem o.vs1.toNat i)).withRows (scaleRow o.vd.toNat v.cfg.g) 8
      (if i % 32 = 0 then c else 0), if i % 32 = 0 then fl else 0)

/-! ### Reductions and scans -/

/-- The active elements of a group in ascending order, with their lanes. -/
def VEnv.actives (v : VEnv) (vs1 : BitVec 5) (vm : BitVec 3) : List (Nat × Nat) :=
  ((List.range v.vlen).filter (v.active vm)).map fun i => (i, v.elem vs1.toNat i)

/-- A result in an x register (R241). -/
def VEnv.extend (v : VEnv) (n : Nat) : Word :=
  match v.ty with
  | .int true w => sextTo64 w n
  | .int false w => word (n % 2 ^ w)
  | .fp f => word (n % 2 ^ f.width)

/-- The destination of a reduction (R241): xd, or lane 0 of vd, which is written whatever its mask bit. -/
def VEnv.reduceTo (v : VEnv) (d : BitVec 5) (toX : Bool) (x : Word) (fl : VFlags) : VOut :=
  if toX then v.toX x fl
  else if v.vlen = 0 then ⟨v.core, fl, none, v.acc⟩
  else ⟨v.core.setLane v.part 0 ((v.lane 0).withRows (32 * d.toNat) v.w x.toNat), fl, none, v.acc⟩

/-- The value and flags of a reduction of at least one element, as a number that its width cuts: FP sums by the
tree of R69 or in order (R68); an integer sum is exact. -/
def VEnv.reduceValue (v : VEnv) (op : RedOp) (ordered : Bool) (mode : Nat) (vs1 : BitVec 5) (vm : BitVec 3) :
    Int × VFlags :=
  let l := v.actives vs1 vm
  match v.ty, op with
  | .int sgn w, .sum => (l.foldl (fun (a : Int) x => a + elemInt sgn w x.2) 0, 0)
  | t, .sum =>
    if l.length = 1 ∨ ordered then
      match l with
      | [] => (0, 0)
      | x :: xs =>
        let r := xs.foldl (fun (a : Nat × VFlags) y =>
          let (c, f) := redStep t .sum mode (v.rnd 0 y.1) a.1 y.2; (c, a.2 ||| f)) (redLone t .sum x.2)
        (r.1, r.2)
    else
      let k := ceilLog2 v.vlen
      let leaves := (List.range (2 ^ k)).map fun i =>
        if v.active vm i then some (v.elem vs1.toNat i) else none
      let (r, f) := treeFold t .sum mode (fun j => v.rnd 0 j) k leaves
      (r.getD 0, f)
  | t, _ =>
    match l with
    | [] => (0, 0)
    | x :: xs =>
      let r := xs.foldl (fun (a : Nat × VFlags) y => let (c, f) := redStep t op mode 0 a.1 y.2; (c, a.2 ||| f))
        (redLone t op x.2)
      (r.1, r.2)

/-- A reduction (R241). -/
def VEnv.reduce (v : VEnv) (op : RedOp) (ordered : Bool) (rm : Rm) (d vs1 : BitVec 5) (vm : BitVec 3) (toX : Bool) :
    VOut :=
  if v.actives vs1 vm = [] then
    let z := if v.level1 && (op == .min || op == .max) then 0 else redIdentity v.ty op
    v.reduceTo d toX (v.extend z) fEmpty
  else
    let (x, fl) := v.reduceValue op ordered (v.cfg.mode rm) vs1 vm
    let out : Word := match v.ty, op with
      | .int _ _, .sum => wordInt x
      | _, _ => v.extend x.toNat
    v.reduceTo d toX out fl

/-- VREDSUM (R241). -/
def runVredsum (v : VEnv) (o : RedArgs) : VOut := v.reduce .sum false o.rm o.d o.vs1 o.vm o.toX
/-- VREDSUMO (R241). -/
def runVredsumo (v : VEnv) (o : RedArgs) : VOut := v.reduce .sum true o.rm o.d o.vs1 o.vm o.toX
/-- VREDMIN (R241). -/
def runVredmin (v : VEnv) (d vs1 : BitVec 5) (vm : BitVec 3) (x : Bool) : VOut := v.reduce .min false .rne d vs1 vm x
/-- VREDMAX (R241). -/
def runVredmax (v : VEnv) (d vs1 : BitVec 5) (vm : BitVec 3) (x : Bool) : VOut := v.reduce .max false .rne d vs1 vm x
/-- VREDAND (R241). -/
def runVredand (v : VEnv) (d vs1 : BitVec 5) (vm : BitVec 3) (x : Bool) : VOut := v.reduce .and false .rne d vs1 vm x
/-- VREDOR (R241). -/
def runVredor (v : VEnv) (d vs1 : BitVec 5) (vm : BitVec 3) (x : Bool) : VOut := v.reduce .or false .rne d vs1 vm x
/-- VREDXOR (R241). -/
def runVredxor (v : VEnv) (d vs1 : BitVec 5) (vm : BitVec 3) (x : Bool) : VOut := v.reduce .xor false .rne d vs1 vm x

/-- An inclusive scan (R243): a NaN that comes first is no value to move, so it is written as the canonical NaN (R49, R66;
assumption 66). -/
def VEnv.scan (v : VEnv) (op : RedOp) (rm : Rm) (vd vs1 : BitVec 5) (vm : BitVec 3) : VOut :=
  let mode := v.cfg.mode rm
  let r := (v.actives vs1 vm).foldl (fun (a : Core × Option Nat × VFlags) (x : Nat × Nat) =>
    let (run, f) := match a.2.1 with
      | some y => redStep v.ty op mode (v.rnd x.1 0) y x.2
      | none => redLone v.ty op x.2
    (a.1.setLane v.part x.1 ((v.lane x.1).withRows (32 * vd.toNat) v.w run), some run, a.2.2 ||| f))
    (v.core, none, 0)
  ⟨r.1, if (v.actives vs1 vm).isEmpty then fEmpty else r.2.2, none, v.acc⟩

/-- VSCANSUM (R243). -/
def runVscansum (v : VEnv) (o : VFUnary) : VOut := v.scan .sum o.rm o.vd o.vs1 o.vm
/-- VSCANMIN (R243). -/
def runVscanmin (v : VEnv) (o : VUnary) : VOut := v.scan .min .rne o.vd o.vs1 o.vm
/-- VSCANMAX (R243). -/
def runVscanmax (v : VEnv) (o : VUnary) : VOut := v.scan .max .rne o.vd o.vs1 o.vm

/-! ### Permutes -/

/-- VSLIDEUP (R245). -/
def runVslideup (v : VEnv) (o : VArgs) : VOut :=
  let s := v.position o.kind o.op2 v.cfg.x1
  v.write (fun i => v.active o.vm i && decide (s ≤ i)) fun i l =>
    (l.withRows (32 * o.vd.toNat) v.w (v.elem o.vs1.toNat (i - s)), 0)
/-- VSLIDEDN (R245). -/
def runVslidedn (v : VEnv) (o : VArgs) : VOut :=
  let s := v.position o.kind o.op2 v.cfg.x1
  v.map o.vd o.vm fun i => if i + s < v.vlen then v.elem o.vs1.toNat (i + s) else 0
/-- An index element (R244). -/
def VEnv.index (v : VEnv) (vs2 : BitVec 5) (i : Nat) : Nat := (v.lane i).rows (32 * vs2.toNat) 32
/-- VGATHER (R245). -/
def runVgather (v : VEnv) (vd vs1 vs2 : BitVec 5) (vm : BitVec 3) : VOut :=
  v.map vd vm fun i => let t := v.index vs2 i; if t < v.vlen then v.elem vs1.toNat t else 0
/-- VCOMPRESS (R245). -/
def runVcompress (v : VEnv) (o : VUnary) : VOut :=
  let xs := v.actives o.vs1 o.vm
  v.write (fun i => decide (i < xs.length)) fun i l =>
    (l.withRows (32 * o.vd.toNat) v.w ((xs[i]?).map (·.2) |>.getD 0), 0)
/-- VEXPAND (R245). -/
def runVexpand (v : VEnv) (o : VUnary) : VOut :=
  let act := (List.range v.vlen).filter (v.active o.vm)
  v.map o.vd o.vm fun i => v.elem o.vs1.toNat (act.takeWhile (· < i)).length
/-- VBCAST (R245). -/
def runVbcast (v : VEnv) (o : VArgs) : VOut :=
  let s := v.position o.kind o.op2 v.cfg.x1
  v.map o.vd o.vm fun _ => if s < v.vlen then v.elem o.vs1.toNat s else 0
/-- VEXTR (R245). -/
def runVextr (v : VEnv) (o : VArgs) : VOut :=
  let s := v.position o.kind o.op2 v.cfg.x1
  v.toX (if s < v.vlen then v.extend (v.elem o.vs1.toNat s) else 0) 0
/-- VINS (R245). -/
def runVins (v : VEnv) (o : VArgs) : VOut :=
  let s := v.position o.kind o.op2 v.cfg.x2
  v.write (fun i => v.active o.vm i && decide (i = s)) fun _ l =>
    (l.withRows (32 * o.vd.toNat) v.w v.cfg.x1.toNat, 0)
/-- VBSHUF (R246). -/
def runVbshuf (v : VEnv) (vd vs1 vs2 : BitVec 5) (vm : BitVec 3) : VOut :=
  let nb := ceilDiv v.vlen 32
  v.write (fun i => v.active vm (i / 32 * 32)) fun i l =>
    let t := v.index vs2 (i / 32 * 32)
    let j := 32 * t + i % 32
    let x := if t < nb ∧ j < v.vlen then v.elem vs1.toNat j else 0
    let c := if t < nb then (v.lane (32 * t)).rows (scaleRow vs1.toNat v.cfg.g) 8 else 127
    let l1 := l.withRows (32 * vd.toNat) v.w x
    (if i % 32 = 0 ∨ v.active vm i then l1.withRows (scaleRow vd.toNat v.cfg.g) 8 (if i % 32 = 0 then c else 0)
     else l1, 0)

/-! ### Upper store and in-array products -/

/-- Bits of the upper store of a lane. -/
def Lane.upperRows (l : Lane) (row n : Nat) : Nat := (l.upper.toNat >>> row) % 2 ^ n

/-- A lane with upper-store rows written. -/
def Lane.withUpper (l : Lane) (row n x : Nat) : Lane :=
  let m := (2 ^ n - 1) <<< row
  { l with upper := BitVec.ofNat 1024 ((l.upper.toNat &&& (2 ^ 1024 - 1 - m)) ||| ((x % 2 ^ n) <<< row)) }

/-- BSMOV us(xs2), vs1 (R252). -/
def runBsmovToUpper (v : VEnv) (vs1 : BitVec 5) (vm : BitVec 3) : VOut :=
  let n := v.cfg.rows
  v.write (v.active vm) fun _ l =>
    ((List.range (usNe v.cfg.x1)).foldl (fun (x : Lane) e =>
      x.withUpper (usRow v.cfg.x1 + e * n) n (l.rows (32 * (vs1.toNat + e * v.cfg.g)) n)) l, 0)
/-- BSMOV vd, us(xs2) (R252): every active lane is written, under classes 5 and 6 too. R58 would leave a block whose first lane
is inactive; the model follows R252's own pseudocode (assumption 68). -/
def runBsmovFromUpper (v : VEnv) (vd : BitVec 5) (vm : BitVec 3) : VOut :=
  let n := v.cfg.rows
  v.write (v.active vm) fun _ l =>
    ((List.range (usNe v.cfg.x1)).foldl (fun (x : Lane) e =>
      x.withRows (32 * (vd.toNat + e * v.cfg.g)) n (l.upperRows (usRow v.cfg.x1 + e * n) n)) l, 0)

/-- IMMA (R254) up to a number of output rows. -/
def runImmaTo (v : VEnv) (vd vs1 : BitVec 5) (vm : BitVec 3) (rows : Nat) : VOut :=
  let ne := usNe v.cfg.x1
  let a (r e : Nat) : Int :=
    if r * ne + e < v.vlen then elemInt v.sgn v.w (v.elem vs1.toNat (r * ne + e)) else 0
  v.write (v.active vm) fun _ l =>
    let b (e : Nat) : Int := elemInt v.sgn v.w (l.upperRows (usRow v.cfg.x1 + e * v.cfg.rows) v.w)
    ((List.range rows).foldl (fun (x : Lane) r =>
      let s := (List.range ne).foldl (fun (t : Int) e => t + a r e * b e) 0
      x.withRows (32 * (vd.toNat + 2 * r)) 48 (wrap 48 ((l.rows (32 * (vd.toNat + 2 * r)) 48 : Nat) + s))) l, 0)
/-- IMMA (R254). -/
def runImma (v : VEnv) (vd vs1 : BitVec 5) (vm : BitVec 3) : VOut := runImmaTo v vd vs1 vm (usNr v.cfg.x1)

/-! ### The tile unit -/

/-- Key of an accumulator element (R391). -/
def accKey (a : BitVec 3) (e : Nat) : Nat := 256 * a.toNat + e

/-- Element e of accumulator a. -/
def VEnv.accAt (v : VEnv) (a : BitVec 3) (e : Nat) : Word := mapGet 0 v.acc (accKey a e)

/-- The FP format of an accumulator's kind, none for INT48 (R256). -/
def VEnv.accFmt (v : VEnv) : Option FpFmt :=
  match v.ty with
  | .int _ _ => none
  | .fp f => some (if f.e = 11 then fp64 v.cfg.ovt else fp32 v.cfg.ovt)

/-- An accumulator element as its kind writes it (R256). -/
def int48 (x : Int) : Word := sextTo64 48 (wrap 48 x)

/-- Element (m, k) of the tile of a group (R257). -/
def VEnv.tile (v : VEnv) (r : Nat) (m k : Nat) : Nat := v.elem r (m * (v.vlen / vtTile v.cfg.vtype) + k)

/-- A sum in progress: its value, the ordinal of the next rounding, the flags. -/
structure Acc48 where
  x : FpVal
  j : Nat
  fl : VFlags

/-- One rounded addition of R259. -/
def accAdd (f : FpFmt) (mode : Nat) (rnd : Nat → Nat) (a : Acc48) (b : FpVal) : Acc48 :=
  let (c, fl) := fpOp f mode (rnd a.j) [a.x, b] (fpAdd mode a.x b)
  ⟨f.value c, a.j + 1, a.fl ||| fl⟩

/-- The sum of one group of up to four products (R68): a missing term passes its partner up unrounded. -/
def accGroup (f : FpFmt) (mode : Nat) (rnd : Nat → Nat) (j : Nat) : List FpVal → Option Acc48
  | [] => none
  | [a] => some ⟨a, j, 0⟩
  | [a, b] => some (accAdd f mode rnd ⟨a, j, 0⟩ b)
  | [a, b, c] => let l := accAdd f mode rnd ⟨a, j, 0⟩ b; some (accAdd f mode rnd l c)
  | a :: b :: c :: d :: _ =>
    let l := accAdd f mode rnd ⟨a, j, 0⟩ b
    let r := accAdd f mode rnd ⟨c, l.j, 0⟩ d
    some (accAdd f mode rnd ⟨l.x, r.j, l.fl ||| r.fl⟩ r.x)

/-- Groups of four, summed into the accumulator one by one (R68). -/
def accGroups (f : FpFmt) (mode : Nat) (rnd : Nat → Nat) : Nat → Acc48 → List FpVal → Acc48
  | 0, c, _ => c
  | fuel + 1, c, ps =>
    match accGroup f mode rnd c.j (ps.take 4) with
    | none => c
    | some g => accGroups f mode rnd fuel (accAdd f mode rnd ⟨c.x, g.j, c.fl ||| g.fl⟩ g.x) (ps.drop 4)

/-- The code of a value that a format holds. -/
def FpFmt.encode (f : FpFmt) (x : FpVal) : Nat :=
  match x with
  | .nan _ => f.nan
  | .inf n => f.inf n
  | .fin n m e => f.signBit n + f.encodeMag m e

/-- One accumulator element after TMMA or TMMAO (R259). -/
def VEnv.tmmaElem (v : VEnv) (o : TArgs) (ordered : Bool) (m n : Nat) : Word × VFlags :=
  let k := v.vlen / vtTile v.cfg.vtype
  let old := v.accAt o.acc (16 * m + n)
  let pairs := (List.range (o.count.toNat + 1)).flatMap fun p => (List.range k).map fun q =>
    (v.tile (o.vA.toNat + p * v.cfg.g) m q, v.tile (o.vB.toNat + p * v.cfg.g) n q)
  match v.accFmt with
  | none =>
    (int48 (signed 48 old.toNat + (pairs.foldl (fun (t : Int) (x : Nat × Nat) =>
      t + elemInt v.sgn v.w x.1 * elemInt v.sgn v.w x.2) 0)), 0)
  | some f =>
    let mode := v.cfg.mode o.rm
    let prods := pairs.map fun (x : Nat × Nat) =>
      let a := v.ty.value x.1
      let b := v.ty.value x.2
      let (p, fl) := fpMulVal a b
      (p, fl ||| snanFlag [a, b])
    let fl0 := prods.foldl (fun (a : VFlags) x => a ||| x.2) 0
    let rnd (j : Nat) : Nat := v.rnd (16 * m + n) j
    let c0 : Acc48 := ⟨f.value (old.toNat % 2 ^ f.width), 0, fl0⟩
    let c := if ordered then (prods.map (·.1)).foldl (fun (c : Acc48) p => accAdd f mode rnd c p) c0
      else accGroups f mode rnd prods.length c0 (prods.map (·.1))
    (word (f.encode c.x), c.fl)

/-- TMMA and TMMAO (R259). -/
def VEnv.tmma (v : VEnv) (o : TArgs) (ordered : Bool) : VOut :=
  let tr := vtTile v.cfg.vtype
  if v.vlen = 0 then v.same
  else
    let r := (List.range (tr * tr)).foldl (fun (a : List (Nat × Word) × VFlags) i =>
      let (x, fl) := v.tmmaElem o ordered (i / tr) (i % tr)
      (mapSet 0 a.1 (accKey o.acc (16 * (i / tr) + i % tr)) x, a.2 ||| fl)) (v.acc, 0)
    ⟨v.core, r.2, none, r.1⟩

/-- TMMA (R259). -/
def runTmma (v : VEnv) (o : TArgs) : VOut := v.tmma o false
/-- TMMAO (R259). -/
def runTmmao (v : VEnv) (o : TArgs) : VOut := v.tmma o true

/-- Replace every element of an accumulator. -/
def VEnv.accFill (v : VEnv) (a : BitVec 3) (f : Nat → Word × VFlags) : VOut :=
  let r := (List.range 256).foldl (fun (s : List (Nat × Word) × VFlags) e =>
    let (x, fl) := f e
    (mapSet 0 s.1 (accKey a e) x, s.2 ||| fl)) (v.acc, 0)
  ⟨v.core, r.2, none, r.1⟩

/-- TACCZ (R261). -/
def runTaccz (v : VEnv) (a : BitVec 3) : VOut := v.accFill a fun _ => (0, 0)

/-- TACCLD (R261). -/
def runTaccld (v : VEnv) (a : BitVec 3) (vA : BitVec 5) : VOut :=
  v.accFill a fun e =>
    if v.vlen ≤ e then (0, 0)
    else match v.accFmt, v.ty with
      | some f, .fp s =>
        let x := s.value (v.elem vA.toNat e)
        let (c, fl) := fpOp f (v.cfg.mode .dflt) (v.rnd e 0) [x] (x.res, 0)
        (word c, fl)
      | _, _ => (int48 (elemInt v.sgn v.w (v.elem vA.toNat e)), 0)

/-- TACCST (R261). -/
def runTaccst (v : VEnv) (a : BitVec 3) (vA : BitVec 5) : VOut :=
  v.write (fun i => decide (i < 256)) fun e l =>
    let old := (v.accAt a e).toNat
    let (x, fl) := match v.accFmt with
      | some f => convert v.ty (v.cfg.mode .dflt) (v.rnd e 0) (.fp f) (old % 2 ^ f.width)
      | none => convert v.ty 0 0 (.int true 48) old
    let l1 := l.withRows (32 * vA.toNat) v.w x
    (if v.cfg.scaled then l1.withRows (scaleRow vA.toNat v.cfg.g) 8 (if e % 32 = 0 then 127 else 0) else l1, fl)

/-! ### One entry point -/

/-- The effect of an instruction that runs in the arrays, the tree or the tile unit; the others do nothing here. -/
def vrun (i : Instr) (v : VEnv) : VOut :=
  match i with
  | .vadd o => runVadd v o
  | .vsub o => runVsub v o
  | .vrsub o => runVrsub v o
  | .vmul o => runVmul v o
  | .vmulh o => runVmulh v o
  | .vmac o => runVmac v o
  | .vdiv o => runVdiv v o
  | .vrem o => runVrem v o
  | .vmin o => runVmin v o
  | .vmax o => runVmax v o
  | .vsadd o => runVsadd v o
  | .vssub o => runVssub v o
  | .vavg o => runVavg v o
  | .vabs o => runVabs v o
  | .vneg o => runVneg v o
  | .vpopc o => runVpopc v o
  | .vclz o => runVclz v o
  | .vand o => runVand v o
  | .vor o => runVor v o
  | .vxor o => runVxor v o
  | .vnot o => runVnot v o
  | .vsll o => runVsll v o
  | .vsrl o => runVsrl v o
  | .vsra o => runVsra v o
  | .vmv o => runVmv v o
  | .vmerge o => runVmerge v o
  | .vsplat vd op2 vm k => runVsplat v vd op2 vm k
  | .vcmpeq o => runVcmpeq v o
  | .vcmpne o => runVcmpne v o
  | .vcmplt o => runVcmplt v o
  | .vcmple o => runVcmple v o
  | .vcmpgt o => runVcmpgt v o
  | .vcmpge o => runVcmpge v o
  | .mand md a b => runMand v md a b
  | .mor md a b => runMor v md a b
  | .mxor md a b => runMxor v md a b
  | .mnot md a => runMnot v md a
  | .mpopc _ a vm => runMpopc v a vm
  | .mfirst _ a vm => runMfirst v a vm
  | .mset md => runMset v md
  | .vmatch t a _ vm => runVmatch v t a vm
  | .vwrite vd _ t vm => runVwrite v vd t vm
  | .tgmovToMask md t => runTgmovToMask v md t
  | .tgmovToTag t a => runTgmovToTag v t a
  | .vtt o => runVtt v o
  | .vfadd o => runVfadd v o
  | .vfsub o => runVfsub v o
  | .vfmul o => runVfmul v o
  | .vfma o => runVfma v o
  | .vfnma o => runVfnma v o
  | .vfmin a b c d e => runVfmin v a b c d e
  | .vfmax a b c d e => runVfmax v a b c d e
  | .vfdiv o => runVfdiv v o
  | .vfsqrt o => runVfsqrt v o
  | .vfrsq o => runVfrsq v o
  | .vfexp2 o => runVfexp2 v o
  | .vflog2 o => runVflog2 v o
  | .vfabs o => runVfabs v o
  | .vfneg o => runVfneg v o
  | .vfclass o => runVfclass v o
  | .vfcmp k md a b vm x => runVfcmp v k md a b vm x
  | .vcvt o => runVcvt v o
  | .vnarrow o => runVnarrow v o
  | .vwiden o => runVwiden v o
  | .vbscale o => runVbscale v o
  | .vbquant o => runVbquant v o
  | .vbdeq o => runVbdeq v o
  | .vredsum o => runVredsum v o
  | .vredsumo o => runVredsumo v o
  | .vredmin a b c d => runVredmin v a b c d
  | .vredmax a b c d => runVredmax v a b c d
  | .vredand a b c d => runVredand v a b c d
  | .vredor a b c d => runVredor v a b c d
  | .vredxor a b c d => runVredxor v a b c d
  | .vscansum o => runVscansum v o
  | .vscanmin o => runVscanmin v o
  | .vscanmax o => runVscanmax v o
  | .vslideup o => runVslideup v o
  | .vslidedn o => runVslidedn v o
  | .vgather a b c d => runVgather v a b c d
  | .vcompress o => runVcompress v o
  | .vexpand o => runVexpand v o
  | .vbcast o => runVbcast v o
  | .vextr o => runVextr v o
  | .vins o => runVins v o
  | .vbshuf a b c d => runVbshuf v a b c d
  | .vidx vd a b => runVidx v vd a b
  | .bsmovToUpper a _ vm => runBsmovToUpper v a vm
  | .bsmovFromUpper a _ vm => runBsmovFromUpper v a vm
  | .imma vd vs1 _ vm => runImma v vd vs1 vm
  | .tmma o => runTmma v o
  | .tmmao o => runTmmao v o
  | .taccz a => runTaccz v a
  | .taccld a b => runTaccld v a b
  | .taccst a b => runTaccst v a b
  | _ => v.same

end Sys2Proof.Machine
end

