-- ==== Sys2Proof/Machine/VParity.lean ====
section
/-! DEFINITION. Parity in compute mode (R204, R224, R225, R262). -/

namespace Sys2Proof.Machine

/-- Whether a lane's gate is open (R200). -/
def VEnv.gate (v : VEnv) (g : Option (BitVec 3)) (i : Nat) : Bool :=
  decide (i < v.vlen) && (match g with | some m => (v.lane i).mask m | none => true)

/-- Rows of some ranges one after another. -/
def rowsOf (l : List (Nat × Nat)) : List Nat :=
  l.flatMap fun (x : Nat × Nat) => (List.range x.2).map (x.1 + ·)

/-- Rows of some ranges bit by bit, as the sequences of R207 and R208 sense them. -/
def rowsByBit (l : List (Nat × Nat)) (w : Nat) : List Nat :=
  (List.range w).flatMap fun k => l.filterMap fun (x : Nat × Nat) =>
    if x.2 = 1 then (if k = 0 then some x.1 else none) else some (x.1 + k)

/-- The bit position of a row among some ranges. -/
def bitOf (l : List (Nat × Nat)) (row : Nat) : Nat :=
  match l.find? (fun (x : Nat × Nat) => decide (x.1 ≤ row ∧ row < x.1 + x.2)) with
  | some x => row - x.1
  | none => 0

/-- The rows that the steps of a sequence write (R221). -/
def stepWrites (o : VttArgs) (ws : List Word) : List (Nat × Nat) :=
  ws.flatMap fun w => [0, 1].filterMap fun n =>
    let (en, base, _, off) := stepWrite w n
    if en then some (stepRow o (if base = 0 then 0 else 3) off, 1) else none

/-- P row n, numbered as R224 does. -/
def pRow (n : Nat) : Nat := 1048 + n

/-- Some rows, each with a word that says whether the sequence has not yet rewritten it when it senses it. -/
def unwritten (l : List Nat) : List (Nat × Bool) := l.map fun r => (r, true)

/-- The rows that a sequence senses, step by step. -/
def vttSensed (o : VttArgs) : List Word → List (Nat × Nat) → List (Nat × Bool)
  | [], _ => []
  | w :: ws, done =>
    ((stepSenses o w).map fun r => (r, !(done.any fun x => decide (x.1 = r)))) ++ vttSensed o ws (done ++ stepWrites o [w])

/-- Whether an addition runs as R207's doubling form, which alone senses a P row. -/
def doubles (o : VArgs) : Bool := decide (o.kind = .vv ∧ o.op2 = o.vs1)

/-- The rows that an IMMA senses after its first broadcast (R254, R255): each output row adds the entries for which A is not
zero. A row is listed where it is first sensed. -/
def VEnv.immaSensed (v : VEnv) (vd vs1 : BitVec 5) : List Nat :=
  let ne := usNe v.cfg.x1
  let used (r e : Nat) : Bool :=
    decide (r * ne + e < v.vlen) && decide (v.elem vs1.toNat (r * ne + e) ≠ 0)
  (List.range (usNr v.cfg.x1)).flatMap fun r =>
    let es := (List.range ne).filter (used r)
    if es = [] then []
    else ((es.filter fun e => !((List.range r).any fun q => used q e)).flatMap fun e =>
        rowsOf [(2048 + usRow v.cfg.x1 + e * v.cfg.rows, v.cfg.rows)]) ++ rowsOf [(32 * (vd.toNat + 2 * r), 48)]

/-- The output row in which an IMMA first senses a row (R262). -/
def VEnv.immaRow (v : VEnv) (vd vs1 : BitVec 5) (row : Nat) : Nat :=
  let ne := usNe v.cfg.x1
  if row < 1024 then
    (if 32 * vd.toNat ≤ row ∧ row < 32 * (vd.toNat + 2 * usNr v.cfg.x1) then (row - 32 * vd.toNat) / 64 else 0)
  else
    let e := (row - 2048 - usRow v.cfg.x1) / v.cfg.rows
    ((List.range (usNr v.cfg.x1)).find? fun r =>
      decide (r * ne + e < v.vlen) && decide (v.elem vs1.toNat (r * ne + e) ≠ 0)).getD 0

/-- CARE bit k of a pattern word (R218). -/
def careBit (x : Word) (k : Nat) : Bool := bit x (32 + k)

/-- The rows that an instruction writes when it runs to its end, and the lanes in which it writes them. -/
def VEnv.written (v : VEnv) (i : Instr) (p : VSpec) : List (Nat × Nat) × (Nat → Bool) :=
  let gated := v.gate p.gate
  let one (n : Nat) (j : Nat) : Bool := decide (j = n)
  match i with
  | .vadd o => (p.writes ++ [(pRow 0, 1)] ++ (if doubles o then [(pRow 1, 1)] else []), gated)
  | .vsub _ | .vrsub _ => (p.writes ++ [(pRow 0, 1)], gated)
  | .vtt o => (stepWrites o v.slots[o.slot.toFin], gated)
  | .vwrite vd _ _ _ => (((List.range (min v.w 32)).filter (careBit v.cfg.x1)).map fun k => (32 * vd.toNat + k, 1), gated)
  | .vredsum _ | .vredsumo _ | .vredmin _ _ _ _ | .vredmax _ _ _ _ | .vredand _ _ _ _ | .vredor _ _ _ _
  | .vredxor _ _ _ _ => (p.writes, one 0)
  | .vslideup o => (p.writes, fun j => gated j && decide (v.position o.kind o.op2 v.cfg.x1 ≤ j))
  | .vins o => (p.writes, fun j => gated j && one (v.position o.kind o.op2 v.cfg.x2) j)
  | .vcompress o => (p.writes, fun j => decide (j < (v.actives o.vs1 o.vm).length))
  | .taccst _ _ => (p.writes, fun j => decide (j < min v.vlen 256))
  | _ => (p.writes, gated)

/-- The rows that an instruction senses, in an order in which its steps sense them, each with whether the sequence has not yet
rewritten it there, and the lanes in whose groups it is sensed. An array step senses every group that is not gated (R173,
R204), whatever the mask, which only stops writes (R201). An access to memory or to a channel senses the groups that hold an
element it reads, from `first` upward (R303). The A operand of an IMMA is read through the tree (R254), a TACCLD reads 256 lanes
(R261). Assumption 91. -/
def VEnv.sensed (v : VEnv) (i : Instr) (p : VSpec) (first : Nat) : List (Nat × Bool × (Nat → Bool)) :=
  let below (n : Nat) (j : Nat) : Bool := decide (first ≤ j ∧ j < min v.vlen n)
  let read (j : Nat) : Bool := decide (first ≤ j) && v.gate p.gate j
  let mk (sel : Nat → Bool) (l : List (Nat × Bool)) : List (Nat × Bool × (Nat → Bool)) := l.map fun r => (r.1, r.2, sel)
  let all := below v.vlen
  mk all (unwritten (match p.gate with | some m => (maskSpan m).map (·.1) | none => [])) ++
  match i with
  | .vadd o =>
    let rows := rowsByBit p.reads v.w
    mk all (if doubles o then unwritten (rows.take 1) ++ [(pRow 1, false)] ++ unwritten (rows.drop 1) else unwritten rows)
  | .vsub _ | .vrsub _ | .vcmpeq _ | .vcmpne _ | .vcmplt _ | .vcmple _ | .vcmpgt _ | .vcmpge _ =>
    mk all (unwritten (rowsByBit p.reads v.w))
  | .vsadd _ | .vssub _ | .vavg _ => mk all (unwritten (rowsOf p.reads) ++ [(pRow 0, false)])
  | .vtt o => mk all (vttSensed o v.slots[o.slot.toFin] [])
  | .vmatch _ vs1 _ _ => mk all (unwritten (rowsOf [(32 * vs1.toNat, min v.w 32)]))
  | .imma vd vs1 _ _ =>
    mk (below (usNr v.cfg.x1 * usNe v.cfg.x1)) (unwritten (rowsOf [v.cfg.span vs1.toNat])) ++
      mk all (unwritten (v.immaSensed vd vs1))
  | .taccld _ _ => mk (below 256) (unwritten (rowsOf p.reads))
  | .vst _ | .vsts _ | .vstx _ | .vstt _ | .vldx _ | .vsend _ _ _ | .xred _ _ _ _ | .vwait _ _ _ _ _
  | .vamoadd _ | .vamomin _ | .vamomax _ | .vamoand _ | .vamoor _ | .vamoxor _ | .vamoswap _ | .vamocas _ =>
    mk read (unwritten (rowsOf p.reads))
  | _ => mk all (unwritten (rowsOf p.reads))

/-- The first sensed row with a mismatch, or that has failed for good and so mismatches at each sense (R225): row, position,
group. Of several it is the first in the order of the senses, then of the lowest array and the lowest group (assumption 91). -/
def VEnv.findBad (v : VEnv) (rows : List (Nat × Bool × (Nat → Bool))) : Option (Nat × Nat × Nat) :=
  rows.findSome? fun (r, fresh, sel) => (v.part.zipIdx).findSome? fun (a : ArrayId × Nat) =>
    [0, 1, 2, 3].findSome? fun k =>
      if ((fresh && decide ((a.1, 4 * r + k) ∈ v.core.parityBad)) || decide ((a.1, r) ∈ v.core.failed)) && groupHas sel a.2 k
      then some (r, a.2, k) else none

/-- The parity error that stops an instruction, if any: row, position, group (R204). -/
def VEnv.parityError (v : VEnv) (i : Instr) (p : VSpec) (first : Nat) : Option (Nat × Nat × Nat) :=
  if v.core.parityBad = [] ∧ v.core.failed = [] then none else v.findBad (v.sensed i p first)

/-- A core after an instruction has run to its end: the rows written have their parity regenerated (R204). -/
def VEnv.rewritten (v : VEnv) (i : Instr) (p : VSpec) (c : Core) : Core :=
  c.regen v.part (v.written i p).1 (v.written i p).2

/-- The entries of R232 for an FP or narrow format: FP16, BF16, FP32, FP64, and the narrow formula in n, E and m. -/
def VCfg.fpSteps (c : VCfg) (h b s d : Nat) (narrow : Nat → Nat → Nat → Nat) : Nat :=
  match c.ty with
  | some (.fp f) =>
    if vtClass c.vtype = 4 then narrow (f.s + f.e + f.m) f.e (f.m + 1)
    else if vtClass c.vtype = 3 then b
    else match vtSew c.vtype with
      | 3 => h
      | 4 => s
      | _ => d
  | _ => 65535

/-- The steps of a conversion (R235). -/
def VCfg.cvtSteps (c : VCfg) (o : CvtArgs) : Nat :=
  match c.stc o.src, c.ty with
  | some (t, _), some u =>
    let a := t.width
    let b := u.width
    match t, u with
    | .int _ _, .int _ _ => if a < b then 2 * a + (b - a) else 3 * a + 4
    | .fp _, .fp _ => 4 * (a + b) + 16
    | .int _ _, .fp _ => 6 * a + 2 * b + 20
    | .fp _, .int _ _ => 6 * a + 4 * b + 20
  | _, _ => 65535

/-- The latency of one FP adder level (R240). -/
def VCfg.level (c : VCfg) : Nat := c.fpSteps 3 3 4 6 fun _ _ _ => 2

/-- The smallest k with 2^k at least VLEN (R240). -/
def VCfg.depth (c : VCfg) : Nat := if c.vlen ≤ 1 then 0 else Nat.log2 (c.vlen - 1) + 1

/-- The cycles of a TMMA or a TMMAO (R260). -/
def VCfg.tileSteps (c : VCfg) (o : TArgs) (slow : Bool) : Nat :=
  let pk := (o.count.toNat + 1) * (c.vlen / max 1 (vtTile c.vtype))
  let w := c.w
  if c.isFp then
    if slow then c.fpSteps (2 * w + 16 + 4 * pk) (2 * w + 16 + 4 * pk) (2 * w + 16 + 4 * pk) (2 * w + 24 + 6 * pk)
      fun _ _ _ => 2 * w + 12 + 4 * pk
    else c.fpSteps (2 * w + 16 + ceilDiv pk 4) (2 * w + 16 + ceilDiv pk 4) (2 * w + 16 + pk) (2 * w + 24 + 2 * pk)
      fun _ _ _ => 2 * w + 12 + ceilDiv pk 8
  else 2 * w + 12 + ceilDiv pk 8

/-- The steps of an instruction, its tree cycles among them: R209, R232, R235, R240, R247, R252 and R260. For the others, and
for an IMMA, whose count follows from its data, the most that TVAL can hold (R224). -/
def VCfg.steps (c : VCfg) (i : Instr) : Nat :=
  let w := c.w
  let k := c.depth
  let b := Nat.log2 w + 1
  let shift (k : VKind) : Nat := if k = .vv then 2 * w * (Nat.log2 w + 2) else 2 * w
  let add := c.fpSteps 232 196 412 884 fun n _ _ => 12 * n + 28
  let n := match c.ty with | some (.fp f) => f.s + f.e + f.m | _ => w
  let fma := c.fpSteps 520 356 1180 4300 fun n e m => 12 * n + 28 + (4 * m * m + 8 * e + 24) + 4 * m
  match i with
  | .vneg _ | .vmin _ | .vmax _ => 4 * w + 2
  | .vavg _ => 4 * w + 4
  | .vsadd _ | .vssub _ => 5 * w + 4
  | .vabs _ => 6 * w + 2
  | .vmul _ => 4 * w * w + 2 * w
  | .vmac _ => 4 * w * w + 6 * w + 2
  | .vmulh _ => 8 * w * w + 4 * w
  | .vdiv _ | .vrem _ => 8 * w * w + 6 * w + 2
  | .vpopc _ | .vclz _ => w * (4 * b + 2) + 2 * w
  | .vand _ | .vor _ | .vxor _ | .vmv _ => 2 * w
  | .vnot _ | .vsplat _ _ _ _ => w
  | .vmerge _ => 3 * w
  | .vsll o | .vsrl o | .vsra o => shift o.kind
  | .vidx _ _ _ => 33 * w + 16
  | .mand _ _ _ | .mor _ _ _ | .mxor _ _ _ | .tgmovToMask _ _ => 2
  | .vwrite _ _ _ _ => min w 32
  | .vfadd _ | .vfsub _ => add
  | .vfmul _ => c.fpSteps 292 164 700 3260 fun _ e m => 4 * m * m + 8 * e + 24
  | .vfma _ | .vfnma _ => fma
  | .vfdiv _ => c.fpSteps 610 420 1640 6900 fun n _ m => 8 * m * m + 10 * n + 40
  | .vfsqrt _ => c.fpSteps 560 390 1520 6480 fun n _ m => 8 * m * m + 8 * n + 40
  | .vfrsq _ => c.fpSteps 820 560 2240 9400 fun n _ m => 16 * m * m + 16 * n + 80
  | .vfexp2 _ => c.fpSteps 900 620 2460 10200 fun n _ m => 16 * m * m + 16 * n + 80
  | .vflog2 _ => c.fpSteps 940 650 2580 10700 fun n _ m => 16 * m * m + 16 * n + 80
  | .vfmin _ _ _ _ _ | .vfmax _ _ _ _ _ => 3 * n + 8
  | .vfabs _ | .vfneg _ => 1
  | .vfclass _ => n + 14
  | .vfcmp _ _ _ _ _ _ => 2 * n + 8
  | .vcvt o | .vnarrow o | .vwiden o => c.cvtSteps o
  | .vbquant o => match c.stc o.src with | some (t, _) => 10 * t.width + 4 * w + 96 | none => 65535
  | .vbdeq o => match c.stc o.src with | some (t, _) => 4 * t.width + 6 * w + 72 | none => 65535
  | .vbscale _ => w + 24
  | .vredsum _ => if c.isFp then w + c.level * k + 10 else w + k + 6
  | .vredsumo _ => if c.isFp then w + c.level * c.vlen + 10 else w + k + 6
  | .vredand _ _ _ _ | .vredor _ _ _ _ | .vredxor _ _ _ _ => w + k + 6
  | .vredmin _ _ _ _ | .vredmax _ _ _ _ => if c.isFp then w + 2 * k + 10 else 2 * w + k + 6
  | .vscansum _ => if c.isFp then 2 * w + c.level * c.vlen + 12 else 2 * w + 2 * k + 12
  | .vscanmin _ | .vscanmax _ => if c.isFp then 2 * w + 4 * k + 14 else 3 * w + 2 * k + 12
  | .vslideup _ | .vslidedn _ => 2 * w + 2 * k + 8
  | .vgather _ _ _ _ => 3 * w + 4 * k + 48
  | .vcompress _ | .vexpand _ => 3 * w + 4 * k + 20
  | .vbcast _ | .vextr _ => w + k + 6
  | .vins _ => w + 4
  | .vbshuf _ _ _ _ => 2 * c.rows + 2 * k + 40
  | .bsmovToUpper _ _ _ | .bsmovFromUpper _ _ _ => 2 * c.rows * usNe c.x1
  | .tmma o => c.tileSteps o false
  | .tmmao o => c.tileSteps o true
  | .taccld _ _ | .taccst _ _ => w + 20
  | _ => 65535

/-! ### What a sequence leaves in C and in the P rows -/

/-- The bits of `vague`: P0 to P31, then C. -/
def vagueC : BitVec 33 := 0x100000000
/-- P1 to P31 and C. -/
def vagueButP0 : BitVec 33 := 0x1fffffffe

/-- A lane with C known. -/
def Lane.withCarry (l : Lane) (c : Bool) : Lane := { l with carry := c, vague := l.vague &&& ~~~vagueC }

/-- A lane with P row n known. -/
def Lane.withPrivate (l : Lane) (n : Nat) (b : Bool) : Lane :=
  { l with
    hidden := if b then l.hidden ||| BitVec.ofNat 32 (2 ^ n) else l.hidden &&& ~~~BitVec.ofNat 32 (2 ^ n)
    vague := l.vague &&& ~~~BitVec.ofNat 33 (2 ^ n) }

/-- C after the steps of the first k bits of an addition or subtraction (R207). -/
def carryOf (sub : Bool) (k a b : Nat) : Bool :=
  if sub then decide (b % 2 ^ k ≤ a % 2 ^ k) else decide (2 ^ k ≤ a % 2 ^ k + b % 2 ^ k)

/-- C and the P rows of an open lane after the steps of k bits of an instruction, of all its steps where `all` is set: the
listed sequences of R207, R208 and R223 give them. VMATCH, VWRITE and equality compares touch neither; P0 stays over the
instructions with which R332 shows it; where no rule lists the steps the rows are vague (assumption 67). -/
def VEnv.latches (v : VEnv) (i : Instr) (k : Nat) (all : Bool) (j : Nat) (l : Lane) : Lane :=
  let add (o : VArgs) (sub rev : Bool) : Lane :=
    let a := v.elem o.vs1.toNat j
    let b := v.op2 o.kind o.op2 j
    let c (n : Nat) : Bool := if rev then carryOf sub n b a else carryOf sub n a b
    let l1 := l.withCarry (c k)
    let l2 := if all then l1.withPrivate 0 (c k) else l1
    if !sub && decide (o.kind = .vv ∧ o.op2 = o.vs1) && decide (0 < k) then l2.withPrivate 1 (c (k - 1)) else l2
  let cmp (o : VCmpArgs) (rev eq : Bool) : Lane :=
    let x := v.elem o.vs1.toNat j
    let y := v.op2 o.kind o.op2 j
    let num (n : Nat) : Int := if all then elemInt v.sgn v.w n else (n % 2 ^ k : Nat)
    let a := if rev then num y else num x
    let b := if rev then num x else num y
    l.withCarry (if eq then decide (a ≤ b) else decide (a < b))
  match i with
  | .vadd o => add o false false
  | .vsub o => add o true false
  | .vrsub o => add o true true
  | .vcmplt o => cmp o false false
  | .vcmple o => cmp o false true
  | .vcmpgt o => cmp o true false
  | .vcmpge o => cmp o true true
  | .vtt _ => l.withCarry l.carry
  | .vcmpeq _ | .vcmpne _ | .vmatch _ _ _ _ | .vwrite _ _ _ _
  | .tmma _ | .tmmao _ | .taccz _ | .taccld _ _ | .taccst _ _ => l
  | .vredsum _ | .vredsumo _ | .vredmin _ _ _ _ | .vredmax _ _ _ _ | .vredand _ _ _ _ | .vredor _ _ _ _
  | .vredxor _ _ _ _ | .vwiden _ | .vsplat _ _ _ _ | .vextr _ => { l with vague := l.vague ||| vagueButP0 }
  | _ => { l with vague := BitVec.allOnes 33 }

/-- The core after an instruction of the arrays, its C and P rows among what it leaves. -/
def VEnv.latched (v : VEnv) (i : Instr) (p : VSpec) (k : Nat) (all : Bool) (c : Core) : Core :=
  (List.range v.vlen).foldl (fun (x : Core) j =>
    if v.gate p.gate j then x.setLane v.part j (v.latches i k all j (x.lane v.part j)) else x) c

/-! ### A sequence that a parity error stops -/

/-- How a sequence is stopped by a parity error: the step number, the lanes it leaves, the rows that it has written. -/
structure Stopped where
  step : Nat
  core : Core
  wrote : List (Nat × Nat)

/-- Every row that a sequence writes holds an unconstrained value in the columns whose gate is open (R224). -/
def VEnv.scramble (v : VEnv) (p : VSpec) (n : Nat) : Core :=
  (v.write (v.gate p.gate) fun i l =>
    let b := (Config.partialRows n i).toNat
    (p.writes.foldl (fun (x : Lane) (r : Nat × Nat) =>
      if r.1 < 1024 then x.withRows r.1 r.2 (b >>> r.1)
      else if r.1 < 1032 then x.withMask (BitVec.ofNat 3 (r.1 - 1024)) (b.testBit r.1)
      else if r.1 < 2048 then { x with work := BitVec.ofNat 16 (b >>> r.1) }
      else x.withUpper (r.1 - 2048) r.2 (b >>> (r.1 - 2048))) l, 0)).core

/-- Which of the rows that an unlisted sequence writes it had written when it stopped: nothing constrains that. -/
def freelyWritten (p : VSpec) (n : Nat) : List (Nat × Nat) :=
  ((rowsOf p.writes).filter fun r => (Config.partialRows n 65536).getLsbD (r % 2048)).map fun r => (r, 1)

/-- A parity error met by an instruction at a row of the array in a position (R224): exact where the spec lists the steps. `n` numbers the
free values. -/
def VEnv.stopAt (v : VEnv) (i : Instr) (p : VSpec) (n row pos : Nat) : Stopped :=
  let k := bitOf p.reads row
  let hard : Bool := match v.part[pos]? with | some a => decide ((a, row) ∈ v.core.failed) | none => false
  let free : Nat := 1 + Config.parityStep n % max 1 (v.cfg.steps i)
  let part (step : Nat) (c : Core) (wrote : List (Nat × Nat)) : Stopped := ⟨step, v.latched i p k false c, wrote⟩
  let byBits (d : BitVec 5) (out : VOut) : Stopped :=
    part (2 + 4 * k) (v.write (v.gate p.gate) fun j l =>
      (l.withRows (32 * d.toNat) k ((out.core.lane v.part j).rows (32 * d.toNat) k), 0)).core [(32 * d.toNat, k)]
  let prefixCmp (o : VCmpArgs) (ne : Bool) : Stopped :=
    part (2 + k) (v.maskEach o.md o.vm fun j =>
      ((decide ((v.elem o.vs1.toNat j) % 2 ^ k = (v.op2 o.kind o.op2 j) % 2 ^ k)) != ne, 0)).core
      [(1024 + o.md.toNat, 1)]
  if (match p.gate with | some m => decide (m ≠ 0 ∧ row = 1024 + m.toNat) | none => false) then ⟨1, v.core, []⟩
  else match i with
  | .vadd o =>
    let x := byBits o.vd (runVadd v o)
    if row = pRow 1 then ⟨4, v.latched i p 1 false v.core, [(pRow 1, 1)]⟩
    else if doubles o && decide (0 < k) then { x with wrote := x.wrote ++ [(pRow 1, 1)] }
    else x
  | .vsub o => byBits o.vd (runVsub v o)
  | .vrsub o => byBits o.vd (runVrsub v o)
  | .vcmpeq o => prefixCmp o false
  | .vcmpne o => prefixCmp o true
  | .vcmplt _ | .vcmple _ | .vcmpgt _ | .vcmpge _ => part (2 + 2 * k) v.core []
  | .vmatch tgd vs1 _ vm =>
    let same (j n : Nat) : Bool := !careBit v.cfg.x1 n || (v.elem vs1.toNat j).testBit n == bit v.cfg.x1 n
    ⟨2 + k, (v.write (v.active vm) fun j l => (l.withTag tgd ((List.range k).all (same j)), 0)).core, []⟩
  | .mnot _ _ | .mpopc _ _ _ | .mfirst _ _ _ | .tgmovToTag _ _ => ⟨1, v.core, []⟩
  | .vtt o =>
    let l := v.slots[o.slot.toFin]
    let m := (l.zipIdx.takeWhile fun x =>
      !decide (row ∈ stepSenses o x.1) ||
        (!hard && (stepWrites o (l.take x.2)).any fun y => decide (y.1 = row))).length
    part (m + 2) (runVttTo v o m).core (stepWrites o (l.take m))
  | .vredsum _ | .vredsumo _ | .vredmin _ _ _ _ | .vredmax _ _ _ _ | .vredand _ _ _ _ | .vredor _ _ _ _
  | .vredxor _ _ _ _ | .vscansum _ | .vscanmin _ | .vscanmax _ | .vslideup _ | .vslidedn _ | .vgather _ _ _ _
  | .vcompress _ | .vexpand _ | .vbcast _ | .vextr _ | .vins _ | .vbshuf _ _ _ _
  | .tmma _ | .tmmao _ | .taccz _ | .taccld _ _ | .taccst _ _
  | .vst _ | .vsts _ | .vstx _ | .vstt _ | .vldx _ | .vsend _ _ _ | .xred _ _ _ _ | .vwait _ _ _ _ _ =>
    part free v.core []
  | .imma vd vs1 _ vm =>
    let r := v.immaRow vd vs1 row
    let c := (runImmaTo v vd vs1 vm r).core
    let now : VSpec := { p with writes := [(32 * (vd.toNat + 2 * r), 48)] }
    part free (({ v with core := c }).scramble now n) (p.writes.take r ++ freelyWritten now n)
  | _ => part free (v.scramble p n) (freelyWritten p n)

/-- What a stopped sequence leaves in the core, the rows it has written with their parity regenerated. -/
def VEnv.stopped (v : VEnv) (p : VSpec) (x : Stopped) : Core := x.core.regen v.part x.wrote (v.gate p.gate)

/-- Append an event to the management processor's log (R446). -/
def State.logEvent (s : State) (kind pcore : Nat) (data datah : Word) : State :=
  let r : LogRec := ⟨word (kind * 2 ^ 56 + pcore * 2 ^ 40), data, datah, word s.cycles⟩
  { s with plat := { s.plat with
      events := (s.plat.events ++ [r]).drop (s.plat.events.length + 1 - 256), evCount := s.plat.evCount + 1 } }

/-- An ARRAY_PARITY is reported to the management processor; a row that mismatches again after it was rewritten has
failed: it is entered in the row-repair table once, with an event of kind 7, and mismatches at each sense from then on
(R225). -/
def State.reportParity (s : State) (p : CoreId) (a : ArrayId) (row : Nat) : State :=
  let c := s.core p
  if (a, row) ∈ c.failed then s
  else if (a, 2 * row + 1) ∈ c.mismatched then
    let s1 := { s.setCore p { c with failed := c.failed ++ [(a, row)] } with
      plat := { s.plat with repair := if (p, a, row) ∈ s.plat.repair then s.plat.repair else s.plat.repair ++ [(p, a, row)] } }
    s1.logEvent 7 p.val (word (row * 2 ^ 16 + a / 16 * 2 ^ 12 + a % 16 * 2 ^ 8)) 0
  else if (a, 2 * row) ∈ c.mismatched then s
  else s.setCore p { c with mismatched := c.mismatched ++ [(a, 2 * row)] }

end Sys2Proof.Machine
end

