-- ==== Sys2Proof/Machine/VMem.lean ====
section
/-! DEFINITION. Vector entries that access memory (R284 to R286, R301 to R309, R348 to R355), deposits by VSEND
(R358), chains of XRED (R360 to R362), and how the entry at the head of a queue begins, goes on and ends (R205,
R167, R357). -/

namespace Sys2Proof.Machine

/-! ### Accesses of a checked place -/

/-- Read at a place under a request type (R273); a DEV-class page reads as .u (R276). `vec` says a vector access. -/
def State.loadAt (s : State) (p : CoreId) (pa n grain : Nat) (dev : Bool) (req : Req) (vec : Bool) :
    List Byte × State :=
  match region pa with
  | .hbm _ => s.loadHbm p pa n grain (if dev then .u else req) vec
  | _ => (s.peekHome pa n, s.combSettle (s.homeSectors pa n))

/-- Write at a place under a request type (R273). -/
def State.storeAt (s : State) (p : CoreId) (pa : Nat) (bytes : List Byte) (grain : Nat) (dev : Bool) (req : Req)
    (vec : Bool) : State :=
  match region pa with
  | .hbm _ => s.storeHbm p pa bytes grain (if dev then .u else req) vec
  | _ => s.pokeHome pa bytes

/-- The 64-bit or 32-bit value that an atomic leaves (R291, R348). -/
def amoInt (op : AmoOp) (w o b e : Nat) : Nat :=
  match op with
  | .add => (o + b) % 2 ^ w
  | .and => o &&& b
  | .or => o ||| b
  | .xor => o ^^^ b
  | .min => if signed w b < signed w o then b else o
  | .max => if signed w o < signed w b then b else o
  | .minu => if b < o then b else o
  | .maxu => if o < b then b else o
  | .swap => b
  | .cas => if o = e then b else o
  | .fadd | .fmin | .fmax => o

/-- The bytes of an atomic's size. -/
def ASize.bytes : ASize → Nat
  | .w => 4
  | .d => 8

/-- The FP format of an atomic's size. -/
def amoFmt (size : ASize) (ovt : BitVec 16) : FpFmt := match size with | .w => fp32 ovt | .d => fp64 ovt

/-- The value that one request leaves (R291, R346, R351). -/
def amoNew (size : ASize) (op : AmoOp) (o b e : Nat) : Nat :=
  let f := amoFmt size (BitVec.ofNat 16 (e / 2 ^ 19 % 4 * 0x50))
  match op with
  | .fadd => (fpOp f (e % 8) (e / 8 % 65536) [f.value o, f.value b] (fpAdd (e % 8) (f.value o) (f.value b))).1
  | .fmin => fpMinMax f false o b
  | .fmax => fpMinMax f true o b
  | _ => amoInt op (8 * ASize.bytes size) o b e

/-! ### The plan of an access -/

/-- What one element asks for before translation. -/
structure Plan where
  elem : Nat
  va : Word
  bit : Nat
  width : Nat
  op : VOp
  bad : Bool

/-- The container width of class 0 to 4 (R302). -/
def VCfg.container (c : VCfg) : Nat := sewBits (vtSew c.vtype)

/-- An element at a bit offset from a base. -/
def atBit (base : Word) (bits : Nat) : Word × Nat := (base + word (bits / 8), bits % 8)

/-- Active elements at or above a start. -/
def VEnv.from (v : VEnv) (vm : BitVec 3) (s : Nat) : List Nat :=
  (List.range v.vlen).filter fun i => decide (s ≤ i) && v.active vm i

/-- Unit-stride elements (R302). -/
def VEnv.unitPlan (v : VEnv) (base : Word) (vm : BitVec 3) (s : Nat) (op : Nat → VOp) : List Plan :=
  let c := v.cfg.container
  (v.from vm s).map fun i =>
    let (a, b) := atBit base (i * c)
    ⟨i, a, b, c, op i, decide (base.toNat % max 1 (c / 8) ≠ 0)⟩

/-- Elements of whole bytes at computed addresses. -/
def VEnv.bytePlan (v : VEnv) (addr : Nat → Word) (vm : BitVec 3) (s : Nat) (op : Nat → VOp) : List Plan :=
  let c := v.cfg.container
  (v.from vm s).map fun i => ⟨i, addr i, 0, c, op i, decide ((addr i).toNat % (c / 8) ≠ 0)⟩

/-- Strided address (R302). -/
def strided (base step : Word) (i : Nat) : Word := base + word i * step

/-- Indexed address (R302). -/
def VEnv.indexed (v : VEnv) (base : Word) (vs2 : BitVec 5) (i : Nat) : Word := base + sextTo64 32 (v.index vs2 i)

/-- Transposing address (R302). -/
def VEnv.tiled (v : VEnv) (base pitch : Word) (i : Nat) : Word :=
  let k := v.vlen / vtTile v.cfg.vtype
  base + word (i % k) * pitch + word (i / k * (v.cfg.container / 8))

/-- The bits of an element narrower than a byte, in the one or two bytes that they touch (R307). -/
def splitPlan (elem : Nat) (a : Word) (b w : Nat) (bad : Bool) : List Plan :=
  if b + w ≤ 8 then [⟨elem, a, b, w, .load, bad⟩]
  else [⟨elem, a, b, 8 - b, .load, bad⟩, ⟨elem, a + 1, 0, b + w - 8, .high (8 - b), bad⟩]

/-- Block-scaled elements with their scale bytes (R307); `at0` is the element number of the first. -/
def VEnv.blockPlan (v : VEnv) (base : Word) (vm : BitVec 3) (s at0 : Nat) (bad : Bool) : List Plan :=
  let w := v.w
  ((List.range v.vlen).filter fun i => decide (s ≤ at0 + i) && v.active vm i && v.active vm (i / 32 * 32)).flatMap
    fun i =>
      let sb := base + word (i / 256 * (8 + 32 * w))
      let (a, b) := atBit (sb + 8) (i % 256 * w)
      (if i % 32 = 0 then [⟨at0 + i, sb + word (i % 256 / 32), 0, 8, .scale, bad⟩] else []) ++
        splitPlan (at0 + i) a b w bad

/-- Bytes that a block-scaled vector of n elements spans (R253, R307). -/
def blockBytes (w n : Nat) : Nat :=
  if n = 0 then 0 else (n - 1) / 256 * (8 + 32 * w) + 8 + ceilDiv (((n - 1) % 256 + 1) * w) 8

/-- The vectors of a BSLOAD (R253). -/
def VEnv.slicePlan (v : VEnv) (vm : BitVec 3) (s : Nat) : List Plan :=
  let base := v.cfg.x1
  let bad := decide (base.toNat % 64 ≠ 0)
  let bytes := if v.cfg.scaled then blockBytes v.w v.vlen else ceilDiv (v.vlen * v.cfg.container) 8
  let step := ceilDiv bytes 64 * 64
  (List.range (usNe v.cfg.x2)).flatMap fun e =>
    let b := base + word (e * step)
    if v.cfg.scaled then v.blockPlan b vm s (2 ^ 17 * e) bad
    else
      let c := v.cfg.container
      ((List.range v.vlen).filter fun i => decide (s ≤ 2 ^ 17 * e + i) && v.active vm i).map fun i =>
        let (a, k) := atBit b (i * c)
        ⟨2 ^ 17 * e + i, a, k, c, .load, bad⟩

/-- The bits that a store writes for element i (R45, R302). -/
def VEnv.stored (v : VEnv) (vs3 : BitVec 5) (i : Nat) : VOp := .store (v.elem vs3.toNat i)

/-- The operation of a vector atomic at its home (R348). -/
def VEnv.amoOp (v : VEnv) (i : Instr) : AmoOp :=
  let fp := v.cfg.isFp
  match i with
  | .vamoadd _ => if fp then .fadd else .add
  | .vamomin _ => if fp then .fmin else if v.sgn then .min else .minu
  | .vamomax _ => if fp then .fmax else if v.sgn then .max else .maxu
  | .vamoand _ => .and
  | .vamoor _ => .or
  | .vamoxor _ => .xor
  | .vamocas _ => .cas
  | _ => .swap

/-- The lanes of a vector atomic (R349): operand and, for a compare-and-swap, expected value first and new value
second. -/
def VEnv.amoPlan (v : VEnv) (i : Instr) (o : VAmoArgs) (s : Nat) : List Plan :=
  let second (j : Nat) : Nat := v.elem (o.vs3.toNat + v.cfg.g) j
  v.bytePlan (v.indexed v.cfg.x1 o.vs2) o.vm s fun j =>
    .atomic (v.amoOp i) [(j, v.elem o.vs3.toNat j, match i with | .vamocas _ => second j | _ => 0)]

/-- The flags of a VWAIT (R353). -/
def VEnv.watchPlan (v : VEnv) (vs1 vs2 : BitVec 5) (vm : BitVec 3) : List Plan :=
  v.bytePlan (fun i => word ((v.lane i).rows (32 * vs1.toNat) 64)) vm 0 fun i => .watch (v.elem vs2.toNat i)

/-- What each vector memory instruction asks for, in ascending element order; `slot` is where VLDSB reads. -/
def VEnv.plan (v : VEnv) (i : Instr) (s : Nat) (slot : Word) : List Plan :=
  let ld (_ : Nat) : VOp := .load
  match i with
  | .vld a => v.unitPlan v.cfg.x1 a.vm s ld
  | .vlds a => v.bytePlan (strided v.cfg.x1 v.cfg.x2) a.vm s ld
  | .vldx a => v.bytePlan (v.indexed v.cfg.x1 a.r2) a.vm s ld
  | .vldt a => v.bytePlan (v.tiled v.cfg.x1 v.cfg.x2) a.vm s ld
  | .vldb a => v.blockPlan v.cfg.x1 a.vm s 0 (decide (v.cfg.x1.toNat % 8 ≠ 0))
  | .vldsb _ _ vm _ => v.unitPlan slot vm s ld
  | .vst a => v.unitPlan v.cfg.x1 a.vm s (v.stored a.v)
  | .vsts a => v.bytePlan (strided v.cfg.x1 v.cfg.x2) a.vm s (v.stored a.v)
  | .vstx a => v.bytePlan (v.indexed v.cfg.x1 a.r2) a.vm s (v.stored a.v)
  | .vstt a => v.bytePlan (v.tiled v.cfg.x1 v.cfg.x2) a.vm s (v.stored a.v)
  | .vamoadd o | .vamomin o | .vamomax o | .vamoand o | .vamoor o | .vamoxor o | .vamoswap o | .vamocas o =>
    v.amoPlan i o s
  | .vwait _ _ vs1 vs2 vm => v.watchPlan vs1 vs2 vm
  | .bsload _ _ vm => v.slicePlan vm s
  | _ => []

/-- The request type of an instruction. -/
def planReq : Instr → Req
  | .vld a | .vlds a | .vldx a | .vldt a | .vldb a | .vst a | .vsts a | .vstx a | .vstt a => a.req
  | .vwait _ _ _ _ _ => .u
  | _ => .o

/-- The kind of access an operation makes (R287). -/
def VOp.acc : VOp → Acc
  | .load | .scale | .high _ | .watch _ => .read
  | .store _ => .write
  | .atomic _ _ => .atomic

/-- Whether an operation names an element of less than 8 bits (R304). -/
def VOp.narrow (op : VOp) (width : Nat) : Bool := match op with | .high _ => true | _ => decide (width < 8)

/-- Bytes that a field of bits touches. -/
def touched (bit width : Nat) : Nat := (bit + width + 7) / 8

/-- The address of a planned request's element, which a fault reports (R304): the second byte of a divided element follows the
element's own (R307). -/
def Plan.addr (x : Plan) : Word := match x.op with | .high _ => x.va - 1 | _ => x.va

/-- The address of a request's element. -/
def VReq.addr (r : VReq) : Word := match r.op with | .high _ => r.va - 1 | _ => r.va

/-- Whether an instruction's elements translate in the TLB banks of the arrays that hold their lanes (R284). -/
def usesBanks : Instr → Bool
  | .vldx _ | .vstx _ | .vwait _ _ _ _ _ => true
  | .vamoadd _ | .vamomin _ | .vamomax _ | .vamoand _ | .vamoor _ | .vamoxor _ | .vamoswap _ | .vamocas _ => true
  | _ => false

/-- Check one element (R287, R304): a vector fault's cause, or the request. -/
def State.probeOne (s : State) (p : CoreId) (c : CtxId) (req : Req) (bank : Option ArrayId) (x : Plan) :
    Except Cause VReq × State :=
  if x.bad then (.error .align, s)
  else match s.place p c false true x.va (touched x.bit x.width) x.op.acc bank (x.op.narrow x.width) with
    | (.error k, s1) => (.error k, s1)
    | (.ok pl, s1) =>
      if decide (x.op.acc = .read) && s1.isBadFor p pl.pa (touched x.bit x.width) (if pl.dev then .u else req) then
        (.error .memUncorrectable, s1)
      else (.ok ⟨x.elem, pl.pa, x.va, x.bit, x.width, req, pl.dev, pl.grain, x.op, none, false⟩, s1)

/-- The bank of an element's array, for an indexed access. -/
def bankOf (i : Instr) (part : List ArrayId) (x : Plan) : Option ArrayId :=
  if usesBanks i then part[x.elem / 256]? else none

/-- The probe pass (R284): the requests below the lowest fault, and that fault with TVAL as its rule states. An indexed
access translates the elements above it too. A cause of 0 says that a table entry from beyond the package is awaited there. -/
def State.probePass (s : State) (p : CoreId) (c : CtxId) (req : Req) (i : Instr) (part : List ArrayId)
    (tval : Word → Word) : List Plan → List VReq × Option VFault × State
  | [] => ([], none, s)
  | x :: xs =>
    match s.probeOne p c req (bankOf i part x) x with
    | (.error k, s1) =>
      let s2 := if usesBanks i && k != .await then xs.foldl (fun (a : State) y => (a.probeOne p c req (bankOf i part y) y).2) s1 else s1
      ([], some ⟨k.num, tval x.addr, BitVec.ofNat 25 x.elem, BitVec.ofNat 25 x.elem⟩, s2)
    | (.ok r, s1) =>
      let (rs, f, s2) := s1.probePass p c req i part tval xs
      (r :: rs, f, s2)

/-- Requests of one address joined (R350, R351): lanes in ascending order. -/
def joinReqs : List VReq → List VReq
  | [] => []
  | r :: rs =>
    match r.op with
    | .atomic op pre =>
      let js := joinReqs rs
      match js.find? (fun (x : VReq) => decide (x.va = r.va)) with
      | some x =>
        let more := match x.op with | .atomic _ l => l | _ => []
        { r with op := .atomic op (pre ++ more) } :: js.filter fun (y : VReq) => decide (y.va ≠ r.va)
      | none => r :: js
    | _ => r :: joinReqs rs

/-! ### Stream buffers -/

/-- The place of handle h's entry in a strand's table (R320). -/
def State.sbPlace (s : State) (p : CoreId) (t : StrandId) (h : Nat) : Except Cause Place × State :=
  s.place p ((s.core p).serves.getD 0) true false (word (2048 * (s.strand p t).sbbase.toNat + 32 * h)) 8 .read

/-- The physical address of handle h's table entry for a strand, which keys its buffer (R320, R321). -/
def State.sbKey (s : State) (p : CoreId) (t : StrandId) (h : Nat) : Option Nat :=
  match (s.sbPlace p t h).1 with
  | .ok pl => some pl.pa
  | .error _ => none

/-- The active buffer of a handle. -/
def State.sbufOf (s : State) (p : CoreId) (t : StrandId) (h : Nat) : Option StreamBuf :=
  match s.sbKey p t h with
  | none => none
  | some k => s.sbufs.find? fun (b : StreamBuf) => b.key = k

/-- A strand as a buffer knows it: its context, its logical core and its number. -/
def State.userOf (s : State) (p : CoreId) (t : StrandId) : CtxId × Nat × StrandId :=
  ((s.core p).serves.getD 0, (s.core p).lcore.toNat, t)

/-- Note a strand as a user of a buffer (R321). -/
def State.sbUse (s : State) (p : CoreId) (t : StrandId) (key : Nat) : State :=
  { s with sbufs := s.sbufs.map fun (b : StreamBuf) =>
      if b.key = key ∧ s.userOf p t ∉ b.users then { b with users := b.users ++ [s.userOf p t] } else b }

/-! ### Beginning -/

/-- The environment of the entry at the head of a strand's queue. -/
def State.headEnv (s : State) (p : CoreId) (t : StrandId) (e : QEntry) : VEnv where
  core := s.core p
  part := e.part
  vlen := e.vlen.toNat
  cfg := ⟨e.vtype, e.fmt, e.ovt, e.vlen.toNat, e.x1, e.x2⟩
  seed := e.seed
  vicount := (s.strand p t).vicount
  level1 := e.level1
  slots := match (s.core p).serves with | some c => (s.ctx c).slots | none => Vector.replicate 16 []
  acc := (s.strand p t).acc

/-- An entry that has begun, with nothing asked for. -/
def HeadRun.start : HeadRun := ⟨[], [], none, 0, 0, 0, none, false⟩

/-- Set the state of the head of a strand's queue. -/
def State.setHead (s : State) (p : CoreId) (t : StrandId) (h : HeadRun) : State :=
  s.setStrand p t { s.strand p t with head := some h }

/-- A VWAIT's watches leave their tables (R354). -/
def State.unwatch (s : State) (p : CoreId) (t : StrandId) : State :=
  { s with watches := s.watches.filter fun (w : Watch) => !decide (w.core = p ∧ w.strand = t) }

/-- Requests of a strand's vector entries beyond the package that nobody waits for any more still perform. -/
def State.orphanElems (s : State) (p : CoreId) (t : StrandId) : State :=
  s.orphanExt fun (w : Requester) => match w with | .elem q u _ => decide (q = p ∧ u = t) | _ => false

/-- A vector fault is detected: the entry stops and waits to be taken (R383). With entries held, or in a handler that is
waiting for its queue to drain, it is a double trap (R388). -/
def State.vfaultAt (s : State) (p : CoreId) (t : StrandId) (f : VFault) : State :=
  let s1 := (s.orphanElems p t).unwatch p t
  let st := s1.strand p t
  if st.replay ≠ [] || (st.tact && decide (st.wait = some .drain)) then
    s1.asStrand p t fun (x : State) => x.doubleTrap f.cause f.tval
  else s1.setStrand p t { st with head := none, vfault := some f }

/-- The head's effect is complete, with flags and an x result. -/
def State.headDone (s : State) (p : CoreId) (t : StrandId) (x : Option Word) (fl : VFlags) : State :=
  let st := s.strand p t
  let h := st.head.getD HeadRun.start
  s.setStrand p t { st with head := some { h with finished := true, result := x }, vstat := st.vstat ||| fl }

/-- The instruction at the head of a strand's queue. -/
def Strand.headInstr (st : Strand) : Option Instr := st.queue.head?.bind QEntry.instr

/-- The acquire of a vector atomic that ends (R350). -/
def State.amoAcquire (s : State) (p : CoreId) (i : Instr) : State :=
  match i with
  | .vamoadd o | .vamomin o | .vamomax o | .vamoand o | .vamoor o | .vamoxor o | .vamoswap o | .vamocas o =>
    if o.acq then s.acquire p o.scope else s
  | _ => s

/-- A head whose requests are all performed and arrived ends, or its fault is detected: an atomic's elements that have performed
make their acquire either way (R337). -/
def State.headSettle (s : State) (p : CoreId) (t : StrandId) : State :=
  match (s.strand p t).head with
  | none => s
  | some h =>
    if h.reqs ≠ [] then s
    else
      let s1 := match (s.strand p t).headInstr with
        | some i => s.amoAcquire p i
        | none => s
      match h.fault with
      | some f => s1.vfaultAt p t f
      | none => s1.headDone p t none 0

/-- Whether the channels that an entry reads have an element in every lane below its VLEN (R357). -/
def Core.arrivedAll (c : Core) (e : QEntry) : Bool :=
  (List.range 4).all fun k => !e.chans.getLsbD k ||
    (List.range e.vlen.toNat).all fun i => (c.lane e.part i).arrived.getLsbD k

/-- On completion an entry clears the arrival bits it waited for (R357). -/
def Core.clearArrived (c : Core) (e : QEntry) : Core :=
  if e.chans = 0 then c
  else (List.range e.vlen.toNat).foldl (fun (k : Core) i =>
    let l := k.lane e.part i
    k.setLane e.part i { l with arrived := l.arrived &&& ~~~e.chans }) c

/-- The value of ARRAY_PARITY's TVAL (R224): the step, the array's position and the row. -/
def parityTval (step pos row : Nat) : Word := word (step % 2 ^ 16 * 2 ^ 48 + pos * 2 ^ 32 + row)

/-- An array instruction runs (R205), or meets a parity error (R224). -/
def State.runArray (s : State) (p : CoreId) (t : StrandId) (e : QEntry) (i : Instr) : State :=
  let v := s.headEnv p t e
  let spec := vspec i v.cfg
  match (if e.vlen = 0 then none else v.parityError i spec 0) with
  | some (row, pos, grp) =>
    let (n, s1) := s.draw
    let x := v.stopAt i spec n row pos
    let s2 := (s1.setCore p (v.stopped spec x)).reportParity p ((e.part[pos]?).getD 0) row
    let lane := BitVec.ofNat 25 (256 * pos + 64 * grp)
    s2.vfaultAt p t ⟨Cause.num .arrayParity, parityTval x.step pos row, lane, lane⟩
  | none =>
    let o := vrun i v
    let s1 := s.setCore p (v.latched i spec v.w true (v.rewritten i spec o.core))
    (s1.setStrand p t { s1.strand p t with acc := o.acc }).headDone p t o.result o.flags

/-- The element at which a memory instruction begins: VSTART as captured, where it uses that (R303, R384). -/
def firstElem (e : QEntry) (i : Instr) : Nat :=
  match i with
  | .vsend _ _ _ | .xred _ _ _ _ | .vwait _ _ _ _ _ => 0
  | .bsload _ _ _ => if e.vstart.toNat / 2 ^ 17 + 1 < usNe e.x2 then 0 else e.vstart.toNat % 2 ^ 17
  | _ => e.vstart.toNat

/-- A parity error in the rows that a memory instruction senses as it begins (R224). -/
def State.memoryParity (s : State) (p : CoreId) (t : StrandId) (e : QEntry) (i : Instr) : Option State :=
  let v := s.headEnv p t e
  match (if e.vlen = 0 then none else v.parityError i (vspec i v.cfg) (firstElem e i)) with
  | none => none
  | some (row, pos, grp) =>
    let (n, s1) := s.draw
    let x := v.stopAt i (vspec i v.cfg) n row pos
    let lane := BitVec.ofNat 25 (256 * pos + 64 * grp)
    some ((s1.reportParity p ((e.part[pos]?).getD 0) row).vfaultAt p t
      ⟨Cause.num .arrayParity, parityTval x.step pos row, lane, lane⟩)

/-- Key of a request in the responses of the host and peer interfaces. -/
def VReq.key (r : VReq) : Nat := 4 * r.elem + (match r.op with | .scale => 1 | .high _ => 2 | _ => 0)

/-- Whether an address lies beyond the package. -/
def isExternal (pa : Nat) : Bool := match region pa with | .host _ | .peer _ _ => true | _ => false

/-- The release that an entry in the vector stream makes at a scope (R339): the strand's relaxed accesses perform, and the
core's dirty untracked bytes are written back. Answers whether nothing of that is outstanding beyond the package. -/
def State.streamRelease (s : State) (p : CoreId) (t : StrandId) (sc : Scope) : Bool × State :=
  let s1 := (s.drainRelaxed p t).releaseCopies p sc
  (!s1.extRelaxed p t && (decide (sc = .strand ∨ sc = .core) || !s1.windowDirty p), s1)

/-- The requests of an entry without those that it has performed early, its early reads filled in (R309). -/
def withoutEarly (early : List (Nat × Option Nat)) (rs : List VReq) : List VReq :=
  rs.filterMap fun (r : VReq) =>
    match early.find? fun (x : Nat × Option Nat) => x.1 = r.key with
    | some (_, some v) => some { r with got := some v }
    | some (_, none) => none
    | none => some r

/-- The scope of a releasing vector atomic (R350). -/
def amoRelease : Instr → Option Scope
  | .vamoadd o | .vamomin o | .vamomax o | .vamoand o | .vamoor o | .vamoxor o | .vamoswap o | .vamocas o =>
    if o.rel then some o.scope else none
  | _ => none

/-- Whether a probe pass stopped at a table entry that is awaited from beyond the package (R280). -/
def VFault.awaits (f : VFault) : Bool := decide (f.cause = 0)

/-- The part of an access's plan within its slot of a stream buffer, and the fault of what lies past it (R308). -/
def withinSlot (i : Instr) (slot : Word) (limit : Nat) (l : List Plan) : List Plan × Option VFault :=
  match i with
  | .vldsb _ _ _ _ =>
    let inside := l.takeWhile fun (x : Plan) => decide ((x.va - slot).toNat + touched x.bit x.width ≤ limit)
    (inside, (l.drop inside.length).head?.map fun (x : Plan) =>
      VFault.mk (Cause.num .access) x.addr (BitVec.ofNat 25 x.elem) (BitVec.ofNat 25 x.elem))
  | _ => (l, none)

/-- A load, store, atomic or BSLOAD begins: the probe pass, and a release where the instruction is one (R350), for which
the entry waits at the head, as it does for a table entry from beyond the package. -/
def State.beginAccess (s : State) (p : CoreId) (t : StrandId) (e : QEntry) (i : Instr) (slot : Word)
    (limit : Nat) : State :=
  let c := (s.core p).serves.getD 0
  let v := s.headEnv p t e
  let (within, past) := withinSlot i slot limit (v.plan i e.vstart.toNat slot)
  let tval (a : Word) : Word := match i with
    | .bsload _ _ _ => if e.x1.toNat % 64 ≠ 0 then e.x1 else a
    | _ => a
  let (rs, f, s1) := s.probePass p c (planReq i) i e.part tval within
  let f1 := match f with | some x => some x | none => past
  let (ready, s2) := if f.any VFault.awaits then (false, s1) else match amoRelease i with
    | some sc => s1.streamRelease p t sc
    | none => (true, s1)
  if !ready then s2
  else
    let s3 := rs.foldl (fun (a : State) (r : VReq) => a.performSame p t r.pa (touched r.bit r.width)) s2
    (s3.setHead p t { HeadRun.start with reqs := withoutEarly e.early (joinReqs rs), fault := f1 }).headSettle p t

/-- Whether a flag meets its VWAIT (R353). -/
def watchMet (k : WCond) (sgn : Bool) (w f x : Nat) : Bool :=
  match k with
  | .eq => decide (f = x)
  | .ne => decide (f ≠ x)
  | .ge => decide (elemInt sgn w x ≤ elemInt sgn w f)
  | .lt => decide (elemInt sgn w f < elemInt sgn w x)

/-- The condition of the VWAIT at the head. -/
def headCond (i : Instr) : WCond := match i with | .vwait k _ _ _ _ => k | _ => .eq

/-- A VWAIT leaves with its unmet elements (R354): md in active lanes, and the acquire. -/
def State.leaveVwait (s : State) (p : CoreId) (t : StrandId) (e : QEntry) (i : Instr) (unmet : List Nat) : State :=
  match i with
  | .vwait _ md _ _ vm =>
    let v := s.headEnv p t e
    let o := v.maskEach md vm fun k => (decide (k ∈ unmet), 0)
    ((s.setCore p (v.rewritten i (vspec i v.cfg) o.core)).acquire p .dev).unwatch p t
  | _ => s

/-- A VWAIT with no unmet element ends. -/
def State.vwaitSettle (s : State) (p : CoreId) (t : StrandId) (e : QEntry) (i : Instr) : State :=
  match (s.strand p t).head with
  | some h => if h.reqs ≠ [] || h.finished then s else (s.leaveVwait p t e i []).headDone p t none 0
  | none => s

/-- The request that goes to a peer or the host for an element. -/
def VReq.bus (r : VReq) (v : VEnv) (who : Requester) : BusOp :=
  match r.op with
  | .load | .scale | .high _ | .watch _ => .read r.pa (touched r.bit r.width)
  | .store x => if r.width < 8 then .merge r.pa r.bit r.width x else .write r.pa (leBytes (touched r.bit r.width) x)
  | .atomic op pre =>
    let sz : ASize := if r.width = 32 then .w else .d
    let f := amoFmt sz v.cfg.ovt
    let mode := v.cfg.mode .dflt
    match op, pre with
    | .cas, (_, a, b) :: rest =>
      let one : AtomicReq := ⟨who, r.pa, sz, .cas, word b, word a⟩
      if rest = [] then .atomic one
      else .casChain one (rest.map fun (l : Nat × Nat × Nat) => (word l.2.1, word l.2.2))
    | .fadd, (i, a, _) :: rest =>
      let x := rest.foldl (fun (acc : Nat) (l : Nat × Nat × Nat) =>
        (fpOp f mode (v.rnd l.1 0) [] (fpAdd mode (f.value acc) (f.value l.2.1))).1) a
      .atomic ⟨who, r.pa, sz, .fadd, word x,
        word (mode + v.rnd i 2 * 8 + (if sz = .w then ovtField v.cfg.ovt 2 else ovtField v.cfg.ovt 3) * 2 ^ 19)⟩
    | _, (_, a, _) :: rest =>
      .atomic ⟨who, r.pa, sz, op,
        word (rest.foldl (fun (acc : Nat) (l : Nat × Nat × Nat) => amoNew sz op acc l.2.1 0) a), 0⟩
    | _, [] => .read r.pa 4

/-- A request of the head waits for an answer. -/
def State.markSent (s : State) (p : CoreId) (t : StrandId) (r : VReq) : State :=
  match (s.strand p t).head with
  | some h => s.setHead p t { h with reqs := h.reqs.map fun (x : VReq) => if x.key = r.key then { x with sent := true } else x }
  | none => s

/-- Send an element's request beyond the package (R429, R431), as an access of type .u: the core's own copy of the grain
is written back and invalidated (R273, R276, R305). -/
def State.sendElem (s : State) (p : CoreId) (t : StrandId) (v : VEnv) (r : VReq) : State :=
  let who : Requester := .elem p t r.key
  let secs := grainSectors r.pa r.grain
  let s1 := (s.markSent p t r).writeBackOwn p secs
  let s2 := match r.op with
    | .store _ | .atomic _ _ => s1.dropOwn p secs
    | _ => s1
  { s2 with ext := s2.ext ++ [⟨who, r.va, r.pa, r.bus v who, none, false, none, none, []⟩] }

/-- Drop a request of the head. -/
def State.dropReq (s : State) (p : CoreId) (t : StrandId) (key : Nat) : State :=
  match (s.strand p t).head with
  | some h => s.setHead p t { h with reqs := h.reqs.filter fun (x : VReq) => decide (x.key ≠ key) }
  | none => s

/-- A fault found as an element performs (R304): a VWAIT or a TTLOAD ends there, with VSTART 0 (R222, R354); of the others
the requests at and above the element are dropped. -/
def State.elemFault (s : State) (p : CoreId) (t : StrandId) (elem : Nat) (va : Word) (k : Cause) : State :=
  let st := s.strand p t
  match st.head with
  | some h =>
    let f : VFault := ⟨k.num, va, BitVec.ofNat 25 elem, BitVec.ofNat 25 elem⟩
    match st.headInstr with
    | some (.vwait _ _ _ _ _) | some (.ttload _ _) => s.vfaultAt p t { f with vstart := 0 }
    | _ =>
      let older := match h.fault with | some x => decide (x.elem.toNat ≤ elem) | none => false
      s.setHead p t { h with
        fault := if older then h.fault else some f
        reqs := h.reqs.filter fun (x : VReq) => decide (x.elem < elem) }
  | none => s

/-- A watch for an unmet flag stands in the waiter table of its home (R269, R354): there is none for DEV-class pages, beyond
the package, or with the table full. -/
def State.enterWatch (s : State) (p : CoreId) (t : StrandId) (r : VReq) : State :=
  if r.dev || isExternal r.pa || (s.watches.any fun (w : Watch) => decide (w.core = p ∧ w.strand = t ∧ w.key = r.key)) ||
      !s.tableFree r.pa then s
  else { s with watches := s.watches ++ [⟨p, t, r.key, r.pa, r.width / 8, false⟩] }

/-- The watch of a flag leaves its table. -/
def State.leaveWatch (s : State) (p : CoreId) (t : StrandId) (key : Nat) : State :=
  { s with watches := s.watches.filter fun (w : Watch) => !decide (w.core = p ∧ w.strand = t ∧ w.key = key) }

/-- One flag of a VWAIT as read (R354): a met element leaves the wait for good, with its watch; an unmet one is watched. -/
def State.watchRead (s : State) (p : CoreId) (t : StrandId) (v : VEnv) (i : Instr) (r : VReq) (x : Nat) : State :=
  match r.op with
  | .watch e =>
    if watchMet (headCond i) v.sgn r.width (x % 2 ^ r.width) e then (s.dropReq p t r.key).leaveWatch p t r.key
    else match (s.strand p t).head with
      | some h => (s.enterWatch p t r).setHead p t { h with reqs := h.reqs.map fun (y : VReq) =>
          if y.key = r.key then { y with sent := false } else y }
      | none => s
  | _ => s

/-- Read one flag at home. -/
def State.watchHome (s : State) (p : CoreId) (t : StrandId) (v : VEnv) (i : Instr) (r : VReq) : State :=
  if (s.strand p t).head.isNone then s
  else if isExternal r.pa then (if r.sent then s else s.sendElem p t v r)
  else if s.isBad r.pa (r.width / 8) then s.elemFault p t r.elem r.va .memUncorrectable
  else
    let (bs, s1) := s.loadAt p r.pa (r.width / 8) r.grain r.dev .u true
    s1.watchRead p t v i r (fromLe bs)

/-- Read some flags in ascending lane order (R354); `busy` says that one of a DEV-class page is being read beyond the
package, which holds the next ones. -/
def State.watchList (s : State) (p : CoreId) (t : StrandId) (e : QEntry) (i : Instr) : Bool → List VReq → State
  | _, [] => s
  | busy, r :: rs =>
    if r.dev && busy then s.watchList p t e i busy rs
    else (s.watchHome p t (s.headEnv p t e) i r).watchList p t e i (busy || (r.dev && isExternal r.pa)) rs

/-- Test every unmet flag. -/
def State.watchAll (s : State) (p : CoreId) (t : StrandId) (e : QEntry) (i : Instr) : State :=
  match (s.strand p t).head with
  | none => s
  | some h =>
    let s1 : State := { s with watches := s.watches.map fun (w : Watch) =>
      if w.core = p ∧ w.strand = t then { w with woken := false } else w }
    (s1.watchList p t e i (h.reqs.any fun (r : VReq) => r.dev && r.sent) h.reqs).vwaitSettle p t e i

/-- A flag beyond the package has been read: on a DEV-class page the next ones follow (R354). -/
def State.watchAnswer (s : State) (p : CoreId) (t : StrandId) (e : QEntry) (i : Instr) (r : VReq) (x : Nat) : State :=
  let s1 := s.watchRead p t (s.headEnv p t e) i r x
  let more := if !r.dev then [] else match (s1.strand p t).head with
    | some h => h.reqs.filter fun (y : VReq) => y.dev && decide (r.elem < y.elem)
    | none => []
  (s1.watchList p t e i false more).vwaitSettle p t e i

/-- A VWAIT begins: its limit is captured at its first read (R354, R355). -/
def State.beginVwait (s : State) (p : CoreId) (t : StrandId) (e : QEntry) (i : Instr) : State :=
  let c := (s.core p).serves.getD 0
  let v := s.headEnv p t e
  let (rs, f, s1) := s.probePass p c .u i e.part id (v.plan i 0 0)
  let k := s1.core p
  let limit := flagAt k.waitTrap 63 ||| word k.waitLimit.toNat
  match f with
  | some x => if x.awaits then s1 else s1.vfaultAt p t x
  | none =>
    let s2 := rs.foldl (fun (a : State) (r : VReq) => a.performSame p t r.pa (r.width / 8)) s1
    (s2.setHead p t { HeadRun.start with reqs := rs, limit := limit, since := s.coreCycle }).watchAll p t e i

/-- A VWAIT whose limit passes leaves (R355). -/
def State.vwaitTimeout (s : State) (p : CoreId) (t : StrandId) : State :=
  let st := s.strand p t
  match st.queue, st.head with
  | e :: _, some h =>
    match e.instr with
    | some i =>
      match i with
      | .vwait _ _ _ _ _ =>
        let n := field h.limit 31 0
        if h.finished || n = 0 || s.coreCycle < h.since + 1024 * n then s
        else match h.reqs with
          | [] => s
          | r :: _ =>
            let s1 := s.leaveVwait p t e i (h.reqs.map (·.elem))
            let s2 := (s1.orphanElems p t).setHead p t { h with reqs := [] }
            if bit h.limit 63 then
              s2.vfaultAt p t ⟨Cause.num .timeout, r.va, BitVec.ofNat 25 r.elem, 0⟩
            else s2.headDone p t none 0
      | _ => s
    | none => s
  | _, _ => s

/-- Whether the VWAIT at the head of a strand tests its flags again (R354): a write has woken a watch of it, the latch is
set, or a flag without a watch is due for its poll, every 2,048 base cycles. -/
def State.vwaitDue (s : State) (p : CoreId) (t : StrandId) : Bool :=
  let mine := s.watches.filter fun (w : Watch) => decide (w.core = p ∧ w.strand = t)
  (s.strand p t).latch || mine.any (·.woken) ||
    (decide (s.cycles % 2048 = 0) && match (s.strand p t).head with
      | some h => decide (mine.length < h.reqs.length)
      | none => false)

/-- A test of the VWAIT at the head (R354). -/
def State.vwaitPoll (s : State) (p : CoreId) (t : StrandId) : State :=
  let st := s.strand p t
  match st.queue, st.head with
  | e :: _, some h =>
    match e.instr with
    | some i => match i with
      | .vwait _ _ _ _ _ => if h.finished then s else s.watchAll p t e i
      | _ => s
    | none => s
  | _, _ => s

/-! ### VSEND -/

/-- Whether a target word of R358 is refused: n is the number of lanes. -/
def State.badTarget (s : State) (c : CtxId) (x : Word) (n : Nat) : Bool :=
  decide (field x 63 49 ≠ 0 ∨ field x 31 20 ≠ 0 ∨ 5 < field x 19 17 ∨ (s.ctx c).size ≤ field x 9 0) ||
    (!bit x 15 && decide (65536 < field x 48 32 + n))

/-- The deposit of a target word (R358). -/
def depositFor (p : CoreId) (t : StrandId) (vector : Bool) (c : CtxId) (x : Word)
    (elems : List (Option (BitVec 64))) : Deposit where
  fromCore := p
  fromStrand := t
  vector := vector
  ctx := c
  lcore := x.extractLsb' 0 10
  strand := (x.extractLsb' 10 3).toFin
  ch := x.extractLsb' 13 2
  offset := field x 48 32
  elems := elems

/-- The RED message of a target word (R358, R364). -/
def State.redFor (s : State) (p : CoreId) (t : StrandId) (vector : Bool) (c : CtxId) (x v : Word) : RedMsg where
  vector := vector
  ctx := c
  fromDev := none
  fromLcore := (s.core p).lcore
  fromCore := some p
  fromStrand := t
  lcore := x.extractLsb' 0 10
  stop := bit x 16
  value := v

/-- Hand a deposit to the network, with the release it is (R358, R359). -/
def State.sendDeposit (s : State) (p : CoreId) (d : Deposit) : State :=
  (s.releaseCopies p .dev).sendTo d.ctx d.lcore.toNat (fun _ => .deposit d) (.deposit d)

/-- Hand a RED message to the network. -/
def State.sendRedMsg (s : State) (p : CoreId) (m : RedMsg) : State :=
  (s.releaseCopies p .dev).sendTo m.ctx m.lcore.toNat (fun _ => .red m) (.red m)

/-- A VSEND begins (R358): once its release has performed (R339), its deposit leaves; with RED set each active element is a
message (assumption 27). -/
def State.beginVsend (s : State) (p : CoreId) (t : StrandId) (e : QEntry) (vs1 : BitVec 5) (vm : BitVec 3) : State :=
  let c := (s.core p).serves.getD 0
  let v := s.headEnv p t e
  if s.badTarget c e.x1 e.vlen.toNat then s.vfaultAt p t ⟨Cause.num .access, e.x1, 0, 0⟩
  else
    let w := (sendWidth e.x1).getD 0
    let elems := (List.range e.vlen.toNat).map fun i =>
      if v.active vm i then some (BitVec.ofNat 64 ((v.lane i).rows (32 * vs1.toNat) w)) else none
    let (ready, s1) := s.streamRelease p t .dev
    if !ready then s1
    else if bit e.x1 15 then
      let vals := elems.filterMap id
      let s2 := s1.setHead p t { HeadRun.start with steps := vals.length, finished := vals.isEmpty }
      vals.foldl (fun (a : State) x => a.sendRedMsg p (a.redFor p t true c e.x1 x)) s2
    else (s1.setHead p t HeadRun.start).sendDeposit p (depositFor p t true c e.x1 elems)

/-! ### XRED -/

/-- Replace a chain. -/
def State.setChain (s : State) (g : Fin 16) (k : Chain) : State := { s with chains := s.chains.set g k }

/-- TVAL of a refused chain (R360, R362). -/
def chainTval (g : Fin 16) (abort : Bool) : Word := flagAt true 63 ||| flagAt abort 62 ||| word g.val

/-- Send a message along a chain. -/
def State.chainSend (s : State) (g : Fin 16) (dev : BitVec 9) (m : XredMsg) : State :=
  { s with net := s.net ++ [.xredOut dev g m] }

/-- The chain has served its XRED. -/
def Chain.ended (k : Chain) : Chain := { k with serving := none, header := none, results := [] }

/-- The number of element groups that an XRED of a vector length sends (R286, R361). A VLEN of 0 sends one without elements,
so that its devices agree on it too (R362; assumption 69). -/
def groupCount (vlen : Nat) : Nat := max 1 (ceilDiv vlen 256)

/-- The combination that an XRED makes (R361). -/
def xredOp : XOp → RedOp
  | .add => .sum
  | .min => .min
  | .max => .max

/-- This strand's elements of group n, each as it stands alone (R361; assumption 66). -/
def VEnv.groupElems (v : VEnv) (op : XOp) (vd : BitVec 5) (vm : BitVec 3) (n : Nat) : List (Option (BitVec 64 × BitVec 5)) :=
  (List.range (min 256 (v.vlen - 256 * n))).map fun j =>
    if v.active vm (256 * n + j) then
      let (x, f) := redLone v.ty (xredOp op) (v.elem vd.toNat (256 * n + j))
      some (BitVec.ofNat 64 x, f)
    else none

/-- The elements of a group with this device's elements combined in (R361). -/
def VEnv.joinGroup (v : VEnv) (op : XOp) (vd : BitVec 5) (vm : BitVec 3) (n : Nat)
    (l : List (Option (BitVec 64 × BitVec 5))) : List (Option (BitVec 64 × BitVec 5)) :=
  ((l.zip (v.groupElems op vd vm n)).zipIdx).map fun x =>
    match x.1.1, x.1.2 with
    | some (a, fa), some (b, fb) =>
      let (c, f) := redStep v.ty (xredOp op) (v.cfg.mode .dflt) (v.rnd (256 * n + x.2) 0) a.toNat b.toNat
      some (BitVec.ofNat 64 c, fa ||| fb ||| f)
    | some a, none => some a
    | none, b => b

/-- Write the results of a chain's groups into vd, with their flags (R361). -/
def VEnv.takeResults (v : VEnv) (vd : BitVec 5) (vm : BitVec 3)
    (rs : List (Nat × List (Option (BitVec 64 × BitVec 5)))) : VOut :=
  v.write (v.active vm) fun i l =>
    match ((rs.find? fun (x : Nat × List (Option (BitVec 64 × BitVec 5))) => x.1 = i / 256).map (·.2)).bind (fun y => (y[i % 256]?).join) with
    | some (x, f) => (l.withRows (32 * vd.toNat) v.w x.toNat, f)
    | none => (l, 0)

/-- The XRED that a chain serves, with its entry. -/
def State.chainEntry (s : State) (g : Fin 16) : Option (CoreId × StrandId × QEntry × XOp × BitVec 5 × BitVec 3) :=
  match (s.chains[g]).serving with
  | none => none
  | some (p, t) =>
    match (s.strand p t).queue with
    | [] => none
    | e :: _ =>
      match e.instr with
      | some i => match i with
        | .xred op vd _ vm => some (p, t, e, op, vd, vm)
        | _ => none
      | none => none

/-- A chain goes on as far as what has arrived allows, one action at a time (R361, R362). A group that finds no header met
is of an XRED that was aborted, and goes. -/
def State.chainRun (s : State) (g : Fin 16) : Nat → State
  | 0 => s
  | fuel + 1 =>
    let k := s.chains[g]
    match s.chainEntry g with
    | none => s
    | some (p, t, e, op, vd, vm) =>
      match (s.strand p t).head with
      | none => s
      | some h =>
        let v := s.headEnv p t e
        let n := groupCount e.vlen.toNat
        let ty : BitVec 6 := e.vtype.extractLsb' 0 6
        let finishAll (s : State) (rs : List (Nat × List (Option (BitVec 64 × BitVec 5)))) : State :=
          let o := v.takeResults vd vm rs
          let i : Instr := .xred op vd 0 vm
          ((s.setCore p (v.rewritten i (vspec i v.cfg) o.core)).headDone p t none o.flags).setChain g (s.chains[g]).ended
        let abortAll (s : State) : State :=
          (s.vfaultAt p t ⟨Cause.num .access, chainTval g true, 0, 0⟩).setChain g (s.chains[g]).ended
        let steps (s : State) (m : Nat) : State := s.setHead p t { h with steps := m }
        match (if k.last then [] else k.fromNext) with
        | .result j l :: rest =>
          let s1 := s.setChain g { k with fromNext := rest, results := k.results ++ [(j, l)] }
          (if k.first then s1 else s1.chainSend g k.prev (.result j l)).chainRun g fuel
        | .abort _ :: rest =>
          let s1 := s.setChain g { k with fromNext := rest }
          abortAll (if k.first then s1 else s1.chainSend g k.prev (.abort true))
        | _ :: rest => (s.setChain g { k with fromNext := rest }).chainRun g fuel
        | [] =>
          if decide (h.steps = n + 1) && decide (k.results.length = n) then finishAll s k.results
          else if k.first then
            let own := (List.range n).map fun j => (j, v.groupElems op vd vm j)
            if k.last then finishAll s own
            else if h.steps = 0 then
              let s1 := s.chainSend g k.next (.header e.vlen.toNat ty op)
              let s2 := own.foldl (fun (a : State) x => a.chainSend g k.next (.group x.1 x.2)) s1
              steps s2 (n + 1)
            else s
          else match k.fromPrev with
            | [] => s
            | .header vl vt o :: rest =>
              if h.steps ≠ 0 then s
              else
                let s1 := s.setChain g { k with fromPrev := rest, header := some (vl, vt, o) }
                if vl ≠ e.vlen.toNat ∨ vt ≠ ty ∨ o ≠ op then
                  let s2 := s1.chainSend g k.prev (.abort true)
                  abortAll (if k.last then s2 else s2.chainSend g k.next (.abort false))
                else (steps (if k.last then s1 else s1.chainSend g k.next (.header vl vt o)) 1).chainRun g fuel
            | .group j l :: rest =>
              let s1 := s.setChain g { k with fromPrev := rest }
              if h.steps = 0 then s1.chainRun g fuel
              else if n < h.steps then s
              else
                let x := v.joinGroup op vd vm j l
                let s2 := steps s1 (h.steps + 1)
                (if k.last then (s2.chainSend g k.prev (.result j x)).setChain g
                    { k with fromPrev := rest, results := k.results ++ [(j, x)] }
                 else s2.chainSend g k.next (.group j x)).chainRun g fuel
            | .abort _ :: rest =>
              if h.steps ≠ 0 then s
              else
                let s1 := s.setChain g { k with fromPrev := rest }
                abortAll (if k.last then s1 else s1.chainSend g k.next (.abort false))
            | .result _ _ :: rest => (s.setChain g { k with fromPrev := rest }).chainRun g fuel

/-- A message arrives from a neighbour of a chain, behind what has arrived from there (R361, R362). -/
def State.chainMessage (s : State) (g : Fin 16) (m : XredMsg) : State :=
  let k := s.chains[g]
  let back : Bool := match m with
    | .result _ _ => true
    | .abort fromNext => fromNext
    | .header _ _ _ | .group _ _ => false
  (s.setChain g (if back then { k with fromNext := k.fromNext ++ [m] }
    else { k with fromPrev := k.fromPrev ++ [m] })).chainRun g 1100

/-- The numbers of the XREDs of chain g among some entries (R361). -/
def xredTickets (l : List QEntry) (g : Fin 16) : List Nat :=
  l.filterMap fun (e : QEntry) =>
    if field e.x1 63 4 = 0 ∧ field e.x1 3 0 = g.val then
      match e.instr with | some i => (match i with | .xred _ _ _ _ => some e.ticket | _ => none) | none => none
    else none

/-- An XRED at the head of its queue has its turn when no XRED of the chain that issued earlier on this device is left, queued,
held or saved (R361). What its own strand holds follows it (R386). -/
def State.xredTurn (s : State) (g : Fin 16) (p : CoreId) (t : StrandId) (e : QEntry) : Bool :=
  let later (l : List QEntry) : Bool := (xredTickets l g).all fun n => decide (e.ticket ≤ n)
  (s.chains[g]).serving.isNone &&
    (allCores.all fun q => allStrands.all fun u =>
      let st := s.strand q u
      later (if q = p ∧ u = t then st.queue else st.queue ++ st.replay)) &&
    s.ctxs.all fun (k : Ctx) => k.saved.all fun (x : Nat × Kept) => x.2.strands.all fun (st : Strand) =>
      later (st.queue ++ st.replay)

/-- An XRED reaches the head of its queue (R360, R361): it is served in the order of issue. -/
def State.beginXred (s : State) (p : CoreId) (t : StrandId) (e : QEntry) : State :=
  if field e.x1 63 4 ≠ 0 then s.vfaultAt p t ⟨Cause.num .access, e.x1, 0, 0⟩
  else
    let g := fin16 (field e.x1 3 0)
    let k := s.chains[g]
    if !k.valid then s.vfaultAt p t ⟨Cause.num .access, chainTval g false, 0, 0⟩
    else if !s.xredTurn g p t e then s
    else ((s.setHead p t HeadRun.start).setChain g { k with serving := some (p, t) }).chainRun g 1100

/-! ### TTLOAD -/

/-- Whether a step word passes the check of R222. -/
def stepOk (w : Word) : Bool :=
  let slot (n : Nat) : Bool :=
    let (b, off, k) := stepSlot w n
    if k = 0 then decide (b = 0 ∧ off = 0) else !decide (b = 3 ∧ 16 ≤ off)
  let wr (n : Nat) : Bool :=
    let (en, b, src, off) := stepWrite w n
    if en then decide (src ≤ 4) && !decide (b = 1 ∧ 16 ≤ off) else decide (b = 0 ∧ src = 0 ∧ off = 0)
  let used (n : Nat) : Bool := decide ((stepSlot w n).2.2 ≠ 0)
  let src (n x : Nat) : Bool := (stepWrite w n).1 && decide ((stepWrite w n).2.2.1 = x)
  let ag := decide (field w 53 52 ≠ 0)
  slot 0 && slot 1 && slot 2 && wr 0 && wr 1 &&
    decide (field w 53 52 ≠ 3 ∧ field w 55 54 ≠ 3 ∧ field w 57 56 ≠ 3) &&
    (!ag || (used 0 && used 1)) &&
    (!(src 0 4 || src 1 4) || used 0) &&
    !(ag && (src 0 2 || src 0 3 || src 1 2 || src 1 3)) &&
    !((stepWrite w 0).1 && (stepWrite w 1).1 &&
      decide ((stepWrite w 0).2.1 = (stepWrite w 1).2.1 ∧ (stepWrite w 0).2.2.2 = (stepWrite w 1).2.2.2))

/-- Ask for word n of a sequence (R222): its checks are those of a unit-stride vector load. Where a table entry is awaited it is
asked for again later. -/
def State.ttAsk (s : State) (p : CoreId) (t : StrandId) (e : QEntry) (n : Nat) : State :=
  let h := (s.strand p t).head.getD HeadRun.start
  let va := e.x1 + word (8 * n)
  match s.probeOne p ((s.core p).serves.getD 0) .o none ⟨n, va, 0, 64, .load, decide (e.x1.toNat % 8 ≠ 0)⟩ with
  | (.error .await, s1) => s1
  | (.error k, s1) => s1.vfaultAt p t ⟨k.num, va, BitVec.ofNat 25 n, 0⟩
  | (.ok r, s1) => (s1.performSame p t r.pa 8).setHead p t { h with reqs := h.reqs ++ [r] }

/-- A word of a sequence has been read (R222): it is checked, then the next is asked for, and the last one
replaces the slot's contents. -/
def State.ttWord (s : State) (p : CoreId) (t : StrandId) (e : QEntry) (slot : BitVec 4) (x : Word) : State :=
  let h := (s.strand p t).head.getD HeadRun.start
  let n := h.reqs.length - 1
  let rs := h.reqs.map fun (r : VReq) => if r.elem = n then { r with got := some x.toNat } else r
  let bad := if n = 0 then decide (field x 63 9 ≠ 0 ∨ 256 < field x 8 0) else !stepOk x
  let fault : VFault := ⟨Cause.num .illegal, e.x1 + word (8 * n), BitVec.ofNat 25 n, 0⟩
  if bad then s.vfaultAt p t fault
  else
    let len := match rs with | r :: _ => (r.got.getD 0) % 512 | [] => 0
    let s1 := s.setHead p t { h with reqs := rs }
    if n < len then s1.ttAsk p t e (n + 1)
    else
      let c := (s.core p).serves.getD 0
      let ws := (rs.drop 1).map fun (r : VReq) => word (r.got.getD 0)
      let k := s1.ctx c
      let s2 := s1.setCtx c { k with slots := k.slots.set slot.toFin ws }
      (s2.setHead p t HeadRun.start).headDone p t none 0

/-! ### Performing -/

/-- The bits of a field. -/
def State.readField (s : State) (p : CoreId) (r : VReq) : Nat × State :=
  let (bs, s1) := s.loadAt p r.pa (touched r.bit r.width) r.grain r.dev r.req true
  (fromLe bs >>> r.bit % 2 ^ r.width, s1)

/-- A store of one element: below 8 bits, a merge at home (R305). -/
def State.writeField (s : State) (p : CoreId) (r : VReq) (x : Nat) : State :=
  if r.width < 8 then
    let s1 := s.prepareHome p r.pa r.grain
    let old := fromLe (s1.peekHome r.pa 1)
    let m := (2 ^ r.width - 1) * 2 ^ r.bit
    s1.pokeHome r.pa (leBytes 1 ((old &&& (255 - m)) ||| (x % 2 ^ r.width * 2 ^ r.bit)))
  else s.storeAt p r.pa (leBytes (r.width / 8) x) r.grain r.dev r.req true

/-- Old values, final value and flags of the lanes that share an address (R351). -/
def amoChain (v : VEnv) (op : AmoOp) (w o : Nat) (pre : List (Nat × Nat × Nat)) : List (Nat × Nat) × Nat × VFlags :=
  let f := amoFmt (if w = 32 then .w else .d) v.cfg.ovt
  let mode := v.cfg.mode .dflt
  let add (i j a b : Nat) : Nat × VFlags :=
    fpOp f mode (v.rnd i j) [f.value a, f.value b] (fpAdd mode (f.value a) (f.value b))
  match op with
  | .fadd =>
    let r := pre.foldl (fun (a : List (Nat × Nat) × Option Nat × VFlags) (l : Nat × Nat × Nat) =>
      match a.2.1 with
      | none => (a.1 ++ [(l.1, o)], some l.2.1, a.2.2)
      | some q =>
        let (old, f1) := add l.1 1 o q
        let (nq, f2) := add l.1 0 q l.2.1
        (a.1 ++ [(l.1, old)], some nq, a.2.2 ||| f1 ||| f2)) ([], none, 0)
    let first := match pre with | l :: _ => l.1 | [] => 0
    let (fin, f3) := add first 2 o (r.2.1.getD 0)
    (r.1, fin, r.2.2 ||| f3)
  | .fmin | .fmax =>
    let r := pre.foldl (fun (a : List (Nat × Nat) × Nat × VFlags) (l : Nat × Nat × Nat) =>
      let (c, fl) := fpMinMaxOp f (decide (op = .fmax)) a.2.1 l.2.1
      (a.1 ++ [(l.1, a.2.1)], c, a.2.2 ||| fl)) ([], o, 0)
    (r.1, r.2.1, r.2.2)
  | _ =>
    let r := pre.foldl (fun (a : List (Nat × Nat) × Nat) (l : Nat × Nat × Nat) =>
      let c := if op = .cas then amoInt op w a.2 l.2.2 l.2.1 else amoInt op w a.2 l.2.1 0
      (a.1 ++ [(l.1, a.2)], c)) ([], o)
    (r.1, r.2, 0)

/-- The register that receives a vector atomic's old values. -/
def amoDest : Instr → BitVec 5
  | .vamoadd o | .vamomin o | .vamomax o | .vamoand o | .vamoor o | .vamoxor o | .vamoswap o | .vamocas o => o.vs3
  | _ => 0

/-- Old values reach their lanes, whose rows' parity is regenerated (R204), and flags their strand. -/
def State.amoReturn (s : State) (p : CoreId) (t : StrandId) (e : QEntry) (i : Instr) (r : VReq)
    (x : List (Nat × Nat) × Nat × VFlags) : State :=
  let row := 32 * (amoDest i).toNat
  let c := x.1.foldl (fun (c : Core) (l : Nat × Nat) =>
    c.setLane e.part l.1 ((c.lane e.part l.1).withRows row r.width l.2)) (s.core p)
  let s1 := s.setCore p (c.regen e.part [(row, r.width)] fun j => x.1.any fun (l : Nat × Nat) => decide (l.1 = j))
  let s2 := s1.setStrand p t { s1.strand p t with vstat := (s1.strand p t).vstat ||| x.2.2 }
  (s2.dropReq p t r.key).headSettle p t

/-- The fault of a vector atomic that meets an uncorrectable error (R350): the lowest lane whose address holds one. Requests
that a peer has been sent bring their old values first; the others left do not perform. -/
def State.amoFault (s : State) (p : CoreId) (t : StrandId) (rs : List VReq) : State :=
  let bad := rs.filter fun (r : VReq) => s.isBad r.pa (r.width / 8)
  let low := bad.foldl (fun (b : Option VReq) (r : VReq) =>
    match b with | some x => if r.elem < x.elem then some r else some x | none => some r) none
  match low, (s.strand p t).head with
  | some r, some h =>
    (s.setHead p t { h with
      fault := some ⟨Cause.num .memUncorrectable, r.va, BitVec.ofNat 25 r.elem, BitVec.ofNat 25 r.elem⟩
      reqs := rs.filter fun (x : VReq) => x.sent }).headSettle p t
  | _, _ => s

/-- Whether a request may perform now: a store waits for earlier stores whose bytes it overlaps (R305), a DEV-class page's
request for every earlier one (R285), and every request for the answer to an earlier one beyond the package, whose refusal
would be a fault below it (R304). -/
def VReq.mayPerform (r : VReq) (before : List VReq) : Bool :=
  !r.sent && r.got.isNone &&
    (!r.dev || before.all fun (x : VReq) => x.got.isSome) &&
    (before.all fun (x : VReq) => !isExternal x.pa || x.got.isSome) &&
    before.all fun (x : VReq) =>
      match r.op, x.op with
      | .store _, .store _ => !overlaps r.pa (touched r.bit r.width) x.pa (touched x.bit x.width)
      | _, _ => true

/-- The n-th request of a list that may perform now, behind some earlier ones. -/
def nthEligible (n : Nat) (before : List VReq) : List VReq → Option VReq
  | [] => none
  | r :: rs =>
    if !r.mayPerform before then nthEligible n (r :: before) rs
    else match n with
      | 0 => some r
      | n + 1 => nthEligible n (r :: before) rs

/-- A value read for an element: it waits for its group (R286). -/
def State.gotValue (s : State) (p : CoreId) (t : StrandId) (key x : Nat) : State :=
  match (s.strand p t).head with
  | some h => s.setHead p t { h with reqs := h.reqs.map fun (r : VReq) =>
      if r.key = key then { r with got := some x, sent := false } else r }
  | none => s

/-- The group of a request (R286); a BSLOAD's vectors have groups of their own. -/
def VReq.group (r : VReq) : Nat := 512 * (r.elem / 2 ^ 17) + r.elem % 2 ^ 17 / 256

/-- A load or store of an element in the host window or a peer window (R276, R429): a request of type .o, .w or .s performs
as .s. -/
def State.windowElem (s : State) (p : CoreId) (t : StrandId) (v : VEnv) (r : VReq) : State :=
  let plain := r.dev || decide (r.req = .u)
  let n := touched r.bit r.width
  let who : Requester := .elem p t r.key
  match r.op with
  | .load | .scale | .high _ =>
    match s.windowAccess p true who r.va r.pa n r.grain plain none none false with
    | (some bs, s1) => s1.gotValue p t r.key (fromLe bs >>> r.bit % 2 ^ r.width)
    | (none, s1) => s1.markSent p t r
  | .store x =>
    if r.width < 8 then s.sendElem p t v r
    else match s.windowAccess p true who r.va r.pa n r.grain plain (some (leBytes n x)) none false with
      | (some _, s1) => (s1.dropReq p t r.key).headSettle p t
      | (none, s1) => s1.markSent p t r
  | _ => s.sendElem p t v r

/-- One request of the head performs at its home (R272, R273, R305, R346). A load's error shows as it reads (R304), unless
a group above it has arrived: then its value was read before the error came. -/
def State.performReq (s : State) (p : CoreId) (t : StrandId) (e : QEntry) (i : Instr) (h : HeadRun) (r : VReq) : State :=
  let v := s.headEnv p t e
  let isTt : Bool := match i with | .ttload _ _ => true | _ => false
  if isExternal r.pa && !isTt then s.windowElem p t v r
  else if isExternal r.pa then s.sendElem p t v r
  else match r.op with
    | .load | .scale | .high _ =>
      if s.isBadFor p r.pa (touched r.bit r.width) (if r.dev then .u else r.req) && !(h.arrived.any fun g => decide (r.group < g)) then
        (s.elemFault p t r.elem r.addr .memUncorrectable).headSettle p t
      else
        let (x, s1) := s.readField p r
        match i with
        | .ttload slot _ => s1.ttWord p t e slot (word x)
        | _ => s1.gotValue p t r.key x
    | .store x =>
      match s.snapHold r.pa (touched r.bit r.width) with
      | some s1 => s1
      | none => ((s.writeField p r x).dropReq p t r.key).headSettle p t
    | .watch _ => (s.watchHome p t v i r).vwaitSettle p t e i
    | .atomic op pre =>
      if s.isBad r.pa (r.width / 8) then s.amoFault p t h.reqs
      else
        match (if (s.snapHold r.pa (r.width / 8)).isSome then none else s.combReady r.pa) with
        | none => (s.snapHold r.pa (r.width / 8)).getD s
        | some s0 =>
          let s1 := s0.prepareAtomic p r.pa r.grain
          let old := s1.homeWord (r.pa / 8 * 8)
          let o := fromLe (s1.peekHome r.pa (r.width / 8))
          let x := amoChain v op r.width o pre
          let s2 := if op = .cas ∧ x.2.1 = o then s1 else s1.putHome r.pa (leBytes (r.width / 8) x.2.1)
          (s2.combUsed r.pa old (s2.core p).serves).amoReturn p t e i r x

/-- The n-th request of a strand's head that may perform does so (R303). -/
def State.homeAccess (s : State) (p : CoreId) (t : StrandId) (n : Nat) : State :=
  let st := s.strand p t
  match st.queue, st.head with
  | e :: _, some h =>
    if h.finished then s
    else match e.instr, nthEligible n [] h.reqs with
      | some i, some r => s.performReq p t e i h r
      | some (.ttload _ _), none =>
        if h.reqs.all fun (r : VReq) => r.got.isSome then s.ttAsk p t e h.reqs.length else s
      | _, _ => s
  | _, _ => s

/-- Where a loaded value goes: in an upper slice the eight scale bits stand above the element (assumption 102). -/
def landElem (v : VEnv) (i : Instr) (l : Lane) (r : VReq) (x : Nat) : Lane :=
  let j := r.elem % 2 ^ 17
  let put (vd : BitVec 5) : Lane :=
    match r.op with
    | .scale => l.withRows (scaleRow vd.toNat v.cfg.g) 8 x
    | .high k => l.withRows (32 * vd.toNat + k) (v.w - k) x
    | _ =>
      let l1 := l.withRows (32 * vd.toNat) v.w x
      if v.cfg.scaled && decide (j % 32 ≠ 0) then l1.withRows (scaleRow vd.toNat v.cfg.g) 8 0 else l1
  match i with
  | .vld a | .vlds a | .vldx a | .vldt a | .vldb a => put a.v
  | .vldsb vd _ _ _ => put vd
  | .bsload _ _ _ =>
    let row := usRow v.cfg.x2 + r.elem / 2 ^ 17 * v.cfg.rows
    match r.op with
    | .scale => l.withUpper (row + v.w) 8 x
    | .high k => l.withUpper (row + k) (v.w - k) x
    | _ =>
      let l1 := l.withUpper row v.w x
      if v.cfg.scaled && decide (j % 32 ≠ 0) then l1.withUpper (row + v.w) 8 0 else l1
  | _ => l

/-- Whether the values an instruction loads land in groups (R286). -/
def landsInGroups : Instr → Bool
  | .vld _ | .vlds _ | .vldx _ | .vldt _ | .vldb _ | .vldsb _ _ _ _ | .bsload _ _ _ => true
  | _ => false

/-- The rows that a load's group writes (R286): a BSLOAD's vector has its own (R253). -/
def landRows (v : VEnv) (i : Instr) (n : Nat) : List (Nat × Nat) :=
  match i with
  | .bsload _ _ _ => [(2048 + usRow v.cfg.x2 + n / 512 * v.cfg.rows, v.cfg.rows)]
  | _ => (vspec i v.cfg).writes

/-- A group of a load arrives: its rows are written whole, in one step, once no element at or below its own can still
fault (R286, R304). The part of a group below a fault comes last, for a lower group may yet fault. -/
def State.groupArrive (s : State) (p : CoreId) (t : StrandId) (n : Nat) : State :=
  let st := s.strand p t
  match st.queue, st.head with
  | e :: _, some h =>
    match e.instr with
    | none => s
    | some i =>
      let mine := h.reqs.filter fun (r : VReq) => r.group = n
      let below := h.reqs.any fun (r : VReq) => decide (r.group < n) && r.got.isNone && isExternal r.pa
      let whole := match h.fault with
        | some f => decide (n < (512 * (f.elem.toNat / 2 ^ 17) + f.elem.toNat % 2 ^ 17 / 256))
        | none => true
      let early := !whole && h.reqs.any fun (r : VReq) => decide (r.group < n)
      if h.finished || !landsInGroups i || mine.isEmpty || mine.any (fun (r : VReq) => r.got.isNone) || below || early then s
      else
        let v := s.headEnv p t e
        let c := mine.foldl (fun (c : Core) (r : VReq) =>
          let j := r.elem % 2 ^ 17
          c.setLane e.part j (landElem v i (c.lane e.part j) r (r.got.getD 0))) (s.core p)
        let s1 := s.setCore p (c.regen e.part (landRows v i n) fun j =>
          mine.any fun (r : VReq) => decide (r.elem % 2 ^ 17 = j))
        (s1.setHead p t { h with
          reqs := h.reqs.filter fun (r : VReq) => decide (r.group ≠ n)
          arrived := if whole then insertNat n h.arrived else h.arrived }).headSettle p t
  | _, _ => s

/-! ### Entries that perform early -/

/-- The rx bit of a vector load or store (R303, R308), none for another instruction. -/
def accessRx : Instr → Option Bool
  | .vld a | .vlds a | .vldx a | .vldt a | .vldb a | .vst a | .vsts a | .vstx a | .vstt a => some a.rx
  | .vldsb _ _ _ rx => some rx
  | _ => none

/-- Whether a later access may pass an instruction of the vector stream: it neither acquires nor releases there (R339). -/
def passable : Instr → Bool
  | .vamoadd o | .vamomin o | .vamomax o | .vamoand o | .vamoor o | .vamoxor o | .vamoswap o | .vamocas o => !o.acq && !o.rel
  | .vwait _ _ _ _ _ | .vsend _ _ _ | .vldsb _ _ _ _ => false
  | _ => true

/-- Where an access that has not begun finds its elements, and how many bytes of a slot it may read (R308): none where a stream
buffer has no slot for it. -/
def State.slotFor (s : State) (p : CoreId) (t : StrandId) (e : QEntry) (i : Instr) : Option (Word × Nat) :=
  match i with
  | .vldsb _ _ _ _ =>
    if field e.x1 63 6 ≠ 0 then none
    else match s.sbufOf p t (field e.x1 5 0) with
      | some b => if b.filled = 0 then none else some (word (b.base + b.rp * b.slotBytes), b.slotBytes)
      | none => none
  | _ => some (0, 0)

/-- What an access asks for before it begins, all the words of a sequence among it. -/
def VEnv.wholePlan (v : VEnv) (i : Instr) (first : Nat) (slot : Word) (limit : Nat) : List Plan :=
  match i with
  | .ttload _ _ => (List.range 257).map fun n => ⟨n, v.cfg.x1 + word (8 * n), 0, 64, .load, decide (v.cfg.x1.toNat % 8 ≠ 0)⟩
  | _ => (withinSlot i slot limit (v.plan i first slot)).1

/-- The requests that an entry makes which has not begun, without what it has performed early, and whether its probe finds no
fault. -/
def State.unbegun (s : State) (p : CoreId) (t : StrandId) (e : QEntry) (i : Instr) (slot : Word × Nat) :
    List VReq × Bool × State :=
  let (rs, f, s1) := s.probePass p ((s.core p).serves.getD 0) (planReq i) i e.part id
    ((s.headEnv p t e).wholePlan i e.vstart.toNat slot.1 slot.2)
  (withoutEarly e.early rs, f.isNone, s1)

/-- What an earlier entry, number k of the queue, has still to access, and whether it can no longer fault (R304, R383). -/
def State.leftOf (s : State) (p : CoreId) (t : StrandId) (b : QEntry) (k : Nat) : List VReq × Bool × State :=
  match b.instr, (if k = 0 then (s.strand p t).head else none) with
  | none, _ => ([], false, s)
  | some _, some h =>
    if h.finished then ([], true, s)
    else
      let safe (r : VReq) : Bool := r.got.isSome || (match r.op with | .store _ => !isExternal r.pa | _ => false)
      let looks := match b.instr with | some (.ttload _ _) => false | _ => true
      (h.reqs.filter fun (r : VReq) => r.got.isNone, h.fault.isNone && looks && h.reqs.all safe, s)
  | some i, none =>
    match i with
    | .setlen _ _ | .setvt _ | .setvti _ | .lanerel => ([], true, s)
    | _ =>
      let (rs, _, s1) := s.unbegun p t b i (0, 0)
      (rs.filter fun (r : VReq) => r.got.isNone, false, s1)

/-- Whether an earlier entry has written the rows that a request of a later one reads, or does not write them (R286): a store
goes up to the first group that has not arrived, any other instruction waits for every group. -/
def State.rowsReady (s : State) (p : CoreId) (t : StrandId) (reads : List (Nat × Nat)) (r : VReq) (b : QEntry) (k : Nat) :
    Bool :=
  match b.instr with
  | none => false
  | some i =>
    let groups := ceilDiv b.vlen.toNat 256
    let upTo := match r.op with | .store _ => min groups (r.group + 1) | _ => groups
    ((vspec i (s.headEnv p t b).cfg).writes.all fun x => !meets x reads) ||
      (match (if k = 0 then (s.strand p t).head else none) with
       | some h => landsInGroups i && h.fault.isNone && (List.range upTo).all fun g =>
           decide (g ∈ h.arrived) || !(h.reqs.any fun (x : VReq) => decide (x.group = g))
       | none => false)

/-- Whether an earlier entry, number k of the queue, lets a request of a later one perform (R286, R309): its rows are ready and
no access to the same byte is left, nor with rx = 0 any access at all. A store waits until the entry can no longer fault, for a
discarded entry leaves no effect (R169, R383). -/
def State.lets (s : State) (p : CoreId) (t : StrandId) (rx : Bool) (reads : List (Nat × Nat)) (r : VReq) (b : QEntry)
    (k : Nat) : Bool :=
  let (left, sure, _) := s.leftOf p t b k
  let stores : Bool := match r.op with | .store _ => true | _ => false
  (b.instr.any passable) && decide (b.chans = 0 ∧ b.ending = []) && s.rowsReady p t reads r b k &&
    (if rx then left.all fun (x : VReq) => !overlaps r.pa (touched r.bit r.width) x.pa (touched x.bit x.width)
     else left.isEmpty) &&
    (!stores || sure)

/-- The request that number n of an access, number k of the queue, may perform while earlier entries are still there (R286,
R309): none where it must wait. With rx = 0 only stores go, once every earlier access has performed. A scratchpad word ignores
rx (R268), as a DEV-class page does. -/
def State.earlyReq (s : State) (p : CoreId) (t : StrandId) (k n : Nat) : Option (QEntry × VReq) × State :=
  let st := s.strand p t
  match st.queue[k]? with
  | none => (none, s)
  | some e =>
    match e.instr.bind fun i => (accessRx i).bind fun rx => (s.slotFor p t e i).map fun at1 => (i, rx, at1) with
    | none => (none, s)
    | some (i, rx, slot) =>
      if k = 0 || st.vfault.isSome || st.dbgHalted || s.saving p || decide (e.chans ≠ 0) then (none, s)
      else
        let v := s.headEnv p t e
        let spec := vspec i v.cfg
        let reads := spec.reads ++ (match spec.gate with | some m => [(1024 + m.toNat, 1)] | none => [])
        let (rs, sound, s1) := s.unbegun p t e i slot
        match nthEligible n [] (rs.filter fun (r : VReq) => r.got.isNone) with
        | none => (none, s1)
        | some r =>
          let hbm : Bool := match region r.pa with | .hbm _ => true | _ => false
          let rx1 := rx && hbm
          let stores : Bool := match r.op with | .store _ => true | _ => false
          let ok := !r.dev && !isExternal r.pa && (rx1 || stores) && (!stores || sound) &&
            ((st.queue.take k).zipIdx).all fun (x : QEntry × Nat) => s1.lets p t rx1 reads r x.1 x.2
          (if ok then some (e, r) else none, s1)

/-- A request of an entry behind the head performs (R309). A stream-buffer load makes its acquire first (R308). -/
def State.overlap (s : State) (p : CoreId) (t : StrandId) (k n : Nat) : State :=
  match s.earlyReq p t k n with
  | (none, s1) => s1
  | (some (e, r), s1) =>
    let s2 := (match e.instr with
      | some (.vldsb _ _ _ _) => s1.acquire p .dev
      | _ => s1).performSame p t r.pa (touched r.bit r.width)
    let note (x : State) (got : Option Nat) : State :=
      let st := x.strand p t
      x.setStrand p t { st with queue := st.queue.set k { e with early := e.early ++ [(r.key, got)] } }
    match r.op with
    | .store x => (s2.snapHold r.pa (touched r.bit r.width)).getD (note (s2.writeField p r x) none)
    | _ =>
      let (x, s3) := s2.readField p r
      note s3 (some x)

/-- A VLDSB at the head (R308): a bad handle faults, an empty buffer parks it. -/
def State.beginVldsb (s : State) (p : CoreId) (t : StrandId) (e : QEntry) (i : Instr) : State :=
  let fault := s.vfaultAt p t ⟨Cause.num .access, e.x1, e.vstart, e.vstart⟩
  if field e.x1 63 6 ≠ 0 then fault
  else match s.sbPlace p t (field e.x1 5 0) with
    | (.error .await, s1) => s1
    | _ => match s.sbufOf p t (field e.x1 5 0) with
    | none => fault
    | some b =>
      let s1 := s.sbUse p t b.key
      if b.filled = 0 then s1
      else (s1.acquire p .dev).beginAccess p t e i (word (b.base + b.rp * b.slotBytes)) b.slotBytes

/-- The entry at the head of a strand's queue begins (R205, R167), unless it waits for a channel or a buffer, or
the strand is halted by a debugger, its queue frozen on a fault (R388, R398), or its core being saved (R394). -/
def State.beginHead (s : State) (p : CoreId) (t : StrandId) : State :=
  let st := s.strand p t
  match st.queue with
  | [] => s
  | e :: _ =>
    if st.head.isSome || st.vfault.isSome || st.dbgHalted || s.saving p || !(s.core p).arrivedAll e then s
    else match e.instr with
      | none => s
      | some i =>
        let memory (k : State) : State :=
          match s.memoryParity p t e i with
          | some f => f
          | none => k
        match i with
        | .setlen _ _ | .setvt _ | .setvti _ | .lanerel => s.headDone p t none 0
        | .vld _ | .vlds _ | .vldx _ | .vldt _ | .vldb _ | .vst _ | .vsts _ | .vstx _ | .vstt _ | .bsload _ _ _
        | .vamoadd _ | .vamomin _ | .vamomax _ | .vamoand _ | .vamoor _ | .vamoxor _ | .vamoswap _ | .vamocas _ =>
          memory (s.beginAccess p t e i 0 0)
        | .vldsb _ _ _ _ => memory (s.beginVldsb p t e i)
        | .vwait _ _ _ _ _ => memory (s.beginVwait p t e i)
        | .vsend vs1 _ vm => memory (s.beginVsend p t e vs1 vm)
        | .xred _ _ _ _ => memory (s.beginXred p t e)
        | .ttload _ _ => s.ttAsk p t e 0
        | .vtt o =>
          if vttOk (s.headEnv p t e) o then s.runArray p t e i
          else s.vfaultAt p t ⟨Cause.num .illegalType, flagAt true 63 ||| e.vtype.zeroExtend 64, 0, 0⟩
        | _ => s.runArray p t e i

/-! ### Retirement -/

/-- The value of the oldest slot that still waits for one arrives (R168). -/
def fillSlot (x : Word) : List ReadSlot → List ReadSlot
  | [] => []
  | r :: rs => if r.value.isNone then { r with value := some x } :: rs else r :: fillSlot x rs

/-- The decrement of a firing that NDONE has ended (R31, R184): it follows the release, whose answers from beyond the
package may be outstanding. -/
def State.endLeft (s : State) (p : CoreId) (t : StrandId) (fired : Bool) : State :=
  match fired, (s.core p).serves with
  | true, some c =>
    let (ready, s1) := s.streamRelease p t .dev
    if ready then s1.countDown c
    else s1.setStrand p t { s1.strand p t with owed := (s1.strand p t).owed + 1 }
  | _, _ => s

/-- Decrements that waited for answers from beyond the package are made (R31). -/
def State.payOwed (s : State) (p : CoreId) (t : StrandId) : State :=
  let n := (s.strand p t).owed
  if n = 0 then s
  else
    let (ready, s1) := s.streamRelease p t .dev
    if !ready then s1
    else match (s1.core p).serves with
      | none => s1
      | some c => (List.range n).foldl (fun (a : State) _ => a.countDown c) (s1.setStrand p t { s1.strand p t with owed := 0 })

/-- Lanes whose release is due are released once no held entry is left (R387). -/
def State.lanesPaid (s : State) (p : CoreId) (t : StrandId) : State :=
  let st := s.strand p t
  if st.lanesDue && !st.heldLeft then
    ((s.setStrand p t { st with lanesDue := false }).releaseLanes p t).serveLanes p 16
  else s

/-- An entry with which its strand's lanes are released has retired (R184, R211). -/
def State.entryReleases (s : State) (p : CoreId) (t : StrandId) (e : QEntry) : State :=
  if !e.releases then s
  else
    let s1 := e.ending.foldl (fun (a : State) b => a.endLeft p t b) s
    s1.setStrand p t { s1.strand p t with lanesDue := true }

/-- The entry at the head retires (R167): VICOUNT, its x result, its channels with the acquire of their read (R337), loans
that nothing of the queue holds any more, a release of lanes, and held entries that now find room. -/
def State.retireHead (s : State) (p : CoreId) (t : StrandId) : State :=
  let st := s.strand p t
  match st.queue, st.head with
  | e :: rest, some h =>
    if !h.finished then s
    else
      let st1 := { st with
        queue := rest
        head := none
        vicount := st.vicount + 1
        readq := match e.dest with
          | some _ => fillSlot (h.result.getD 0) st.readq
          | none => st.readq }
      let s1 := s.setStrand p t st1
      let s2 := s1.setCore p ((s1.core p).clearArrived e)
      let s3 := if e.chans = 0 then s2 else s2.acquire p .dev
      let s4 := s3.setCore p ((s3.core p).loansSettle t)
      let s5 := ((s4.landDeposits p).entryReleases p t e).lanesPaid p t
      let st4 := s5.strand p t
      let st5 := if st4.wait = some .slot then st4.recommit 33 else st4
      let st6 := if st5.wait = some .drain ∧ st5.queue = [] then { st5 with wait := none } else st5
      s5.setStrand p t st6
  | _, _ => s

/-- The oldest value that has returned is written to its register, and the pending mark cleared (R168). -/
def State.deliverRead (s : State) (p : CoreId) (t : StrandId) : State :=
  let st := s.strand p t
  match st.readq with
  | [] => s
  | r :: rest =>
    match r.value with
    | none => s
    | some x =>
      let st1 := { st with readq := rest }
      let st2 := if r.dropped then st1 else st1.withX r.rd x
      let st3 := if st2.wait = some .slot then st2.recommit 33 else st2
      s.setStrand p t st3

end Sys2Proof.Machine
end

