-- ==== Sys2Proof/Machine/VConfig.lean ====
section
/-! DEFINITION. The vector configuration instructions of major opcode 0x20 (R170, R210, R211). -/

namespace Sys2Proof.Machine

/-- The lanes a SETLEN grants (R170): p lanes held, allowance a. -/
def grantLen (request p a : Nat) : Nat :=
  let g := min request (min p a)
  if 256 ≤ g then g - g % 256 else g

/-- What replay makes of a SETLEN (R424): with no record left the strand's own grant, else the grant of the next
record when that is this strand's, and none while it is another record. -/
def State.loggedGrant (s : State) (own : Nat) : Option Nat :=
  match s.nextRecord s.cur s.myCtx with
  | none => some own
  | some (w0, w1) => if field w0 63 60 = 2 ∧ field w0 59 57 = s.str.val then some w1.toNat else none

/-- SETLEN at commit (R170): it waits for a queue slot (R164), and under replay for its record and for the lanes
that the record grants (R424). A loan that it begins or ends stands while it waits. -/
def State.setlen (s : State) (rd rs1 : BitVec 5) : State :=
  if !s.me.hasRoom none then s
  else
    let c := s.mine.repartition s.str
    let kept := s.setMine (c.loansSettle s.str)
    let held := if s.me.leaving then 0 else (c.strands[s.str]).lanesHeld
    match s.loggedGrant (grantLen (s.reg rs1).toNat held (c.allowanceOf s.str)) with
    | none => kept.park .logRecord
    | some g =>
      if held < g then kept
      else
        let y := c.yreq.getLsbD s.str.val
        let s1 := s.setMine { c with yreq := c.yreq &&& ~~~BitVec.ofNat 8 (2 ^ s.str.val) }
        let s2 := s1.setMe { s1.me with
          vlen := BitVec.ofNat 17 g
          vstat := (s1.me.vstat &&& 0x1e) ||| (if y then 1 else 0) }
        let s3 := ((s2.commitPlain (.setlen rd rs1)).setReg rd (word g)).logRecord s.cur s.myCtx
          [(word (2 * 2 ^ 60 + s.str.val * 2 ^ 57), word g)]
        if (s.nextRecord s.cur s.myCtx).isSome then s3.consume s.cur s.myCtx 1 else s3

/-- Write VTYPE[15:0] at commit (R210). -/
def State.setvt (s : State) (i : Instr) (v : BitVec 16) : State :=
  if !s.me.hasRoom none then s
  else
    let s1 := s.commitPlain i
    s1.setMe { s1.me with vtype := v }

/-- SETLEN (R170). -/
def execSetlen (rd rs1 : BitVec 5) (s : State) : Host.Outcome State Fault Refusal := .next (s.setlen rd rs1)

/-- SETVT (R116, R210). -/
def execSetvt (rs1 : BitVec 5) (s : State) : Host.Outcome State Fault Refusal :=
  let x := s.reg rs1
  .next (if field x 63 16 = 0 || !s.me.hasRoom none then s.setvt (.setvt rs1) (x.extractLsb' 0 16)
    else s.trap .illegalType (flagAt true 63 ||| word (field x 31 0)))

/-- SETVTI (R210). -/
def execSetvti (imm : BitVec 16) (s : State) : Host.Outcome State Fault Refusal :=
  .next (s.setvt (.setvti imm) imm)

/-- LANEREL (R211): VLEN becomes 0, and the lanes are released when its entry retires. -/
def execLanerel (s : State) : Host.Outcome State Fault Refusal :=
  .next (if !s.me.hasRoom none then s
    else
      let s1 := s.commitPlain .lanerel
      s1.setMe { s1.me with vlen := 0 })

end Sys2Proof.Machine
end

