-- ==== Sys2Proof/Machine/Faults.lean ====
section
/-! DEFINITION. How a strand stops at an issue boundary: vector faults taken (R383 to R389), PREEMPT and SPILL_FULL
that come from outside its own instructions (R380, R382, R393), and debug halts (R398). -/

namespace Sys2Proof.Machine

/-- The scalar side of a strand stops at an issue boundary (R383 step 2): results are delivered and relaxed accesses
perform. -/
def State.stopScalar (s : State) (p : CoreId) (t : StrandId) : State :=
  let s1 := s.drainRelaxed p t
  s1.setStrand p t { s1.strand p t with muldiv := false }

/-- Whether an access beyond the package that a strand has issued is still outstanding. -/
def State.outstanding (s : State) (p : CoreId) (t : StrandId) : Bool :=
  (s.strand p t).awaitsAnswer || s.extRelaxed p t

/-- A VWAIT that is left begins again at its own address (R354): its entry is withdrawn. -/
def State.withdrawVwait (s : State) (p : CoreId) (t : StrandId) : State :=
  let st := s.strand p t
  match st.queue.getLast? with
  | none => s
  | some e =>
    let isVwait : Bool := match e.instr with
      | some i => (match i with | .vwait _ _ _ _ _ => true | _ => false)
      | none => false
    let done : Bool := match st.head with | some h => h.finished && decide (st.queue.length = 1) | none => false
    if !isVwait || done then s
    else
      let gone (w : Requester) : Bool := match w with | .elem q u _ => decide (q = p ∧ u = t ∧ st.queue.length = 1) | _ => false
      ((s.orphanExt gone).unwatch p t).setStrand p t { st with
        queue := st.queue.dropLast
        head := if st.queue.length = 1 then none else st.head
        pc := e.addr }

/-- A VWAIT that waits when a vector fault is taken (R354, R383): the strand goes back to its address, and the entry leaves
the queue unless the fault is its own (assumption 73). -/
def State.vwaitStops (s : State) (p : CoreId) (t : StrandId) : State :=
  let st := s.strand p t
  match st.queue.getLast? with
  | none => s
  | some e =>
    match e.instr with
    | some (.vwait _ _ _ _ _) =>
      s.setStrand p t { st with pc := e.addr, queue := if st.queue.length = 1 then st.queue else st.queue.dropLast }
    | _ => s

/-- Take a detected vector fault (R383 steps 2 to 5): entries from the faulting one on are held, and the trap is
entered with TEPC at the stop point. -/
def State.takeVfault (s : State) (p : CoreId) (t : StrandId) : State :=
  let s1 := s.stopScalar p t
  match (s1.strand p t).vfault with
  | none => s1
  | some f =>
    if s1.outstanding p t then s1
    else
      let s2 := (s1.leaveWait p t).vwaitStops p t
      let st := s2.strand p t
      let s3 := s2.setStrand p t { st with
        replay := st.queue.map fun (e : QEntry) => { e with early := [] }
        queue := []
        head := none
        vfault := none
        readq := st.readq.filter fun (r : ReadSlot) => r.value.isSome
        vstart := f.vstart
        vfelem := f.elem }
      s3.asStrand p t fun (x : State) => x.trapEntry f.cause false f.tval x.me.pc

/-- Take a trap that no instruction of the strand raised (R380, R393): a wait is left, with TEPC at the waiting
instruction. -/
def State.takeAsync (s : State) (p : CoreId) (t : StrandId) (cause : BitVec 16) (tval : Word) : State :=
  let s1 := s.stopScalar p t
  if s1.outstanding p t then s1
  else ((s1.leaveWait p t).withdrawVwait p t).asStrand p t fun (x : State) => x.trapEntry cause false tval x.me.pc

/-- A notification is complete when every strand that is not halted has taken PREEMPT (R393). -/
def State.noteDone (s : State) (c : CtxId) : State :=
  let k := s.ctx c
  let waits := s.cores.toList.any fun (q : Core) => decide (q.serves = some c) &&
    q.strands.toList.any fun (st : Strand) => st.preempt.isSome && !st.halted && !st.dbgHalted
  if k.pBusy && k.pWait.isNone && decide (k.resuming = []) && !waits then
    s.setCtx c { k with pBusy := false, pDone := true }
  else s

/-- Take PREEMPT (R393). -/
def State.takePreempt (s : State) (p : CoreId) (t : StrandId) : State :=
  match (s.strand p t).preempt with
  | none => s
  | some v =>
    let s1 := s.stopScalar p t
    if s1.outstanding p t then s1
    else
      let s2 := s1.setStrand p t { s1.strand p t with preempt := none }
      let s3 := s2.takeAsync p t 18 v
      match (s3.core p).serves with
      | some c => s3.noteDone c
      | none => s3

/-- Take the oldest SPILL_FULL of a launch or a held delivery (R93, R98). -/
def State.takeSpill (s : State) (p : CoreId) (t : StrandId) : State :=
  match (s.strand p t).asyncTraps with
  | [] => s
  | x :: rest =>
    let s1 := s.stopScalar p t
    if s1.outstanding p t then s1
    else
      let s2 := s1.setStrand p t { s1.strand p t with asyncTraps := rest, serving := some x }
      s2.takeAsync p t x.1 x.2

/-! ### Debug halts -/

/-- Whether the XRED at the head of a strand's queue is in progress: a debug halt waits for it (R361). -/
def Strand.xredBusy (st : Strand) : Bool :=
  match st.head, st.headInstr with
  | some h, some (.xred _ _ _ _) => !h.finished
  | _, _ => false

/-- A strand leaves its wait for a debug halt, with its pc at the waiting instruction (R398). One that re-commits held entries
goes on with that at RUN (R386). -/
def State.haltWait (s : State) (p : CoreId) (t : StrandId) : State :=
  match (s.strand p t).wait with
  | some .slot => s
  | some (.copyEnd _) => s.unpark p t
  | _ => (s.leaveWait p t).withdrawVwait p t

/-- Deliveries held at a waystation are tried again (R98). -/
def State.retryHeld (s : State) (p : CoreId) : State :=
  match (s.core p).serves with
  | some c => s.retryDeliveries p c ((s.core p).deliveries.length + 1)
  | none => s

/-- A strand as a debugger halts it: what is asked of it for a delivery is asked of another (R98). -/
def Strand.dbgStop (st : Strand) : Strand :=
  { st with
    dbgHalted := true
    dbgStep := false
    dbgAsked := false
    progress := if st.taken then st.progress else []
    asyncTraps := st.asyncTraps.filter fun (x : BitVec 16 × Word) => decide (3 < x.2.toNat) }

/-- Halt a strand for a debugger at its issue boundary (R398): what it has issued completes first, an access beyond the
package and an XRED in progress (R361) too. -/
def State.debugHalt (s : State) (p : CoreId) (t : StrandId) : State :=
  let s1 := s.stopScalar p t
  if (s1.strand p t).xredBusy || s1.outstanding p t then
    s1.setStrand p t { s1.strand p t with dbgAsked := true, dbgStep := false }
  else
    let s2 := s1.haltWait p t
    let s3 := (s2.setStrand p t (s2.strand p t).dbgStop).retryHeld p
    match (s3.core p).serves with
    | some c => s3.noteDone c
    | none => s3

/-- A halt that a debugger asks for: a strand that HALTC has halted stays as it is (R397, R398). -/
def State.dbgHalt (s : State) (p : CoreId) (t : StrandId) : State :=
  if (s.strand p t).halted || (s.strand p t).dbgHalted then s else s.debugHalt p t

/-- A debugger's RUN or STEP (R398): a debug resume sets the latch (R158), and a delivery held while every strand was halted
goes on (R98). -/
def State.dbgResume (s : State) (p : CoreId) (t : StrandId) (once : Bool) : State :=
  let st := s.strand p t
  if st.halted || st.dbgHalted || st.dbgAsked then
    ((s.setStrand p t { st with halted := false, dbgHalted := false, dbgAsked := false, dbgStep := once }).setLatch p t).retryHeld p
  else if once then s.setStrand p t { st with dbgStep := true }
  else s

/-- Whether a strand issues nothing more before it has stopped (R382, R383, R398): a debug halt is asked for, or a trap waits
that it takes at its issue boundary. None waits while it is halted, while a debugger holds it, or while TACT is 1. -/
def Strand.stopping (st : Strand) : Bool :=
  !st.stopped &&
    (st.dbgAsked || (!st.tact && (st.vfault.isSome || st.preempt.isSome || decide (st.asyncTraps ≠ []))))

/-- What a strand takes at an issue boundary before it issues, if anything (R382): a debug halt first. Nothing happens there
while an access that it has issued is outstanding. -/
def State.boundary (s : State) (p : CoreId) (t : StrandId) : Option State :=
  let st := s.strand p t
  if !st.stopping then none
  else if s.outstanding p t then (if st.relaxed = [] then none else some (s.stopScalar p t))
  else if st.dbgAsked then (if st.xredBusy then none else some (s.debugHalt p t))
  else if st.vfault.isSome then some (s.takeVfault p t)
  else if st.preempt.isSome then some (s.takePreempt p t)
  else if st.asyncTraps ≠ [] then some (s.takeSpill p t)
  else none

end Sys2Proof.Machine
end

