-- ==== Sys2Proof/Machine/Access.lean ====
section
/-! DEFINITION. What instructions outside the vector queue share: the privilege check (R140), waits for relaxed
accesses and for the queue (R288, R298), and the reading of a record at a virtual address (R313, R325). -/

namespace Sys2Proof.Machine

/-- An instruction that task level may not perform raises ILLEGAL there (R140). -/
def State.privileged (s : State) (i : Instr) (k : State → State) : State :=
  if s.isRuntime then k s else s.trap .illegal (((encode i).getD 0).zeroExtend 64)

/-- Go on once every relaxed access of the acting strand has performed (R288); a relaxed store that the host or a peer
refused raises its fault here (R429). -/
def State.afterRelaxed (s : State) (k : State → State) : State :=
  let s1 := s.drainRelaxed s.cur s.str
  if s1.extRelaxed s.cur s.str then s1.park .relaxed
  else match s1.me.relaxedFault with
    | some (va, c) => (s1.setMe { s1.me with relaxedFault := none }).trapEntry c false va s1.me.pc
    | none => k s1

/-- Whether a scope reaches past the core: its release writes back dirty untracked bytes (R274). -/
def wideScope : Scope → Bool
  | .strand | .core => false
  | .dev | .dom => true

/-- Go on once a release of the acting strand at a scope has performed (R274, R288, R339): the strand's relaxed accesses, and
the write-backs of its core's dirty untracked bytes, those beyond the package included. A refused write-back raises its
fault here (R429). -/
def State.afterRelease (s : State) (sc : Scope) (k : State → State) : State :=
  s.afterRelaxed fun (a : State) =>
    let s1 := a.releaseCopies a.cur sc
    if wideScope sc && s1.windowDirty s1.cur then s1.park .writeBacks
    else match (if wideScope sc then s1.mine.copyFault else none) with
      | some (va, c) => (s1.setMine { s1.mine with copyFault := none }).trapEntry c false va s1.me.pc
      | none => k s1

/-- Go on once every earlier vector and tile instruction has completed and every access has performed (R298). -/
def State.synced (s : State) (k : State → State) : State := s.drained fun (a : State) => a.afterRelaxed k

/-- A request of the acting strand goes beyond the package, and the strand waits for the answer (R290, R429, R431). -/
def State.ask (s : State) (va : Word) (pa : Nat) (op : BusOp) (rd : Option (BitVec 5 × Size))
    (acq : Option Scope) : State :=
  let s1 : State := { s with ext := s.ext ++ [ExtReq.mk (.scalar s.cur s.str) va pa op rd false acq none []] }
  s1.park .external

/-- Bytes read at home in pieces of one sector by core p (R273). -/
def State.loadSectors (s : State) (p : CoreId) (pa grain : Nat) : Nat → List Byte × State
  | 0 => ([], s)
  | n + 1 =>
    let (bs, s1) := s.loadAt p pa 32 grain false .u false
    let (cs, s2) := s1.loadSectors p (pa + 32) grain n
    (bs ++ cs, s2)

/-- The 64-bit words of some bytes. -/
def wordsOf : Nat → List Byte → List Word
  | 0, _ => []
  | n + 1, bs => word (fromLe (bs.take 8)) :: wordsOf n (bs.drop 8)

/-- Read n sectors of 32 bytes at a virtual address as an ordinary .u load, with its faults precise, and go on with
their words. Words that came from the host or a peer stand in `progress` when the instruction goes on. -/
def State.readRecord (s : State) (va : Word) (n : Nat) (k : List Word → State → State) : State :=
  if s.me.progress ≠ [] ∧ s.me.progressAt = s.me.pc then k s.me.progress (s.setMe { s.me with progress := [] })
  else
    match s.place s.cur s.myCtx s.isRuntime false va (32 * n) .read with
    | (.error x, s1) => s1.trap x va
    | (.ok pl, s1) =>
      let s2 := s1.performSame s.cur s.str pl.pa (32 * n)
      if s2.isBadFor s2.cur pl.pa (32 * n) .u then s2.trap .memUncorrectable va
      else if isExternal pl.pa then
        let secs := ((List.range n).flatMap fun j => grainSectors (pl.pa + 32 * j) pl.grain).dedup
        let s3 := s2.writeBackOwn s2.cur secs
        (s3.setMe { s3.me with progress := [], progressAt := s3.me.pc, taken := false }).ask va pl.pa (.read pl.pa (32 * n))
          none none
      else
        let (bs, s3) := s2.loadSectors s.cur pl.pa pl.grain n
        k (wordsOf (4 * n) bs) s3

end Sys2Proof.Machine
end

