-- ==== Sys2Proof/Machine/Copy.lean ====
section
/-! DEFINITION. Copy engines (R310 to R319), stream buffers (R320 to R324) and snapshots (R325 to R327). -/

namespace Sys2Proof.Machine

/-! ### Stream-buffer counters -/

/-- The latch of a strand that a forced save keeps (R319, R392). -/
def State.latchKept (s : State) (u : CtxId × Nat × StrandId) : State :=
  let k := s.ctx u.1
  s.setCtx u.1 { k with saved := k.saved.map fun (x : Nat × Kept) =>
    if x.1 = u.2.1 ∧ !(x.2.strands[u.2.2]).halted then
      (x.1, { x.2 with strands := x.2.strands.set u.2.2 { x.2.strands[u.2.2] with latch := true } })
    else x }

/-- Set the latch of a strand of a logical core, wherever it is (R158, R319). -/
def State.latchUser (s : State) (u : CtxId × Nat × StrandId) : State :=
  match s.serverOf u.1 u.2.1 with
  | some p => s.setLatch p u.2.2
  | none => s.latchKept u

/-- A walk through a page table for another agent than the core's strands: what the core's walker holds is set aside (R310). -/
def State.walkApart (s : State) (p : CoreId) (c : CtxId) (ptroot va : Nat) : Except Cause TlbEntry × State :=
  let held := (s.core p).nodes
  let r := (s.setCore p { s.core p with nodes := [] }).walk p c va 5 ptroot
  (r.1, r.2.setCore p { r.2.core p with nodes := held })

/-- Whether the handle table of a strand holds the entry of a buffer (R158, R320). -/
def State.sbNames (s : State) (p : CoreId) (c : CtxId) (ptroot key : Nat) (st : Strand) : Bool :=
  let va := 2048 * st.sbbase.toNat + key % 2048
  !st.halted && match (s.walkApart p c ptroot va).1 with
    | .ok e => decide (e.frame + (va - e.base) = key)
    | .error _ => false

/-- Set the latches of a context's strands, running or saved, whose handle table holds the entry of a buffer (R158). -/
def State.latchNamed (s : State) (c : CtxId) (key : Nat) : State :=
  let s1 := allCores.foldl (fun (a : State) p =>
    if (a.core p).serves ≠ some c then a
    else allStrands.foldl (fun (x : State) t =>
      if x.sbNames p c (x.core p).ptroot key (x.strand p t) then x.setLatch p t else x) a) s
  (s.ctx c).saved.foldl (fun (a : State) (k : Nat × Kept) => allStrands.foldl (fun (x : State) t =>
    if x.sbNames k.2.core c (x.ctx c).entry.ptroot key k.2.strands[t] then x.latchKept (c, k.1, t) else x) a) s1

/-- A strand parked in SBWAIT tests its buffer (R323): with its n slots filled it goes on. -/
def State.sbTest (s : State) (b : StreamBuf) (p : CoreId) (t : StrandId) : State :=
  match (s.strand p t).wait with
  | some (.sbuf k x) =>
    if k = b.key ∧ field x 16 8 ≤ b.filled then s.asStrand p t fun (a : State) =>
      ((a.setMe { a.me with wait := none }).acquireAt .dev).advance
    else s
  | _ => s

/-- A counter of a buffer has changed: the latches of its users (R321) and of the strands whose table holds its entry (R158;
assumption 79) are set, and parked SBWAITs test again. -/
def State.sbTouch (s : State) (b : StreamBuf) : State :=
  let s1 := (b.users.foldl (fun (a : State) (u : CtxId × Nat × StrandId) => a.latchUser u) s).latchNamed b.ctx b.key
  allCores.foldl (fun (a : State) p =>
    if (a.core p).serves.isNone then a else allStrands.foldl (fun (x : State) t => x.sbTest b p t) a) s1

/-- Replace the buffer of a key. -/
def State.setSbuf (s : State) (b : StreamBuf) : State :=
  { s with sbufs := s.sbufs.map fun (x : StreamBuf) => if x.key = b.key then b else x }.sbTouch b

/-- The active buffer that a key names. -/
def State.sbufAt (s : State) (key : Nat) : Option StreamBuf := s.sbufs.find? fun (b : StreamBuf) => b.key = key

/-- Whether a VLDSB at the head of a strand's queue is parked on a buffer (R308). -/
def State.parkedVldsb (s : State) (p : CoreId) (t : StrandId) (b : StreamBuf) : Option QEntry :=
  let st := s.strand p t
  match st.queue, st.head with
  | e :: _, none => match e.instr with
    | some (.vldsb _ _ _ _) =>
      if decide (b.filled = 0) && decide (s.userOf p t ∈ b.users) && decide (s.sbKey p t (field e.x1 5 0) = some b.key) then some e
      else none
    | _ => none
  | _, _ => none

/-- What a release does to one strand that is parked on the buffer (R321): SBWAIT raises ACCESS, a VLDSB takes a vector fault. -/
def State.sbReleased (s : State) (b : StreamBuf) (p : CoreId) (t : StrandId) : State :=
  let s1 := match (s.strand p t).wait with
    | some (.sbuf k x) => if k = b.key then s.asStrand p t fun (a : State) => a.trap .access x else s
    | _ => s
  match s.parkedVldsb p t b with
  | some e => s1.vfaultAt p t ⟨Cause.num .access, e.x1, e.vstart, e.vstart⟩
  | none => s1

/-- End a buffer (R321): descriptors that write it complete with SB_RELEASED, strands parked on it take their fault. -/
def State.endSbuf (s : State) (b : StreamBuf) : State :=
  let mine (d : CopyDesc) : Bool := decide (d.sbKey = some b.key) && d.status.isNone
  let ids := (s.descs.filter mine).map (·.id)
  let gone (w : Requester) : Bool := match w with | .engine n => decide (n ∈ ids) | _ => false
  let s1 := { s.orphanExt gone with
    sbufs := s.sbufs.filter fun (x : StreamBuf) => x.key ≠ b.key
    descs := s.descs.map fun (d : CopyDesc) => if mine d then { d with status := some 8 } else d }
  let s2 := allCores.foldl (fun (a : State) p =>
    if (a.core p).serves.isNone then a
    else allStrands.foldl (fun (x : State) t => x.sbReleased b p t) a) s1
  s2.sbTouch b

/-! ### The engines -/

/-- Bytes of a descriptor's stream (R313). -/
def CopyDesc.total (d : CopyDesc) : Nat := d.len * d.rows

/-- The row that position `done` of the stream is in: on DEV pages rows go in ascending address order (R314). -/
def CopyDesc.row (d : CopyDesc) : Nat := if d.down then d.rows - 1 - d.done / d.len else d.done / d.len

/-- The address of stream position `done` from a start and a row stride (R313). -/
def CopyDesc.at (d : CopyDesc) (start : Nat) (stride : Int) : Word :=
  wordInt ((start : Int) + (d.row : Nat) * stride + (d.done % d.len : Nat))

/-- Replace a descriptor. -/
def State.setDesc (s : State) (d : CopyDesc) : State :=
  { s with descs := s.descs.map fun (x : CopyDesc) => if x.id = d.id then d else x }

/-- Whether an access of a descriptor is outstanding beyond the package. -/
def State.engineBusy (s : State) (d : CopyDesc) : Bool :=
  s.ext.any fun (e : ExtReq) => decide (e.who = .engine d.id)

/-- A walk of an engine through the page table of a descriptor (R310). -/
def State.engineWalk (s : State) (d : CopyDesc) (va : Nat) : Except Cause TlbEntry × State :=
  s.walkApart d.core d.ctx d.ptroot va

/-- Translate and check one address for an engine (R282, R314), with the status of R315 that a failure gives; 0 where a table
entry is awaited from beyond the package. -/
def State.enginePlace (s : State) (d : CopyDesc) (va : Word) (write : Bool) : Except Nat Place × State :=
  let fault := if write then 2 else 1
  let access := if write then 4 else 3
  if field va 63 56 ≠ 0 ∨ 256 ≤ field va 55 48 then (.error fault, s)
  else match s.engineWalk d va.toNat with
    | (.error .await, s1) => (.error 0, s1)
    | (.error x, s1) => (.error (if x = .access then access else fault), s1)
    | (.ok e, s1) =>
      let pa := e.frame + (va.toNat - e.base)
      let mapOk := match region pa with
        | .nowhere | .feStore _ | .mmio _ => false
        | .spad q off => (s.spadFor d.ctx q off).isSome
        | .host _ | .hbm _ => true
        | .peer x off => decide (x ≠ s.devnum) &&
            (decide (off < feBase) || decide (2 ^ 39 ≤ off ∧ off < 2 ^ 39 + 384 * 2 ^ 24))
      if !mapOk || (write && !e.canWrite) || (!write && !e.canRead) then (.error access, s1)
      else if write && (s.engineRefused pa || s.isSealed pa) then (.error 5, s1)
      else (.ok ⟨pa, e.dev, e.grain⟩, s1)

/-- The address of the next destination byte: in a stream buffer, of the slot at WP (R322). -/
def State.engineDst (s : State) (d : CopyDesc) : Word :=
  match d.sbKey.bind s.sbufAt with
  | some b => word (b.base + b.wp * b.slotBytes + d.done % b.slotBytes)
  | none => d.at d.dst d.dstride

/-- Whether the scratchpad way of a descriptor's stream buffer is away (R319). -/
def State.bufferAway (s : State) (d : CopyDesc) : Bool :=
  match (s.engineWalk d (s.engineDst d).toNat).1 with
  | .ok e => (match region (e.frame + ((s.engineDst d).toNat - e.base)) with
    | .spad q off => (s.spadFor d.ctx q off).isNone
    | _ => false)
  | .error _ => false

/-- Whether the completion word of a descriptor stands in memory: its way may have left with the buffer for which the
descriptor waits (R319). -/
def State.compHere (s : State) (d : CopyDesc) : Bool :=
  match d.comp with
  | some pa => (match region pa with | .spad q off => (s.spadFor d.ctx q off).isSome | _ => true)
  | none => true

/-- Whether a descriptor waits for its stream buffer: no slot is free (R322), or the buffer's way is away (R319). -/
def State.stalled (s : State) (d : CopyDesc) : Bool :=
  if d.status.isSome then false
  else match d.sbKey.bind s.sbufAt with
    | none => false
    | some b => (!d.slotOpen && decide (b.free = 0)) || s.bufferAway d

/-- n bytes of a descriptor's stream have performed (R322): a full slot is handed over, and the end gives OK. -/
def State.engineMoved (s : State) (d : CopyDesc) (n : Nat) : State :=
  let d1 := { d with done := d.done + n }
  let last := decide (d.total ≤ d1.done)
  match d.sbKey.bind s.sbufAt with
  | some b =>
    let full := decide (d1.done % b.slotBytes = 0)
    let s1 := s.setDesc { d1 with
      slotOpen := !full
      status := if last then some 0 else none }
    if full then s1.setSbuf { b with wp := (b.wp + 1) % b.slots, filled := b.filled + 1 } else s1
  | none => s.setDesc { d1 with status := if last then some 0 else none }

/-- A descriptor's access cannot be made: it ends with a status, or waits for a table entry. -/
def CopyDesc.stopped (d : CopyDesc) (x : Nat) : CopyDesc := { d with status := if x = 0 then none else some x }

/-- Write bytes that an engine has read (R314). -/
def State.engineWrite (s : State) (d : CopyDesc) (bytes : List Byte) : State :=
  match s.enginePlace d (s.engineDst d) true with
  | (.error x, s1) => s1.setDesc (d.stopped x)
  | (.ok pl, s1) =>
    if isExternal pl.pa then
      { s1 with ext := s1.ext ++ [ExtReq.mk (.engine d.id) (s.engineDst d) pl.pa (.write pl.pa bytes) none false none none []] }
    else match s1.snapHold pl.pa bytes.length with
      | some s2 => s2
      | none => (s1.pokeHome pl.pa bytes).engineMoved d bytes.length

/-- The bytes of one piece: at most 64, within one row and one aligned 64-byte block on both sides. -/
def CopyDesc.piece (d : CopyDesc) (src dst : Word) : Nat :=
  min (min (d.len - d.done % d.len) (64 - src.toNat % 64)) (64 - dst.toNat % 64)

/-- The addresses of a row stream, one in each page that a row touches. -/
def CopyDesc.pages (d : CopyDesc) (start : Nat) (stride : Int) : List Word :=
  (List.range d.rows).flatMap fun r => (List.range ((d.len - 1) / 4096 + 2)).map fun k =>
    wordInt ((start : Int) + (r : Nat) * stride + (min (4096 * k) (d.len - 1) : Nat))

/-- Whether the rows of a descriptor go from the last to the first: its destination, else its source, has a row on a DEV-class
page and a negative stride (R314; assumption 81). -/
def State.rowsDown (s : State) (d : CopyDesc) : Bool :=
  let dev (w : Bool) (va : Word) : Bool := match (s.enginePlace d va w).1 with
    | .ok pl => pl.dev
    | .error _ => false
  if d.stream || decide (d.rows ≤ 1) then false
  else if (d.pages d.dst d.dstride).any (dev true) then decide (d.dstride < 0)
  else decide (d.sstride < 0) && (d.pages d.src d.sstride).any (dev false)

/-- An engine moves the next piece of a descriptor (R314, R315, R322). -/
def State.movePiece (s : State) (d0 : CopyDesc) : State :=
  match d0.sbKey, d0.sbKey.bind s.sbufAt with
  | some _, none => s.setDesc { d0 with status := some 8 }
  | _, b =>
    let d := { d0 with slotOpen := b.isSome, down := if d0.done = 0 then s.rowsDown d0 else d0.down }
    let s0 := s.setDesc d
    let s1 := match b with
      | some x => if d0.slotOpen then s0 else s0.setSbuf { x with free := x.free - 1 }
      | none => s0
    let src := d.at d.src d.sstride
    let n := d.piece src (s1.engineDst d)
    match s1.enginePlace d src false with
    | (.error x, s2) => s2.setDesc (d.stopped x)
    | (.ok pl, s2) => match s2.enginePlace d (s2.engineDst d) true with
    | (.error 0, s3) => s3
    | _ =>
      if isExternal pl.pa then
        { s2 with ext := s2.ext ++ [ExtReq.mk (.engine d.id) src pl.pa (.read pl.pa n) none false none none []] }
      else
        let good := ((List.range n).takeWhile fun k => !s2.isBad (pl.pa + k) 1).length
        if good = 0 then s2.setDesc { d with status := some 6 }
        else
          let s3 := s2.combSettle (s2.homeSectors pl.pa good)
          s3.engineWrite d (s3.peekHome pl.pa good)

/-- The answer to an engine's access beyond the package (R315, R429, R431). -/
def State.engineAnswer (s : State) (id : Nat) (op : BusOp) (st : BusStatus) (data : List Byte) : State :=
  match s.descs.find? fun (d : CopyDesc) => d.id = id with
  | none => s
  | some d =>
    match op, st with
    | .read _ n, .ok => s.engineWrite d (data.take n ++ List.replicate (n - data.length) 0)
    | .write _ bs, .ok => s.engineMoved d bs.length
    | .read _ _, .refused => s.setDesc { d with status := some 3 }
    | _, .refused => s.setDesc { d with status := some 4 }
    | _, .memError => s.setDesc { d with status := some 6 }
    | _, .ok => s

/-- The descriptor that core p's engine serves next in a class: the first in acceptance order that is not stalled
(R317, R322). -/
def State.nextDescOf (s : State) (p : CoreId) (bg : Bool) : Option CopyDesc :=
  match s.descs.find? fun (d : CopyDesc) => decide (d.core = p) && d.background == bg && d.status.isNone && !s.stalled d with
  | some d => if s.engineBusy d then none else some d
  | none => none

/-- The lowest block of the active snapshot not yet copied (R327). -/
def State.nextBlock (s : State) : Option Nat :=
  s.snap.bind fun n => ((List.range (n.len / 512)).map (n.src / 512 + ·)).find? fun b => b ∉ n.copied

/-- One base cycle of engine e (R317): a foreground piece if one is ready, the cores taking turns; else a background
piece of a core below its CEIL; else a block of the active snapshot. -/
def State.enginePiece (s : State) (e : Fin 48) : State :=
  let g := s.engines[e]
  let turns := (List.range 8).filterMap fun k => coreOf (8 * e.val + (g.turn + 1 + k) % 8)
  let spend (x : Option CoreId) (turn : Nat) (s : State) : State :=
    { s with engines := s.engines.set e ⟨turn, (x :: g.recent).take 256⟩ }
  match turns.findSome? fun p => s.nextDescOf p false with
  | some d => spend none (d.core.val % 8) (s.movePiece d)
  | none =>
    let may (p : CoreId) : Bool := decide ((g.recent.filter (· = some p)).length < (s.core p).cpyshare.toNat)
    match (turns.filter may).findSome? fun p => s.nextDescOf p true with
    | some d => spend (some d.core) g.turn (s.movePiece d)
    | none => match s.nextBlock with
      | some b => spend none g.turn (s.snapBlock b)
      | none => spend none g.turn s

/-- The value of a completion word (R315). Of a stream whose rows go from the last to the first, a failure reports nothing as
performed (assumption 81). -/
def CopyDesc.result (d : CopyDesc) : Word :=
  let st := d.status.getD 0
  word (st * 2 ^ 60 + (if d.down ∧ st ≠ 0 then 0 else d.done % 2 ^ 48))

/-- Whether a transfer has ended and may complete: descriptors of one core and class complete in acceptance order, past
those set aside (R317, R319, R322). -/
def State.mayComplete (s : State) (d : CopyDesc) : Bool :=
  d.status.isSome && !s.engineBusy d && s.compHere d &&
    (s.descs.takeWhile fun (x : CopyDesc) => x.id ≠ d.id).all fun (x : CopyDesc) =>
      decide (x.core ≠ d.core) || x.background != d.background || s.stalled x || !s.compHere x

/-- A transfer ends (R315, R316): its completion word is written and filled, a parked CPYW goes on, the issuer's latch
is set wherever the issuer is (R319; assumption 80), and a strand that waits for a descriptor slot tries again. -/
def State.copyComplete (s : State) (id : Nat) : State :=
  match s.descs.find? fun (d : CopyDesc) => d.id = id with
  | none => s
  | some d =>
    if !s.mayComplete d then s
    else
      let s1 : State := { s with descs := s.descs.filter fun (x : CopyDesc) => x.id ≠ id }
      let s2 : State := match d.comp with
        | some pa => ((s1.pokeWord pa d.result).setFull pa true).serve pa
        | none => s1
      let s3 : State := match s2.serverOf d.ctx d.lcore, d.toReg with
        | some p, some rd =>
          let st := s2.strand p d.strand
          if st.wait = some (Wait.copyEnd id) then
            (s2.setStrand p d.strand { st.withX rd d.result with wait := none, pc := st.pc + 4 }).acquire p .dev
          else s2
        | _, _ => s2
      let s4 := s3.latchUser (d.ctx, d.lcore, d.strand)
      s4.setCore d.core ((s4.core d.core).wakeFor .copySlot)

/-- The scratchpad way of core p that holds a physical address. -/
def State.wayOf (s : State) (p : CoreId) (pa : Nat) : Option Nat :=
  match region pa with
  | .spad q off => if q = p then ((s.core p).spadPlace off).map (· / 2 ^ 20) else none
  | _ => none

/-- Whether a descriptor's address stands in a scratchpad way of core p; one whose table entry is awaited may. -/
def State.lies (s : State) (d : CopyDesc) (p : CoreId) (w : Nat) (a : Word) : Bool :=
  match (s.engineWalk d a.toNat).1 with
  | .ok e => s.wayOf p (e.frame + (a.toNat - e.base)) == some w
  | .error .await => true
  | .error _ => false

/-- The addresses of a descriptor's stream buffer, one in each page. -/
def StreamBuf.pages (b : StreamBuf) : List Word :=
  (List.range ((b.slots * b.slotBytes - 1) / 4096 + 2)).map fun k =>
    word (b.base + min (4096 * k) (b.slots * b.slotBytes - 1))

/-- Whether a descriptor's source, destination or completion word lies in a scratchpad way of core p (R319). -/
def State.inWay (s : State) (d : CopyDesc) (p : CoreId) (w : Nat) : Bool :=
  (match d.comp with | some pa => s.wayOf p pa == some w | none => false) ||
    (d.len ≠ 0 && (d.pages d.src d.sstride).any (s.lies d p w)) ||
    (match d.sbKey.bind s.sbufAt with
      | some b => b.pages.any (s.lies d p w)
      | none => d.len ≠ 0 && (d.pages d.dst d.dstride).any (s.lies d p w))

/-- Whether a descriptor is set aside when a way leaves: it waits for a stream buffer in that way or, where the whole core is
saved, in any way of the core (R319; assumption 92). -/
def State.setAside (s : State) (d : CopyDesc) (p : CoreId) (w : Nat) : Bool :=
  !s.compHere d || (s.stalled d && match d.sbKey.bind s.sbufAt with
    | some b => b.pages.any (s.lies d p w) || (b.away && decide (b.core = p)) ||
        ((s.saving p || (s.core p).serves ≠ some d.ctx) && decide (b.core = p))
    | none => false)

/-- Whether a transfer must still complete before a way that it is in may leave (R319). -/
def State.holdsWay (s : State) (c : CtxId) (p : CoreId) (w : Nat) (d : CopyDesc) : Bool :=
  decide (d.ctx = c) && !s.setAside d p w && s.inWay d p w

/-- What brings a descriptor nearer to its end: those of its core and class before it complete or move first (R317). -/
def State.serveFor (s : State) (d : CopyDesc) : Option State :=
  let line := (s.descs.filter fun (x : CopyDesc) => decide (x.core = d.core) && x.background == d.background)
  let ahead := line.takeWhile (fun (x : CopyDesc) => x.id ≠ d.id) ++ [d]
  match ahead.find? s.mayComplete with
  | some x => some (s.copyComplete x.id)
  | none => match ahead.find? fun (x : CopyDesc) => x.status.isNone && !s.stalled x with
    | some x => if s.engineBusy x then none else some (s.movePiece x)
    | none => none

/-- Complete the transfers of a context that a way of core p is in, as far as they wait for no stream buffer and for no
answer from beyond the package (R319); those before them are served first (R317). -/
def State.finishCopies (s : State) (c : CtxId) (p : CoreId) (w : Nat) : Nat → State
  | 0 => s
  | fuel + 1 =>
    match (s.descs.filter (s.holdsWay c p w)).findSome? s.serveFor with
    | none => s
    | some s1 => s1.finishCopies c p w fuel

/-- Whether a transfer that a way is in must still complete before the way may leave (R319). -/
def State.copiesHold (s : State) (c : CtxId) (p : CoreId) (w : Nat) : Bool := s.descs.any (s.holdsWay c p w)

/-- Enough moves to complete every transfer of the cores whose engines have one of a context. -/
def State.copyWork (s : State) (c : CtxId) : Nat :=
  (s.descs.filter fun (d : CopyDesc) => s.descs.any fun (x : CopyDesc) => decide (x.ctx = c ∧ x.core = d.core)).foldl
    (fun n d => n + d.total + 2) 0

/-! ### CPY, CPY2D, CPYW -/

/-- The least and greatest-plus-one stream addresses from a start, a row stride, a row length and a number of rows. -/
def streamRange (start stride : Int) (len rows : Nat) : Int × Int :=
  let last := start + (rows - 1 : Nat) * stride
  (min start last, max start last + len)

/-- Read the fields of a descriptor (R312). `two` says CPY2D. -/
def State.descOf (s : State) (two : Bool) (toReg : Option (BitVec 5)) (ws : List Word) : CopyDesc :=
  let w (i : Nat) : Word := ws.getD i 0
  { id := s.nextDesc + 1
    ctx := s.myCtx
    core := s.cur
    lcore := s.mine.lcore.toNat
    strand := s.str
    ptroot := s.mine.ptroot
    background := bit (w 2) 63
    stream := bit (w 2) 62
    toReg := toReg
    src := field (w 0) 55 0
    dst := field (w 1) 55 0
    len := field (w 2) 39 0
    rows := if two then field (w 4) 31 0 else 1
    sstride := if two then (w 5).toInt else 0
    dstride := if two then (w 6).toInt else 0
    comp := none
    sbKey := none
    done := 0
    slotOpen := false
    down := false
    status := none }

/-- Whether a descriptor is BAD_DESC (R312, R314, R315). The whole destination of a stream buffer is the buffer: which of its
slots the stream reaches depends on what other descriptors fill before (assumption 82). -/
def State.badDesc (s : State) (two : Bool) (ws : List Word) (d : CopyDesc) : Bool :=
  let w (i : Nat) : Word := ws.getD i 0
  let r1 := streamRange d.src d.sstride d.len d.rows
  let r2 := streamRange d.dst d.dstride d.len d.rows
  field (w 0) 63 56 ≠ 0 || field (w 1) 63 56 ≠ 0 || field (w 2) 61 40 ≠ 0 ||
    (two && (field (w 4) 63 32 ≠ 0 || decide (w 7 ≠ 0))) ||
    (if d.stream then
      decide (64 ≤ d.dst) || (match d.sbKey.bind s.sbufAt with
        | some b => d.total % b.slotBytes ≠ 0 ||
          decide (d.total ≠ 0 ∧ r1.1 < ((b.base + b.slots * b.slotBytes : Nat) : Int) ∧ (b.base : Int) < r1.2)
        | none => true)
    else decide (d.total ≠ 0 ∧ r1.1 < r2.2 ∧ r2.1 < r1.2))

/-- Whether a completion word is a writable scratchpad word of the acting strand's context, with its address (R313). -/
def State.compPlace (s : State) (va : Word) : Option Nat :=
  match (s.check va 8 .write).1 with
  | .ok pl => (match region pl.pa with | .spad _ _ => some pl.pa | _ => none)
  | .error _ => none

/-- Accept a descriptor (R313): the completion word is marked empty. -/
def State.acceptCopy (s : State) (two : Bool) (ws : List Word) (comp : Option Nat) (d : CopyDesc) : State :=
  let d1 := { d with comp := comp, sbKey := if d.stream then s.sbKey s.cur s.str (d.dst % 64) else none }
  let st := if s.badDesc two ws d1 then some 7 else if d1.total = 0 then some 0 else none
  let d2 := { d1 with status := st }
  let s1 := match comp with
    | some pa => (s.setFull pa false).serve pa
    | none => s
  { s1 with descs := s1.descs ++ [d2], nextDesc := s1.nextDesc + 1 }

/-- CPY, CPY2D and CPYW with their descriptor's words at hand, and once COMP has passed its check its address behind them
(R313, R316): a strand that waits for a slot keeps them. -/
def State.startCopy (s : State) (two : Bool) (toReg : Option (BitVec 5)) (ws : List Word) : State :=
  let n := if two then 8 else 4
  let comp := ws.getD 3 0
  let pl := match ws[n]? with
    | some a => some a.toNat
    | none => s.compPlace comp
  if comp ≠ 0 ∧ pl.isNone then
    match s.check comp 8 .write with
    | (.error .await, s1) => s1.trap .await comp
    | _ => s.trap .access comp
  else s.afterRelease .dev fun (a : State) =>
    if 16 ≤ (a.descs.filter fun (d : CopyDesc) => d.core = a.cur).length then
      (a.setMe { a.me with progress := ws.take n ++ [word (pl.getD 0)], progressAt := a.me.pc }).park .copySlot
    else
      let d := a.descOf two toReg ws
      let a1 := a.acceptCopy two ws (if comp = 0 then none else pl) d
      if toReg.isSome then a1.park (.copyEnd d.id) else a1.advance

/-- CPY, CPY2D and CPYW (R313): the descriptor is aligned to its size and read. An instruction that has accesses outstanding
to wait for issues once they have performed. -/
def State.copyInstr (s : State) (two : Bool) (toReg : Option (BitVec 5)) (va : Word) : State :=
  let n := if two then 2 else 1
  let s1 := (s.drainRelaxed s.cur s.str).releaseCopies s.cur .dev
  if s1.extRelaxed s1.cur s1.str || s1.windowDirty s1.cur then s1
  else if va.toNat % (32 * n) ≠ 0 then s1.trap .align va
  else s1.readRecord va n fun ws a => a.startCopy two toReg ws

/-- CPY (R313). -/
def execCpy (rs1 : BitVec 5) (s : State) : Host.Outcome State Fault Refusal :=
  .next (s.copyInstr false none (s.reg rs1))

/-- CPY2D (R313). -/
def execCpy2d (rs1 : BitVec 5) (s : State) : Host.Outcome State Fault Refusal :=
  .next (s.copyInstr true none (s.reg rs1))

/-- CPYW (R316). -/
def execCpyw (rd rs1 : BitVec 5) (s : State) : Host.Outcome State Fault Refusal :=
  .next (s.copyInstr false (some rd) (s.reg rs1))

/-! ### Stream buffers -/

/-- The addresses at which n bytes from a virtual address enter a page. -/
def pagesOf (va n : Nat) : List Nat :=
  (List.range ((va + n - 1) / 4096 + 1 - va / 4096)).map fun k => max va (4096 * (va / 4096 + k))

/-- The scratchpad window that holds n bytes of the acting strand's context from a virtual address, if one does, and where they
begin. -/
def State.oneWindow (s : State) (va n : Nat) : Option (CoreId × Nat) :=
  let at0 (a : Nat) : Option (CoreId × Nat) :=
    match (s.place s.cur s.myCtx s.isRuntime false (word a) 8 .read).1 with
    | .ok pl => (match region pl.pa with | .spad q _ => some (q, pl.pa) | _ => none)
    | .error _ => none
  match at0 va with
  | none => none
  | some x => if (pagesOf va n).all fun a => (at0 a).map (·.1) == some x.1 then some x else none

/-- The state that asks for the table entry awaited for one of n bytes, if there is such a byte (R280). -/
def State.windowWaits (s : State) (va n : Nat) : Option State :=
  (pagesOf va n).findSome? fun a =>
    match s.place s.cur s.myCtx s.isRuntime false (word a) 8 .read with
    | (.error .await, s1) => some s1
    | _ => none

/-- The acting strand's handle table, whose page's entry may be awaited (R280, R320). -/
def State.withTable (s : State) (x : Word) (k : State → State) : State :=
  match s.sbPlace s.cur s.str (field x 5 0) with
  | (.error .await, s1) => s1.trap .await x
  | _ => k s

/-- Initialise the buffer of a handle from its table entry's words (R320, R321). -/
def State.sbStart (s : State) (xs1 : Word) (key : Nat) (ws : List Word) : State :=
  let w (i : Nat) : Word := ws.getD i 0
  let slots := field (w 1) 23 16 + 1
  let size := (field (w 1) 13 0 + 1) * 64
  let base := field (w 0) 55 6 * 64
  let shape := decide (field (w 0) 63 56 = 0 ∧ field (w 0) 5 0 = 0 ∧ field (w 1) 63 24 = 0 ∧ field (w 1) 15 14 = 0 ∧
    w 2 = 0 ∧ w 3 = 0)
  match (if shape then s.windowWaits base (slots * size) else none) with
  | some s1 => s1.trap .await xs1
  | none => match (if shape && (s.sbufAt key).isNone then s.oneWindow base (slots * size) else none) with
  | none => s.trap .access xs1
  | some (q, pa) =>
    let c := s.myCtx
    if 64 ≤ (s.sbufs.filter fun (b : StreamBuf) => b.core = q ∧ !b.away).length then
      s.trap .access (xs1 ||| flagAt true 63)
    else
      let b : StreamBuf := ⟨key, q, c, base, slots, size, 0, slots, 0, 0, [s.userOf s.cur s.str], pa, false⟩
      ({ s with sbufs := s.sbufs ++ [b] }.sbTouch b).advance

/-- SBINIT (R321). -/
def execSbinit (rs1 rs2 : BitVec 5) (s : State) : Host.Outcome State Fault Refusal :=
  let x := s.reg rs1
  let h := field x 5 0
  .next (
    if field x 63 6 ≠ 0 then s.trap .access x
    else s.withTable x fun (s0 : State) => match s0.sbKey s0.cur s0.str h with
      | none => s0.trap .access x
      | some key =>
        if bit (s0.reg rs2) 0 then
          match s0.sbufAt key with
          | some b => (s0.endSbuf b).advance
          | none => s0.advance
        else s0.readRecord (word (2048 * s0.me.sbbase.toNat + 32 * h)) 1 fun ws a => a.sbStart x key ws)

/-- SBWAIT (R323). -/
def execSbwait (rs1 : BitVec 5) (s : State) : Host.Outcome State Fault Refusal :=
  let x := s.reg rs1
  let n := field x 16 8
  .next (
    if field x 63 17 ≠ 0 ∨ field x 7 6 ≠ 0 then s.trap .access x
    else s.withTable x fun (s0 : State) => match s0.sbufOf s0.cur s0.str (field x 5 0) with
      | none => s0.trap .access x
      | some b =>
        if b.slots < n then s0.trap .access x
        else
          let s1 := s0.sbUse s0.cur s0.str b.key
          if n ≤ b.filled then (s1.acquireAt .dev).advance else s1.park (.sbuf b.key x))

/-- SBADV (R324). -/
def execSbadv (rs1 rs2 : BitVec 5) (s : State) : Host.Outcome State Fault Refusal :=
  let x := s.reg rs1
  let y := s.reg rs2
  let k := field y 8 0
  .next (s.synced fun (s0 : State) => s0.withTable x fun (a : State) =>
    match a.sbufOf a.cur a.str (field x 5 0) with
    | none => a.trap .access x
    | some b =>
      if (if bit y 63 then b.free else b.filled) < k then a.trap .access y
      else a.afterRelease .dev fun (a1 : State) =>
        if k = 0 then a1.advance
        else if bit y 63 then
          (a1.setSbuf { b with wp := (b.wp + k) % b.slots, free := b.free - k, filled := b.filled + k }).advance
        else (a1.setSbuf { b with rp := (b.rp + k) % b.slots, free := b.free + k, filled := b.filled - k }).advance)

/-! ### Snapshots -/

/-- Whether n bytes from an address lie in the host window (R278). -/
def inHost (pa n : Nat) : Bool := decide (2 ^ 50 ≤ pa ∧ pa + n ≤ 2 ^ 51)

/-- Start a snapshot from a record's words (R325, R326): the result code, kept in SNAPSTAT. -/
def State.snapshot (s : State) (ws : List Word) : Nat × State :=
  let w (i : Nat) : Word := ws.getD i 0
  let src := 4096 * field (w 0) 51 12
  let len := 4096 * field (w 1) 39 12
  let dst := 4096 * field (w 2) 51 12
  let comp := field (w 3) 51 3 * 8
  let compOk := decide (comp = 0) || (match region comp with | .spad _ _ => true | .hbm _ => true | _ => false)
  let ok := (ws.drop 4).all (· = 0) &&
    decide (field (w 0) 63 52 = 0 ∧ field (w 0) 11 0 = 0 ∧ field (w 1) 63 40 = 0 ∧ field (w 1) 11 0 = 0 ∧
      field (w 2) 63 52 = 0 ∧ field (w 2) 11 0 = 0 ∧ field (w 3) 63 52 = 0 ∧ field (w 3) 2 0 = 0) &&
    decide (len ≠ 0) && inHbm src len && (inHbm dst len || inHost dst len) && compOk &&
    decide (src + len ≤ dst ∨ dst + len ≤ src)
  let code := if s.snap.isSome then 1 else if !ok then 2 else 0
  let s1 := { s with snapCode := BitVec.ofNat 8 code }
  (code, if code = 0 then { s1 with snap := some ⟨src, len, dst, comp, [], none⟩, gen := !s1.gen } else s1)

/-- SNAP (R325). -/
def execSnap (rd rs1 : BitVec 5) (s : State) : Host.Outcome State Fault Refusal :=
  let x := s.reg rs1
  .next (s.privileged (.snap rd rs1) fun (a : State) =>
    if x.toNat % 64 ≠ 0 then a.trap .align x
    else a.readRecord x 2 fun ws b => let (n, b1) := b.snapshot ws; b1.finish rd (word n))

/-- The host's write to SNAPCMD (R325): the record lies at a physical address. -/
def State.snapCmd (s : State) (v : Word) : State :=
  let ok : Bool := match region v.toNat with | .hbm _ => true | .spad _ _ => true | _ => false
  if v.toNat % 64 ≠ 0 || !ok || s.isBad v.toNat 64 then (s.snapshot [0, 0, 0, 0, 1]).2
  else (s.snapshot (wordsOf 8 (s.peekHome v.toNat 64))).2

/-- Every block of the snapshot has been carried out at DST (R327): the completion word is written and filled, unless an arena or
a sealed range refuses the engine's write (R73, R314). -/
def State.snapComplete (s : State) : State :=
  match s.snap with
  | none => s
  | some n =>
    let out := s.ext.any fun (e : ExtReq) => decide (e.who = .engine 0 ∧ n.dst ≤ e.pa ∧ e.pa < n.dst + n.len)
    if s.nextBlock.isSome || out then s
    else
      let v := match n.failed with
        | some (off, st) => word (st * 2 ^ 60 + off % 2 ^ 48)
        | none => word (n.len % 2 ^ 48)
      let s1 := { s with snap := none }
      if n.comp = 0 || s.engineRefused n.comp then s1 else ((s1.pokeWord n.comp v).setFull n.comp true).serve n.comp

end Sys2Proof.Machine
end

