-- ==== Sys2Proof/Machine/Ways.lean ====
section
/-! DEFINITION. The ways of a core: their modes (R263), changes of boundary (R265), owner tags and copy-outs (R266),
and the layout of way images (R395). -/

namespace Sys2Proof.Machine

/-- The mode of a way (R263). -/
inductive WayMode | compute | spad | cache | gated
deriving DecidableEq, Repr

/-- The mode that boundaries give way w. -/
def wayMode (v sp k w : Nat) : WayMode :=
  if w < v then .compute else if w < sp then .spad else if w < k then .cache else .gated

/-- The mode of way w of a core. -/
def Core.modeOf (c : Core) (w : Nat) : WayMode := wayMode c.poolV.toNat c.poolS.toNat c.poolC.toNat w

/-- The contents of a way, by place in it: 256·array + column, byte, word; with the marks of its rows and words: parity
mismatches, rows that have mismatched (R225), and words with an uncorrectable error (R401). -/
structure WayData where
  lanes : List (Nat × Lane)
  bytes : Memory
  full : List Nat
  parity : List (Nat × Nat)
  mismatched : List (Nat × Nat)
  words : List Nat

/-- An empty way (R265). -/
def WayData.zero : WayData := ⟨[], [], [], [], [], []⟩

/-- Contents of way w. -/
def Core.wayData (c : Core) (w : Nat) : WayData where
  lanes := (c.lanes.filter fun (x : Nat × Lane) => x.1 / 4096 = w).map fun x => (x.1 % 4096, x.2)
  bytes := (c.spad.filter fun (x : Nat × Byte) => x.1 / 2 ^ 20 = w).map fun x => (x.1 % 2 ^ 20, x.2)
  full := (c.spadFull.filter fun (x : Nat) => x / 2 ^ 17 = w).map (· % 2 ^ 17)
  parity := (c.parityBad.filter fun (x : ArrayId × Nat) => x.1 / 16 = w).map fun x => (x.1 % 16, x.2)
  mismatched := (c.mismatched.filter fun (x : ArrayId × Nat) => x.1 / 16 = w).map fun x => (x.1 % 16, x.2)
  words := (c.keptBad.filter fun (x : Nat) => x / 2 ^ 17 = w).map (· % 2 ^ 17)

/-- A core with way w empty. -/
def Core.clearWay (c : Core) (w : Nat) : Core :=
  { c with
    lanes := c.lanes.filter fun (x : Nat × Lane) => x.1 / 4096 ≠ w
    spad := c.spad.filter fun (x : Nat × Byte) => x.1 / 2 ^ 20 ≠ w
    spadFull := c.spadFull.filter fun (x : Nat) => x / 2 ^ 17 ≠ w
    parityBad := c.parityBad.filter fun (x : ArrayId × Nat) => x.1 / 16 ≠ w
    keptBad := c.keptBad.filter fun (x : Nat) => x / 2 ^ 17 ≠ w
    mismatched := c.mismatched.map fun (x : ArrayId × Nat) =>
      if x.1 / 16 = w ∧ x.2 % 2 = 0 then (x.1, x.2 + 1) else x }

/-- A core with contents put into way w, and the marks of its rows. -/
def Core.putWay (c : Core) (w : Nat) (d : WayData) : Core :=
  let c1 := c.clearWay w
  { c1 with
    parityBad := c1.parityBad ++ d.parity.map fun (x : Nat × Nat) => (16 * w + x.1, x.2)
    mismatched := if d.mismatched = [] then c1.mismatched
      else (c1.mismatched.filter fun (x : ArrayId × Nat) => x.1 / 16 ≠ w) ++
        d.mismatched.map fun (x : Nat × Nat) => (16 * w + x.1, x.2)
    lanes := d.lanes.foldl (fun l (x : Nat × Lane) => mapSet Lane.zero l (4096 * w + x.1) x.2) c1.lanes
    spad := d.bytes.foldl (fun m (x : Nat × Byte) => Memory.set m (2 ^ 20 * w + x.1) x.2) c1.spad
    spadFull := d.full.foldl (fun l (x : Nat) => insertNat (2 ^ 17 * w + x) l) c1.spadFull }

/-- The word of the window of core p that is word x of scratchpad way w (R267). -/
def Core.windowWord (c : Core) (p : CoreId) (w x : Nat) : Nat :=
  (spadBase + 2 ^ 24 * p.val + 2 ^ 20 * (w - c.poolV.toNat)) / 8 + x

/-- The words of way w of core p with an uncorrectable error, by place in the way: known by their address where the way lies
in the window, else by their place. -/
def State.wayWords (s : State) (p : CoreId) (w : Nat) : List Nat :=
  let c := s.core p
  if c.modeOf w = .spad then
    let lo := c.windowWord p w 0
    (s.badWords.filter fun x => decide (lo ≤ x ∧ x < lo + 2 ^ 17)).map (· - lo)
  else (c.keptBad.filter fun (x : Nat) => x / 2 ^ 17 = w).map (· % 2 ^ 17)

/-- Mark words of way w of core p, by place in the way, as holding an uncorrectable error. -/
def State.putWords (s : State) (p : CoreId) (w : Nat) (l : List Nat) : State :=
  let c := s.core p
  if c.modeOf w = .spad then
    { s with badWords := l.foldl (fun (a : List Nat) x => insertNat (c.windowWord p w x) a) s.badWords }
  else s.setCore p { c with keptBad := l.foldl (fun (a : List Nat) x => insertNat (2 ^ 17 * w + x) a) c.keptBad }

/-- The marks of the words of way w of core p go with its contents. -/
def State.unmarkWay (s : State) (p : CoreId) (w : Nat) : State :=
  let lo := (s.core p).windowWord p w 0
  if (s.core p).modeOf w = .spad then { s with badWords := s.badWords.filter fun x => !decide (lo ≤ x ∧ x < lo + 2 ^ 17) } else s

/-! ### Images -/

/-- The logical core of a context that CORETAB maps to core p (R89). -/
def Ctx.lcoreOf (k : Ctx) (p : CoreId) : Option Nat :=
  (List.range k.cores.length).find? fun l => k.cores[l]? == some (some p.val)

/-- Where the save area of a logical core begins (R391). -/
def Ctx.saveAt (k : Ctx) (l : Nat) : Nat := k.entry.saveBase + l * k.entry.saveSize

/-- Where the image of slot w begins (R391). -/
def Ctx.imageAt (k : Ctx) (l w : Nat) : Nat := k.saveAt l + 0x40000 + 0x110000 * w

/-- Row r of a compute way's image in one column (R395). -/
def Lane.imageBit (l : Lane) (r : Nat) : Bool :=
  if r < 1024 then l.low.getLsbD r
  else if r < 1032 then decide (r = 1024) || l.masks.getLsbD (r - 1024)
  else if r < 1048 then l.work.getLsbD (r - 1032)
  else if r < 1080 then l.hidden.getLsbD (r - 1048)
  else if r < 2104 then l.upper.getLsbD (r - 1080)
  else if r < 2108 then l.tags.getLsbD (r - 2104)
  else if r = 2108 then l.carry
  else l.arrived.getLsbD (r - 2109)

/-- The column that the bits of an image give. -/
def laneOfBits (b : Nat → Bool) : Lane :=
  let num (lo n : Nat) : Nat := (List.range n).foldl (fun a k => if b (lo + k) then a + 2 ^ k else a) 0
  { low := BitVec.ofNat 1024 (num 0 1024)
    masks := BitVec.ofNat 8 (num 1024 8) &&& 0xfe
    work := BitVec.ofNat 16 (num 1032 16)
    hidden := BitVec.ofNat 32 (num 1048 32)
    vague := 0
    upper := BitVec.ofNat 1024 (num 1080 1024)
    tags := BitVec.ofNat 4 (num 2104 4)
    carry := b 2108
    arrived := BitVec.ofNat 4 (num 2109 4) }

/-- The number by which R224 and R249 know a row of an image. -/
def parityRow (r : Nat) : Nat := if 1080 ≤ r then r - 1080 + 2048 else r

/-- The 32 bytes of row r of array a (0 to 15) of a way (R395): column 8j + b in bit b of byte j. -/
def WayData.rowBytes (d : WayData) (a r : Nat) : List Byte :=
  (List.range 32).map fun j => BitVec.ofNat 8 ((List.range 8).foldl (fun x b =>
    if (mapGet Lane.zero d.lanes (256 * a + 8 * j + b)).imageBit r then x + 2 ^ b else x) 0)

/-- A lane whose vague P rows and C take the bits of a free value. -/
def Lane.settled (l : Lane) (h : BitVec 33) : Lane :=
  let m := l.vague.extractLsb' 0 32
  { l with
    hidden := (l.hidden &&& ~~~m) ||| (h.extractLsb' 0 32 &&& m)
    carry := if l.vague.getLsbD 32 then h.getLsbD 32 else l.carry
    vague := 0 }

/-- The values that P rows and C hold at an image where no rule gives them (R199, R200; assumptions 3 and 67). -/
def State.settleHidden (s : State) (p : CoreId) (w : Nat) : State :=
  let (n, s1) := s.draw
  let c := s1.core p
  let keep := (c.lanes.map fun (x : Nat × Lane) =>
    if x.1 / 4096 = w ∧ x.2.vague ≠ 0 then
      (x.1, x.2.settled (Config.hiddenRow (4096 * 65536 * n + x.1)))
    else x).filter fun (x : Nat × Lane) => x.2 ≠ Lane.zero
  s1.setCore p { c with lanes := keep }

/-- A row of an image as it is written: its address, its bytes, and whether its data cannot be read (R401). -/
structure ImageRow where
  addr : Nat
  bytes : List Byte
  bad : Bool

/-- The rows of the image of way w of core p, from an address (R395). -/
def State.imageRows (s : State) (p : CoreId) (w : Nat) (compute : Bool) (base : Nat) : List ImageRow :=
  let c := s.core p
  let d := c.wayData w
  (List.range 16).flatMap fun a =>
    let slot := base + 0x11000 * a
    if compute then
      (List.range 2113).map fun r =>
        ⟨slot + 32 * r, d.rowBytes a r, c.parityBad.any fun (x : ArrayId × Nat) =>
          decide (x.1 = 16 * w + a ∧ x.2 / 4 = parityRow r)⟩
    else
      let bad := s.wayWords p w
      (List.range 2048).map (fun r =>
        ImageRow.mk (slot + 32 * r) (d.bytes.read (65536 * a + 32 * r) 32)
          (bad.any fun x => decide (x / 4 = 2048 * a + r))) ++
      (List.range 64).map fun q =>
        ImageRow.mk (slot + 65536 + 32 * q) ((List.range 32).map fun j => BitVec.ofNat 8 ((List.range 4).foldl
          (fun x k => if decide (8192 * a + 4 * (32 * q + j) + k ∈ d.full) then x + 2 ^ k else x) 0)) false

/-- Copy way w of core p into the save area of the context that its tag names (R266). Data with an uncorrectable
error are not written, and their owner is aborted (R401). -/
def State.copyOut (s : State) (p : CoreId) (w : Nat) (t : CtxId) (compute : Bool) : State :=
  let k := s.ctx t
  match k.lcoreOf p with
  | none => s
  | some l =>
    let s1 := if compute then s.settleHidden p w else s
    let rows := s1.imageRows p w compute (k.imageAt l w)
    let s2 := rows.foldl (fun (a : State) (r : ImageRow) => if r.bad then a else a.pokeHome r.addr r.bytes) s1
    let s3 := { s2 with sbufs := s2.sbufs.map fun (b : StreamBuf) =>
        if b.ctx = t ∧ b.core = p ∧ !b.away ∧ s2.wayOf p b.place = some w then { b with away := true } else b }.setCtx t
      { s2.ctx t with outWays := (s2.ctx t).outWays.filter (· ≠ (l, w)) ++ [(l, w)] }
    match rows.find? (·.bad) with
    | some r =>
      let n := s3.mcCount
      (s3.machineCheck 3 (some t) p none 0 (word r.addr) 0).abortCtx t n
    | none => s3

/-- The way that an image holds, and the first address of it whose data cannot be read. -/
def State.readImage (s : State) (base : Nat) (compute : Bool) : WayData × Option Nat :=
  let at0 (a r : Nat) : Nat := base + 0x11000 * a + 32 * r
  let bad (a : Nat) : Option Nat := (List.range 2176).findSome? fun r =>
    if s.isBad (at0 a r) 32 then some (at0 a r) else none
  let d : WayData :=
    if compute then
      { WayData.zero with lanes := (List.range 16).flatMap fun a => (List.range 256).filterMap fun col =>
          let l := laneOfBits fun r => (s.mem.get (at0 a r + col / 8)).getLsbD (col % 8)
          if l = Lane.zero then none else some (256 * a + col, l) }
    else
      { WayData.zero with
        bytes := (List.range 16).flatMap fun a => (List.range 65536).filterMap fun o =>
          let b := s.mem.get (base + 0x11000 * a + o)
          if b = 0 then none else some (65536 * a + o, b)
        full := (List.range 16).flatMap fun a => (List.range 8192).filterMap fun x =>
          if (s.mem.get (base + 0x11000 * a + 65536 + x / 4)).getLsbD (x % 4) then some (8192 * a + x) else none }
  (d, (List.range 16).findSome? bad)

/-! ### Boundaries -/

/-- Whether a way's tag names another context than t. -/
def foreignTag (tag : Option (CtxId × Bool)) (t : Option CtxId) : Bool :=
  match tag with
  | some x => decide (some x.1 ≠ t)
  | none => false

/-- The copies that a scratchpad way of core p keeps waiting complete, as far as they can at once (R319): whether the way may
leave. -/
def State.wayFree (s : State) (p : CoreId) (w : Nat) : Bool × State :=
  match (s.core p).wayTag[fin16 w] with
  | some (t, false) =>
    let s1 := s.finishCopies t p w (s.copyWork t)
    (!s1.copiesHold t p w, s1)
  | _ => (true, s)

/-- Before boundaries change (R265, R266, R319): the copies that a way to be copied out keeps waiting complete, and the dirty
data of cache ways that leave is written back. Answers whether nothing of that is outstanding. -/
def State.waysReady (s : State) (p : CoreId) (t : Option CtxId) (v sp k : BitVec 5) : Bool × State :=
  let new (w : Nat) : WayMode := wayMode v.toNat sp.toNat k.toNat w
  let foreign := (List.range 16).filter fun w =>
    foreignTag (s.core p).wayTag[fin16 w] t && decide (new w ≠ .gated)
  let r := foreign.foldl (fun (a : Bool × State) w =>
    let x := a.2.wayFree p w
    (a.1 && x.1, x.2)) (true, s)
  let leaves (c : Copy) : Bool := c.way.any fun w => decide (new w ≠ .cache)
  let s1 := ((r.2.core p).copies.filter leaves).foldl (fun (a : State) c => a.writeBack p c) r.2
  (r.1 && !(s1.ext.any fun (e : ExtReq) => decide (e.who = .copies p)), s1)

/-- Whether way w of a core carries the tag of context t. -/
def Core.tagged (c : Core) (w : Nat) (t : CtxId) : Bool :=
  match c.wayTag[fin16 w] with
  | some x => decide (x.1 = t)
  | none => false

/-- Full/empty operations on words that a change of boundaries has made empty, parked or kept for a retry, are evaluated again
(R265): a word that its accessor still reaches serves its waiters, the others leave it and run again. -/
def State.retestSpad (s : State) (on : Waiter → Bool) : State :=
  let reach (a : State) (w : Waiter) : Bool := match region w.pa with
    | .spad q off => (a.spadFor ((a.core w.core).serves.getD 0) q off).isSome
    | _ => true
  let moved := s.waiters.filter on
  let s1 := ((moved ++ s.retries.filter on).filter fun w => !reach s w).foldl
    (fun (a : State) w => a.unpark w.core w.strand) s
  (moved.filter fun w => reach s w).foldl (fun (a : State) w => a.serve w.pa) s1

/-- New boundaries for core p, which serves context t (R265, R266). A way with another context's tag is copied out and cleared
whether or not its mode changes (assumption 101). -/
def State.setPools (s : State) (p : CoreId) (t : Option CtxId) (v sp k : BitVec 5) : State :=
  let c := s.core p
  let new (w : Nat) : WayMode := wayMode v.toNat sp.toNat k.toNat w
  let ways := List.range 16
  let foreign (w : Nat) : Bool := foreignTag c.wayTag[fin16 w] t && decide (new w ≠ .gated)
  let s1 := (ways.filter foreign).foldl (fun (a : State) w =>
    match c.wayTag[fin16 w] with
    | some x => a.copyOut p w x.1 x.2
    | none => a) s
  let s2 := s1.leaveCache p (fun x => x.way.any fun w => decide (new w ≠ .cache)) fun x => { x with way := none }
  let affected (w : Nat) : Bool :=
    foreign w || (decide (c.modeOf w ≠ new w) && !(foreignTag c.wayTag[fin16 w] t)) ||
      (decide (c.poolV ≠ v) && decide (new w = .spad))
  let own (a : Nat) : Bool := decide (spadBase / 8 + 2 ^ 21 * p.val ≤ a ∧ a < spadBase / 8 + 2 ^ 21 * (p.val + 1))
  let marks := (ways.filter fun w => !affected w).map fun w => (w, s2.wayWords p w)
  let c1 := (ways.filter affected).foldl (fun (x : Core) w => x.clearWay w) (s2.core p)
  let tag (w : Nat) : Option (CtxId × Bool) :=
    match new w with
    | .compute => t.map fun x => (x, true)
    | .spad => t.map fun x => (x, false)
    | .cache => none
    | .gated => if foreignTag c.wayTag[fin16 w] t then c.wayTag[fin16 w] else none
  let s4 := { s2 with badWords := s2.badWords.filter fun a => !own a }.setCore p { c1 with
    keptBad := []
    poolV := v
    poolS := sp
    poolC := k
    wayTag := Vector.ofFn fun (w : Fin 16) => tag w.val }
  let s3 := marks.foldl (fun (a : State) (x : Nat × List Nat) => a.putWords p x.1 x.2) s4
  let on (x : Waiter) : Bool := match region x.pa with
    | .spad q off => decide (q = p) && match c.spadPlace off with
      | some place => affected (place / 2 ^ 20)
      | none => true
    | _ => false
  s3.retestSpad on

end Sys2Proof.Machine
end

