-- ==== Sys2Proof/Machine/Context.lean ====
section
/-! DEFINITION. The context table and its copies (R87 to R90), launches (R91 to R93), capture and replay of a launch
(R422 to R424), how a core takes up a context (R88, R416) and gives one up (R178, R266). -/

namespace Sys2Proof.Machine

/-! ### Tables -/

/-- An address field of the context table. -/
def tableAddr (w : Word) : Nat := 4096 * field w 51 12

/-- Entry c of the context table as it stands in memory (R87). -/
def State.readEntry (s : State) (c : CtxId) : CtxEntry :=
  let w (i : Nat) : Word := s.homeWord (16384 * s.ctxtbase.toNat + 256 * c.val + 8 * i)
  { valid := bit (w 0) 63
    width := field (w 0) 20 16 + 1
    height := field (w 0) 25 21 + 1
    longcl := field (w 0) 13 8
    ptroot := tableAddr (w 1)
    arenaBase := 65536 * field (w 2) 51 16
    arenaBound := 65536 * field (w 3) 51 16
    ruletab := tableAddr (w 4)
    coretab := tableAddr (w 5)
    routetab := tableAddr (w 6)
    caproute := tableAddr (w 7)
    ovt := (w 8).extractLsb' 0 16
    poolC := (w 9).extractLsb' 16 5
    poolS := (w 9).extractLsb' 8 5
    poolV := (w 9).extractLsb' 0 5
    spillBase := tableAddr (w 10)
    spillSize := 4096 * field (w 11) 31 12
    saveBase := tableAddr (w 12)
    saveSize := 4096 * field (w 13) 31 12
    gpool := field (w 14) 55 3 * 8
    orphanBase := field (w 15) 51 4 * 16
    orphanSize := field (w 16) 15 0 }

/-- The least save area (R93, R266). -/
def saveMin : Nat := 0x1140000

/-- An entry of CORETAB or ROUTETAB (R89). One that names no core, with PCORE above 383, is taken as not in use
(assumption 76). -/
def State.coreEntry (s : State) (base l : Nat) : Option Nat :=
  let e := fromLe (s.peekHome (base + 2 * l) 2)
  if e.testBit 15 ∧ e % 512 < 384 then some (e % 512) else none

/-- Read the tables that the base die works from (R90). -/
def State.readTables (s : State) (c : CtxId) : State :=
  let k := s.ctx c
  s.setCtx c { k with
    cores := (List.range k.size).map (s.coreEntry k.entry.coretab)
    routes := (List.range k.size).map (s.coreEntry k.entry.routetab)
    caproutes := (List.range 128).map fun i => s.homeWord (k.entry.caproute + 8 * i)
    launched := true }

/-! ### Taking up and giving up -/

/-- A strand as a launch starts it (R416). -/
def Strand.start (st : Strand) : Strand :=
  if st.halted && !st.dbgHalted && decide (st.trapvec ≠ 0) then
    { st with
      halted := false
      wait := none
      pc := addr50 st.trapvec
      cameFrom := addr50 st.trapvec
      priv := 1
      tact := false }
  else st

/-- What an abort has left outstanding of a core's strands performs before others use them (R398, R403): relaxed accesses, and
requests beyond the package, whose answers go nowhere. -/
def State.settleLoose (s : State) (p : CoreId) : State :=
  let mine (w : Requester) : Bool := match w with
    | .scalar q _ | .elem q _ _ => decide (q = p)
    | _ => false
  let s1 := (s.loose.filter fun x => x.1 = p).foldl (fun (a : State) x => a.performRelaxed p x.2.1 x.2.2)
    { s with loose := s.loose.filter fun x => x.1 ≠ p }
  s1.orphanExt mine

/-- Core p takes up context c as logical core l (R88, R165, R177, R266). -/
def State.takeUp (s : State) (p : CoreId) (c : CtxId) (l : Nat) : State :=
  let e := (s.ctx c).entry
  let s1 := (s.settleLoose p).setPools p (some c) e.poolV e.poolS e.poolC
  s1.setCore p { s1.core p with
    serves := some c
    lcore := BitVec.ofNat 10 l
    ptroot := e.ptroot
    ovt := ovtStore e.ovt
    bag := []
    rules := []
    lastIssued := 7
    wants := (s1.core p).wants.filter (· ≠ c) }

/-- Release a held delivery to the core that now serves its logical core, else hold it again (R89, R394). A GIVE that comes
so late answers its STEAL (R95, R98). -/
def State.releaseMsg (s : State) (c : CtxId) (m : HeldMsg) : State :=
  let k := s.ctx c
  let hold : State := s.setCtx c { k with heldMsgs := k.heldMsgs ++ [m] }
  match m with
  | .pairs kind l ps =>
    if k.aborted || decide (l ∈ k.preempted) then hold
    else match k.route l with
      | some p =>
        if !s.servesAs p c l then hold
        else if kind = 1 then s.takeGive p c 3 ps
        else s.deliver p c ⟨if kind = 2 ∨ kind = 4 then 4 else 3, ps⟩
      | none => hold
  | .deposit d => s.receiveDeposit d
  | .steal l t so lo => s.sendTo c l (fun q => .steal q c l t so lo) m
  | .wake l x => s.sendTo c l (fun q => .wake q c l x) m
  | .red r => s.receiveRed r

/-- Release what the base die holds for a context. -/
def State.releaseHeld (s : State) (c : CtxId) : State :=
  let l := (s.ctx c).heldMsgs
  l.foldl (fun (a : State) m => a.releaseMsg c m) (s.setCtx c { s.ctx c with heldMsgs := [] })

/-- A core that a launch found busy takes its context up (R416): the event does nothing while the core serves a
context or none is waiting for it, and waits for the copies that its ways keep (R319). -/
def State.coreTakeUp (s : State) (p : CoreId) (c : CtxId) : State :=
  let k := s.ctx c
  match k.lcoreOf p with
  | none => s
  | some l =>
    if (s.core p).serves.isSome || decide (c ∉ (s.core p).wants) || k.aborted || !k.entry.valid ||
        decide (l ∈ k.preempted) then s
    else
      let r := s.waysReady p (some c) k.entry.poolV k.entry.poolS k.entry.poolC
      if !r.1 then r.2
      else
        let s1 := r.2.takeUp p c l
        let s2 := s1.setCore p { s1.core p with strands := (s1.core p).strands.map Strand.start }
        s2.releaseHeld c

/-- The physical address of a virtual one in context c, by core p's tables. -/
def State.physical (s : State) (p : CoreId) (c : CtxId) (va : Nat) : Option Nat :=
  match (s.lookup p c (s.ctx c).entry.ptroot (word va)).1 with
  | .ok e => some (e.frame + (va - e.base))
  | .error _ => none

/-- A core's node list goes back to the global pool as one batch (R178, R179). -/
def State.returnNodes (s : State) (p : CoreId) (c : CtxId) : State :=
  let n := (s.core p).npool.toNat * 32
  let s0 := s.setCore p { s.core p with npool := 0 }
  if n = 0 then s0
  else match s.physical p c (s.ctx c).entry.gpool, s.physical p c (n + 8) with
    | some g, some w =>
      let head := s0.homeWord g
      (s0.pokeWord w (word (field head 47 5 * 32))).pokeWord g (word (field head 63 48 * 2 ^ 48 + n))
    | _, _ => s0

/-! ### Replay settings -/

/-- The replay settings take effect at a launch that finds the count zero (R422). -/
def State.startReplay (s : State) (c : CtxId) : State :=
  let k := s.ctx c
  if k.count ≠ 0 then s
  else
    let base := 4096 * k.replay.logBase.toNat
    let size := 4096 * k.replay.logSize.toNat
    let s1 := s.setCtx c { k with
      logPos := []
      logCount := []
      logRecs := []
      replay := { k.replay with
        running := k.replay.mode
        runBase := base
        runSize := size
        runIn := 4096 * k.replay.inBase.toNat
        runInLen := 4096 * k.replay.inLen.toNat
        launches := 0 } }
    if k.replay.mode = 1 then
      (List.range k.size).foldl (fun (a : State) l => a.pokeWord (base + l * size) 0) s1
    else s1

/-- The digest of a launch (R423), as its two pairs of words. -/
def State.launchDigest (s : State) (c : CtxId) (list n : Nat) : List (Word × Word) :=
  let r := (s.ctx c).replay
  let d := sha256 (s.peekHome list (16 + 16 * n) ++ s.peekHome r.runIn r.runInLen)
  let w (i : Nat) : Word := word (fromLe ((d.drop (8 * i)).take 8))
  [(w 0, w 1), (w 2, w 3)]

/-- A launch under capture is recorded on logical core 0, and under replay compared with its record, whichever core serves
it (R423, R424). -/
def State.recordLaunch (s : State) (c : CtxId) (list n : Nat) : State :=
  let k := s.ctx c
  let d := s.launchDigest c list n
  let s1 := s.setCtx c { k with replay := { k.replay with launches := k.replay.launches + 1 } }
  if k.replay.running = 1 then
    s1.logRecordAt 0 c ((word (5 * 2 ^ 60 + k.replay.launches % 2 ^ 16), 0) :: d)
  else match s1.nextRecordAt 0 c with
    | none => s1
    | some (w, _) =>
      if field w 63 60 ≠ 5 then s1.diverge c
      else
        let at0 := k.logAt 0 + 16 + 16 * mapGet 0 k.logPos 0
        let seen := [(s1.homeWord (at0 + 16), s1.homeWord (at0 + 24)), (s1.homeWord (at0 + 32), s1.homeWord (at0 + 40))]
        let s2 := s1.consumeAt 0 c 3
        if seen = d then s2 else s2.setCtx c { s2.ctx c with replay := { (s2.ctx c).replay with digest := true } }

/-! ### Launch -/

/-- The address of LSTATc, which a launch's SPILL_FULL gives as its TVAL (R93). -/
def lstatAddr (c : CtxId) : Nat := mmioBase + 0x1200 + 8 * c.val

/-- Seed i of a list (R92), with SEED set. -/
def State.seed (s : State) (list i : Nat) : Pair :=
  pairMark (pairOf (s.homeWord (list + 16 + 16 * i)) (s.homeWord (list + 24 + 16 * i))) 8

/-- Distribute a launch's seeds from the next one on (R93). A full spill area stops it with SPILL_FULL on strand 0
of the receiving core. A seed is read from memory as it is pushed, and one whose logical core has no route, or is not served
yet, is held in the base die and counts as pushed, so that DONE may be set while it is held (assumption 75). -/
def State.distribute (s : State) (c : CtxId) : Nat → State
  | 0 => s
  | fuel + 1 =>
    let k := s.ctx c
    match k.launching with
    | none => s
    | some x =>
      if x.n ≤ x.next then
        s.setCtx c { k with launching := none, lBusy := false, lDone := true }
      else
        let l := if x.one then 0 else x.next % k.size
        let q := s.seed x.list x.next
        let pushed (a : State) : State := a.setCtx c { a.ctx c with
          launching := some { x with next := x.next + 1 }
          lPushed := BitVec.ofNat 16 (x.next + 1) }
        let held : State := s.setCtx c { k with heldMsgs := k.heldMsgs ++ [.pairs 5 l [q]] }
        match (if k.aborted || decide (l ∈ k.preempted) then none else k.route l) with
        | none => (pushed held).distribute c fuel
        | some p =>
          if !s.servesAs p c l then (pushed held).distribute c fuel
          else match s.enterBag p c q false with
            | some s1 => (pushed ((s1.wakePairs p).entered p c)).distribute c fuel
            | none => (s.setCtx c { k with launching := some { x with ready := false } }).askTrap p 0 14
                (word (lstatAddr c))

/-- Whether the words of a seed list are as R92 and R26 require. -/
def State.listOk (s : State) (list n : Nat) : Bool :=
  let h := s.homeWord list
  let zero (w : Word) : Bool := decide (field w 63 48 = 0 ∧ field w 4 0 = 0)
  decide (field h 63 32 = 0 ∧ field h 30 16 = 0 ∧ s.homeWord (list + 8) = 0 ∧ 1 ≤ n) &&
    (List.range n).all fun i => zero (s.homeWord (list + 16 + 16 * i)) && zero (s.homeWord (list + 24 + 16 * i))

/-- The first check of R93 that a launch fails, 0 for none. -/
def State.launchError (s : State) (c : CtxId) (v : Word) : Nat :=
  let e := (s.ctx c).entry
  let n := field (s.homeWord v.toNat) 15 0
  if !e.valid then 1
  else if v.toNat % 16 ≠ 0 ∨ !inHbm v.toNat 16 then 2
  else if e.poolV.toNat < 1 ∨ e.poolS.toNat < e.poolV.toNat + 2 ∨ e.saveSize < saveMin then 3
  else if !inHbm v.toNat (16 + 16 * n) || !s.listOk v.toNat n then 4
  else if s.isBad v.toNat (16 + 16 * n) then 5
  else 0

/-- Every free core of CORETAB takes the context up, and the others are noted as waited for (R416). -/
def State.takeUpAll (s : State) (c : CtxId) : State :=
  ((s.ctx c).cores.zipIdx).foldl (fun (a : State) (x : Option Nat × Nat) =>
    match x.1.bind coreOf with
    | none => a
    | some p =>
      if (a.core p).serves = some c ∨ x.2 ∈ (a.ctx c).preempted then a
      else
        let w := (a.core p).wants
        (a.setCore p { a.core p with wants := if c ∈ w then w else w ++ [c] }).coreTakeUp p c) s

/-- A write to LAUNCHc (R93, R403, R421). A refused one has read the entry and, as the first, the tables (assumption 77), but
leaves the save area as it stood (R266). -/
def State.launch (s : State) (c : CtxId) (v : Word) : State :=
  let k := s.ctx c
  if k.aborted || k.rBusy then s.setCtx c { k with lErr := 1 }
  else if k.lBusy then s.setCtx c { k with lLost := true }
  else
    let s1 := s.setCtx c { k with
      entry := s.readEntry c
      lBusy := true
      lDone := false
      lErr := 0
      lPushed := 0 }
    let s2 := if (s1.ctx c).launched then s1 else s1.readTables c
    let err := s2.launchError c v
    if err ≠ 0 then s2.setCtx c { s2.ctx c with
      lBusy := false
      lErr := BitVec.ofNat 8 err
      entry := { (s2.ctx c).entry with saveBase := k.entry.saveBase, saveSize := k.entry.saveSize } }
    else
      let h := s2.homeWord v.toNat
      let n := field h 15 0
      let s3 := (s2.startReplay c).countUp c n
      let s4 := (s3.setCtx c { s3.ctx c with launching := some ⟨v.toNat, n, bit h 31, 0, true⟩ }).takeUpAll c
      ((s4.recordLaunch c v.toNat n).releaseHeld c).distribute c (n + 1)

/-- Distribution goes on when the trap of a SPILL_FULL has returned (R93). -/
def State.launchResume (s : State) (c : CtxId) : State :=
  match (s.ctx c).launching with
  | some x => if x.ready then s.distribute c (x.n + 1) else s
  | none => s

/-- The SPILL_FULL of a launch has returned: distribution may go on. -/
def State.launchReady (s : State) (c : CtxId) : State :=
  match (s.ctx c).launching with
  | some x => (s.setCtx c { s.ctx c with launching := some { x with ready := true } }).launchResume c
  | none => s

/-! ### CTXREFRESH -/

/-- Ways of core p tagged with c are copied out and lose their tags (R266). -/
def State.evictWays (s : State) (p : CoreId) (c : CtxId) : State :=
  (List.range 16).foldl (fun (a : State) w =>
    match (a.core p).wayTag[fin16 w] with
    | some x =>
      if x.1 = c then
        let a0 := a.copyOut p w c x.2
        let a1 := a0.unmarkWay p w
        let a2 := a1.setCore p { (a1.core p).clearWay w with wayTag := (a1.core p).wayTag.set (fin16 w) none }
        a2.retestSpad fun (x : Waiter) => match region x.pa with
          | .spad q off => decide (q = p) && decide (((a2.core p).spadPlace off).map (· / 2 ^ 20) = some w)
          | _ => false
      else a
    | none => a) s

/-- The entry and the core table as a write to CTXREFRESHc finds them (R90, R266), and the cores that logical cores leave. -/
def State.refreshed (s : State) (c : CtxId) : CtxEntry × List CoreId :=
  let old := (s.ctx c).entry
  let e := s.readEntry c
  let e1 := if e.saveSize < saveMin then { e with saveBase := old.saveBase, saveSize := old.saveSize } else e
  let new := (List.range (e1.width * e1.height)).map (s.coreEntry e1.coretab)
  let moved := ((s.ctx c).cores.zipIdx).filterMap fun (x : Option Nat × Nat) =>
    if new[x.2]? = some x.1 then none else x.1.bind coreOf
  (e1, moved.filter fun p => (s.core p).serves ≠ some c)

/-- A write to CTXREFRESHc waits while a copy keeps a way that must leave (R319). -/
def State.refreshHeld (s : State) (c : CtxId) : Option State :=
  let r := ((s.refreshed c).2.flatMap fun p => (List.range 16).map fun w => (p, w)).foldl
    (fun (a : Bool × State) (x : CoreId × Nat) =>
      let y := if (a.2.core x.1).tagged x.2 c then a.2.wayFree x.1 x.2 else (true, a.2)
      (a.1 && y.1, y.2)) (true, s)
  if r.1 then none else some r.2

/-- A write to CTXREFRESHc (R90, R177, R266): after the deliveries already routed have arrived, the entry and the
tables are read again, moved logical cores leave their old cores, what is in flight since takes the new routes, and held
deliveries go on. -/
def State.refresh (s : State) (c : CtxId) : State :=
  let s1 := s.flushNet c
  let (e1, moved) := s1.refreshed c
  let s2 := moved.foldl (fun (a : State) p => a.evictWays p c) s1
  let s3 := (s2.setCtx c { s2.ctx c with entry := e1 }).readTables c
  let s4 := s3.onServing c fun (q : Core) => { q with rules := [] }
  (s4.reroute c).releaseHeld c

end Sys2Proof.Machine
end

