-- ==== Sys2Proof/Machine/Preempt.lean ====
section
/-! DEFINITION. Pre-emption: notifications (R393), forced saves (R391, R392, R394) and resumptions (R396). -/

namespace Sys2Proof.Machine

/-! ### Records -/

/-- The CSRs of a strand record, in its order (R392). -/
def recordCsrs : List Nat :=
  [0x000, 0x001, 0x002, 0x003, 0x004, 0x005, 0x008, 0x009, 0x00a, 0x00b, 0x010, 0x011, 0x012, 0x104, 0x105,
   0x108, 0x109, 0x10a, 0x10b, 0x10c, 0x10d]

/-- The number of a lane class in STATE (R392). -/
def LaneClass.code : LaneClass → Nat
  | .noLanes => 0
  | .short => 1
  | .long => 2

/-- The eight words of a queue entry (R392). -/
def entryWords (e : QEntry) : List Word :=
  [word e.word.toNat, e.addr, e.x1, e.x2,
   word (e.vtype.toNat + e.vlen.toNat * 2 ^ 32),
   word (e.fmt[0].toNat + e.fmt[1].toNat * 2 ^ 18 + e.fmt[2].toNat * 2 ^ 36),
   word (e.fmt[3].toNat + e.ovt.toNat * 2 ^ 18),
   e.seed]

/-- A queue entry with one of its eight words replaced (R392, R400). Word 0 holds the instruction. -/
def QEntry.withWord (e : QEntry) (k : Nat) (x : Word) : QEntry :=
  match k with
  | 0 => { e with word := x.extractLsb' 0 32 }
  | 1 => { e with addr := x }
  | 2 => { e with x1 := x }
  | 3 => { e with x2 := x }
  | 4 => { e with vtype := x.extractLsb' 0 16, vlen := x.extractLsb' 32 17 }
  | 5 => { e with
      fmt := ((e.fmt.set 0 (x.extractLsb' 0 18)).set 1 (x.extractLsb' 18 18)).set 2 (x.extractLsb' 36 18) }
  | 6 => { e with fmt := e.fmt.set 3 (x.extractLsb' 0 18), ovt := x.extractLsb' 18 16 }
  | 7 => { e with seed := x }
  | _ => e

/-- STATE of a strand record (R392). -/
def Strand.stateWord (st : Strand) : Word :=
  word (2 ^ 63 + (if st.halted then 2 ^ 62 else 0) + (if st.dbgHalted then 2 ^ 61 else 0) +
    (if st.firing.isSome then 2 ^ 60 else 0) + (if st.resumed then 2 ^ 59 else 0) + st.nstep.toNat * 2 ^ 56 +
    (if st.vfault.isSome then 2 ^ 55 else 0) + st.cls.code * 2 ^ 53 + st.replay.length * 2 ^ 47 +
    st.queue.length * 2 ^ 41 + st.lanesHeld % 2 ^ 17)

/-- The words of a strand record with their offsets (R392). -/
def Strand.record (st : Strand) (t : StrandId) : List (Nat × Word) :=
  let pair := match st.firing with | some p => pairWords p | none => (0, 0)
  let f : Word × Word × Word := match st.vfault with
    | some f => (f.cause.zeroExtend 64, f.tval, f.elem.zeroExtend 64)
    | none => (0, 0, 0)
  let entry (base : Nat) (x : QEntry × Nat) : List (Nat × Word) :=
    ((entryWords x.1).zipIdx).map fun w => (base + 64 * x.2 + 8 * w.2, w.1)
  [(0, st.stateWord)] ++
    (List.range 31).map (fun k => (8 * (k + 1), st.x[(k + 1) % 32]'(Nat.mod_lt _ (by decide)))) ++
    [(0x100, st.pc)] ++
    (recordCsrs.zipIdx).map (fun x => (0x108 + 8 * x.2, st.csr t x.1)) ++
    [(0x1b0, pair.1), (0x1b8, pair.2), (0x1c0, f.1), (0x1c8, f.2.1), (0x1d0, f.2.2)] ++
    (st.replay.zipIdx).flatMap (entry 0x800) ++ (st.queue.zipIdx).flatMap (entry 0x1000)

/-- Write words at home from a base, every other word of the n bytes as zero (R391). -/
def State.writeRecord (s : State) (base n : Nat) (l : List (Nat × Word)) : State :=
  l.foldl (fun (a : State) x => a.pokeWord (base + x.1) x.2) (s.pokeHome base (List.replicate n 0))

/-! ### Forced save -/

/-- Complete the entry at the head of a queue, as far as this device alone can (R394 step 2). -/
def State.finishHead (s : State) (p : CoreId) (t : StrandId) : Nat → State
  | 0 => s
  | fuel + 1 =>
    let st := s.strand p t
    match st.head with
    | none => s
    | some h =>
      if h.finished then s.retireHead p t
      else if (nthEligible 0 [] h.reqs).isSome then
        (s.homeAccess p t 0).finishHead p t fuel
      else match h.reqs with
        | r :: _ => if h.reqs.any (·.sent) then s else (s.groupArrive p t r.group).finishHead p t fuel
        | [] => s

/-- Whether the instruction at the head of a queue counts as not begun when it is stopped: a VWAIT, or a VSEND
whose deposit has not been accepted (R394). -/
def Strand.headWithdraws (st : Strand) : Bool :=
  match st.queue, st.head with
  | e :: _, some h => !h.finished &&
    (match e.instr with
     | some i => (match i with | .vwait _ _ _ _ _ | .vsend _ _ _ => true | _ => false)
     | none => false)
  | _, _ => false

/-- Withdraw a deposit that a VSEND has not had accepted (R358, R394). -/
def State.withdrawVsend (s : State) (p : CoreId) (t : StrandId) : State :=
  let mineD (d : Deposit) : Bool := decide (d.fromCore = p ∧ d.fromStrand = t) && d.vector
  let mineR (m : RedMsg) : Bool := decide (m.fromCore = some p ∧ m.fromStrand = t) && m.vector
  { s with
    net := s.net.filter fun (m : Msg) =>
      match m with
      | .deposit d => !mineD d
      | .red r | .redOut _ r => !mineR r
      | _ => true
    cores := s.cores.map fun (c : Core) => { c with
      channels := c.channels.filter fun d => !mineD d
      redHeld := c.redHeld.filter fun m => !mineR m }
    ctxs := s.ctxs.map fun (k : Ctx) => { k with
      heldMsgs := k.heldMsgs.filter fun (m : HeldMsg) =>
        match m with
        | .deposit d => !mineD d
        | .red r => !mineR r
        | _ => true } }

/-- Stop one strand for a save (R394 steps 1 and 2). -/
def State.stopForSave (s : State) (p : CoreId) (t : StrandId) : State :=
  let st := s.strand p t
  let s1 := if st.halted || st.dbgHalted then s else s.stopScalar p t
  let s2 := if (s1.strand p t).headWithdraws then s1
    else s1.finishHead p t (4 * ((st.head.map fun h => h.reqs.length).getD 0) + 1024)
  let s3 := if (s2.boundary p t).isSome && (s2.strand p t).vfault.isSome then s2.takeVfault p t else s2
  if (s3.strand p t).headWithdraws then
    let gone (w : Requester) : Bool := match w with | .elem q u _ => decide (q = p ∧ u = t) | _ => false
    let s4 := (s3.withdrawVsend p t).orphanExt gone
    s4.setStrand p t { s4.strand p t with head := none }
  else s3

/-- Whether a stopped strand is at rest, so that it can be saved. -/
def State.atRest (s : State) (p : CoreId) (t : StrandId) : Bool :=
  (s.strand p t).head.isNone && !s.outstanding p t

/-- The words of a core record (R391). -/
def State.coreRecord (s : State) (p : CoreId) : List (Nat × Word) :=
  let c := s.core p
  [(0x000, word (2 ^ 63 + c.bag.length * 2 ^ 32 + c.poolC.toNat * 2 ^ 16 + c.poolS.toNat * 2 ^ 8 + c.poolV.toNat)),
   (0x008, s.csr p 0 0x013), (0x010, s.csr p 0 0x100), (0x018, s.csr p 0 0x106)] ++
    (List.range 32).map fun n => (0x040 + 8 * n, c.lanepart n)

/-- Write the records of logical core l, which p serves (R391, R394). -/
def State.writeSave (s : State) (p : CoreId) (c : CtxId) (l : Nat) : State :=
  let base := (s.ctx c).saveAt l
  let core := s.core p
  let s1 := allStrands.foldl (fun (a : State) t =>
    a.writeRecord (base + 0x2000 * t.val) 0x2000 (((s.strand p t).record t))) s
  let s2 := s1.writeRecord (base + 0x10000) 0x1000 (s.coreRecord p)
  let s3 := (s2.pokeHome (base + 0x11000) (List.replicate 0x4000 0)).pokeHome (base + 0x11000) (pairBytes core.bag)
  allStrands.foldl (fun (a : State) t =>
    a.pokeHome (base + 0x18000 + 0x4000 * t.val) ((List.range 2048).flatMap fun e =>
      leBytes 8 (mapGet 0 (s.strand p t).acc e).toNat)) s3

/-- A strand whose core has been saved: it is halted, keeps its registers, and holds nothing else. -/
def Strand.gone (st : Strand) : Strand :=
  { st with
    halted := true
    dbgHalted := false
    dbgStep := false
    wait := none
    queue := []
    head := none
    replay := []
    vfault := none
    preempt := none
    asyncTraps := []
    readq := []
    relaxed := []
    relaxedFault := none
    poisoned := []
    firing := none
    resumed := false
    nstep := 0
    rulePair := none
    cls := .noLanes
    part := []
    vlen := 0
    counted := []
    progress := []
    progressAt := 0
    taken := false
    serving := none
    muldiv := false
    dbgAsked := false
    lanesDue := false
    owed := 0
    fetchBuf := none
    issuedWord := none }

/-- Save logical core l, served by p (R394). The strands are at rest. -/
def State.saveCore (s : State) (p : CoreId) (c : CtxId) (l : Nat) : State :=
  let s0 := allStrands.foldl (fun (a : State) t =>
    let b := (List.range 8).foldl (fun (b : State) _ => b.deliverRead p t) a
    let st := b.strand p t
    if st.halted || st.dbgHalted || decide (st.wait = some .slot) then b else b.leaveWait p t) s
  let s1 := (allStrands.foldl (fun (a : State) t => a.unwatch p t) s0).writeSave p c l
  let q := s1.core p
  let kept : Kept := ⟨q.strands.map fun (st : Strand) => { st with latch := false }, q.uses, q.server, p⟩
  let s2 := s1.setCore p { q.giveUp with strands := q.strands.map Strand.gone, bag := [], npool := 0 }
  let k := s2.ctx c
  s2.setCtx c { k with
    saved := (k.saved.filter fun (x : Nat × Kept) => x.1 ≠ l) ++ [(l, kept)]
    preempted := insertNat l k.preempted
    hungrySet := k.hungrySet.filter (· ≠ l)
    heldMsgs := k.heldMsgs ++ q.heldHere }

/-- Carry out a forced save once every named strand is at rest (R393, R394); until then it stays in progress. -/
def State.trySave (s : State) (c : CtxId) (v : Word) : State :=
  let ls := (s.ctx c).named v
  let ps := ls.filterMap fun l => (s.serverOf c l).map fun p => (p, l)
  let s1 := ps.foldl (fun (a : State) x => allStrands.foldl (fun (b : State) t => b.stopForSave x.1 t) a) s
  if ps.all fun x => allStrands.all fun t => s1.atRest x.1 t then
    let s2 := ps.foldl (fun (a : State) x => a.saveCore x.1 c x.2) s1
    s2.setCtx c { s2.ctx c with pBusy := false, pDone := true, pWait := none }
  else s1.setCtx c { s1.ctx c with pWait := some v }

/-- Make every strand of the named logical cores that is not halted take PREEMPT (R393). -/
def State.notify (s : State) (c : CtxId) (v : Word) : State :=
  let k := s.ctx c
  let mark (q : Core) : Core :=
    if q.serves = some c ∧ q.lcore.toNat ∈ k.named v then
      { q with strands := q.strands.map fun (st : Strand) =>
          if st.halted || st.dbgHalted then st else { st with preempt := some v } }
    else q
  ({ s with cores := s.cores.map mark }.setCtx c { k with pWait := none }).noteDone c

/-- A pre-emption goes on: it waits for a launch that is distributing to the named cores (R390). -/
def State.preemptGo (s : State) (c : CtxId) (v : Word) : State :=
  if (s.ctx c).launchesTo v then s.setCtx c { s.ctx c with pWait := some v }
  else if bit v 63 then s.notify c v
  else s.trySave c v

/-- Pre-emptions that wait are tried again. -/
def State.retryPreempts (s : State) : State :=
  allCtxs.foldl (fun (a : State) c =>
    match (a.ctx c).pWait with
    | some v => a.preemptGo c v
    | none => a) s

/-- The first check of R390 that a write fails, 0 for none. `resume` says that it is to CTXRUNc. -/
def Ctx.preemptError (k : Ctx) (v : Word) (resume : Bool) : Nat :=
  let all := bit v 62
  let save := !resume && !bit v 63
  if !k.entry.valid then 1
  else if !all && decide (k.size ≤ field v 9 0) then 2
  else if save && decide (k.entry.saveSize < saveMin) then 3
  else if (save && (k.named v).any fun l => decide (l ∈ k.preempted)) ||
      (!save && !resume && !all && decide (field v 9 0 ∈ k.preempted)) ||
      (resume && !all && decide (field v 9 0 ∉ k.preempted)) then 4
  else if k.aborted then 6
  else 0

/-- What a write to PREEMPTc or CTXRUNc does before its own action (R390, R421); after an abort it only sets ERR (R403). -/
def State.preemptCheck (s : State) (c : CtxId) (v : Word) (resume : Bool) : Bool × State :=
  let k := s.ctx c
  if k.rBusy then (false, s.setCtx c { k with pErr := 4 })
  else if k.aborted then (false, s.setCtx c { k with pErr := 6 })
  else if k.pBusy then (false, s.setCtx c { k with pErr := 5 })
  else
    let e := k.preemptError v resume
    (e = 0, s.setCtx c { k with pDone := false, pErr := BitVec.ofNat 8 e, pBusy := decide (e = 0) })

/-- A write to PREEMPTc (R390). -/
def State.preempt (s : State) (c : CtxId) (v : Word) : State :=
  match s.preemptCheck c v false with
  | (false, s1) => s1
  | (true, s1) => s1.preemptGo c v

/-! ### Resumption -/

/-- Words read from a record. -/
def State.recordWord (s : State) (base off : Nat) : Word := s.homeWord (base + off)

/-- A queue entry read from its eight words; what they do not hold is the kept entry's, or none. -/
def State.readQEntry (s : State) (a : Nat) (kept : Option QEntry) (part : List ArrayId) : QEntry :=
  let e0 : QEntry := kept.getD ⟨0, 0, 0, 0, 0, 0, Vector.replicate 4 0, 0, 0, 0, part, 0, [], false, false, [], 0⟩
  (List.range 8).foldl (fun (e : QEntry) k => e.withWord k (s.homeWord (a + 8 * k))) e0

/-- A strand with a register restored from a record or from a continuation (R196, R396). -/
def Strand.restoreCsr (st : Strand) (n : Nat) (v : Word) : Strand :=
  match n with
  | 0x000 => { st with vtype := v.extractLsb' 0 16 }
  | 0x001 => { st with vlen := v.extractLsb' 0 17 }
  | 0x003 => { st with vstat := v.extractLsb' 0 5 }
  | 0x010 => { st with chanmap := v.extractLsb' 0 32 &&& 0xf3f3f3f3 }
  | 0x104 => st
  | 0x10c => { st with latch := bit v 6, tact := bit v 4, ppriv := v.extractLsb' 2 2, priv := v.extractLsb' 0 2 }
  | _ => st.writeCsr n .write 0 v

/-- A strand restored from its record (R392, R396): its live entries re-commit before its first fetch, and a re-commit of held
entries that the save cut short goes on (R386). A latch event since the save is not lost (R319). -/
def State.readStrand (s : State) (base : Nat) (kept : Strand) : Strand :=
  let w := s.homeWord base
  let st0 : Strand := { kept with
    x := Vector.ofFn fun (k : Fin 32) => if k.val = 0 then 0 else s.homeWord (base + 8 * k.val)
    pc := s.homeWord (base + 0x100)
    halted := bit w 62
    dbgHalted := bit w 61
    wait := if kept.wait = some .slot then some .slot else none
    queue := []
    head := none
    readq := []
    relaxed := []
    asyncTraps := []
    muldiv := false
    issuedWord := none
    fetchBuf := none
    firing := if bit w 60 then some (pairOf (s.homeWord (base + 0x1b0)) (s.homeWord (base + 0x1b8))) else none
    resumed := bit w 59
    nstep := w.extractLsb' 56 3
    vfault := if bit w 55 then
        let el := (s.homeWord (base + 0x1d0)).extractLsb' 0 25
        some ⟨(s.homeWord (base + 0x1c0)).extractLsb' 0 16, s.homeWord (base + 0x1c8), el,
          (kept.vfault.map (·.vstart)).getD el⟩
      else none
    cls := match field w 54 53 with | 1 => .short | 2 => .long | _ => .noLanes }
  let st1 := (recordCsrs.zipIdx).foldl (fun (a : Strand) x => a.restoreCsr x.1 (s.homeWord (base + 0x108 + 8 * x.2))) st0
  let entries (off n : Nat) (old : List QEntry) : List QEntry :=
    (List.range n).map fun k => s.readQEntry (base + off + 64 * k) old[k]? kept.part
  let held := entries 0x800 (field w 52 47) kept.replay
  let live := entries 0x1000 (field w 46 41) kept.queue
  let first := if held = [] then st1.vstart else 0
  let live1 := (live.zipIdx).map fun (x : QEntry × Nat) => { x.1 with vstart := if x.2 = 0 then first else 0 }
  let st2 := live1.foldl (fun (a : Strand) e => a.enqueue e) st1
  let st3 : Strand := { st2 with
    replay := held
    vstart := if held ≠ [] ∨ (live.all fun (e : QEntry) => decide (e.word.extractLsb' 26 6 = 0x20)) then st1.vstart else 0
    latch := st2.latch || kept.latch }
  if st3.wait = some .slot then st3.recommit 33 else st3

/-- The allocator's records that LANEPART values give (R107, R391), with those that they do not show. -/
def State.readAllocator (s : State) (base : Nat) (kept : List (ArrayId × ArrayUse)) :
    List (Nat × StrandId) × List (ArrayId × ArrayUse) :=
  let f (k : Nat) : Nat :=
    let w := s.homeWord (base + 0x040 + 8 * (k / 2))
    if k % 2 = 0 then field w 31 0 else field w 63 32
  let whole := (List.range 64).filterMap fun k =>
    if f k / 2 ^ 30 = 1 then some (k, strandOf (f k / 2 ^ 16)) else none
  let short := (List.range 64).flatMap fun k => (List.range 4).filterMap fun j =>
    let nib := f k / 16 ^ j % 16
    if f k / 2 ^ 30 ≠ 3 ∧ 8 ≤ nib then some (4 * k + j, ArrayUse.short (strandOf nib)) else none
  (whole, short ++ kept.filter fun (u : ArrayId × ArrayUse) => match u.2 with | .short _ => false | _ => true)

/-- Whether nothing blocks the resumption of logical core l (R396). -/
def State.canResume (s : State) (c : CtxId) (l : Nat) : Option CoreId :=
  let k := s.ctx c
  match (k.cores[l]?).join.bind coreOf with
  | none => none
  | some p =>
    let e := k.entry
    let base := k.saveAt l + 0x10000
    let w := s.homeWord base
    let (whole, uses) := s.readAllocator base []
    let top := ((whole.map fun (x : Nat × StrandId) => x.1 / 4) ++ uses.map fun (x : ArrayId × ArrayUse) => x.1 / 16).foldl max 0
    let any := decide (whole ≠ [] ∨ uses ≠ [])
    if (s.core p).serves.isSome || decide (e.poolS.toNat < e.poolV.toNat + 2) || (any && decide (e.poolV.toNat ≤ top)) ||
        decide (e.poolS.toNat - e.poolV.toNat < field w 12 8 - field w 4 0) then none
    else some p

/-- What slot w of a logical core holds (R266, R396): the way itself where it still carries the tag, else its image. -/
def State.slotData (s : State) (p : CoreId) (c : CtxId) (l w : Nat) (compute : Bool) : WayData × Option Nat :=
  if (s.core p).wayTag[fin16 w] = some (c, compute) then ({ (s.core p).wayData w with words := s.wayWords p w }, none)
  else if (l, w) ∈ (s.ctx c).outWays then s.readImage ((s.ctx c).imageAt l w) compute
  else (WayData.zero, none)

/-- The first word of a save area that a resumption reads and cannot (R401), images apart: records, saddlebag, accumulators. -/
def State.badSave (s : State) (base : Nat) : Option Nat :=
  (s.badWords.find? fun a => decide (base ≤ 8 * a ∧ 8 * a < base + 0x38000)).map (8 * ·)

/-- Physical state of context c that a resumption brings from core q to core p: the stream buffers of its ways (R266, R321), with
their keys in the scratchpad, and completion words there (R396). -/
def State.moveUnits (s : State) (c : CtxId) (q p : CoreId) : State :=
  let moved (pa : Nat) : Nat := match region pa with
    | .spad x off => if x = q then spadBase + 2 ^ 24 * p.val + off else pa
    | _ => pa
  let waits (w : Wait) : Wait := match w with | .sbuf k x => .sbuf (moved k) x | _ => w
  { s with
    sbufs := s.sbufs.map fun (b : StreamBuf) =>
      if b.ctx ≠ c then b
      else
        let b1 := { b with key := moved b.key }
        if b.core = q then { b1 with core := p, place := moved b.place, away := false } else b1
    descs := s.descs.map fun (d : CopyDesc) =>
      if d.ctx = c then { d with comp := d.comp.map moved, sbKey := d.sbKey.map moved } else d
    cores := s.cores.map fun (k : Core) =>
      if k.serves = some c then { k with strands := k.strands.map fun (st : Strand) => { st with wait := st.wait.map waits } }
      else k }

/-- Data that a resumption needs cannot be read: nothing is restored, and the context is aborted (R401 kind 3). -/
def State.resumeFails (s : State) (c : CtxId) (p : CoreId) (a : Nat) : State :=
  let s1 := (s.machineCheck 3 (some c) p none 0 (word a) 0).abortCtx c s.mcCount
  s1.setCtx c { s1.ctx c with resuming := [], pBusy := false }

/-- Restore logical core l of context c on core p (R396), or find data that cannot be read. -/
def State.restoreCore (s : State) (c : CtxId) (l : Nat) (p : CoreId) : State :=
  let k := s.ctx c
  let base := k.saveAt l
  let w := s.homeWord (base + 0x10000)
  let v0 := field w 4 0
  let s0 := field w 12 8
  let v1 := k.entry.poolV.toNat
  let kept := ((k.saved.find? fun (x : Nat × Kept) => x.1 = l).map (·.2)).getD
    ⟨Vector.replicate 8 Strand.reset, [], none, p⟩
  let slots := (List.range 16).filterMap fun n =>
    if n < v0 then (if n < v1 then some (n, n, true) else none)
    else if n < s0 then some (n, n - v0 + v1, false) else none
  let data := slots.map fun (x : Nat × Nat × Bool) => (x.2.1, s.slotData p c l x.1 x.2.2)
  match (match s.badSave base with | some a => some a | none => data.findSome? fun (x : Nat × WayData × Option Nat) => x.2.2) with
  | some a => s.resumeFails c p a
  | none =>
    let s1 := s.takeUp p c l
    let c1 := data.foldl (fun (a : Core) (x : Nat × WayData × Option Nat) => a.putWay x.1 x.2.1) (s1.core p)
    let (whole, uses) := s1.readAllocator (base + 0x10000) kept.uses
    let strands := Vector.ofFn fun (t : Fin 8) =>
      { s1.readStrand (base + 0x2000 * t.val) kept.strands[t] with
        acc := (List.range 2048).foldl (fun (m : List (Nat × Word)) e =>
          mapSet 0 m e (s1.homeWord (base + 0x18000 + 0x4000 * t.val + 8 * e))) [] }
    let s2 := s1.setCore p { c1 with
      strands := strands
      whole := whole
      uses := uses
      server := kept.server
      bag := s1.readPairs (base + 0x11000) (field w 42 32)
      npool := (s1.homeWord (base + 0x10008)).extractLsb' 5 43
      ovt := ovtStore ((s1.homeWord (base + 0x10010)).extractLsb' 0 16)
      cpyshare := (s1.homeWord (base + 0x10018)).extractLsb' 0 8 }
    let k2 := s2.ctx c
    let left := k2.resuming.filter (· ≠ l)
    let s3 := s2.setCtx c { k2 with
      preempted := k2.preempted.filter (· ≠ l)
      resuming := left
      outWays := k2.outWays.filter fun (x : Nat × Nat) => x.1 ≠ l
      saved := k2.saved.filter fun (x : Nat × Kept) => x.1 ≠ l
      pBusy := decide (left ≠ [])
      pDone := decide (left = []) }
    let s4 := data.foldl (fun (a : State) (x : Nat × WayData × Option Nat) => a.putWords p x.1 x.2.1.words) s3
    (s4.moveUnits c kept.core p).releaseHeld c

/-- Resume logical core l of context c on its core (R396), if nothing blocks it and no copy keeps a way that must leave (R319). -/
def State.resumeCore (s : State) (c : CtxId) (l : Nat) : State :=
  match s.canResume c l with
  | none => s
  | some p =>
    let e := (s.ctx c).entry
    let r := s.waysReady p (some c) e.poolV e.poolS e.poolC
    if r.1 then r.2.restoreCore c l p else r.2

/-- A write to CTXRUNc (R390, R396). -/
def State.ctxRun (s : State) (c : CtxId) (v : Word) : State :=
  match s.preemptCheck c v true with
  | (false, s1) => s1
  | (true, s1) =>
    let k := s1.ctx c
    let ls := if bit v 62 then k.preempted else [field v 9 0]
    let s2 := s1.setCtx c { k with resuming := ls, pBusy := decide (ls ≠ []), pDone := decide (ls = []) }
    ls.foldl (fun (a : State) l => a.resumeCore c l) s2

/-- What waits on a context's tables or on a core is tried again: resumptions (R396) and pre-emptions. -/
def State.recheck (s : State) (c : CtxId) : State :=
  let s1 := ((s.ctx c).resuming).foldl (fun (a : State) l => a.resumeCore c l) s
  match (s1.ctx c).pWait with
  | some v => s1.preemptGo c v
  | none => s1

/-- A resumption that waited is tried again (R396). -/
def State.ctxRunResume (s : State) (c : CtxId) (l : Nat) : State :=
  if l ∈ (s.ctx c).resuming then s.resumeCore c l else s

end Sys2Proof.Machine
end

