-- ==== Sys2Proof/Machine/Retire.lean ====
section
/-! DEFINITION. The removal of seals (R277) and the retirement of a context (R420, R421). -/

namespace Sys2Proof.Machine

/-- Whether a seal entry is one of context c that a range meets. -/
def SealEntry.meets (e : SealEntry) (c : CtxId) (r : Nat × Nat) : Bool :=
  decide (e.owner = c ∧ e.base < r.2 ∧ r.1 < e.bound)

/-- What is left of an entry when a range is unsealed for context c (R277). -/
def SealEntry.cut (e : SealEntry) (c : CtxId) (r : Nat × Nat) : List SealEntry :=
  if e.meets c r then
    (if e.base < r.1 then [⟨e.base, r.1, c⟩] else []) ++ (if r.2 < e.bound then [⟨r.2, e.bound, c⟩] else [])
  else [e]

/-- Remove from the entries of a context the part that lies in some runs of pages, and every untracked copy of all these
pages in every core, its dirty bytes written back (R277). Runs that hold no entry of the context change nothing. -/
def State.unsealRuns (s : State) (c : CtxId) (runs : List (Nat × Nat)) : State :=
  if s.seals.any fun (e : SealEntry) => runs.any fun r => e.meets c r then
    let inside (x : Copy) : Bool := decide (x.kind = CopyKind.untracked) &&
      runs.any fun (r : Nat × Nat) => decide (r.1 ≤ x.sector * 32 ∧ x.sector * 32 < r.2)
    let s1 : State := { s with seals := runs.foldl (fun (l : List SealEntry) (r : Nat × Nat) =>
      l.flatMap fun (e : SealEntry) => e.cut c r) s.seals }
    let s2 := allCores.foldl (fun (a : State) p =>
      ((a.core p).copies.filter fun (x : Copy) => inside x && decide (x.dirty ≠ [])).foldl
        (fun (b : State) x => b.writeBack p x) a) s1
    s2.mapCopies fun _ cs => cs.filter fun x => !inside x
  else s

/-- Remove every entry of a context (R421). -/
def State.unsealAll (s : State) (c : CtxId) : State :=
  (s.seals.filter fun (e : SealEntry) => e.owner = c).foldl (fun (a : State) (e : SealEntry) =>
    a.unsealRuns c [(e.base, e.bound)]) s

/-- Clear every way of core p that is tagged with a context, without copy-out, and its tag (R421). -/
def State.clearTagged (s : State) (p : CoreId) (c : CtxId) : State :=
  let k := s.core p
  let ways := (List.range 16).filter fun w => k.tagged w c
  if ways = [] then s
  else
    let k1 := ways.foldl (fun (x : Core) w =>
      let y := x.clearWay w
      { y with wayTag := y.wayTag.set (fin16 w) none }) k
    (ways.foldl (fun (a : State) w => a.unmarkWay p w) s).setCore p k1

/-- A core stops serving a retiring context (R421 step 2). -/
def State.leaveRetired (s : State) (p : CoreId) (c : CtxId) : State :=
  let s1 := allStrands.foldl (fun (a : State) t => a.drainRelaxed p t) s
  let s2 := s1.returnNodes p c
  s2.setCore p { s2.core p with bag := [], rules := [] }

/-- The rest of a retirement, once every descriptor of the context has completed (R421 steps 4 to 6). -/
def State.retireFinish (s : State) (c : CtxId) : State :=
  if !(s.ctx c).rBusy || s.descs.any fun (d : CopyDesc) => d.ctx = c then s
  else
    let s1 := allCores.foldl (fun (a : State) p => a.clearTagged p c) (s.unsealAll c)
    s1.setCtx c { s1.ctx c with
      slots := Vector.replicate 16 []
      heldMsgs := []
      saved := []
      outWays := []
      preempted := []
      hungrySet := []
      launched := false
      count := 0
      aborted := false
      recNo := 0
      rBusy := false
      rDone := true }

/-- Steps 1 to 3 of a retirement (R421). -/
def State.retireStart (s : State) (c : CtxId) : State :=
  let ps := allCores.filter fun p => decide ((s.core p).serves = some c)
  let s1 := ps.foldl (fun (a : State) p => a.leaveRetired p c) s
  let s2 := s1.abortCtx c 0
  let s3 := { s2 with
    net := s2.net.filter fun (m : Msg) => m.ctx? ≠ some c
    cores := Vector.ofFn fun (p : CoreId) =>
      let q := s2.core p
      { q with
        wants := q.wants.filter (· ≠ c)
        strands := if p ∈ ps then q.strands.map (fun (st : Strand) => { st.gone with dbgHalted := st.dbgHalted }) else q.strands } }
  let k := s.ctx c
  let s4 := s3.setCtx c { s3.ctx c with
    aborted := k.aborted
    recNo := k.recNo
    heldMsgs := []
    spillTop := []
    launching := none
    lBusy := false
    pWait := none
    resuming := []
    pBusy := false
    rBusy := true }
  (s4.sbufs.filter fun (b : StreamBuf) => b.ctx = c).foldl (fun (a : State) b => a.endSbuf b) s4

/-- A write to CTXRETIREc (R420, R421). -/
def State.retire (s : State) (c : CtxId) (v : Word) : State :=
  let k := s.ctx c
  if k.rBusy then s.setCtx c { k with rErr := 3 }
  else
    let s1 := s.setCtx c { k with rDone := false, rErr := 0 }
    if !k.entry.valid then s1.setCtx c { s1.ctx c with rErr := 1 }
    else if k.count ≠ 0 ∧ !k.aborted ∧ !bit v 0 then s1.setCtx c { s1.ctx c with rErr := 2 }
    else (s1.retireStart c).retireFinish c

end Sys2Proof.Machine
end

