-- ==== Sys2Proof/Machine/Csr.lean ====
section
/-! DEFINITION. Accesses to the control and status registers (R149 to R152, R161, R264, R356), and debug registers
(R397 to R400). -/

namespace Sys2Proof.Machine

/-- The enabled maps of a CHANMAP value: channel, first row and rows (R356). -/
def chanMaps (m : BitVec 32) : List (Nat × Nat × Nat) :=
  (List.range 4).filterMap fun k =>
    if m.getLsbD (8 * k + 7) then
      some ((m.extractLsb' (8 * k) 2).toNat, 32 * (28 + k), sewBits (m.extractLsb' (8 * k + 4) 3).toNat) else none

/-- Whether a CHANMAP value is legal (R356). -/
def chanLegal (m : BitVec 32) : Bool :=
  ((List.range 4).all fun k => decide ((m.extractLsb' (8 * k + 4) 3).toNat < 6)) &&
    ((chanMaps m).all fun x => decide (x.2.1 + x.2.2 ≤ 1024)) &&
    (chanMaps m).Pairwise fun x y => x.1 ≠ y.1 ∧ (x.2.1 + x.2.2 ≤ y.2.1 ∨ y.2.1 + y.2.2 ≤ x.2.1)

/-- The arrival row of a channel, cleared in every lane of a strand's partition (R356). -/
def Core.clearChannel (c : Core) (part : List ArrayId) (ch : Nat) : Core :=
  (List.range (256 * part.length)).foldl (fun (x : Core) i =>
    let l := x.lane part i
    if l.arrived.getLsbD ch then x.setLane part i { l with arrived := l.arrived &&& ~~~BitVec.ofNat 4 (2 ^ ch) }
    else x) c

/-- Write CHANMAP (R356): maps that the write enables or alters have their arrival rows cleared, and held deposits are
tried again. -/
def State.writeChanmap (s : State) (p : CoreId) (t : StrandId) (m : BitVec 32) : State :=
  let st := s.strand p t
  let new := (List.range 4).filter fun k =>
    m.getLsbD (8 * k + 7) && decide (m.extractLsb' (8 * k) 8 ≠ st.chanmap.extractLsb' (8 * k) 8)
  let s1 := s.setStrand p t { st with chanmap := m }
  let s2 := s1.setCore p (new.foldl (fun (x : Core) k => x.clearChannel st.part (m.extractLsb' (8 * k) 2).toNat) (s1.core p))
  s2.landDeposits p

/-- Whether a strand of a core holds lanes in way w (R264). -/
def Core.wayHeld (c : Core) (w : Nat) : Bool :=
  (c.whole.any fun (x : Nat × StrandId) => x.1 / 4 == w) || (c.uses.any fun (x : ArrayId × ArrayUse) => x.1 / 16 == w) ||
    c.strands.toList.any fun (st : Strand) => st.part.any fun (a : ArrayId) => a / 16 == w

/-- The boundaries after the write of one of them (R264): none where the rule raises ILLEGAL. -/
def Core.newPools (c : Core) (r : PoolCsr) (x : BitVec 5) : Option (BitVec 5 × BitVec 5 × BitVec 5) :=
  let v := if r = .v then x else c.poolV
  let sp := if r = .s then x else c.poolS
  let k := if r = .c then x else c.poolC
  let held := (List.range 16).any fun w =>
    decide (c.modeOf w ≠ wayMode v.toNat sp.toNat k.toNat w) && c.wayHeld w
  if 16 < x.toNat ∨ sp.toNat < v.toNat ∨ k.toNat < sp.toNat ∨ held then none else some (v, sp, k)

/-- Write a pool boundary (R264, R265): none where the rule raises ILLEGAL. -/
def State.writePool (s : State) (p : CoreId) (r : PoolCsr) (x : BitVec 5) : Option State :=
  ((s.core p).newPools r x).map fun n => s.setPools p (s.core p).serves n.1 n.2.1 n.2.2

/-- The boundary register that a CSR number names (R264). -/
def poolCsrOf : Nat → Option PoolCsr
  | 0x101 => some .v
  | 0x102 => some .s
  | 0x103 => some .c
  | _ => none

/-- A write of a boundary whose ways cannot change yet (R264, R319): a copy keeps one, or dirty data of a cache way is on its
way beyond the package. The strand is not ready until they can. -/
def State.poolHeld (s : State) (p : CoreId) (n : Nat) (x : BitVec 5) : Option State :=
  match (poolCsrOf n).bind fun r => (s.core p).newPools r x with
  | none => none
  | some y =>
    let r := s.waysReady p (s.core p).serves y.1 y.2.1 y.2.2
    if r.1 then none else some r.2

/-- Discard the held entries of a strand (R389). What an NDONE left to the last of them still happens. -/
def State.dropReplay (s : State) (p : CoreId) (t : StrandId) : State :=
  let old := (s.strand p t).replay.filter fun (e : QEntry) => decide (e.ending ≠ [])
  let st := (s.strand p t).discardReplay
  (old.foldl (fun (a : State) e => a.entryReleases p t e)
    (s.setStrand p t { st with wait := if st.wait = some .slot then none else st.wait })).lanesPaid p t

/-- Write a register of strand t of core p with runtime-level rights (R149, R151): none where the write raises
ILLEGAL. -/
def State.writeCsr (s : State) (p : CoreId) (t : StrandId) (n : Nat) (op : CsrOp) (v : Word) : Option State :=
  let old := s.csr p t n
  let nv := csrApply op old v
  match n with
  | 0x010 =>
    let m : BitVec 32 := nv.extractLsb' 0 32 &&& 0xf3f3f3f3
    if chanLegal m then some (s.writeChanmap p t m) else none
  | 0x101 => s.writePool p .v (nv.extractLsb' 0 5)
  | 0x102 => s.writePool p .s (nv.extractLsb' 0 5)
  | 0x103 => s.writePool p .c (nv.extractLsb' 0 5)
  | 0x104 => some (if bit (csrClears op v) 63 then s.dropReplay p t else s)
  | 0x013 => some (s.setNpool p (nv.extractLsb' 5 43))
  | 0x100 | 0x106 => some (s.setCore p ((s.core p).writeCsr n op old v))
  | _ => some (s.setStrand p t ((s.strand p t).writeCsr n op old v))

/-! ### CSRR, CSRW, CSRS, CSRC and their instruction forms -/

/-- Wait for the queue where R150 says so. -/
def State.csrOrdered (s : State) (n : Nat) (k : State → State) : State := if csrDrains n then s.drained k else k s

/-- CSRR (R149 to R151). -/
def execCsrr (rd : BitVec 5) (csr : BitVec 12) (s : State) : Host.Outcome State Fault Refusal :=
  let go (a : State) : State := a.csrOrdered csr.toNat fun b => b.finish rd (b.csr b.cur b.str csr.toNat)
  .next (if csrTaskReads csr.toNat then go s else s.privileged (.csrr rd csr) go)

/-- A CSR write that the level permits. -/
def State.csrWrite (s : State) (n : Nat) (op : CsrOp) (x : Word) : State :=
  s.csrOrdered n fun a =>
    match a.poolHeld a.cur n ((csrApply op (a.csr a.cur a.str n) x).extractLsb' 0 5) with
    | some b => b
    | none =>
      match a.writeCsr a.cur a.str n op x with
      | some b => b.advance
      | none => a.trap .illegal x

/-- CSRW (R149). -/
def execCsrw (rs1 : BitVec 5) (csr : BitVec 12) (s : State) : Host.Outcome State Fault Refusal :=
  let go (a : State) : State := a.csrWrite csr.toNat .write (s.reg rs1)
  .next (if csrTaskWrites csr.toNat then go s else s.privileged (.csrw rs1 csr) go)

/-- CSRS (R149). -/
def execCsrs (rs1 : BitVec 5) (csr : BitVec 12) (s : State) : Host.Outcome State Fault Refusal :=
  let go (a : State) : State := a.csrWrite csr.toNat .set (s.reg rs1)
  .next (if csrTaskWrites csr.toNat then go s else s.privileged (.csrs rs1 csr) go)

/-- CSRC (R149). -/
def execCsrc (rs1 : BitVec 5) (csr : BitVec 12) (s : State) : Host.Outcome State Fault Refusal :=
  let go (a : State) : State := a.csrWrite csr.toNat .clear (s.reg rs1)
  .next (if csrTaskWrites csr.toNat then go s else s.privileged (.csrc rs1 csr) go)

/-- FMTSET (R161): as CSRW of FMTn. -/
def execFmtset (n : BitVec 2) (rs1 : BitVec 5) (s : State) : Host.Outcome State Fault Refusal :=
  .next (s.csrWrite (0x008 + n.toNat) .write (s.reg rs1))

/-- OVTSET (R161): as CSRW of OVT at runtime level. -/
def execOvtset (rs1 : BitVec 5) (s : State) : Host.Outcome State Fault Refusal :=
  .next (s.privileged (.ovtset rs1) fun a => a.csrWrite 0x100 .write (s.reg rs1))

/-- RNDSET (R161): as CSRW of RNDSEED. -/
def execRndset (rs1 : BitVec 5) (s : State) : Host.Outcome State Fault Refusal :=
  .next (s.csrWrite 0x005 .write (s.reg rs1))

/-! ### Debug registers -/

/-- DBGSTAT (R397). -/
def Core.dbgstat (c : Core) : Word :=
  allStrands.foldl (fun (w : Word) t =>
    let st := c.strands[t]
    w ||| flagAt st.dbgHalted (8 + t.val) ||| flagAt st.stopped t.val) 0

/-- DREGSEL (R397). -/
def Debug.regsel (d : Debug) : Word :=
  word (d.regStrand.toNat * 2 ^ 16 + d.regSpace.toNat * 2 ^ 12 + d.regNum.toNat)

/-- QSEL (R397). -/
def Debug.qsel (d : Debug) : Word :=
  word (d.qStrand.toNat * 2 ^ 16 + (if d.qBuf then 2 ^ 12 else 0) + d.qEntry.toNat)

/-- DREGDATA as it reads (R399). -/
def State.dregRead (s : State) (p : CoreId) : Word :=
  let d := (s.core p).dbg
  let t : StrandId := d.regStrand.toFin
  let st := s.strand p t
  if !st.stopped then 0
  else match d.regSpace with
    | 0 => if h : d.regNum.toNat < 32 then st.x[d.regNum.toNat] else 0
    | 1 => s.csr p t d.regNum.toNat
    | 2 => st.pc
    | _ => 0

/-- A debugger's write of an x register (R399): a pending mark goes, and the value that comes later is discarded. -/
def State.dregWriteX (s : State) (p : CoreId) (t : StrandId) (r : BitVec 5) (v : Word) : State :=
  let st := s.strand p t
  let s1 := s.setStrand p t { st.withX r v with
    readq := st.readq.map fun (x : ReadSlot) => if x.rd = r then { x with dropped := true } else x }
  { s1 with ext := s1.ext.map fun (e : ExtReq) =>
      if e.who = .scalar p t ∧ (e.rd.map (·.1)) = some r ∧ e.relaxed then { e with rd := none } else e }

/-- A write to DREGDATA (R399). -/
def State.dregWrite (s : State) (p : CoreId) (v : Word) : State :=
  let d := (s.core p).dbg
  let t : StrandId := d.regStrand.toFin
  let st := s.strand p t
  if !st.stopped then s
  else match d.regSpace with
    | 0 => if d.regNum.toNat < 32 then s.dregWriteX p t (BitVec.ofNat 5 d.regNum.toNat) v else s
    | 1 =>
      match d.regNum.toNat with
      | 0x000 => s.setStrand p t { st with vtype := v.extractLsb' 0 16 }
      | 0x10c => s.setStrand p t { st with tact := bit v 4, ppriv := v.extractLsb' 2 2, priv := v.extractLsb' 0 2 }
      | n => (s.writeCsr p t n .write v).getD s
    | 2 => s.setStrand p t { st with pc := v &&& ~~~3, cameFrom := v &&& ~~~3 }
    | _ => s

/-- The list of entries that QSEL selects from. -/
def State.qselList (s : State) (p : CoreId) : List QEntry :=
  let d := (s.core p).dbg
  let st := s.strand p d.qStrand.toFin
  if d.qBuf then st.replay else st.queue

/-- QCOUNT (R397). -/
def State.qcount (s : State) (p : CoreId) : Word :=
  let st := s.strand p (s.core p).dbg.qStrand.toFin
  word (st.replay.length * 2 ^ 8 + st.queue.length)

/-- QDATAk as it reads (R400). -/
def State.qdataRead (s : State) (p : CoreId) (k : Nat) : Word :=
  match (s.qselList p)[(s.core p).dbg.qEntry.toNat]? with
  | some e => ((entryWords e)[k]?).getD 0
  | none => 0

/-- A write to QDATAk (R400). An entry that has begun completes as it is. -/
def State.qdataWrite (s : State) (p : CoreId) (k : Nat) (v : Word) : State :=
  let d := (s.core p).dbg
  let t : StrandId := d.qStrand.toFin
  let st := s.strand p t
  let n := d.qEntry.toNat
  let may := k ≠ 0 && (st.stopped || (d.qBuf && st.tact && decide (st.replay ≠ []))) &&
    !(!d.qBuf && n == 0 && st.head.isSome)
  match (s.qselList p)[n]? with
  | none => s
  | some e =>
    if !may then s
    else if d.qBuf then s.setStrand p t { st with replay := st.replay.set n (e.withWord k v) }
    else s.setStrand p t { st with queue := st.queue.set n (e.withWord k v) }

/-- A write to DBGREQ (R397): HALT together with RUN or STEP is ignored for its strand. -/
def State.dbgReq (s : State) (p : CoreId) (v : Word) : State :=
  allStrands.foldl (fun (a : State) t =>
    let halt := bit v t.val
    let run := bit v (8 + t.val)
    let once := bit v (16 + t.val)
    if halt && (run || once) then a
    else if halt then a.dbgHalt p t
    else if run || once then a.dbgResume p t once
    else a) s

/-- Read a debug register of core p (R397). -/
def State.debugRead (s : State) (p : CoreId) (off : Nat) : Word :=
  let d := (s.core p).dbg
  match off with
  | 0x00 => d.arm.zeroExtend 64
  | 0x10 => (s.core p).dbgstat
  | 0x18 => d.regsel
  | 0x20 => s.dregRead p
  | 0x28 => d.qsel
  | 0x30 => s.qcount p
  | _ => if 0x40 ≤ off ∧ off < 0x80 then s.qdataRead p ((off - 0x40) / 8) else 0

/-- Write a debug register of core p (R397). -/
def State.debugWrite (s : State) (p : CoreId) (off : Nat) (v : Word) : State :=
  let c := s.core p
  let d := c.dbg
  match off with
  | 0x00 => s.setCore p { c with dbg := { d with arm := v.extractLsb' 0 8 } }
  | 0x08 => s.dbgReq p v
  | 0x18 => s.setCore p { c with dbg := { d with
      regStrand := v.extractLsb' 16 3, regSpace := v.extractLsb' 12 2, regNum := v.extractLsb' 0 12 } }
  | 0x20 => s.dregWrite p v
  | 0x28 => s.setCore p { c with dbg := { d with
      qStrand := v.extractLsb' 16 3, qBuf := bit v 12, qEntry := v.extractLsb' 0 5 } }
  | _ => if 0x40 ≤ off ∧ off < 0x80 then s.qdataWrite p ((off - 0x40) / 8) v else s

end Sys2Proof.Machine
end

