-- ==== Sys2Proof/Machine/Mmio.lean ====
section
/-! DEFINITION. MMIO control space (R278): its registers, what they read as and what a write does. -/

namespace Sys2Proof.Machine

/-- The registers of MMIO control space (R91, R172, R283, R325, R355, R360, R390, R397, R402, R418, R420, R422, R427,
R430, R432, R436, R442, R445, R446). -/
inductive MmioReg
  | ctxtbase | launch (c : CtxId) | lstat (c : CtxId) | ctxrefresh (c : CtxId) | yreq (p : CoreId)
  | tlbinv (c : CtxId) | snapcmd | snapstat | waitlim (p : CoreId) | xredgrp (g : Fin 16) | preempt (c : CtxId)
  | pstat (c : CtxId) | ctxrun (c : CtxId) | ctxstat (c : CtxId) | mccount | mcrecord (n k : Nat) | qstat (c : CtxId)
  | qcount (c : CtxId) | qnotify (c : CtxId) | ctxretire (c : CtxId) | rstat (c : CtxId) | replay (c : CtxId)
  | replaysz (c : CtxId) | replayin (c : CtxId) | replaystat (c : CtxId) | therm (p : CoreId) | devnum | peerstat
  | hosterr | evcount | bootstat | resetcmd | event (n k : Nat) | debug (p : CoreId) (off : Nat)
deriving DecidableEq, Repr

/-- The register at an offset of MMIO control space, none where the manual names none. -/
def mmioReg (off : Nat) : Option MmioReg :=
  let at0 (base n : Nat) : Bool := decide (base ≤ off ∧ off < base + 8 * n)
  let ctx (base : Nat) : CtxId := ctxOf ((off - base) / 8)
  let core (base : Nat) : Option CoreId := coreOf ((off - base) / 8)
  if off % 8 ≠ 0 then none
  else if off = 0 then some .ctxtbase
  else if at0 0x1000 64 then some (.launch (ctx 0x1000))
  else if at0 0x1200 64 then some (.lstat (ctx 0x1200))
  else if at0 0x1400 64 then some (.ctxrefresh (ctx 0x1400))
  else if at0 0x2000 384 then (core 0x2000).map .yreq
  else if at0 0x3000 64 then some (.tlbinv (ctx 0x3000))
  else if off = 0x4000 then some .snapcmd
  else if off = 0x4008 then some .snapstat
  else if at0 0x5000 384 then (core 0x5000).map .waitlim
  else if at0 0x6000 16 then some (.xredgrp (fin16 ((off - 0x6000) / 8)))
  else if at0 0x7000 64 then some (.preempt (ctx 0x7000))
  else if at0 0x7200 64 then some (.pstat (ctx 0x7200))
  else if at0 0x7400 64 then some (.ctxrun (ctx 0x7400))
  else if at0 0x7600 64 then some (.ctxstat (ctx 0x7600))
  else if off = 0x8000 then some .mccount
  else if at0 0x8100 1024 then some (.mcrecord ((off - 0x8100) / 32) ((off - 0x8100) / 8 % 4))
  else if at0 0xb000 64 then some (.qstat (ctx 0xb000))
  else if at0 0xb200 64 then some (.qcount (ctx 0xb200))
  else if at0 0xb400 64 then some (.qnotify (ctx 0xb400))
  else if at0 0xb600 64 then some (.ctxretire (ctx 0xb600))
  else if at0 0xb800 64 then some (.rstat (ctx 0xb800))
  else if at0 0xc000 64 then some (.replay (ctx 0xc000))
  else if at0 0xc200 64 then some (.replaysz (ctx 0xc200))
  else if at0 0xc400 64 then some (.replayin (ctx 0xc400))
  else if at0 0xc600 64 then some (.replaystat (ctx 0xc600))
  else if at0 0xd000 384 then (core 0xd000).map .therm
  else if off = 0xe000 then some .devnum
  else if off = 0xe008 then some .peerstat
  else if off = 0xf000 then some .hosterr
  else if off = 0x20000 then some .evcount
  else if off = 0x20008 then some .bootstat
  else if off = 0x20018 then some .resetcmd
  else if at0 0x20100 1024 then some (.event ((off - 0x20100) / 32) ((off - 0x20100) / 8 % 4))
  else if at0 0x100000 (512 * 384) then (coreOf ((off - 0x100000) / 4096)).map fun p => .debug p ((off - 0x100000) % 4096)
  else none

/-- Word k of slot n of a ring of 256 that has had `count` records, the last of them listed (R402, R446). -/
def ringWord (l : List LogRec) (count n k : Nat) : Word :=
  let first := count - l.length
  match (l.zipIdx).find? fun (x : LogRec × Nat) => (first + x.2) % 256 = n with
  | some (r, _) => (match k with | 0 => r.w0 | 1 => r.w1 | 2 => r.w2 | _ => r.w3)
  | none => 0

/-- What a register reads as: zero for a write-only one (R5). -/
def State.readReg (s : State) (r : MmioReg) : Word :=
  match r with
  | .ctxtbase => word (s.ctxtbase.toNat * 2 ^ 14)
  | .launch _ | .ctxrefresh _ | .tlbinv _ | .snapcmd | .preempt _ | .ctxrun _ | .ctxretire _ | .resetcmd => 0
  | .lstat c =>
    let k := s.ctx c
    flagAt k.lBusy 63 ||| flagAt k.lDone 62 ||| flagAt k.lLost 61 ||| word (k.lPushed.toNat * 2 ^ 16 + k.lErr.toNat)
  | .yreq p => (s.core p).yreq.zeroExtend 64
  | .snapstat => flagAt s.snap.isSome 63 ||| s.snapCode.zeroExtend 64
  | .waitlim p => flagAt (s.core p).waitTrap 63 ||| (s.core p).waitLimit.zeroExtend 64
  | .xredgrp g =>
    let k := s.chains[g]
    flagAt k.valid 63 ||| flagAt k.last 19 ||| flagAt k.first 18 ||| word (k.next.toNat * 2 ^ 9 + k.prev.toNat)
  | .pstat c =>
    let k := s.ctx c
    flagAt k.pBusy 63 ||| flagAt k.pDone 62 ||| flagAt (k.resuming ≠ []) 61 ||| k.pErr.zeroExtend 64
  | .ctxstat c => flagAt (s.ctx c).aborted 63 ||| (s.ctx c).recNo.zeroExtend 64
  | .mccount => word s.mcCount
  | .mcrecord n k => ringWord s.machineChecks s.mcCount n k
  | .qstat c =>
    let k := s.ctx c
    flagAt (k.count = 0) 63 ||| flagAt k.note 62 ||| k.epoch.zeroExtend 64
  | .qcount c => (s.ctx c).count
  | .qnotify c => flagAt (s.ctx c).notifyEn 63 ||| word ((s.ctx c).notifyAddr.toNat * 8)
  | .rstat c =>
    let k := s.ctx c
    flagAt k.rBusy 63 ||| flagAt k.rDone 62 ||| k.rErr.zeroExtend 64
  | .replay c => word ((s.ctx c).replay.mode.toNat * 2 ^ 62 + (s.ctx c).replay.logBase.toNat * 2 ^ 12)
  | .replaysz c => word ((s.ctx c).replay.inLen.toNat * 2 ^ 44 + (s.ctx c).replay.logSize.toNat * 2 ^ 12)
  | .replayin c => word ((s.ctx c).replay.inBase.toNat * 2 ^ 12)
  | .replaystat c =>
    let r := (s.ctx c).replay
    flagAt r.ovf 63 ||| flagAt r.diverged 62 ||| flagAt r.digest 61
  | .therm p =>
    let t := (s.core p).thermal
    flagAt t.capped 63 ||| flagAt t.failBase 62 ||| flagAt t.failCore 61 |||
      word (t.tempBase.toNat * 2 ^ 16 + t.tempCore.toNat)
  | .devnum => s.devnum.zeroExtend 64
  | .peerstat => flagAt s.dup 63 ||| s.portsUp.zeroExtend 64
  | .hosterr => flagAt s.hostErrV 63 ||| word (s.hostErrCount.toNat * 2 ^ 52 + s.hostErrAddr.toNat)
  | .evcount => word s.plat.evCount
  | .bootstat =>
    flagAt s.plat.ready 63 ||| flagAt s.plat.recovery 62 ||| flagAt s.plat.lastTrip 61 |||
      word (s.plat.stage.toNat * 2 ^ 8 + s.plat.zeroCores.toNat)
  | .event n k => ringWord s.plat.events s.plat.evCount n k
  | .debug p off => s.debugRead p off

/-- Read an offset of MMIO control space (R278). -/
def State.mmioRead (s : State) (off : Nat) : Word :=
  match mmioReg off with
  | some r => s.readReg r
  | none => 0

/-- A write to YREQp (R172). -/
def State.yreqWrite (s : State) (p : CoreId) (v : Word) : State :=
  allStrands.foldl (fun (a : State) t => if bit v t.val then a.setLatch p t else a)
    (s.setCore p { s.core p with yreq := v.extractLsb' 0 8 })

/-- The relaxed accesses that aborts have left perform (R398, R403). -/
def State.drainLoose (s : State) : State :=
  s.loose.foldl (fun (a : State) x => a.performRelaxed x.1 x.2.1 x.2.2) { s with loose := [] }

/-- Full/empty operations of core p that are parked or kept for a retry leave their wait: they run again, and translate anew
(R283). -/
def State.unparkAll (s : State) (p : CoreId) : State :=
  ((s.waiters ++ s.retries).filter fun (w : Waiter) => w.core = p).foldl (fun (a : State) w => a.unpark p w.strand) s

/-- Accesses of a context that have been translated perform before an invalidation completes (R283). -/
def State.settleAccesses (s : State) (c : CtxId) : State :=
  allCores.foldl (fun (a0 : State) p =>
    if (a0.core p).serves = some c then
      let a := a0.unparkAll p
      allStrands.foldl (fun (b : State) t =>
        let b1 := b.drainRelaxed p t
        if (b1.strand p t).headWithdraws then b1
        else match (b1.strand p t).head with
          | some h => if h.reqs = [] then b1 else b1.finishHead p t (4 * h.reqs.length + 1024)
          | none => b1) a
    else a0) s.drainLoose

/-- The context whose access a requester's is: what the copy engines and the strands of a context have asked for. -/
def State.ctxOfWho (s : State) (w : Requester) : Option CtxId :=
  match w with
  | .scalar p _ | .elem p _ _ => (s.core p).serves
  | .engine id => (s.descs.find? fun (d : CopyDesc) => d.id = id).map (·.ctx)
  | _ => none

/-- Whether a request is an access of a strand whose context has been aborted (R398, R403). -/
def State.leftOver (s : State) (w : Requester) : Bool :=
  match w with
  | .scalar p _ | .elem p _ _ => (s.core p).serves.isNone
  | _ => false

/-- Whether an access of a context that has been translated has not performed (R283, R310): one beyond the package, one of
which nobody waits for any more, one at a scatter-add unit, or one of an entry that has begun. -/
def State.accessesLeft (s : State) (c : CtxId) : Bool :=
  (s.ext.any fun (e : ExtReq) => decide (s.ctxOfWho e.who = some c) || s.leftOver e.who || (decide (e.who = .engine 0) && decide (e.va ≠ 0))) ||
  ((s.comb.flatMap fun (x : CombEntry) => x.chain) ++ s.combWait).any (fun (r : AtomicReq) => decide (s.ctxOfWho r.who = some c)) ||
  s.cores.toList.any fun (k : Core) => decide (k.serves = some c) && k.strands.toList.any fun (st : Strand) =>
    !st.headWithdraws && match st.head with
      | some h => decide (h.reqs ≠ [])
      | none => false

/-- The flags of a VWAIT at the head are translated again (R283, R354): a fault is one found while it waits. -/
def State.retarget (s : State) (p : CoreId) (t : StrandId) : State :=
  let st := s.strand p t
  match st.queue, st.head, st.headInstr with
  | e :: _, some h, some i =>
    match i with
    | .vwait _ _ _ _ _ =>
      if h.finished then s
      else
        let left := h.reqs.map fun (r : VReq) => r.elem
        let v := s.headEnv p t e
        let (rs, f, s1) := s.probePass p ((s.core p).serves.getD 0) .u i e.part id
          ((v.plan i 0 0).filter fun (x : Plan) => decide (x.elem ∈ left))
        match f with
        | some x =>
          if x.awaits then (s1.unwatch p t).setStrand p t { s1.strand p t with head := none }
          else s1.vfaultAt p t { x with vstart := 0 }
        | none => ((s1.unwatch p t).setHead p t { h with reqs := rs }).watchAll p t e i
    | _ => s
  | _, _, _ => s

/-- Translations of a context go from every core and bank (R283). -/
def State.dropTranslations (s : State) (c : CtxId) (covers : TlbEntry → Bool) (node : NodeEntry → Bool) : State :=
  let s1 := s.settleAccesses c
  let s2 := { s1 with cores := s1.cores.map fun (k : Core) =>
      { k with
        tables := []
        tlb := k.tlb.filter fun (e : TlbEntry) => !(decide (e.ctx = c) && covers e)
        nodes := k.nodes.filter fun (e : NodeEntry) => !(decide (e.ctx = c) && node e) } }
  allCores.foldl (fun (a : State) p =>
    if (a.core p).serves = some c then allStrands.foldl (fun (b : State) t => b.retarget p t) a else a) s2

/-- TLBINVc with ALL (R283). -/
def State.tlbinvAll (s : State) (c : CtxId) : State := s.dropTranslations c (fun _ => true) fun _ => true

/-- TLBINVc of one virtual address (R283): its translations, and the intermediate entries on its walk. -/
def State.tlbinvVpn (s : State) (c : CtxId) (v : Word) : State :=
  let va := 4096 * field v 55 12
  s.dropTranslations c (fun e => decide (e.base ≤ va ∧ va < e.base + e.size))
    fun e => decide (e.index = va >>> (12 + 9 * e.level))

/-- A write to XREDGRPg (R360). -/
def State.xredgrpWrite (s : State) (g : Fin 16) (v : Word) : State :=
  let last := bit v 19
  let first := bit v 18
  let next : BitVec 9 := v.extractLsb' 9 9
  let prev : BitVec 9 := v.extractLsb' 0 9
  let bad := (!first && decide (s.devnum ≤ prev)) || (!last && decide (next ≤ s.devnum))
  s.setChain g { s.chains[g] with valid := bit v 63 && !bad, last := last, first := first, next := next, prev := prev }

/-- A write to DEVNUM (R430). -/
def State.devnumWrite (s : State) (v : Word) : State :=
  if s.ctxs.toList.any fun (k : Ctx) => k.entry.valid then s else { s with devnum := v.extractLsb' 0 9 }

/-- What stays of a device that loses its state: the model's own fields, what has left the device, and what the
management processor keeps (R440, R442). -/
def State.lost (s : State) (pl : Platform) : State :=
  { State.reset with
    cur := s.cur
    str := s.str
    agenda := s.agenda
    fresh := s.fresh
    msix := s.msix
    hostReplies := s.hostReplies
    peerReplies := s.peerReplies
    plat := pl }

/-- A reset begins the boot sequence of R442: a cold one at step 1, a warm one at step 2. The event log and BOOTSTAT survive a warm
reset, what the flash holds every one. -/
def State.startBoot (s : State) (cold : Bool) (r : BootResult) : State :=
  s.lost { Platform.reset with
    lastTrip := if cold then s.plat.poweredDown else s.plat.lastTrip
    stage := if cold then 1 else 2
    zeroCores := if cold then 0 else s.plat.zeroCores
    events := if cold then [] else s.plat.events
    evCount := if cold then 0 else s.plat.evCount
    repair := s.plat.repair
    spdmSent := s.plat.spdmSent
    configRetries := s.plat.configRetries
    flash := s.plat.flash
    booting := some (r, []) }

/-- A write to a register that has no behaviour of its own, field by field (R5, R6). -/
def State.plainWrite (s : State) (r : MmioReg) (v : Word) : State :=
  match r with
  | .ctxtbase => { s with ctxtbase := v.extractLsb' 14 38 }
  | .lstat c => s.setCtx c { s.ctx c with
      lDone := (s.ctx c).lDone && !bit v 62, lLost := (s.ctx c).lLost && !bit v 61 }
  | .waitlim p => s.setCore p { s.core p with waitTrap := bit v 63, waitLimit := v.extractLsb' 0 32 }
  | .pstat c => s.setCtx c { s.ctx c with pDone := (s.ctx c).pDone && !bit v 62 }
  | .qstat c => s.setCtx c { s.ctx c with note := (s.ctx c).note && !bit v 62 }
  | .qnotify c => s.setCtx c { s.ctx c with notifyEn := bit v 63, notifyAddr := v.extractLsb' 3 49 }
  | .rstat c => s.setCtx c { s.ctx c with rDone := (s.ctx c).rDone && !bit v 62 }
  | .replay c => s.setCtx c { s.ctx c with replay := { (s.ctx c).replay with
      mode := if v.extractLsb' 62 2 = (3 : BitVec 2) then 0 else v.extractLsb' 62 2
      logBase := v.extractLsb' 12 40 } }
  | .replaysz c => s.setCtx c { s.ctx c with replay := { (s.ctx c).replay with
      inLen := v.extractLsb' 44 20, logSize := v.extractLsb' 12 20 } }
  | .replayin c => s.setCtx c { s.ctx c with replay := { (s.ctx c).replay with inBase := v.extractLsb' 12 40 } }
  | .replaystat c =>
    let k := (s.ctx c).replay
    s.setCtx c { s.ctx c with replay := { k with
      ovf := k.ovf && !bit v 63, diverged := k.diverged && !bit v 62, digest := k.digest && !bit v 61 } }
  | .hosterr => if bit v 63 then { s with hostErrV := false, hostErrCount := 0 } else s
  | .bootstat => { s with plat := { s.plat with lastTrip := s.plat.lastTrip && !bit v 61 } }
  | .debug p off => s.debugWrite p off v
  | _ => s

/-- Write a register. RESETCMD is the host's alone (R442). -/
def State.writeReg (s : State) (r : MmioReg) (v : Word) : State :=
  match r with
  | .launch c => s.launch c v
  | .ctxrefresh c => (s.refresh c).recheck c
  | .yreq p => s.yreqWrite p v
  | .tlbinv c => if bit v 63 then s.tlbinvAll c else s.tlbinvVpn c v
  | .snapcmd => s.snapCmd v
  | .xredgrp g => s.xredgrpWrite g v
  | .preempt c => s.preempt c v
  | .ctxrun c => s.ctxRun c v
  | .ctxretire c => s.retire c v
  | .devnum => s.devnumWrite v
  | r => s.plainWrite r v

/-- A write that must wait before it performs (R283, R310, R319), with what it waits for gone on: TLBINVc for the accesses
already translated, CTXREFRESHc for the copies that a leaving way keeps. -/
def State.mmioHeld (s : State) (off : Nat) : Option State :=
  match mmioReg off with
  | some (.tlbinv c) =>
    let s1 := s.settleAccesses c
    if s1.accessesLeft c then some s1 else none
  | some (.ctxrefresh c) => s.refreshHeld c
  | _ => none

/-- Write an offset of MMIO control space (R278). -/
def State.mmioWrite (s : State) (off : Nat) (v : Word) : State :=
  match mmioReg off with
  | some r => s.writeReg r v
  | none => s

end Sys2Proof.Machine
end

