-- ==== Sys2Proof/Machine/ScalarMem.lean ====
section
/-! DEFINITION. Scalar memory instructions: LD and ST (R288 to R290), atomics (R291, R292), full/empty operations (R293
to R295), fences, cache operations and seals (R296 to R300). -/

namespace Sys2Proof.Machine

/-- The bytes of an access size (R110). -/
def Size.bytes : Size → Nat
  | .b => 1 | .h => 2 | .w => 4 | .d => 8

/-- The address of a format-M access (R289). -/
def State.memAddr (s : State) (a : MArgs) : Word := offsetBy (s.reg a.xs1) (a.imm.toInt * Size.bytes a.size)

/-- Relaxed accesses of the acting strand outstanding, those beyond the package included (R288). -/
def State.relaxedCount (s : State) : Nat :=
  s.me.relaxed.length + (s.ext.filter fun (e : ExtReq) => decide (e.who = .scalar s.cur s.str) && e.relaxed).length

/-- Issue a relaxed access; a ninth waits (R288). Accesses to its bytes that are outstanding perform first (R339). -/
def State.relax (s : State) (x : RelaxedAcc) : State :=
  if 8 ≤ s.relaxedCount then s
  else
    let s1 := s.performSame s.cur s.str x.pa (Size.bytes x.size)
    (s1.setMe { s1.me with relaxed := s1.me.relaxed ++ [x] }).advance

/-- Whether an access is relaxed: rx is ignored on scratchpad and on DEV-class pages (R268, R285, R288). -/
def relaxes (a : MArgs) (pl : Place) : Bool :=
  a.rx && !pl.dev && match region pl.pa with | .spad _ _ => false | _ => true

/-- The acting strand waits for the answer to an access beyond the package that it has sent. -/
def State.awaitAnswer (s : State) : State := s.park .external

/-- A load from a checked place (R288 to R290). -/
def State.loadPlace (s : State) (a : MArgs) (va : Word) (pl : Place) : State :=
  let n := Size.bytes a.size
  match region pl.pa with
  | .mmio off => s.finish a.r (s.mmioRead off)
  | _ =>
    if relaxes a pl then
      s.relax ⟨false, a.r, va, pl.pa, a.size, a.req, false, pl.grain, 0, s.me.pc⟩
    else
      let s1 := s.performSame s.cur s.str pl.pa n
      if s1.isBadFor s1.cur pl.pa n (if pl.dev then .u else a.req) then s1.trap .memUncorrectable va
      else if isExternal pl.pa then
        match s1.windowAccess s1.cur false (.scalar s1.cur s1.str) va pl.pa n pl.grain (pl.dev || decide (a.req = .u)) none
            (some (a.r, a.size)) false with
        | (some bs, s2) => s2.finish a.r (sextTo64 (8 * n) (fromLe bs))
        | (none, s2) => s2.awaitAnswer
      else
        let (bs, s2) := s1.loadAt s1.cur pl.pa n pl.grain pl.dev a.req false
        s2.finish a.r (sextTo64 (8 * n) (fromLe bs))

/-- LD (R289). -/
def execLd (a : MArgs) (s : State) : Host.Outcome State Fault Refusal :=
  let va := s.memAddr a
  .next (match s.check va (Size.bytes a.size) .read with
    | (.error x, s1) => s1.trap x va
    | (.ok pl, s1) => s1.loadPlace a va pl)

/-- A store to a checked place (R288 to R290). A store to MMIO control space acts on the register once the strand is
past it, and once what that write waits for has come about (R283). A write to a block of an active snapshot waits for the copy of
the block (R326). -/
def State.storePlace (s : State) (a : MArgs) (va : Word) (pl : Place) : State :=
  let n := Size.bytes a.size
  let v := s.reg a.r
  match region pl.pa with
  | .mmio off => (s.mmioHeld off).getD (s.advance.mmioWrite off v)
  | _ =>
    if relaxes a pl then
      s.relax ⟨true, a.r, va, pl.pa, a.size, a.req, false, pl.grain, v, s.me.pc⟩
    else
      let s1 := s.performSame s.cur s.str pl.pa n
      if isExternal pl.pa then
        match s1.windowAccess s1.cur false (.scalar s1.cur s1.str) va pl.pa n pl.grain (pl.dev || decide (a.req = .u))
            (some (leBytes n v.toNat)) none false with
        | (some _, s2) => s2.advance
        | (none, s2) => s2.awaitAnswer
      else match (if a.req = .s ∧ !pl.dev then none else s1.snapHold pl.pa n) with
        | some s2 => s2
        | none => (s1.storeAt s1.cur pl.pa (leBytes n v.toNat) pl.grain pl.dev a.req false).advance

/-- ST (R289). -/
def execSt (a : MArgs) (s : State) : Host.Outcome State Fault Refusal :=
  let va := s.memAddr a
  .next (match s.check va (Size.bytes a.size) .write with
    | (.error x, s1) => s1.trap x va
    | (.ok pl, s1) => s1.storePlace a va pl)

/-! ### Atomics -/

/-- The value of a word of an atomic's size in a register. -/
def ASize.of (size : ASize) (v : Word) : Nat := match size with | .w => field v 31 0 | .d => v.toNat

/-- Whether an atomic may go to the host (R429). -/
def AmoOp.toHost : AmoOp → Bool
  | .add | .swap | .cas => true
  | _ => false

/-- The indivisible action of an atomic at its unit, on a word that is resident there (R291, R292, R346): the old value, and
the state. `c` is the context served by the core that sent it. -/
def State.atomicAt (s : State) (pa : Nat) (size : ASize) (op : AmoOp) (b e : Nat) (c : Option CtxId) : Nat × State :=
  let n := ASize.bytes size
  let o := fromLe (s.peekHome pa n)
  let w := amoNew size op o b e
  let old := s.homeWord (pa / 8 * 8)
  (o, (if op = .cas ∧ o ≠ e then s else s.putHome pa (leBytes n w)).combUsed pa old c)

/-- A scalar atomic on a checked place (R292): on a word whose fetch is outstanding it joins the chain, and the strand waits for
its old value (R347). -/
def State.atomicPlace (s : State) (op : AmoOp) (a : AArgs) (va : Word) (pl : Place) : State :=
  let b := ASize.of a.size (s.reg a.xs2)
  let e := ASize.of a.size (s.reg a.rd)
  s.afterRelease (if a.rel then a.scope else .strand) fun (s2 : State) =>
    let acq := if a.acq then some a.scope else none
    let sz : Size := match a.size with | .w => .w | .d => .d
    let r : AtomicReq := ⟨.scalar s2.cur s2.str, pl.pa, a.size, op, word b, word e⟩
    if isExternal pl.pa then
      let secs := grainSectors pl.pa pl.grain
      ((s2.writeBackOwn s2.cur secs).dropOwn s2.cur secs).ask va pl.pa (.atomic r) (some (a.rd, sz)) acq
    else if s2.isBad pl.pa (ASize.bytes a.size) then s2.trap .memUncorrectable va
    else match s2.snapHold pl.pa (ASize.bytes a.size) with
      | some s3 => s3
      | none =>
        match s2.combReady pl.pa with
        | none => ((s2.prepareAtomic s2.cur pl.pa pl.grain).combJoin r).park (.atomic a.rd a.size acq)
        | some s3 =>
          let (o, s4) := (s3.prepareAtomic s3.cur pl.pa pl.grain).atomicAt pl.pa a.size op b e s3.mine.serves
          let s5 := match acq with | some sc => s4.acquireAt sc | none => s4
          s5.finish a.rd (sextTo64 (8 * ASize.bytes a.size) o)

/-- A scalar atomic (R291, R292). -/
def State.atomic (s : State) (op : AmoOp) (a : AArgs) : State :=
  let va := s.reg a.xs1
  match s.check va (ASize.bytes a.size) .atomic with
  | (.error x, s1) => s1.trap x va
  | (.ok pl, s1) =>
    match region pl.pa with
    | .host _ => if AmoOp.toHost op then s1.atomicPlace op a va pl else s1.trap .access va
    | _ => s1.atomicPlace op a va pl

/-- AADD (R291). -/
def execAadd (a : AArgs) (s : State) : Host.Outcome State Fault Refusal := .next (s.atomic .add a)
/-- AAND (R291). -/
def execAand (a : AArgs) (s : State) : Host.Outcome State Fault Refusal := .next (s.atomic .and a)
/-- AOR (R291). -/
def execAor (a : AArgs) (s : State) : Host.Outcome State Fault Refusal := .next (s.atomic .or a)
/-- AXOR (R291). -/
def execAxor (a : AArgs) (s : State) : Host.Outcome State Fault Refusal := .next (s.atomic .xor a)
/-- AMIN (R291). -/
def execAmin (a : AArgs) (s : State) : Host.Outcome State Fault Refusal := .next (s.atomic .min a)
/-- AMAX (R291). -/
def execAmax (a : AArgs) (s : State) : Host.Outcome State Fault Refusal := .next (s.atomic .max a)
/-- ASWAP (R291). -/
def execAswap (a : AArgs) (s : State) : Host.Outcome State Fault Refusal := .next (s.atomic .swap a)
/-- ACAS (R291). -/
def execAcas (a : AArgs) (s : State) : Host.Outcome State Fault Refusal := .next (s.atomic .cas a)

/-! ### Full/empty operations -/

/-- The address of a full/empty operation (R293). -/
def State.feAddr (s : State) (rs1 : BitVec 5) (imm : BitVec 11) : Word := offsetBy (s.reg rs1) (imm.toInt * 8)

/-- A full/empty operation whose place has passed the checks of R287. -/
def State.feChecked (s : State) (va : Word) (k : Acc) (f : Place → State → State) : State :=
  match s.check va 8 k with
  | (.error x, s1) => s1.trap x va
  | (.ok pl, s1) =>
    let s2 := s1.performSame s1.cur s1.str pl.pa 8
    if k = .change then (s2.snapHold pl.pa 8).getD (f pl s2) else f pl s2

/-- LDF.k (R293). -/
def execLdfK (rd rs1 : BitVec 5) (imm : BitVec 11) (s : State) : Host.Outcome State Fault Refusal :=
  let va := s.feAddr rs1 imm
  .next (s.feChecked va .peek fun pl a => a.feOperate pl va (.ldfK rd))

/-- LDF.t (R293). -/
def execLdfT (rd rs1 : BitVec 5) (imm : BitVec 11) (s : State) : Host.Outcome State Fault Refusal :=
  let va := s.feAddr rs1 imm
  .next (s.feChecked va .change fun pl a => a.feOperate pl va (.ldfT rd))

/-- STF (R293). -/
def execStf (rs2 rs1 : BitVec 5) (imm : BitVec 11) (s : State) : Host.Outcome State Fault Refusal :=
  let v := s.reg rs2
  .next (s.feChecked (s.feAddr rs1 imm) .change fun pl a =>
    a.afterRelease .dev fun b => (b.fillWord pl v).advance)

/-- STF.w (R293). -/
def execStfW (rs2 rs1 : BitVec 5) (imm : BitVec 11) (s : State) : Host.Outcome State Fault Refusal :=
  let va := s.feAddr rs1 imm
  let v := s.reg rs2
  .next (s.feChecked va .change fun pl a => a.afterRelease .dev fun b => b.feOperate pl va (.stfW v))

/-- SETE (R293). -/
def execSete (rs1 : BitVec 5) (imm : BitVec 11) (s : State) : Host.Outcome State Fault Refusal :=
  let va := s.feAddr rs1 imm
  .next (s.feChecked va .change fun pl a => a.feOperate pl va .sete)

/-- PROBEF (R293). -/
def execProbef (rd rs1 : BitVec 5) (imm : BitVec 11) (s : State) : Host.Outcome State Fault Refusal :=
  .next (s.feChecked (s.feAddr rs1 imm) .peek fun pl a =>
    let b := a.prepareHome a.cur pl.pa pl.grain
    b.finish rd (flag (b.isFull pl.pa)))

/-! ### Fences, cache operations, seals -/

/-- FENCE (R297). -/
def execFence (scope : Scope) (s : State) : Host.Outcome State Fault Refusal :=
  .next (s.afterRelease scope fun a => (a.acquireAt scope).advance)

/-- VSYNC (R298). -/
def execVsync (s : State) : Host.Outcome State Fault Refusal := .next (s.synced State.advance)

/-- The sectors of the grains that n bytes of HBM from an address meet. -/
def State.grainsOf (s : State) (pa n grain : Nat) : List Nat :=
  ((List.range ((pa + n - 1) / 32 + 1 - pa / 32)).flatMap fun k =>
    grainSectors ((pa / 32 + k) * 32) (s.grainAt ((pa / 32 + k) * 32) grain)).dedup

/-- What CFLUSH or CINV does to the grains of some sectors (R299): the acting core's copies, and for CFLUSH the dirty data of
owned copies in other cores. -/
def State.cleanCopies (s : State) (inv : Bool) (secs : List Nat) : State :=
  let a := s.writeBackOwn s.cur secs
  if inv then a.dropOwn a.cur secs
  else allCores.foldl (fun (b : State) p =>
    ((b.core p).copies.filter fun (c : Copy) =>
      decide (c.kind = .owned ∧ c.dirty ≠ []) && decide (c.sector ∈ secs)).foldl (fun (x : State) c => x.writeBack p c) b) a

/-- CFLUSH or CINV over n pieces of 4 KiB from an address (R299): the strand's own relaxed accesses to the blocks met perform
first (R339, R345), and the instruction ends once its write-backs beyond the package have performed. -/
def State.cleanPages (s : State) (inv : Bool) (va stop : Nat) : Nat → State
  | 0 =>
    if s.extRelaxed s.cur s.str || s.ext.any (fun (e : ExtReq) => decide (e.who = .copies s.cur)) then s else s.advance
  | n + 1 =>
    let hi := min stop (4096 * (va / 4096 + 1))
    match s.lookup s.cur s.myCtx s.mine.ptroot (word va) with
    | (.error x, s1) => s1.trap x (word va)
    | (.ok e, s1) =>
      if !e.canRead then s1.trap .access (word va)
      else
        let pa := e.frame + (va - e.base)
        let s2 := match region pa with
          | .hbm _ | .host _ | .peer _ _ =>
            if e.dev then s1
            else
              let lo := pa / 512 * 512
              let s2 := s1.performSame s1.cur s1.str lo ((pa + (hi - va) + 511) / 512 * 512 - lo)
              s2.cleanCopies inv (s2.grainsOf pa (hi - va) e.grain)
          | _ => s1
        s2.cleanPages inv hi stop n

/-- Pieces of 4 KiB that a range meets. -/
def pieces (va len : Nat) : Nat := if len = 0 then 0 else (va + len - 1) / 4096 + 1 - va / 4096

/-- CFLUSH or CINV of a range, which does nothing to one of length 0 (R299). -/
def State.cleanRange (s : State) (inv : Bool) (va len : Nat) : State :=
  if len = 0 then s.advance else s.cleanPages inv va (va + len) (pieces va len)

/-- CFLUSH (R299). -/
def execCflush (rs1 rs2 : BitVec 5) (s : State) : Host.Outcome State Fault Refusal :=
  .next (s.cleanRange false (s.reg rs1).toNat (s.reg rs2).toNat)

/-- CINV (R299). -/
def execCinv (rs1 rs2 : BitVec 5) (s : State) : Host.Outcome State Fault Refusal :=
  .next (s.cleanRange true (s.reg rs1).toNat (s.reg rs2).toNat)

/-- The physical runs of n pages from a page address, as rising ranges in page order, or the trap of R300. -/
def State.sealRuns (s : State) (page : Nat) (xs1 : Word) (runs : List (Nat × Nat)) : Nat →
    Except (Cause × Word) (List (Nat × Nat)) × State
  | 0 => (.ok runs.reverse, s)
  | n + 1 =>
    match s.lookup s.cur s.myCtx s.mine.ptroot (word page) with
    | (.error x, s1) => (.error (x, word page), s1)
    | (.ok e, s1) =>
      let pa := e.frame + (page - e.base)
      if !e.canRead then (.error (.access, word page), s1)
      else if !inHbm pa 4096 then (.error (.access, xs1), s1)
      else
        let more := match runs with
          | (lo, hi) :: rest => if hi = pa then (lo, pa + 4096) :: rest else (pa, pa + 4096) :: (lo, hi) :: rest
          | [] => [(pa, pa + 4096)]
        s1.sealRuns (page + 4096) xs1 more n

/-- Copies of a range as SEAL leaves them: owned and tracked ones are untracked from then on (R277). -/
def State.untrack (s : State) (lo hi : Nat) : State :=
  let picked (x : Copy) : Bool := decide (x.kind ≠ .untracked ∧ lo ≤ x.sector * 32 ∧ x.sector * 32 < hi)
  let s1 := s.loseDirty fun _ x => picked x
  s1.mapCopies fun _ cs => cs.map fun (x : Copy) =>
    if picked x then { x with kind := .untracked, bytes := s1.mem.read (x.sector * 32) 32, dirty := [] } else x

/-- SEAL of the runs of a range (R277, R300). -/
def State.sealPages (s : State) (xs1 : Word) (runs : List (Nat × Nat)) : State :=
  if 256 < s.seals.length + runs.length then s.trap .access xs1
  else
    let s1 := runs.foldl (fun (a : State) r => a.untrack r.1 r.2) s
    { s1 with seals := s1.seals ++ runs.map fun (r : Nat × Nat) => SealEntry.mk r.1 r.2 s1.myCtx }.advance

/-- SEAL (R300). -/
def execSeal (rs1 rs2 : BitVec 5) (s : State) : Host.Outcome State Fault Refusal :=
  let x := s.reg rs1
  .next (s.synced fun a =>
    match a.sealRuns (4096 * (x.toNat / 4096)) x [] (pieces x.toNat (s.reg rs2).toNat) with
    | (.error e, b) => b.trap e.1 e.2
    | (.ok runs, b) => b.sealPages x runs)

/-- UNSEAL (R300). One that takes the middle of an entry and finds no entry free for the rest raises ACCESS and unseals nothing
(assumption 43). -/
def execUnseal (rs1 rs2 : BitVec 5) (s : State) : Host.Outcome State Fault Refusal :=
  let x := s.reg rs1
  .next (s.synced fun a =>
    match a.sealRuns (4096 * (x.toNat / 4096)) x [] (pieces x.toNat (s.reg rs2).toNat) with
    | (.error e, b) => b.trap e.1 e.2
    | (.ok runs, b) =>
      let b1 := b.unsealRuns b.myCtx runs
      if 256 < b1.seals.length then b.trap .access x else b1.advance)

end Sys2Proof.Machine
end

