-- ==== Sys2Proof/Machine/Net.lean ====
section
/-! DEFINITION. Net instructions (R29 to R43, R174 to R198): taking, reading and writing port words, node pools, pushes,
NEXT with its resumable steps, continuations. -/

namespace Sys2Proof.Machine

/-- The link to a port of a node (R23). -/
def linkTo (port node : Nat) : Nat := 2 ^ 44 * port + node / 16

/-- The node that a port word links to (R23). -/
def linkNode (w : Word) : Nat := field w 43 1 * 32

/-! ### Port words -/

/-- A full/empty operation on the port word at a. -/
def State.portOp (s : State) (a : Nat) (op : FeOp) : State :=
  match s.nodeWord a (if op.changes then .change else .peek) with
  | (.error e, s1) => s1.trap e.1 e.2
  | (.ok pl, s1) => (s1.performSame s1.cur s1.str pl.pa 8).feOperate pl (word a) op

/-- Go on with the value of the port word at a, left as it is; the strand waits while the word is empty (R29, R269). -/
def State.peekWord (s : State) (a : Nat) (k : Word → State → State) : State :=
  match s.nodeWord a .peek with
  | (.error e, s1) => s1.trap e.1 e.2
  | (.ok pl, s1) =>
    let s2 := (s1.performSame s1.cur s1.str pl.pa 8).prepareHome s1.cur pl.pa pl.grain
    if !s2.isFull pl.pa then (s2.park .fullEmpty).enterWaiter ⟨s2.cur, s2.str, pl.pa, pl.grain, .peek⟩
    else if s2.isBad pl.pa 8 then s2.trap .memUncorrectable (word a)
    else k (s2.homeWord pl.pa) (s2.acquireAt .dev)

/-- Go on with the value of the port word at a, full or empty: a resumption does not wait (R42, R196). -/
def State.readWord (s : State) (a : Nat) (k : Word → State → State) : State :=
  match s.nodeWord a .peek with
  | (.error e, s1) => s1.trap e.1 e.2
  | (.ok pl, s1) =>
    let s2 := (s1.performSame s1.cur s1.str pl.pa 8).prepareHome s1.cur pl.pa pl.grain
    if s2.isBad pl.pa 8 then s2.trap .memUncorrectable (word a)
    else k (s2.homeWord pl.pa) (s2.acquireAt .dev)

/-- NTAKE (R185). -/
def execNtake (rd rs1 : BitVec 5) (s : State) : Host.Outcome State Fault Refusal :=
  let x := s.reg rs1
  .next (if x.toNat % 8 ≠ 0 then s.trap .align x else s.portOp x.toNat (.ntake rd))

/-- NHDR (R187). -/
def execNhdr (rd rs1 : BitVec 5) (s : State) : Host.Outcome State Fault Refusal :=
  let x := s.reg rs1
  .next (if x.toNat % 32 ≠ 0 then s.trap .align x else s.portOp x.toNat (.ldfK rd))

/-- Go on with the places of some words that an instruction writes, once all have passed their checks. -/
def State.portPlaces (s : State) (k : List Place → State → State) : List Nat → List Place → State
  | [], ps => k ps.reverse s
  | a :: rest, ps =>
    match s.nodeWord a .change with
    | (.error e, s1) => s1.trap e.1 e.2
    | (.ok pl, s1) => s1.portPlaces k rest (pl :: ps)

/-- Write the link bits of a port word and fill it, keeping bits [63:46] (R186). -/
def State.putLink (s : State) (pl : Place) (link : Nat) : State :=
  let s1 := s.prepareHome s.cur pl.pa pl.grain
  s1.fillWord pl (word (field (s1.homeWord pl.pa) 63 46 * 2 ^ 46 + link))

/-- NLINK of two aligned port words (R186). -/
def State.nlink (s : State) (a b : Nat) : State :=
  let p1 := a / 8 % 4
  let p2 := b / 8 % 4
  s.portPlaces (fun pls (s1 : State) =>
    match pls with
    | [u, v] =>
      s1.afterRelease .dev fun (s2 : State) =>
        if s2.isBad u.pa 8 then s2.trap .memUncorrectable (word a)
        else if s2.isBad v.pa 8 then s2.trap .memUncorrectable (word b)
        else
          let s3 := (s2.putLink u (linkTo p2 (b / 32 * 32))).putLink v (linkTo p1 (a / 32 * 32))
          if p1 = 0 ∧ p2 = 0 ∧ a ≠ b then
            s3.push ⟨BitVec.ofNat 48 a, BitVec.ofNat 48 b, 0⟩ false true State.advance
          else s3.advance
    | _ => s1) [a, b] []

/-- NLINK (R181, R186). -/
def execNlink (rs1 rs2 : BitVec 5) (s : State) : Host.Outcome State Fault Refusal :=
  let a := s.reg rs1
  let b := s.reg rs2
  .next (if a.toNat % 8 ≠ 0 then s.trap .align a
    else if b.toNat % 8 ≠ 0 then s.trap .align b
    else s.nlink a.toNat b.toNat)

/-- NSETH (R188): the word's full/empty bit stays. -/
def execNseth (rs1 rs2 : BitVec 5) (s : State) : Host.Outcome State Fault Refusal :=
  let a := s.reg rs1
  let h := s.reg rs2
  .next (if a.toNat % 32 ≠ 0 then s.trap .align a
    else s.portPlaces (fun pls (s1 : State) =>
      match pls with
      | [pl] =>
        s1.afterRelease .dev fun (s2 : State) =>
          if s2.isBad pl.pa 8 then s2.trap .memUncorrectable a
          else
            let s3 := s2.prepareHome s2.cur pl.pa pl.grain
            (s3.pokeWord pl.pa ((h &&& 0xfffcc00000000000) |||
              (s3.homeWord pl.pa &&& 0x00003fffffffffff))).advance
      | _ => s1) [a.toNat] [])

/-! ### Node pools -/

/-- Write the four words of a node, each full. -/
def State.fillNode (s : State) (pl : Place) (w0 w1 w2 w3 : Word) : State :=
  (((s.fillWord pl w0).fillWord { pl with pa := pl.pa + 8 } w1).fillWord { pl with pa := pl.pa + 16 } w2).fillWord
    { pl with pa := pl.pa + 24 } w3

/-- Make a node the head of the core's free list (R190). -/
def State.freeNode (s : State) (node : Nat) (pl : Place) : State :=
  let old := s.mine.npool
  (s.fillNode pl (word (linkTo 0 (old.toNat * 32))) 0 0 0).setNpool s.cur
    (BitVec.ofNat 43 (node / 32))

/-- Free nodes in order: the last one becomes the head of the list. R194 and R196 give no order among the 17 nodes of a
continuation: CONT, RESUME and the records from the first on is the model's choice (assumption 86). -/
def State.freeNodes (s : State) : List (Nat × Place) → State
  | [] => s
  | (a, pl) :: rest => (s.freeNode a pl).freeNodes rest

/-- NFREE (R190). -/
def execNfree (rs1 : BitVec 5) (s : State) : Host.Outcome State Fault Refusal :=
  let x := s.reg rs1
  .next (if x.toNat % 32 ≠ 0 then s.trap .align x
    else s.portPlaces (fun pls (s1 : State) =>
      match pls with
      | [pl] => s1.afterRelease .dev fun (s2 : State) => (s2.freeNode x.toNat pl).advance
      | _ => s1) [x.toNat] [])

/-- Pop the global pool (R179): go on with the node's address, 0 when it is empty. -/
def State.popPool (s : State) (k : Nat → State → State) : State :=
  let g := (s.ctx s.myCtx).entry.gpool
  match s.check (word g) 8 .atomic with
  | (.error x, s1) => s1.trap x (word g)
  | (.ok pl, s1) =>
    if isExternal pl.pa then s1.trap .access (word g)
    else if s1.isBad pl.pa 8 then s1.trap .memUncorrectable (word g)
    else
      let s2 := (s1.performSame s1.cur s1.str pl.pa 8).prepareHome s1.cur pl.pa pl.grain
      let head := s2.homeWord pl.pa
      let n := field head 47 5 * 32
      if n = 0 then k 0 s2
      else
        match s2.check (word (n + 8)) 8 .read with
        | (.error x, s3) => s3.trap x (word (n + 8))
        | (.ok q, s3) =>
          if isExternal q.pa then s3.trap .access (word (n + 8))
          else if s3.isBad q.pa 8 then s3.trap .memUncorrectable (word (n + 8))
          else
            let s4 := (s3.performSame s3.cur s3.str q.pa 8).prepareHome s3.cur q.pa q.grain
            k n (s4.pokeWord pl.pa
              (word ((field head 63 48 + 1) % 2 ^ 16 * 2 ^ 48 + field (s4.homeWord q.pa) 47 5 * 32)))

/-- Take nodes by the procedure of R189 until n are held, each as its address and its four words; with both pools
empty go on with `none'`. Steps are bounded by the fuel. -/
def State.takeNodes (s : State) (n : Nat) (none' : List Word → State → State) (k : List Word → State → State) :
    Nat → State
  | 0 => s
  | fuel + 1 =>
    let pr := s.me.progress
    let part := pr.length % 5
    if pr.length = 5 * n then k pr s
    else if part = 0 ∧ s.mine.npool = 0 then
      s.popPool fun a (s1 : State) =>
        if a = 0 then none' pr s1
        else (s1.setNpool s1.cur (BitVec.ofNat 43 (a / 32))).takeNodes n none' k fuel
    else
      let a := if part = 0 then s.mine.npool.toNat * 32
        else (pr.getD (pr.length - part) 0).toNat + 8 * (part - 1)
      let s1 := s.portOp a .nalloc
      if pr.length < s1.me.progress.length then s1.takeNodes n none' k fuel else s1

/-- What an instruction has gathered at its address, and nothing from another one. -/
def State.ownProgress (s : State) : State :=
  if s.me.progressAt = s.me.pc then s
  else s.setMe { s.me with progress := [], progressAt := s.me.pc, taken := false }

/-- NALLOC once it holds its node (R189): the words become zero and stay empty. -/
def State.nallocDone (s : State) (rd : BitVec 5) (a : Word) : State :=
  match s.nodeWord a.toNat .change with
  | (.error e, s1) => s1.trap e.1 e.2
  | (.ok pl, s1) =>
    let s2 := s1.prepareHome s1.cur pl.pa pl.grain
    let s3 := (((s2.pokeWord pl.pa 0).pokeWord (pl.pa + 8) 0).pokeWord (pl.pa + 16) 0).pokeWord (pl.pa + 24) 0
    (s3.setMe { s3.me with progress := [], taken := false }).finish rd a

/-- NALLOC (R189). -/
def execNalloc (rd : BitVec 5) (s : State) : Host.Outcome State Fault Refusal :=
  .next (s.ownProgress.takeNodes 1 (fun _ a => a.trap .nodePoolEmpty 0)
    (fun pr a => a.nallocDone rd (pr.getD 0 0)) 8)

/-! ### Pushes by hand -/

/-- NPUSH (R192). -/
def execNpush (rs1 rs2 : BitVec 5) (s : State) : Host.Outcome State Fault Refusal :=
  let a := s.reg rs1
  let b := s.reg rs2
  let n1 := a.toNat / 32 * 32
  .next (if a.toNat % 4 = 3 ∨ a.toNat / 4 % 8 ≠ 0 then s.trap .align a
    else if a.toNat % 4 = 2 then (s.countDown s.myCtx).advance
    else if b.toNat % 32 ≠ 0 then s.trap .align b
    else if !nodeOk n1 then s.trap .align (word n1)
    else if !nodeOk b.toNat then s.trap .align b
    else s.afterRelease .dev fun (s1 : State) =>
      if a.toNat % 4 = 0 then
        s1.push ⟨BitVec.ofNat 48 n1, BitVec.ofNat 48 b.toNat, 0⟩ false true State.advance
      else s1.push ⟨BitVec.ofNat 48 n1, BitVec.ofNat 48 b.toNat, 2⟩ false false State.advance)

/-! ### NEXT -/

/-- Note the step of R29 at which NEXT stands (R182). -/
def State.markNext (s : State) (n : Nat) : State :=
  s.setMe { s.me with nstep := BitVec.ofNat 3 n, nextAt := s.me.pc }

/-- Fall through with Q set (R33, R417), an acquire. -/
def State.nextFalls (s : State) : State := (s.setMe s.me.fallThrough).acquireAt .dev

/-- Wait for a pair; a core that is not already looking for one starts a sweep, unless the answer to its last STEAL is still
to come (R41, R95). -/
def State.hunt (s : State) : State :=
  let s1 := s.park .pair
  if s1.mine.sweep.isSome || s1.mine.hungry || s1.mine.asked then s1 else s1.startSweep s1.cur s1.myCtx none

/-- The OBTAIN record of a pair (R423). -/
def State.obtainRecord (s : State) (x : Pair) : Word × Word :=
  (word (2 ^ 60 + s.str.val * 2 ^ 57) ||| (pairWords x).1, (pairWords x).2)

/-- The strand obtains a pair that has left the saddlebag (R29 step 2). -/
def State.obtained (s : State) (x : Pair) (bag : List Pair) : State :=
  let s1 := s.setMine { s.mine with bag := bag }
  let s2 := (s1.setMe { s1.me with firing := some x, resumed := false, rulePair := none }).markNext 3
  (s2.acquireAt .dev).logRecord s2.cur s2.myCtx [s2.obtainRecord x]

/-- Go on with a FWD record, written or met: under replay only the logged target is taken (R423, R424). -/
def State.forwardLogged (s : State) (target : Nat) (k : State → State) : State :=
  let w := word (4 * 2 ^ 60 + s.str.val * 2 ^ 57 + target)
  match s.nextRecord s.cur s.myCtx with
  | none => k (s.logRecord s.cur s.myCtx [(w, 0)])
  | some (w0, _) =>
    if w0 = w then k (s.consume s.cur s.myCtx 1)
    else if field w0 63 60 = 4 ∧ field w0 59 57 = s.str.val then s.diverge s.myCtx
    else s.park .logRecord

/-- Send a pair that the strand gives up to a logical core (R103, R193). -/
def State.forwardPair (s : State) (x : Pair) (l : Nat) : State :=
  let c := s.myCtx
  let y := pairMark x 2
  let s1 := s.sendTo c l (fun q => .fwd q c l y) (.pairs 2 l [y])
  (s1.setMe { s1.me with firing := none, resumed := false, rulePair := none }).markNext 2

/-- The check of step 5 has failed (R103, R104): the pair goes to a capable core, else to the orphan list. -/
def State.capFail (s : State) (x : Pair) (need : BitVec 128) (i : Nat) : State :=
  match s.capTarget s.cur s.myCtx i need with
  | some (l, _) => s.forwardLogged l fun (s1 : State) => s1.forwardPair x l
  | none =>
    match s.orphan s.myCtx x with
    | (true, s1) =>
      ((s1.setMe { s1.me with firing := none, resumed := false, rulePair := none }).markNext 2).trap
        .capabilityNone (word i)
    | (false, s1) => s1.trap .capabilityNone (word (2 ^ 63 + i))

/-- Go on once the strand holds lanes of a class (R29 step 7, R40): lanes of another class are released when its queue
is empty, and the request waits its turn. -/
def State.withLanes (s : State) (cls : LaneClass) (k : State → State) : State :=
  let t := s.str
  if s.me.cls = cls ∧ !s.me.leaving then k s
  else if s.me.cls ≠ .noLanes ∧ (s.me.queue ≠ [] ∨ s.me.heldLeft) then
    s.drained fun (a : State) => a.park .drain
  else
    let s1 := if s.me.cls = .noLanes then s else s.releaseLanes s.cur t
    let asked := (s1.mine.laneReqs.any fun (r : StrandId × LaneClass) => r.1 = t) ||
      s1.mine.uses.any fun (u : ArrayId × ArrayUse) => decide (u.2 = ArrayUse.lending t ∨ u.2 = ArrayUse.leaving t)
    let s2 := if asked then s1 else s1.setMine { s1.mine with laneReqs := s1.mine.laneReqs ++ [(t, cls)] }
    (s2.park .lanes).serveLanes s2.cur 16

/-- Steps 7 and 8 of R29, from the nodes in the rule's order, the rule word and the handler's address. -/
def State.enterHandler (s : State) : State :=
  match s.me.firing, s.me.rulePair with
  | some x, some (first, second, w, haddr) =>
    s.withLanes (if field w 39 38 = 1 then .long else .short) fun (s1 : State) =>
      let swapped := decide (first.toNat ≠ x.node1.toNat)
      let st := ((s1.me.withX 27 second).withX 28 w).withX 29 (flagAt swapped 4 ||| word x.origin.toNat)
      s1.setMe { st with pc := haddr, nstep := 0, rulePair := none }
  | _, _ => s

/-- Raise ILLEGAL with the pair's nodes in x26 and x27 (R29 steps 4 and 5). -/
def State.pairIllegal (s : State) (a b : Nat) (tval : Word) : State :=
  ((s.setReg 26 (word a)).setReg 27 (word b)).trap .illegal tval

/-- Steps 5 to 8 of R29 for a found rule; `hs` are the handles to check, in their order. -/
def State.fireRule (s : State) (x : Pair) (t1 t2 : Nat) (w haddr : Word) (hs : List Nat) : State :=
  let a := x.node1.toNat
  let b := x.node2.toNat
  let objs := hs.map fun h => (h, s.object s.myCtx h)
  match objs.find? fun (o : Nat × ObjEntry) => !o.2.valid with
  | some (h, _) => s.pairIllegal a b (word (2 ^ 63 + h))
  | none =>
    let need := objs.foldl (fun (m : BitVec 128) o => m ||| o.2.mask) 0
    match lowestMissing need s.mine.capmask with
    | some i => s.capFail x need i
    | none =>
      let swapped := decide (t1 ≠ t2) && decide (t1 ≠ field w 63 52)
      let first := word (if swapped then b else a)
      let second := word (if swapped then a else b)
      let s1 := s.setReg 26 first
      ((s1.setMe { s1.me with rulePair := some (first, second, w, addr50 (haddr.extractLsb' 2 50)) }).markNext
        7).enterHandler

/-- Step 5 of R29: word 1 of every primitive node (R25). -/
def State.primHandles (s : State) (k : List Nat → State → State) : List (Nat × Word) → List Nat → State
  | [], hs => k hs s
  | (a, h) :: rest, hs =>
    if bit h 51 then s.peekWord (a + 8) fun w (s1 : State) => s1.primHandles k rest (hs ++ [field w 63 48])
    else s.primHandles k rest hs

/-! ### Continuations -/

/-- The CSRs of slots 31 to 42 of a continuation, in order (R195). -/
def contCsrs : List Nat := [0x000, 0x003, 0x005, 0x004, 0x008, 0x009, 0x00a, 0x00b, 0x010, 0x011, 0x002, 0x012]

/-- The 45 slots of a continuation (R195). -/
def Strand.slots (st : Strand) (t : StrandId) : List Word :=
  st.x.toList.drop 1 ++ contCsrs.map (fun n => st.csr t n) ++ [0, 0]

/-- A strand with the slots of a continuation restored, CHANMAP apart (R196). -/
def Strand.restoreSlots (st : Strand) (ws : List Word) : Strand :=
  let st1 := (List.range 31).foldl (fun (a : Strand) k => a.withX (BitVec.ofNat 5 (k + 1)) (ws.getD k 0)) st
  (contCsrs.zipIdx).foldl (fun (a : Strand) (x : Nat × Nat) =>
    if x.1 = 0x010 then a else a.restoreCsr x.1 (ws.getD (31 + x.2) 0)) st1

/-- Read n record nodes from an address: go on with the nodes and their slots (R195, R196). -/
def State.readRecords (k : List Nat → List Word → State → State) : Nat → Nat → List Nat → List Word → State → State
  | 0, _, ns, ws, s => k ns ws s
  | n + 1, a, ns, ws, s =>
    s.readWord a fun w0 (s0 : State) =>
      s0.readWord (a + 8) fun w1 (s1 : State) =>
        s1.readWord (a + 16) fun w2 (s2 : State) =>
          s2.readWord (a + 24) fun w3 (s3 : State) =>
            if n ≠ 0 ∧ bit w0 0 then s3.trap .align (word a)
            else State.readRecords k n (linkNode w0) (ns ++ [a]) (ws ++ [w1, w2, w3]) s3

/-- A resumption (R196) of the CONT node and its RESUME node: `bad` where its handle names no object, `cap` where its
mask is not met, `done` for what the firing becomes. It writes x1 to x31, and so waits for those that are pending (R164;
assumption 74). -/
def State.resumeCont (s : State) (cont res : Nat) (bad : Nat → State → State)
    (cap : BitVec 128 → Nat → State → State) (done : Strand → Strand) : State :=
  s.readWord (cont + 8) fun w1 (s1 : State) =>
    s1.readWord (cont + 16) fun w2 (s2 : State) =>
      s2.readWord (cont + 24) fun w3 (s3 : State) =>
        State.readRecords (fun ns ws (s4 : State) =>
          let h := field w2 27 16
          let o := s4.object s4.myCtx h
          if !o.valid then bad h s4
          else match lowestMissing o.mask s4.mine.capmask with
            | some i => cap o.mask i s4
            | none =>
              s4.withLanes (if field w2 1 0 = 1 then .long else .short) fun (s5 : State) =>
                s5.portPlaces (fun pls (s6 : State) =>
                  s6.afterRelease .dev fun (s7 : State) =>
                    if s7.me.pending ≠ [] then s7.park .values else
                    let st := done { s7.me.restoreSlots ws with
                      vlen := 0
                      priv := w2.extractLsb' 2 2
                      pc := addr50 (w3.extractLsb' 2 50)
                      nstep := 0
                      resumed := true }
                    let s8 := (s7.setMe st).freeNodes ((cont :: res :: ns).zip pls)
                    s8.writeChanmap s8.cur s8.str ((ws.getD 39 0).extractLsb' 0 32 &&& 0xf3f3f3f3))
                  (cont :: res :: ns) [])
          15 (field w1 47 5 * 32) [] [] s3

/-- Steps 4 to 8 of R29 for the headers of the pair's nodes, or the resumption that takes their place (R183). -/
def State.fireFrom4 (s : State) (x : Pair) (h1 h2 : Word) : State :=
  let a := x.node1.toNat
  let b := x.node2.toNat
  let t1 := field h1 63 52
  let t2 := field h2 63 52
  let resume (c r : Nat) : State :=
    s.resumeCont c r (fun h (z : State) => z.pairIllegal c r (word (2 ^ 63 + h)))
      (fun need i (z : State) => z.capFail x need i) id
  if t1 = 0xffe ∧ bit h1 50 ∧ t2 = 0xfff then resume a b
  else if t2 = 0xffe ∧ bit h2 50 ∧ t1 = 0xfff then resume b a
  else match s.lookupRule s.cur s.myCtx t1 t2 with
    | (none, s1) => s1.pairIllegal a b (word (t1 * 2 ^ 16 + t2))
    | (some (w, h), s1) =>
      (s1.markNext 5).primHandles (fun hs (z : State) => z.fireRule x t1 t2 w h (field w 35 24 :: hs)) [(a, h1), (b, h2)] []

/-- Steps 3 to 8 of R29 for the pair that the strand holds. -/
def State.firePair (s : State) (x : Pair) : State :=
  s.peekWord x.node1.toNat fun h1 (s0 : State) =>
    s0.peekWord x.node2.toNat fun h2 (s1 : State) => (s1.markNext 4).fireFrom4 x h1 h2

/-- Steps 4 to 8 of R29 again, after a stop there: step 3 does not wait again. The strand holds the two nodes and ORIGIN
alone, and the number of the step (R182, R393), so the types and the entry are those that now stand (assumption 87). -/
def State.fireAgain (s : State) (x : Pair) : State :=
  s.readWord x.node1.toNat fun h1 (s0 : State) =>
    s0.readWord x.node2.toNat fun h2 (s1 : State) => s1.fireFrom4 x h1 h2

/-- NEXT of a strand that holds its pair, from the step at which it stands (R182). -/
def State.nextFires (s : State) : State :=
  match s.me.firing with
  | none => s
  | some x =>
    if s.me.rulePair.isSome then s.enterHandler
    else if s.me.nstep.toNat ≤ 3 then s.firePair x
    else s.fireAgain x

/-- Step 2 under replay (R424): the pair that the record names, with its ORIGIN, from the saddlebag or a spilled batch; the
record holds no types to compare (assumption 97). -/
def State.obtainLogged (s : State) (w0 w1 : Word) : State :=
  if field w0 63 60 = 0 ∨ 5 < field w0 63 60 then s.diverge s.myCtx
  else if field w0 63 60 ≠ 1 ∨ field w0 59 57 ≠ s.str.val then s.park .logRecord
  else
    let same (x : Pair) : Bool :=
      decide (x.node1.toNat = field w0 47 5 * 32 ∧ x.node2.toNat = field w1 47 5 * 32)
    let s1 := s.refill s.cur s.myCtx
    let fires (x : Pair) (z : State) (bag : List Pair) : State :=
      if x.origin.toNat ≠ field w0 3 0 then s1.diverge s1.myCtx
      else ((z.obtained x bag).consume z.cur z.myCtx 1).nextFires
    match s1.mine.bag.reverse.find? same with
    | some x => fires x s1 (s1.mine.bag.erase x)
    | none =>
      let l := s1.mine.lcore.toNat
      match s1.findSpilled s1.myCtx l same ((s1.ctx s1.myCtx).spills l) with
      | none => s1.hunt
      | some (a, x) =>
        let s2 := s1.fillSpilled a
        fires x s2 s2.mine.bag

/-- Step 2 of R29. -/
def State.nextObtains (s : State) : State :=
  let s0 := s.markNext 2
  let c := s0.myCtx
  if (s0.ctx c).count = 0 then s0.nextFalls
  else match s0.nextRecord s0.cur c with
    | some (w0, w1) => s0.obtainLogged w0 w1
    | none =>
      let s1 := s0.refill s0.cur c
      match s1.mine.bag.getLast? with
      | none => s1.hunt
      | some x => (s1.obtained x s1.mine.bag.dropLast).nextFires

/-- What an ending instruction that holds its strand waits for: earlier vector and tile instructions, and the release (R31). -/
def State.afterEnding (s : State) (k : State → State) : State := s.drained fun (a : State) => a.afterRelease .dev k

/-- NEXT from the step at which it stands (R29, R182): a held pair is not obtained again, a firing that has ended does
not end again. -/
def State.nextRuns (s : State) : State :=
  if s.me.firing.isSome then
    if s.me.nextAt = s.me.pc ∧ 3 ≤ s.me.nstep.toNat then s.nextFires
    else (s.markNext 1).afterEnding fun (a : State) => a.endFiring.nextObtains
  else s.nextObtains

/-- NEXT (R29). -/
def execNext (s : State) : Host.Outcome State Fault Refusal := .next s.nextRuns

/-- NFWD (R193). -/
def execNfwd (rs1 : BitVec 5) (s : State) : Host.Outcome State Fault Refusal :=
  let x := s.reg rs1
  .next (if s.me.inNext then s.nextRuns
    else if s.me.resumed then s.trap .illegal (((encode (.nfwd rs1)).getD 0).zeroExtend 64)
    else match s.me.firing with
    | none => s.trap .illegal (((encode (.nfwd rs1)).getD 0).zeroExtend 64)
    | some p =>
      if (s.ctx s.myCtx).size ≤ x.toNat then s.trap .access x
      else s.afterEnding fun (a : State) =>
        a.forwardLogged x.toNat fun (b : State) => (b.forwardPair p x.toNat).nextObtains)

/-- The last entry of a list is to end a firing, or no firing, when it retires (R184). -/
def markEnding (fired : Bool) (l : List QEntry) : List QEntry :=
  match l.reverse with
  | [] => []
  | e :: es => ({ e with ending := e.ending ++ [fired] } :: es).reverse

/-- NDONE (R31, R184) goes on at once: with entries queued or held, the release, the decrement and the release of the lanes
are left to the last of them, and with none the decrement to the release's last answer. -/
def State.ndone (s : State) : State :=
  let st := s.me
  let fired := st.firing.isSome
  let s1 := s.setMe { st with vlen := 0, firing := none, resumed := false, rulePair := none }
  if st.replay ≠ [] then (s1.setMe { s1.me with replay := markEnding fired st.replay }).advance
  else if st.queue ≠ [] then (s1.setMe { s1.me with queue := markEnding fired st.queue }).advance
  else
    let s2 := s1.endLeft s1.cur s1.str fired
    ((s2.releaseLanes s2.cur s2.str).serveLanes s2.cur 16).advance

/-- NDONE (R184). -/
def execNdone (s : State) : Host.Outcome State Fault Refusal := .next s.ndone

/-- The words of the nodes of a continuation, CONT, RESUME and records in order (R195). -/
def contNodes (st : Strand) (t : StrandId) (handle : Nat) (ns : List Nat) : List (Word × Word × Word × Word) :=
  let n (k : Nat) : Nat := ns.getD k 0
  let sl := st.slots t
  let cls := match st.cls with | .long => 1 | _ => 0
  [(word (0xffe * 2 ^ 52 + 2 ^ 50 + linkTo 0 (n 1)), word (n 2),
      word (handle * 2 ^ 16 + st.priv.toNat * 4 + cls), word ((st.pc.toNat + 4) % 2 ^ 52 / 4 * 4)),
    (word (0xfff * 2 ^ 52 + linkTo 0 (n 0)), 0, 0, 0)] ++
  (List.range 15).map fun k =>
    (word (0xffd * 2 ^ 52 + (if k = 14 then 0 else linkTo 0 (n (k + 3)))),
      sl.getD (3 * k) 0, sl.getD (3 * k + 1) 0, sl.getD (3 * k + 2) 0)

/-- Write nodes, every word full. -/
def State.writeNodes (s : State) : List (Place × Word × Word × Word × Word) → State
  | [] => s
  | (pl, a, b, c, d) :: rest => (s.fillNode pl a b c d).writeNodes rest

/-- YIELD once it holds its 17 nodes (R194 steps 3 to 6). -/
def State.yieldPush (s : State) (ns : List Nat) : State :=
  s.portPlaces (fun pls (s1 : State) =>
    let h := match s1.objectAt s1.myCtx s1.me.pc.toNat with | some (h, _) => h | none => 0
    let ws := contNodes s1.me s1.str h ns
    let s2 := s1.writeNodes (pls.zip ws)
    let s3 := s2.setMe { s2.me with progress := [], taken := false }
    s3.push ⟨BitVec.ofNat 48 (ns.getD 0 0), BitVec.ofNat 48 (ns.getD 1 0), 0⟩ true true
      fun (a : State) => a.endFiring.nextObtains) ns []

/-- The node addresses among what takeNodes has gathered. -/
def nodesOf : List Word → List Nat
  | a :: _ :: _ :: _ :: _ :: rest => a.toNat :: nodesOf rest
  | _ => []

/-- YIELD (R39, R194): with both pools empty every node it has taken is freed first. -/
def State.yield (s : State) : State :=
  s.afterEnding fun (a : State) =>
    if a.me.readq ≠ [] then a.park .values
    else
      a.ownProgress.takeNodes 17
        (fun pr (z : State) => z.portPlaces (fun pls (y : State) =>
          let y1 := y.freeNodes ((nodesOf pr).zip pls)
          (y1.setMe { y1.me with progress := [], taken := false }).trap .nodePoolEmpty 0) (nodesOf pr) [])
        (fun pr (z : State) => z.yieldPush (nodesOf pr)) 110

/-- YIELD (R194). -/
def execYield (s : State) : Host.Outcome State Fault Refusal :=
  .next (if s.me.inNext then s.nextRuns else s.yield)

/-- RESUME of the CONT node at c, its TYPE, C and handle checked before the firing ends (R197). -/
def State.resumeAt (s : State) (c : Nat) : State :=
  s.readWord c fun w0 (s0 : State) =>
    if field w0 63 52 ≠ 0xffe ∨ !bit w0 50 then s0.trap .illegal (word c)
    else s0.readWord (c + 16) fun w2 (s1 : State) =>
      let h := field w2 27 16
      if !(s1.object s1.myCtx h).valid then s1.trap .illegal (word (2 ^ 63 + h))
      else if s1.me.firing.isSome then
        s1.afterEnding fun (a : State) => a.endFiring
      else if bit w0 0 then s1.trap .align (word c)
      else
        let r := linkNode w0
        s1.resumeCont c r (fun g (z : State) => z.trap .illegal (word (2 ^ 63 + g)))
          (fun _ i (z : State) => z.trap .capability (word i))
          fun (st : Strand) => { st with
            tact := false
            firing := some ⟨BitVec.ofNat 48 c, BitVec.ofNat 48 r, 0⟩ }

/-- RESUME (R197). -/
def execResume (rs1 : BitVec 5) (s : State) : Host.Outcome State Fault Refusal :=
  let x := s.reg rs1
  .next (if x.toNat % 32 ≠ 0 then s.trap .align x else s.resumeAt x.toNat)

end Sys2Proof.Machine
end

