-- ==== Sys2Proof/Machine/Code.lean ====
section
/-! DEFINITION. PUBLISH and OBJFREE (R74 to R81, R85). -/

namespace Sys2Proof.Machine

/-! ### What one code word is -/

/-- The family of an instruction (R80), none for a hint word. -/
def family (w : IWord) (i : Instr) : Option Nat :=
  match i with
  | .vmul _ | .vmulh _ | .vmac _ | .vdiv _ | .vrem _ => some 7
  | .vfmul _ | .vfma _ | .vfnma _ | .vfdiv _ | .vfsqrt _ | .vfrsq _ | .vfexp2 _ | .vflog2 _ => some 11
  | _ =>
    match (w.extractLsb' 26 6).toNat with
    | 0x0a => some 1
    | 0x13 | 0x14 | 0x15 | 0x16 | 0x17 => some 2
    | 0x1a => some 3
    | 0x1b | 0x1c => some 4
    | 0x20 | 0x29 => some 5
    | 0x21 => some 6
    | 0x22 | 0x23 => some 8
    | 0x24 => some 9
    | 0x25 => some 10
    | 0x26 => some 12
    | 0x27 | 0x28 | 0x2d => some 13
    | 0x2a | 0x2b | 0x2c => some 14
    | 0x2e | 0x2f => some 15
    | 0x3c | 0x3d | 0x3e => none
    | _ => some 0

/-- Whether an instruction of major opcodes 0x21 to 0x2f reads VTYPE (R130). -/
def readsVtype : Instr → Bool
  | .mand _ _ _ | .mor _ _ _ | .mxor _ _ _ | .mnot _ _ | .mpopc _ _ _ | .mfirst _ _ _ | .mset _ | .tgmovToMask _ _
  | .tgmovToTag _ _ | .ttload _ _ | .vsend _ _ _ => false
  | _ => true

/-- Whether an instruction is above task level (R140). -/
def aboveTask : Instr → Bool
  | .tret | .haltc | .ovtset _ | .objfree _ _ | .snap _ _ => true
  | .csrr _ n => !csrTaskReads n.toNat
  | .csrw _ n | .csrs _ n | .csrc _ n => !csrTaskWrites n.toNat
  | _ => false

/-- The word distance of a direct branch or jump. -/
def branchOffset : Instr → Option Int
  | .beq _ _ o | .bne _ _ o | .blt _ _ o | .bge _ _ o | .bltu _ _ o | .bgeu _ _ o => some o.toInt
  | .jal o => some o.toInt
  | _ => none

/-! ### The object -/

/-- The header of an object (R74). -/
structure ObjHeader where
  level : Nat
  kind : Nat
  codeSize : Nat
  dataSize : Nat
  agents : Nat
  rules : Nat
  uses : BitVec 128
deriving DecidableEq, Repr

/-- The header in the first eight words of a staging buffer. -/
def objHeader (ws : List Word) : ObjHeader :=
  let w (k : Nat) : Word := ws.getD k 0
  ⟨field (w 0) 47 40, field (w 0) 55 48, field (w 1) 31 0, field (w 1) 63 32, field (w 2) 31 0, field (w 2) 63 32,
    BitVec.ofNat 128 ((w 4).toNat + (w 5).toNat * 2 ^ 64)⟩

/-- Offset of the data section (R74). -/
def ObjHeader.data (h : ObjHeader) : Nat := 64 + (h.codeSize + 7) / 8 * 8
/-- Offset of the agent records. -/
def ObjHeader.agentAt (h : ObjHeader) : Nat := h.data + h.dataSize
/-- Offset of the rule records. -/
def ObjHeader.ruleAt (h : ObjHeader) : Nat := h.agentAt + 8 * h.agents
/-- Bytes of the object. -/
def ObjHeader.size (h : ObjHeader) : Nat := h.ruleAt + 8 * h.rules

/-- The refusal of a header (R78): BAD_HEADER, KIND. -/
def headerRefusal (ws : List Word) (runtime : Bool) : Option Nat :=
  let w (k : Nat) : Word := ws.getD k 0
  let h := objHeader ws
  if field (w 0) 31 0 ≠ 0x4f424a41 ∨ field (w 0) 39 32 ≠ 1 ∨ field (w 0) 63 56 ≠ 0 ∨ w 3 ≠ 0 ∨ w 6 ≠ 0 ∨ w 7 ≠ 0 ∨
      h.level = 0 ∨ 1 < h.kind ∨ h.codeSize % 4 ≠ 0 ∨ h.codeSize < 4 ∨ 2 ^ 24 < h.codeSize ∨ h.dataSize % 8 ≠ 0 ∨
      2 ^ 26 < h.dataSize ∨ 4092 < h.agents ∨ 4096 < h.rules then some 1
  else if h.kind = 1 ∧ !runtime then some 2
  else none

/-- The refusal of a code word at a byte offset of the code section (R78). -/
def codeRefusal (h : ObjHeader) (w : IWord) (at' : Nat) : Option Nat :=
  match decode w with
  | .error .unallocated => some 3
  | .error .reservedSet => some 4
  | .error .m0Write => some 5
  | .ok i =>
    let missing : Bool := match family w i with
      | some f => decide (6 ≤ f) && readsVtype i && (List.range 7).all fun c => !h.uses.getLsbD (8 * f + c + 1)
      | none => false
    let out : Bool := match branchOffset i with
      | some d => decide ((at' : Int) + 4 * d < 0 ∨ (h.codeSize : Int) ≤ at' + 4 * d)
      | none => false
    if h.kind = 0 && aboveTask i then some 6
    else if missing then some 7
    else if out then some 8
    else none

/-- The types that some agent records declare. -/
def agentTypes (ws : List Word) : List Nat := ws.map fun w => field w 63 52

/-- The refusal of an agent record after others (R78). -/
def agentRefusal (earlier : List Word) (w : Word) : Option Nat :=
  let t := field w 63 52
  if field w 51 48 ≠ 0 ∨ field w 45 0 ≠ 0 ∨ t = 0 ∨ 0xffd ≤ t ∨ t ∈ agentTypes earlier then some 12 else none

/-- The unordered pair of types of a rule record. -/
def ruleTypes (w : Word) : Nat × Nat :=
  (min (field w 63 52) (field w 51 40), max (field w 63 52) (field w 51 40))

/-- The refusal of a rule record after others (R78). -/
def ruleRefusal (h : ObjHeader) (agents earlier : List Word) (w : Word) : Option Nat :=
  let reserved (t : Nat) : Bool := decide (t = 0 ∨ t = 0xffe ∨ t = 0xfff)
  let unknown (t : Nat) : Bool := !decide (t = 0xffd ∨ t ∈ agentTypes agents)
  let a := field w 63 52
  let b := field w 51 40
  if reserved a || reserved b then some 9
  else if decide (field w 37 32 ≠ 0 ∨ 2 ≤ field w 39 38 ∨ field w 31 0 % 4 ≠ 0 ∨ h.codeSize ≤ field w 31 0) ||
      unknown a || unknown b || decide (ruleTypes w ∈ earlier.map ruleTypes) then some 10
  else none

/-- The refusal that the word at place i of the object meets, with its byte offset, given the words before it (R77,
R78). The header is checked with its last word. -/
def wordRefusal (runtime : Bool) (ws : List Word) (i : Nat) : Option (Nat × Nat) :=
  if i < 7 then none
  else if i = 7 then (headerRefusal ws runtime).map fun r => (0, r)
  else
    let h := objHeader ws
    let o := 8 * i
    let w := ws.getD i 0
    let agents := (ws.drop (h.agentAt / 8)).take h.agents
    if o < 64 + h.codeSize then
      match codeRefusal h (w.extractLsb' 0 32) (o - 64) with
      | some r => some (o, r)
      | none =>
        if o + 4 < 64 + h.codeSize then (codeRefusal h (w.extractLsb' 32 32) (o - 60)).map fun r => (o + 4, r) else none
    else if o < h.agentAt then none
    else if o < h.ruleAt then (agentRefusal (agents.take ((o - h.agentAt) / 8)) w).map fun r => (o, r)
    else (ruleRefusal h agents ((ws.drop (h.ruleAt / 8)).take ((o - h.ruleAt) / 8)) w).map fun r => (o, r)

/-- The code words of an object. -/
def codeWords (h : ObjHeader) (ws : List Word) : List IWord :=
  (((ws.drop 8).flatMap fun w => [w.extractLsb' 0 32, w.extractLsb' 32 32])).take (h.codeSize / 4)

/-- The mask of an object (R81). -/
def objMask (h : ObjHeader) (ws : List Word) : BitVec 128 :=
  (codeWords h ws).foldl (fun (m : BitVec 128) w =>
    match decode w with
    | .error _ => m
    | .ok i =>
      match family w i with
      | none => m
      | some f =>
        if f < 6 ∨ readsVtype i = false then m ||| BitVec.ofNat 128 (2 ^ (8 * f))
        else m ||| (h.uses &&& BitVec.ofNat 128 (0xfe * 2 ^ (8 * f)))) 0

/-! ### The arena -/

/-- Valid objects of a context's arena with their handles. -/
def State.objects (s : State) (c : CtxId) : List (Nat × ObjEntry) :=
  (List.range 4095).filterMap fun k =>
    let o := s.object c (k + 1)
    if o.valid then some (k + 1, o) else none

/-- The lowest aligned free place for n bytes in a context's arena (R77). -/
def State.freePlace (s : State) (c : CtxId) (n : Nat) : Option Nat :=
  let k := (s.ctx c).entry
  let objs := s.objects c
  let free (a : Nat) : Bool := decide (a + n ≤ k.arenaBound) &&
    objs.all fun (o : Nat × ObjEntry) => decide (a + n ≤ o.2.base ∨ o.2.base + o.2.size ≤ a)
  let cands := (k.arenaBase + 131072) :: objs.map fun (o : Nat × ObjEntry) => (o.2.base + o.2.size + 63) / 64 * 64
  (cands.filter free).foldl (fun (b : Option Nat) a =>
    match b with | none => some a | some x => some (min x a)) none

/-- Whether a line of 64 bytes holds any of n bytes from an address. -/
def lineMeets (pa n line : Nat) : Bool := decide (pa / 64 ≤ line ∧ line ≤ (pa + n - 1) / 64)

/-- A strand whose fetch buffer holds no line of n bytes from an address. -/
def Strand.dropLines (st : Strand) (pa n : Nat) : Strand :=
  { st with fetchBuf := st.fetchBuf.filter fun (l : Nat × Option Nat) => !lineMeets pa n l.1 }

/-- Instruction-cache lines and fetch buffers that hold any of n bytes from an address leave every core (R79). -/
def State.dropCode (s : State) (pa n : Nat) : State :=
  { s with cores := s.cores.map fun (c : Core) => { c with
      icache := c.icache.filter fun (l : Nat × Nat) => !lineMeets pa n l.1
      strands := c.strands.map fun (st : Strand) => st.dropLines pa n } }

/-- Put a checked object into the arena (R77). -/
def State.placeObject (s : State) (rd : BitVec 5) (ws : List Word) : State :=
  let c := s.myCtx
  let h := objHeader ws
  let base := (s.ctx c).entry.arenaBase
  let handle := (List.range 4095).find? fun k => !(s.object c (k + 1)).valid
  match handle, s.freePlace c h.size with
  | some k, some a =>
    let m := objMask h ws
    let d := base + 32 * (k + 1)
    let s1 := s.pokeHome a ((ws.flatMap fun w => leBytes 8 w.toNat).take h.size)
    let s2 := (((s1.pokeWord d (word (2 ^ 63 + h.level * 2 ^ 48 + h.kind * 2 ^ 47 + (a - base)))).pokeWord (d + 8)
      (word h.size)).pokeWord (d + 16) (m.extractLsb' 0 64)).pokeWord (d + 24) (m.extractLsb' 64 64)
    s2.finish rd (word (k + 1))
  | _, _ => s.finish rd (word (2 ^ 63 + 11))

/-- End a PUBLISH's pass: what it has read is dropped. -/
def State.passOver (s : State) : State := s.setMe { s.me with progress := [] }

/-- The pass of PUBLISH (R77): words are read once, in ascending address, and checked as they come. A fault starts it
again; a word at the host or a peer is waited for. -/
def State.publishPass (s : State) (rd : BitVec 5) (va : Word) : Nat → State
  | 0 => s
  | fuel + 1 =>
    let ws := s.me.progress
    let i := ws.length
    match (if i = 0 then none else wordRefusal s.isRuntime ws (i - 1)) with
    | some (o, r) => s.passOver.finish rd (word (2 ^ 63 + o * 2 ^ 16 + r))
    | none =>
      if 8 ≤ i ∧ (objHeader ws).size ≤ 8 * i then
        let h := objHeader ws
        let s1 := s.passOver
        if Config.deviceLevel < h.level then s1.trap .levelUnsupported (word (h.level * 256 + Config.deviceLevel))
        else s1.placeObject rd ws
      else
        let a := va + word (8 * i)
        match s.place s.cur s.myCtx s.isRuntime false a 4 .read with
        | (.error x, s1) => (if x = .await then s1 else s1.passOver).trap x a
        | (.ok pl, s1) =>
          let s2 := s1.performSame s.cur s.str pl.pa 8
          if s2.isBadFor s2.cur pl.pa 8 .u then s2.passOver.trap .memUncorrectable a
          else if isExternal pl.pa then
            (s2.writeBackOwn s2.cur (grainSectors pl.pa pl.grain)).ask a pl.pa (.read pl.pa 8) none none
          else
            let (bs, s3) := s2.loadAt s.cur pl.pa 8 pl.grain pl.dev .u false
            (s3.setMe { s3.me with progress := ws ++ [word (fromLe bs)] }).publishPass rd va fuel

/-- PUBLISH (R77): the pass has at most 8 words of header, 2^21 of code, 2^23 of data and the records. -/
def execPublish (rd rs1 : BitVec 5) (s : State) : Host.Outcome State Fault Refusal :=
  let x := s.reg rs1
  .next (if x.toNat % 8 ≠ 0 then s.trap .align x
    else (s.ownProgress.acquireAt .dev).publishPass rd x (2 ^ 24))

/-- OBJFREE of a valid handle (R79). -/
def State.freeObject (s : State) (h : Nat) : State :=
  let c := s.myCtx
  let o := s.object c h
  let d := (s.ctx c).entry.arenaBase + 32 * h
  ((s.pokeWord d (s.homeWord d &&& ~~~flagAt true 63)).pokeHome o.base (List.replicate (o.size / 4 * 4) 0)).dropCode
    o.base o.size

/-- OBJFREE (R79). -/
def execObjfree (rd rs1 : BitVec 5) (s : State) : Host.Outcome State Fault Refusal :=
  let x := s.reg rs1
  .next (s.privileged (.objfree rd rs1) fun (a : State) =>
    if field x 63 12 ≠ 0 ∨ (a.object a.myCtx (field x 11 0)).valid = false then a.finish rd 1
    else (a.freeObject (field x 11 0)).finish rd 0)

end Sys2Proof.Machine
end

