-- ==== Sys2Proof/Machine/Sync.lean ====
section
/-! DEFINITION. The trap group (R155 to R160), SEND (R358) and RSERVE (R363, R364). -/

namespace Sys2Proof.Machine

/-- TRAP (R156). -/
def execTrap (rs1 : BitVec 5) (s : State) : Host.Outcome State Fault Refusal :=
  let x := s.reg rs1
  .next (s.drained fun a => a.trapEntry (x.extractLsb' 0 16) true x (a.me.pc + 4))

/-- BRK (R156): a strand for which a debugger has armed debug halt stops instead (R398). -/
def execBrk (s : State) : Host.Outcome State Fault Refusal :=
  .next (s.drained fun a =>
    if a.mine.dbg.arm.getLsbD a.str.val then a.debugHalt a.cur a.str else a.trap .brk 0)

/-- Pushes that a strand still owes are completed on return, oldest first (R191), with SPILL_FULL again while the spill area
is full. -/
def State.payPushes (k : State → State) : List (Pair × Bool × Word) → State → State
  | [], s => k s
  | x :: rest, s =>
    match s.enterBag s.cur s.myCtx x.1 x.2.1 with
    | none => s.trap .spillFull 0
    | some s1 =>
      let s2 := (s1.wakePairs s1.cur).entered s1.cur s1.myCtx
      payPushes k rest (s2.setMe { s2.me with counted := s2.me.counted.erase x })

/-- TRET completes the pushes whose SPILL_FULL left the TEPC that it returns to, and at a return to task level all that are
left. A return to the TEPC of a YIELD goes back to that YIELD, for the rest of it: R191 completes the push alone (assumption
89). -/
def State.payPush (s : State) (k : State → State) : State :=
  let due := s.me.counted.filter fun (x : Pair × Bool × Word) => decide (x.2.2 = s.me.pc ∨ s.me.priv = 0)
  let start := s.me.pc - 4
  let yields := due.any fun (x : Pair × Bool × Word) => x.2.1 && decide (x.2.2 = s.me.pc)
  s.payPushes (fun (a : State) => k (if yields then a.setMe { a.me with pc := start, nextAt := start, nstep := 1 } else a)) due

/-- What waited for the return of an asynchronous SPILL_FULL is tried again (R93, R98). -/
def State.payServing (s : State) : State :=
  match s.me.serving with
  | none => s
  | some (_, v) =>
    let s1 := s.setMe { s.me with serving := none }
    if v.toNat ≤ 3 then s1.retryHeld s1.cur else (s1.launchReady s1.myCtx).retryPreempts

/-- TRET (R157, R386): the latch is set (R158; assumption 19), and held entries re-commit before any fetch. -/
def State.tret (s : State) : State :=
  let st := s.me
  let s1 := s.setMe { st with
    pc := addr50 st.tepc
    priv := if st.ppriv = 3 then 2 else st.ppriv
    tact := false
    latch := true }
  s1.payPush fun (a : State) => (a.setMe a.me.startRecommit).payServing

/-- TRET (R157). -/
def execTret (s : State) : Host.Outcome State Fault Refusal := .next (s.privileged .tret State.tret)

/-- WFE (R159). -/
def execWfe (s : State) : Host.Outcome State Fault Refusal :=
  .next (if s.me.latch then (s.setMe { s.me with latch := false }).advance else s.park .latch)

/-- The SPILL_FULL traps that a strand was asked for as it halts are asked of another (R93, R98). -/
def State.askAnother (s : State) : State :=
  let launch : Bool := (s.me.asyncTraps ++ s.me.serving.toList).any fun (x : BitVec 16 × Word) => decide (3 < x.2.toNat)
  let s1 := (s.setMe { s.me with asyncTraps := [], serving := none }).retryHeld s.cur
  if launch then s1.launchReady s1.myCtx else s1

/-- What HALTC waits for (R160): earlier vector and tile instructions, and in a firing the release that ends it. -/
def State.haltcWaits (s : State) (k : State → State) : State :=
  if s.me.firing.isSome then s.afterEnding k else s.drained k

/-- HALTC once every earlier instruction and access has completed (R160). -/
def State.haltc (s : State) : State :=
  let s1 := s.endFiring
  let s2 := ((s1.releaseLanes s1.cur s1.str).serveLanes s1.cur 16).advance
  let s3 := (s2.setMe { s2.me with halted := true, dbgStep := false }).askAnother
  (s3.noteDone s3.myCtx).retryPreempts

/-- HALTC (R160, R387): it discards held entries first. -/
def execHaltc (s : State) : Host.Outcome State Fault Refusal :=
  .next (s.privileged .haltc fun (a : State) => (a.dropReplay a.cur a.str).haltcWaits State.haltc)

/-- SEND (R358, R359): the strand waits until its deposit has been accepted. -/
def execSend (rs1 rs2 : BitVec 5) (s : State) : Host.Outcome State Fault Refusal :=
  let x := s.reg rs1
  let v := s.reg rs2
  .next (if s.badTarget s.myCtx x 1 then s.trap .access x
    else s.afterRelease .dev fun (a : State) =>
      let w := sewBits (field x 19 17)
      let e : Word := word (v.toNat % 2 ^ w)
      let b := a.park .deposit
      if bit x 15 then b.sendRedMsg b.cur (b.redFor b.cur b.str false b.myCtx x e)
      else b.sendDeposit b.cur (depositFor b.cur b.str false b.myCtx x [some e]))

/-- Whether a server's record is legal (R363). -/
def recordOk (w0 w3 : Word) : Bool :=
  decide (field w0 63 32 = 0 ∧ field w0 31 24 ≤ 8 ∧ field w0 23 16 ≤ 16 ∧ field w0 15 11 = 0 ∧ field w0 10 8 ≤ 3 ∧
    field w0 7 6 ≤ 2 ∧ w3 = 0 ∧ 0 < field w0 31 24 + field w0 23 16) && (recordTy w0 0).isSome

/-- RSERVE goes on serving: the strand waits, and held messages are taken (R364). -/
def State.serveOn (s : State) : State :=
  let s1 := s.park .server
  s1.serverRun s1.cur s1.myCtx

/-- RSERVE of a record in the core's own scratchpad (R363, R364). -/
def State.serveStart (s : State) (va : Word) (pl : Place) : State :=
  if s.isBad pl.pa 32 then s.trap .memUncorrectable va
  else
    let w0 := s.homeWord pl.pa
    if !recordOk w0 (s.homeWord (pl.pa + 24)) || s.me.firing.isSome || s.mine.server.isSome then s.trap .illegal va
    else
      let empty (a : State) (pa : Nat) : State := (a.setFull pa false).serve pa
      let s1 := empty (empty s (pl.pa + 8)) (pl.pa + 16)
      (s1.setMine { s1.mine with
        server := some ⟨s1.str, va, w0, pl.pa + 8, pl.pa + 16, 0, [], [], false⟩ }).serveOn

/-- Whether an address lies in the scratchpad of a core. -/
def inSpadOf (p : CoreId) (pa : Nat) : Bool :=
  match region pa with
  | .spad q _ => decide (q = p)
  | _ => false

/-- The checks of a record's address (R363): one outside the core's own scratchpad is ACCESS, whatever else holds of it. -/
def State.rserveNew (s : State) (va : Word) : State :=
  match s.lookup s.cur s.myCtx s.mine.ptroot va with
  | (.error x, s1) => s1.trap x va
  | (.ok e, s1) =>
    if !inSpadOf s1.cur (e.frame + (va.toNat - e.base)) then s1.trap .access va
    else match s1.place s1.cur s1.myCtx s1.isRuntime false va 32 .change with
      | (.error x, s2) => s2.trap x va
      | (.ok pl, s2) => (s2.performSame s2.cur s2.str pl.pa 32).serveStart va pl

/-- RSERVE (R363, R364): executed again after a trap it goes on. -/
def State.rserve (s : State) (va : Word) : State :=
  let known : Bool := match s.mine.server with
    | some v => decide (v.strand = s.str ∧ v.va = va)
    | none => false
  if va.toNat % 32 ≠ 0 then s.trap .align va
  else if known then s.serveOn
  else s.rserveNew va

/-- RSERVE (R363, R364). -/
def execRserve (rs1 : BitVec 5) (s : State) : Host.Outcome State Fault Refusal := .next (s.rserve (s.reg rs1))

end Sys2Proof.Machine
end

