-- ==== Sys2Proof/Machine/Host.lean ====
section
/-! DEFINITION. The boundary of the device: answers to its requests beyond the package (R429, R431, R432), requests of
the host and of peer devices (R426, R427, R431), and the combining stores of the scatter-add units (R346, R347). -/

namespace Sys2Proof.Machine

/-! ### Answers -/

/-- The first and last byte past it that a bus operation touches. -/
def BusOp.span : BusOp → Nat × Nat
  | .read pa n => (pa, pa + n)
  | .write pa bs => (pa, pa + bs.length)
  | .merge pa _ _ _ => (pa, pa + 1)
  | .atomic r | .casChain r _ => (r.pa, r.pa + 8)

/-- The cause that a failed answer raises (R429, R431). -/
def BusStatus.cause : BusStatus → Cause
  | .memError => .memUncorrectable
  | _ => .access

/-- The core whose accesses a requester makes. -/
def Requester.core : Requester → Option CoreId
  | .scalar p _ | .elem p _ _ | .copies p => some p
  | _ => none

/-- The answer to an access for which a strand waits (R289, R290, R292, R429). With a failure the strand traps, and an
instruction that was gathering words runs again from its start (R77). -/
def State.answerScalar (s : State) (e : ExtReq) (st : BusStatus) (data : List Byte) : State :=
  let s1 := s.setMe { s.me with wait := none }
  match st with
  | .ok =>
    match e.op, e.rd with
    | _, some (r, z) =>
      let s2 := match e.acq with | some sc => s1.acquireAt sc | none => s1
      s2.finish r (sextTo64 (8 * Size.bytes z) (fromLe data))
    | .read _ _, none =>
      if e.fill.isSome then s1.advance
      else s1.setMe { s1.me with progress := s1.me.progress ++ wordsOf (data.length / 8) data }
    | _, none => s1.advance
  | x => if s.me.halted then s1 else s1.trap (BusStatus.cause x) e.va

/-- The answer to a relaxed access (R288, R429): a failed load spoils its register, a failed store is reported where
the strand next waits for it. -/
def State.answerRelaxed (s : State) (p : CoreId) (t : StrandId) (e : ExtReq) (st : BusStatus) (data : List Byte) : State :=
  let me := s.strand p t
  match st, e.rd with
  | .ok, some (r, z) => s.setStrand p t (me.withX r (sextTo64 (8 * Size.bytes z) (fromLe data)))
  | .ok, none => s
  | x, some (r, _) => s.setStrand p t { me with poisoned := (r, e.va, (BusStatus.cause x).num) :: me.poisoned }
  | x, none => s.setStrand p t { me with
      relaxedFault := if me.relaxedFault.isSome then me.relaxedFault else some (e.va, (BusStatus.cause x).num) }

/-- The answer to a request of a vector element (R304, R350, R354). -/
def State.answerElem (s : State) (p : CoreId) (t : StrandId) (key : Nat) (st : BusStatus) (data : List Byte) : State :=
  match (s.strand p t).queue, (s.strand p t).head with
  | e :: _, some h =>
    match e.instr, h.reqs.find? (fun (r : VReq) => decide (r.key = key) && r.sent) with
    | some i, some r =>
      let v := s.headEnv p t e
      match st with
      | .ok =>
        match r.op with
        | .load | .scale | .high _ =>
          let x := fromLe data >>> r.bit % 2 ^ r.width
          match i with
          | .ttload slot _ => s.ttWord p t e slot (word x)
          | _ => s.gotValue p t key x
        | .store _ => (s.dropReq p t key).headSettle p t
        | .watch _ => s.watchAnswer p t e i r (fromLe data)
        | .atomic op pre => s.amoReturn p t e i r (amoChain v op r.width (fromLe data) pre)
      | x => (s.elemFault p t r.elem r.addr (BusStatus.cause x)).headSettle p t
    | _, _ => s
  | _, _ => s

/-- The answer to a write-back of core p (R276, R429): the first refused one is reported at the next release of the core. -/
def State.answerCopies (s : State) (p : CoreId) (e : ExtReq) (st : BusStatus) : State :=
  match st with
  | .ok => s
  | x => s.setCore p { s.core p with
      copyFault := if (s.core p).copyFault.isSome then (s.core p).copyFault else some (e.va, (BusStatus.cause x).num) }

/-- The notification of a context has performed in the host window (R419); a refused one leaves NOTE clear (assumption
71). -/
def State.answerNotify (s : State) (c : CtxId) (st : BusStatus) : State :=
  match st with
  | .ok => (s.setCtx c { s.ctx c with note := true }).signal c.val
  | _ => s

/-- A table entry has come from beyond the package (R272, R280): the instructions of the core that wait for one begin again. -/
def State.answerWalk (s : State) (p : CoreId) (e : ExtReq) (st : BusStatus) (data : List Byte) : State :=
  let k := s.core p
  s.setCore p { k with
    tables := k.tables ++ [(e.pa, st, word (fromLe (data.take 8)))]
    strands := k.strands.map fun (x : Strand) => if x.wait = some .walk then { x with wait := none } else x }

/-- The bytes that an answer brings its requester: those of a request that fills copies come through them (R273, R276). -/
def State.answerData (s : State) (e : ExtReq) (st : BusStatus) (data : List Byte) : List Byte × State :=
  match e.fill, st, Requester.core e.who with
  | some grain, .ok, some p =>
    let vec : Bool := match e.who with | .elem _ _ _ => true | _ => false
    s.windowFill p vec e grain 8 data
  | _, _, _ => (data, s)

/-- Whether one request may not be answered before another that was made earlier: one requester's, or one core's, accesses to
the same bytes (R339). -/
def ExtReq.follows (e x : ExtReq) : Bool :=
  (decide (x.who = e.who) || (decide (Requester.core x.who = Requester.core e.who) && (Requester.core e.who).isSome)) &&
    decide ((BusOp.span x.op).1 < (BusOp.span e.op).2 ∧ (BusOp.span e.op).1 < (BusOp.span x.op).2)

/-- What has waited for answers to a core's requests goes on (R31, R390). -/
def State.answered (s : State) (e : ExtReq) : State :=
  let s1 := match Requester.core e.who with
    | some p => allStrands.foldl (fun (a : State) t => a.payOwed p t) s
    | none => s
  s1.retryPreempts

/-- The answer to the n-th request outstanding. -/
def State.answer (s : State) (n : Nat) (st : BusStatus) (data : List Byte) : State :=
  match s.ext[n]? with
  | none => s
  | some e =>
    if (s.ext.take n).any e.follows then s
    else
      let (bs, s0) := ({ s with ext := s.ext.eraseIdx n } : State).answerData e st data
      (match e.who with
        | .scalar p t => if e.relaxed then s0.answerRelaxed p t e st bs
            else s0.asStrand p t fun (a : State) => a.answerScalar e st bs
        | .elem p t key => s0.answerElem p t key st bs
        | .engine id => if id = 0 then s0 else s0.engineAnswer id e.op st bs
        | .copies p => s0.answerCopies p e st
        | .notify c => s0.answerNotify c st
        | .walker p => s0.answerWalk p e st bs
        | .host | .peer _ => s0).answered e

/-- Whether a request outstanding waits for the host. -/
def ExtReq.toHost (e : ExtReq) : Bool := match region e.pa with | .host _ => true | _ => false

/-- An answer of the host or of a peer to the n-th request outstanding. -/
def State.answerFrom (s : State) (host : Bool) (n : Nat) (st : BusStatus) (data : List Byte) : State :=
  match s.ext[n]? with
  | some e => if e.toHost = host then s.answer n st data else s
  | none => s

/-! ### Scatter-add units -/

/-- Answer a requester outside the package. -/
def State.replyTo (s : State) (who : Requester) (st : BusStatus) (data : List Byte) : State :=
  match who with
  | .host => { s with hostReplies := s.hostReplies ++ [(st, data)] }
  | .peer d => { s with peerReplies := s.peerReplies ++ [(d, st, data)] }
  | _ => s

/-- The old value of an atomic reaches its requester (R292, R347): a strand that waits for it goes on. -/
def State.atomicDone (s : State) (r : AtomicReq) (o : Nat) : State :=
  match r.who with
  | .scalar p t =>
    match (s.strand p t).wait with
    | some (.atomic rd size acq) => s.asStrand p t fun (a : State) =>
        let b := a.setMe { a.me with wait := none }
        let c := match acq with | some sc => b.acquireAt sc | none => b
        c.finish rd (sextTo64 (8 * ASize.bytes size) o)
    | _ => s
  | who => s.replyTo who .ok (leBytes (ASize.bytes r.size) o)

/-- An uncorrectable error in the word ends an atomic (R347): a strand that waits for it runs the instruction again, which
meets the error. -/
def State.atomicFails (s : State) (r : AtomicReq) : State :=
  match r.who with
  | .scalar p t =>
    match (s.strand p t).wait with
    | some (.atomic _ _ _) => s.setStrand p t { s.strand p t with wait := none }
    | _ => s
  | who => s.replyTo who .memError []

/-- The context that the core of a requester serves. -/
def State.ctxOf (s : State) (who : Requester) : Option CtxId := (Requester.core who).bind fun p => (s.core p).serves

/-- Perform one atomic on its resident word: owned and tracked copies of the grain are recalled first (R346). -/
def State.applyAtomic (s : State) (r : AtomicReq) : State :=
  if s.isBad r.pa (ASize.bytes r.size) then s.atomicFails r
  else
    let s1 := s.recall (s.homeSectors r.pa 8) none
    let (o, s2) := s1.atomicAt r.pa r.size r.op (ASize.of r.size r.operand)
      (ASize.of r.size r.expected) (s1.ctxOf r.who)
    s2.atomicDone r o

/-- What a request does at its unit (R347): a resident word takes it at once, else it joins the word's chain; none where it
must wait for room. -/
def State.combTry (s : State) (r : AtomicReq) : Option State :=
  match s.comb.find? fun x => decide (x.pa = r.pa / 8) with
  | some x =>
    if x.resident then some (s.applyAtomic r)
    else if 32 ≤ x.chain.length then none
    else some { s with comb := s.comb.map fun y => if y.pa = x.pa then { y with chain := y.chain ++ [r] } else y }
  | none => (s.combRoom r.pa).map fun a => { a with comb := a.comb ++ [⟨r.pa / 8, false, [r], none, false, none⟩] }

/-- An atomic request reaches its unit (R347), behind earlier ones for its word that wait there. -/
def State.combine (s : State) (r : AtomicReq) : State :=
  let later : State := { s with combWait := s.combWait ++ [r] }
  if s.combWait.any fun x => decide (x.pa / 8 = r.pa / 8) then later else (s.combTry r).getD later

/-- The n-th request that waits at its unit is tried, unless an earlier one for its word waits. -/
def State.combSecond (s : State) (n : Nat) : Option State :=
  match s.combWait[n]? with
  | none => none
  | some r =>
    if (s.combWait.take n).any fun x => decide (x.pa / 8 = r.pa / 8) then none
    else ({ s with combWait := s.combWait.eraseIdx n } : State).combTry r

/-- Requests that wait at their units are tried again, oldest first. -/
def State.combRetry (s : State) : Nat → State
  | 0 => s
  | fuel + 1 =>
    match (List.range s.combWait.length).findSome? s.combSecond with
    | some s1 => s1.combRetry fuel
    | none => s

/-- The fetched word arrives and its chain is applied in arrival order; an uncorrectable error ends every operation of
it (R347). -/
def State.combineArrival (s : State) (pa : Nat) : State :=
  match s.comb.find? (fun (x : CombEntry) => decide (x.pa = pa / 8) && !x.resident) with
  | none => s
  | some x =>
    let s1 : State :=
      if s.isBad (x.pa * 8) 8 then { s with comb := s.comb.filter fun (y : CombEntry) => y.pa ≠ x.pa }
      else { s with comb := s.comb.map fun (y : CombEntry) =>
        if y.pa = x.pa then { y with resident := true, chain := [] } else y }
    (x.chain.foldl (fun (a : State) r => a.applyAtomic r) s1).combRetry (s.combWait.length + 1)

/-- A peer's CAS lanes that share a word (R351, R431): they join the word's chain together, in order, and the old value of the
first answers them. -/
def State.combineChain (s : State) (r : AtomicReq) (more : List (Word × Word)) : State :=
  more.foldl (fun (a : State) (l : Word × Word) =>
    a.combine { r with who := .engine 0, expected := l.1, operand := l.2 }) (s.combine r)

/-! ### Requests that arrive -/

/-- Whether two ranges of addresses meet. -/
def rangesMeet (a b c d : Nat) : Bool := decide (a < d ∧ c < b)

/-- Whether n bytes may not be written from outside: an arena, a sealed range, or an active snapshot's destination
(R73, R277, R327). -/
def State.keptFrom (s : State) (pa n : Nat) : Bool :=
  (s.ctxs.toList.any fun (k : Ctx) => rangesMeet pa (pa + n) k.entry.arenaBase k.entry.arenaBound) ||
  (s.seals.any fun (e : SealEntry) => rangesMeet pa (pa + n) e.base e.bound) ||
  (match s.snap with | some x => rangesMeet pa (pa + n) x.dst (x.dst + x.len) | none => false)

/-- Whether n bytes lie in memory that answers requests from outside. `c` is the context of a peer's request. -/
def State.reachable (s : State) (c : Option CtxId) (pa n : Nat) : Bool :=
  match region pa with
  | .hbm _ => inHbm pa n
  | .spad p off =>
    match c with
    | none => ((s.core p).spadPlace (off + n - 1)).isSome && decide (off + n ≤ 2 ^ 24)
    | some x => (s.spadFor x p off).isSome && (s.spadFor x p (off + n - 1)).isSome && decide (off + n ≤ 2 ^ 24)
  | _ => false

/-- Perform a request from outside at its home, as .u (R426, R431). -/
def State.outside (s : State) (who : Requester) (c : Option CtxId) (op : BusOp) : State :=
  match op with
  | .read pa n =>
    if !s.reachable c pa n then s.replyTo who .refused []
    else
      let s1 := s.combSettle (s.homeSectors pa n)
      if s1.isBad pa n then s1.replyTo who .memError [] else s1.replyTo who .ok (s1.peekHome pa n)
  | .write pa bs =>
    if !s.reachable c pa bs.length || s.keptFrom pa bs.length then s.replyTo who .refused []
    else (s.pokeHome pa bs).replyTo who .ok []
  | .merge pa b w v =>
    if !s.reachable c pa 1 || s.keptFrom pa 1 then s.replyTo who .refused []
    else
      let s1 := (s.combSettle (s.homeSectors pa 1)).recall (s.homeSectors pa 1) none
      let m := (2 ^ w - 1) * 2 ^ b % 256
      let old := fromLe (s1.peekHome pa 1)
      (s1.pokeHome pa (leBytes 1 ((old &&& (255 - m)) ||| (v % 2 ^ w * 2 ^ b)))).replyTo who .ok []
  | .atomic r =>
    let n := ASize.bytes r.size
    if !s.reachable c r.pa n || s.keptFrom r.pa n || decide (r.pa % n ≠ 0) then s.replyTo who .refused []
    else s.combine { r with who := who }
  | .casChain r more =>
    let n := ASize.bytes r.size
    if !s.reachable c r.pa n || s.keptFrom r.pa n || decide (r.pa % n ≠ 0) then s.replyTo who .refused []
    else s.combineChain { r with who := who } more

/-- A refused host write is discarded and recorded (R426, R427). -/
def State.hostError (s : State) (pa : Nat) : State :=
  { s with
    hostErrV := true
    hostErrCount := if s.hostErrCount = 2047 then 2047 else s.hostErrCount + 1
    hostErrAddr := BitVec.ofNat 52 pa }

/-- Whether MMIO control space answers: until READY only BOOTSTAT does (R442, R443). -/
def State.mmioOpen (s : State) (off : Nat) : Bool := s.plat.ready || decide (off = 0x20008)

/-- The host writes an MMIO register (R278). One of 0x5a to RESETCMD begins a warm reset (R442). -/
def State.hostRegister (s : State) (off : Nat) (v : Word) : State :=
  if mmioReg off = some .resetcmd then
    (if v = 0x5a then
      let (n, s1) := s.draw
      s1.startBoot false (Config.bootOutcome n)
    else s)
  else s.mmioWrite off v

/-- A write of the host performs (R426), or is kept as the oldest that waits (R90, R283): one of 8 aligned bytes to MMIO control
space writes a register, and another one there is refused (assumption 12). -/
def State.hostPerform (s : State) (pa : Nat) (bytes : List Byte) : State :=
  match region pa with
  | .mmio off =>
    if !s.mmioOpen off then s
    else if bytes.length = 8 ∧ off % 8 = 0 then
      match s.mmioHeld off with
      | some s1 => { s1 with hostHeld := (pa, bytes) :: s1.hostHeld }
      | none => s.hostRegister off (word (fromLe bytes))
    else if s.plat.ready then s.hostError pa
    else s
  | _ =>
    if !s.plat.ready then s
    else if bytes = [] then s
    else if !s.reachable none pa bytes.length || s.keptFrom pa bytes.length then s.hostError pa
    else s.pokeHome pa bytes

/-- The oldest write of the host that waits is tried again. -/
def State.hostGoesOn (s : State) : State :=
  match s.hostHeld with
  | [] => s
  | (pa, bytes) :: rest => ({ s with hostHeld := rest } : State).hostPerform pa bytes

/-- A host write (R426): it performs behind those that wait, as PCIe orders posted writes (R344). -/
def State.hostWrite (s : State) (pa : Nat) (bytes : List Byte) : State :=
  if s.hostHeld ≠ [] then { s with hostHeld := s.hostHeld ++ [(pa, bytes)] } else s.hostPerform pa bytes

/-- A host read (R426). -/
def State.hostRead (s : State) (pa n : Nat) : State :=
  match region pa with
  | .mmio off =>
    if s.mmioOpen off && decide (n = 8 ∧ off % 8 = 0) then s.replyTo .host .ok (leBytes 8 (s.mmioRead off).toNat)
    else s.replyTo .host .refused []
  | _ => if s.plat.ready then s.outside .host none (.read pa n) else s.replyTo .host .refused []

/-- A host AtomicOp (R426): FetchAdd, Swap and CAS. -/
def State.hostAtomic (s : State) (r : AtomicReq) : State :=
  if s.plat.ready && AmoOp.toHost r.op then s.outside .host none (.atomic r) else s.replyTo .host .refused []

/-- The place here of an offset of this device's peer window (R431). -/
def peerPlace (o : Nat) : Option Nat :=
  if o < feBase then some o
  else if 2 ^ 39 ≤ o ∧ o < 2 ^ 39 + 384 * 2 ^ 24 then some (spadBase + (o - 2 ^ 39))
  else none

/-- A bus operation at another address. -/
def BusOp.moved (op : BusOp) (pa : Nat) : BusOp :=
  match op with
  | .read _ n => .read pa n
  | .write _ bs => .write pa bs
  | .merge _ b w v => .merge pa b w v
  | .atomic r => .atomic { r with pa := pa }
  | .casChain r more => .casChain { r with pa := pa } more

/-- A request from a peer device to an address of its peer window (R431). A device of this one's own number shows in
DUP (R430, R432). -/
def State.peerRequest (s : State) (dev : BitVec 9) (c : CtxId) (op : BusOp) : State :=
  let s1 := if dev = s.devnum then { s with dup := true } else s
  match region (BusOp.span op).1 with
  | .peer d o =>
    if !s.plat.ready || d ≠ s1.devnum then s1
    else match peerPlace o with
      | some pa => s1.outside (.peer dev) (some c) (BusOp.moved op pa)
      | none => s1.replyTo (.peer dev) .refused []
  | _ => s1

end Sys2Proof.Machine
end

