-- ==== Sys2Proof/Machine/Platform.lean ====
section
/-! DEFINITION. The power controller and the management processor (R16, R17, R101, R172, R435 to R446): allowance,
thermal limits, boot, self-test, scrub, the event log and SPDM. -/

namespace Sys2Proof.Machine

/-! ### Power and temperature -/

/-- Change the allowance N of every core (R173): from 1 to 256, at most 128 on a capped column (R436). -/
def State.mapAllowance (s : State) (f : CoreId → Nat → Nat) : State :=
  { s with cores := Vector.ofFn fun (p : CoreId) =>
      let k := s.core p
      { k with allowance := min (if k.thermal.capped then 128 else 256) (max 1 (f p k.allowance)) } }

/-- Whether a core serves a context under replay, where the power controller acts by idle cycles alone (R424). -/
def State.replays (s : State) (p : CoreId) : Bool :=
  match (s.core p).serves with
  | some c => decide ((s.ctx c).replay.running = 2)
  | none => false

/-- The average power over 1 ms exceeds the budget: the allowance is lowered to n where n is lower (R17). Cores under replay
keep theirs, and idle cycles are inserted in place of it (R424). -/
def State.powerWindow (s : State) (n : Vector Nat 384) : State :=
  let s1 := s.mapAllowance fun (p : CoreId) a => if s.replays p then a else min a n[p]
  let lowered := allCores.any fun p => decide ((s1.core p).allowance < (s.core p).allowance)
  let kept := allCores.any fun p => s.replays p && decide (n[p] < (s.core p).allowance)
  { s1 with plat := { s1.plat with
      loweredAt := if lowered then some s.cycles else s.plat.loweredAt
      idleInserted := s.plat.idleInserted || kept } }

/-- Base cycles in 100 µs (R15). -/
def hundredMicros : Nat := 240000

/-- The average is still above the budget 100 µs after an allowance was lowered (R17): without such a lowering no idle cycles
are inserted. -/
def State.idleInsertion (s : State) : State :=
  match s.plat.loweredAt with
  | some n => if n + hundredMicros ≤ s.cycles then { s with plat := { s.plat with idleInserted := true } } else s
  | none => s

/-- Whether every core has the highest allowance it may have (R173, R436). -/
def State.allowanceFull (s : State) : Bool :=
  s.cores.toList.all fun (k : Core) => decide (k.allowance = if k.thermal.capped then 128 else 256)

/-- The allowance is restored, up to n (R17): idle cycles go last, once every core has its allowance back. -/
def State.restoreAllowance (s : State) (n : Vector Nat 384) : State :=
  let s1 := s.mapAllowance fun (p : CoreId) a => max a n[p]
  if s1.allowanceFull then { s1 with plat := { s1.plat with idleInserted := false, loweredAt := none } } else s1

/-- The average is back within the budget (R17). -/
def State.allowanceRestore (s : State) (n : Vector Nat 384) : State :=
  if s.plat.throttled then s else s.restoreAllowance n

/-- The larger reading of a column's working sensors, in units of 1/8 °C (R436). -/
def Thermal.temp (t : Thermal) : Option Int :=
  if t.failBase && t.failCore then none
  else if t.failBase then some t.tempCore.toInt
  else if t.failCore then some t.tempBase.toInt
  else some (max t.tempBase.toInt t.tempCore.toInt)

/-- The hottest column and its temperature, the package temperature of R440; the lowest number of equal ones. -/
def State.hottest (s : State) : Option (CoreId × Int) :=
  allCores.foldl (fun (best : Option (CoreId × Int)) p =>
    match (s.core p).thermal.temp, best with
    | none, b => b
    | some t, none => some (p, t)
    | some t, some (q, u) => if u < t then some (p, t) else some (q, u)) none

/-- Above 105 °C the allowance is 1 on every core and idle cycles are inserted (R440). -/
def State.thermalThrottle (s : State) : State :=
  match s.hottest with
  | none => s
  | some (p, t) =>
    if s.plat.throttled then s
    else if t ≤ 105 * 8 then s
    else
      let s1 := s.mapAllowance fun _ _ => 1
      let s2 := { s1 with plat := { s1.plat with throttled := true, idleInserted := true, loweredAt := some s.cycles } }
      s2.logEvent 6 p.val 0 0

/-- At 100 °C the throttle ends (R440): the allowances are what the power controller sets then, and idle cycles go last
(R17). -/
def State.thermalThrottleExit (s : State) (n : Vector Nat 384) : State :=
  match s.hottest with
  | none => s
  | some (_, t) =>
    if !s.plat.throttled then s
    else if 100 * 8 < t then s
    else ({ s with plat := { s.plat with throttled := false } } : State).restoreAllowance n

/-- Above 125 °C for 1 ms every rail but VAUX is removed (R440). -/
def State.thermalShutdown (s : State) : State :=
  match s.hottest with
  | none => s
  | some (_, t) =>
    if t ≤ 125 * 8 then s
    else s.lost { s.plat with
      ready := false
      recovery := false
      stage := 0
      zeroCores := 255
      booting := none
      image := []
      poweredDown := true
      throttled := false
      idleInserted := false
      loweredAt := none
      spares := [] }

/-- One base cycle of arbitration between a column's tile unit and its pipeline, where the arguments say which of
them request full rate (R435). -/
def Thermal.arbitrate (t : Thermal) (tileFull pipeFull : Bool) : Thermal :=
  match t.temp with
  | none => t
  | some x =>
    if t.capped then t
    else if x ≤ 85 * 8 then { t with tileCount := 0, pipeCount := 0 }
    else if tileFull && pipeFull then
      if t.pipeCount < t.tileCount then { t with tileCount := 0, pipeCount := min 65535 (t.pipeCount + 1) }
      else { t with tileCount := min 65535 (t.tileCount + 1), pipeCount := 0 }
    else { t with
      tileCount := if tileFull then 0 else t.tileCount
      pipeCount := if pipeFull then 0 else t.pipeCount }

/-- VX arbitration of a column (R435). -/
def State.vxArbitration (s : State) (p : CoreId) (tileFull pipeFull : Bool) : State :=
  s.setCore p { s.core p with thermal := (s.core p).thermal.arbitrate tileFull pipeFull }

/-- A sensor is judged failed (R436). With both failed the column is capped. -/
def State.sensorFail (s : State) (p : CoreId) (w : Sensor) : State :=
  let k := s.core p
  let t := k.thermal
  let known : Bool := match w with | .base => t.failBase | .core => t.failCore
  if known then s
  else
    let t1 : Thermal := match w with | .base => { t with failBase := true } | .core => { t with failCore := true }
    let s1 := ((s.setCore p { k with thermal := t1 }).logEvent 4 p.val
      (match w with | .base => 0 | .core => 1) 0).signal 66
    if t1.failBase && t1.failCore then
      ((s1.setCore p { k with thermal := { t1 with capped := true }, allowance := min 128 k.allowance }).logEvent
        5 p.val 0 0).signal 66
    else s1

/-! ### Boot -/

/-- The classes of families 0 to 3 (R80). -/
def baseClasses : List Nat := List.range 32

/-- The self-test of one core (R444). Its effect ends with the boot. -/
def State.selfTestCore (s : State) (p : CoreId) (t : TestResult) : State :=
  let found : List (ArrayId × Nat) := t.rows.map fun (x : BitVec 4 × BitVec 4 × BitVec 12) =>
    (16 * x.1.toNat + x.2.1.toNat, x.2.2.toNat)
  let listed : List (ArrayId × Nat) := (s.plat.repair.filter fun (x : CoreId × ArrayId × Nat) => x.1 = p).map (·.2)
  let bad := (found ++ listed).dedup
  let done := (bad.zipIdx).filterMap fun (x : (ArrayId × Nat) × Nat) =>
    if ((bad.take x.2).filter fun (y : ArrayId × Nat) => y.1 = x.1.1).length < 8 then some x.1 else none
  let fails := decide (done.length ≠ bad.length) || baseClasses.any fun (i : Nat) => !t.classes.getLsbD i
  let s1 := { s with plat := { s.plat with
    spares := s.plat.spares.filter (fun (x : CoreId × ArrayId × Nat) => x.1 ≠ p) ++
      done.map fun (x : ArrayId × Nat) => (p, x.1, x.2) } }
  let s2 := done.foldl (fun (a : State) x =>
    a.logEvent 3 p.val (word (x.2 * 2 ^ 16 + x.1 / 16 * 2 ^ 12 + x.1 % 16 * 2 ^ 8)) 0) s1
  s2.setCore p { s2.core p with capmask := if fails then 0 else t.classes }

/-- BOOTSTAT.CORES: cores whose CAPMASK is all zero, at most 255 (R445). -/
def State.countZero (s : State) : State :=
  let n := min 255 (s.cores.toList.filter fun (k : Core) => k.capmask = 0).length
  { s with plat := { s.plat with zeroCores := BitVec.ofNat 8 n } }

/-- The SELF_TEST event: in step 5 of a boot, once for each core (R442, R444). -/
def State.selfTest (s : State) (p : CoreId) (t : TestResult) : State :=
  match s.plat.booting with
  | some (r, done) =>
    if s.plat.stage ≠ 5 ∨ p ∈ done then s
    else
      let s1 := (s.selfTestCore p t).countZero
      { s1 with plat := { s1.plat with booting := some (r, p :: done) } }
  | none => s

/-- Measurement 4 (R438): SHA-256 over CAPMASK and CAPMASKH of every core. -/
def State.measure (s : State) : State :=
  let masks := s.cores.toList.flatMap fun (k : Core) => leBytes 16 k.capmask.toNat
  { s with plat := { s.plat with measured := BitVec.ofNat 256 (fromLe (sha256 masks)) } }

/-- The step of R442 in progress ends: step 2 with the first copy of the image that verifies or in recovery (R443), step 5 with the
self-test of every core that has had none, step 7 with READY. -/
def State.bootStep (s : State) : State :=
  let to1 (x : State) (n : BitVec 8) : State := { x with plat := { x.plat with stage := n } }
  match s.plat.booting with
  | none => s
  | some (r, done) =>
    match s.plat.stage.toNat with
    | 2 =>
      if r.firstOk || r.secondOk then
        to1 { s with plat := { s.plat with image := if r.firstOk then s.plat.flash.1 else s.plat.flash.2 } } 3
      else ({ s with plat := { s.plat with recovery := true, booting := none } } : State).countZero
    | 5 =>
      let s1 := (allCores.filter fun p => p ∉ done).foldl (fun (a : State) p => a.selfTestCore p r.tests[p]) s
      to1 s1.countZero 6
    | 6 => to1 s.measure 7
    | 7 => { s with plat := { s.plat with ready := true, booting := none } }
    | n => to1 s (BitVec.ofNat 8 (n + 1))

/-- Some steps of a boot, one after another. -/
def State.bootSteps (s : State) : Nat → State
  | 0 => s
  | n + 1 => s.bootStep.bootSteps n

/-- A warm reset reaches only a device whose rails are up (R442). -/
def State.warmReset (s : State) (r : BootResult) : State := if s.plat.poweredDown then s else s.startBoot false r

/-- A rail leaves its voltage (R441). -/
def State.railFault (s : State) (r : BootResult) : State := if s.plat.poweredDown then s else s.startBoot true r

/-- A host's write to RESETCMD (R442), which answers from READY on (R443). -/
def State.resetCmd (s : State) (v : Word) (r : BootResult) : State :=
  if s.plat.ready ∧ v = 0x5a then s.warmReset r else s

/-- In recovery the mailbox accepts a new image, and a warm reset follows (R443). -/
def State.recoveryImage (s : State) (x : NewImage) : State :=
  if s.plat.recovery then
    ({ s with plat := { s.plat with flash := (x.bytes, x.bytes) } } : State).startBoot false x.boot
  else s

/-! ### Capability bits in operation -/

/-- The bits of a core's capability mask that go when some are cleared: losing a base class loses all (R101). -/
def goneWith (mask clear : BitVec 128) : BitVec 128 :=
  let hit := mask &&& clear
  if baseClasses.any fun (i : Nat) => hit.getLsbD i then mask else hit

/-- Clear capability bits of a core, with one event of the kind given (R101, R446); none where no bit goes. -/
def State.clearClasses (s : State) (p : CoreId) (kind : Nat) (gone : BitVec 128) : State :=
  let k := s.core p
  if gone = 0 then s
  else (((s.setCore p { k with capmask := k.capmask &&& ~~~gone }).countZero).logEvent kind p.val
    (gone.setWidth 64) ((gone >>> 64).setWidth 64)).signal 65

/-- A scrub reruns the tests of a core that serves no context (R101). -/
def State.scrub (s : State) (p : CoreId) (failing : BitVec 128) : State :=
  if s.plat.ready && (s.core p).serves.isNone then s.clearClasses p 1 (goneWith (s.core p).capmask failing) else s

/-- The management interface clears bits (R101). -/
def State.mgmtClear (s : State) (p : CoreId) (clear : BitVec 128) : State :=
  if s.plat.ready then s.clearClasses p 2 (goneWith (s.core p).capmask clear) else s

/-- A scrub and a management command for one core in the same base cycle (R446): each clears of the mask as it stood, with its own
event, the scrub's first. -/
def State.scrubAndClear (s : State) (p : CoreId) (failing clear : BitVec 128) : State :=
  if s.plat.ready then (s.scrub p failing).clearClasses p 2 (goneWith (s.core p).capmask clear) else s

/-! ### SPDM and the host's configuration space -/

/-- The SPDM requests of R438. -/
inductive Spdm
  | version | capabilities | algorithms | digests | certificate
  | challenge (nonce : BitVec 256)
  | measurements (index : Nat) (nonce : Option (BitVec 256))
deriving DecidableEq, Repr

/-- A measurement block (R438). -/
def State.measurement (s : State) (index : Nat) : List Byte :=
  if index = 4 then leBytes 32 s.plat.measured.toNat
  else if index = 1 then sha256 s.plat.image
  else if index = 2 ∨ index = 3 then Config.firmwareDigest index s.plat.image
  else []

/-- The answer to an SPDM request: the fields that the standard gives, and what R438 says of this device. A request for
measurements that asks for a signature brings a nonce (assumption 93). -/
def State.spdmAnswer (s : State) (q : Spdm) : List Byte :=
  match q with
  | .version => Config.spdmBody 0
  | .capabilities => Config.spdmBody 1
  | .algorithms => Config.spdmBody 2
  | .digests => Config.spdmBody 3 ++ sha256 Config.certificateChain
  | .certificate => Config.spdmBody 4 ++ Config.certificateChain
  | .challenge nonce =>
    let body := Config.spdmBody 5 ++ sha256 Config.certificateChain ++ leBytes 32 nonce.toNat
    body ++ Config.sign body
  | .measurements i none => Config.spdmBody 6 ++ s.measurement i
  | .measurements i (some nonce) =>
    let body := Config.spdmBody 6 ++ s.measurement i ++ leBytes 32 nonce.toNat
    body ++ Config.sign body

/-- The DOE mailbox answers an SPDM request (R426, R438, R443). -/
def State.spdm (s : State) (q : Spdm) : State :=
  if s.plat.ready || s.plat.recovery then
    { s with plat := { s.plat with spdmSent := s.plat.spdmSent ++ [s.spdmAnswer q] } }
  else s

/-- A configuration request (R442): before READY it completes with Configuration Request Retry Status. -/
def State.configRequest (s : State) : State :=
  if s.plat.ready then s.replyTo .host .ok []
  else { s with plat := { s.plat with configRetries := s.plat.configRetries + 1 } }

/-! ### Peer ports -/

/-- Mesh coordinates of a core and of its waystation (R10): core die d is at column d mod 2 and row d div 2. -/
def meshAt (p : CoreId) : Nat × Nat :=
  let d := p.val / 96
  (12 * (d % 2) + p.val % 12, 8 * (d / 2) + p.val % 96 / 12)

/-- Mesh coordinates of a port (R432). -/
def portAt (j : Fin 16) : Nat × Nat := if j.val < 8 then (0, 2 * j.val + 1) else (23, 2 * (j.val - 8) + 1)

/-- The port nearest a waystation (R432): through it the core's requests leave, and requests for its home enter. -/
def nearestPort (p : CoreId) : Fin 16 :=
  let x := meshAt p
  fin16 ((if x.1 ≤ 11 then 0 else 8) + x.2 / 2)

/-- Hops from a waystation to a port, counted along the mesh path (R432). -/
def portHops (p : CoreId) (j : Fin 16) : Nat :=
  let a := meshAt p
  let b := portAt j
  (max a.1 b.1 - min a.1 b.1) + (max a.2 b.2 - min a.2 b.2)

/-- The port that a core's requests use (R432): while the nearest is down the next one along the same edge, none with the whole
edge down. -/
def State.portFor (s : State) (p : CoreId) : Option (Fin 16) :=
  let j := (nearestPort p).val
  ((List.range 8).map fun k => fin16 (j / 8 * 8 + (j % 8 + k) % 8)).find? fun i => s.portsUp.getLsbD i.val

/-- A port goes down or comes up (R432). -/
def State.setPort (s : State) (j : Fin 16) (up : Bool) : State :=
  let b : BitVec 16 := BitVec.ofNat 16 (2 ^ j.val)
  { s with portsUp := if up then s.portsUp ||| b else s.portsUp &&& ~~~b }

end Sys2Proof.Machine
end

