-- ==== Sys2Proof/Machine/Events.lean ====
section
/-! DEFINITION. The meaning of each event row of the opcode table: what the device does when the event happens, and
nothing where the state gives the event no occasion. -/

namespace Sys2Proof.Machine

/-- MMIO registers other than BOOTSTAT answer once the device is READY (R442, R443). -/
def State.whenUp (s : State) (f : State → State) : State := if s.plat.ready then f s else s

/-- CSR number of a pool boundary register (R264). -/
def poolNumber : PoolCsr → Nat
  | .v => 0x101
  | .s => 0x102
  | .c => 0x103

/-- The oldest message in flight of some kind arrives. -/
def State.deliverSome (s : State) (f : Msg → Bool) : State :=
  match s.net.findIdx? f with
  | some n => s.deliverNth n
  | none => s

/-- A message in flight arrives. -/
def State.deliverMsg (s : State) (m : Msg) : State := s.deliverSome fun x => decide (x = m)

/-- The n-th relaxed access that an abort has left of a strand performs (R398, R403). -/
def State.performLoose (s : State) (p : CoreId) (t : StrandId) (n : Nat) : State :=
  match (s.loose.filter fun (x : CoreId × StrandId × RelaxedAcc) => x.1 = p ∧ x.2.1 = t)[n]? with
  | none => s
  | some x => ({ s with loose := s.loose.erase x } : State).performRelaxed p t x.2.2

/-- The n-th relaxed access of a strand performs (R288). -/
def State.performNth (s : State) (p : CoreId) (t : StrandId) (n : Nat) : State :=
  let st := s.strand p t
  match st.relaxed[n]? with
  | none => s.performLoose p t (n - st.relaxed.length)
  | some a => (s.setStrand p t { st with relaxed := st.relaxed.eraseIdx n }).performRelaxed p t a

/-- Whether the line of 64 bytes at an address may be fetched for core p (R71, R162). -/
def State.fetchable (s : State) (p : CoreId) (a : Nat) : Bool :=
  match (s.core p).serves with
  | none => false
  | some c =>
    let e := (s.ctx c).entry
    decide (e.arenaBase + 0x20000 ≤ a / 64 * 64 ∧ a / 64 * 64 + 64 ≤ e.arenaBound)

/-- The contents of a line of 64 bytes that a core's instruction cache holds (R162). -/
def Core.cachedLine (c : Core) (line : Nat) : Option Nat := (c.icache.find? fun x => x.1 = line).map (·.2)

/-- A core's instruction cache with one more line, of 4 in its set of 256 (R162): the line that was filled first leaves a
full set (assumption 9). -/
def Core.keepLine (c : Core) (line x : Nat) : Core :=
  let here := c.icache.filter fun y => decide (y.1 % 256 = line % 256)
  let out : Option Nat := if here.length < 4 then none else here.head?.map (·.1)
  { c with icache := (c.icache.filter fun y => some y.1 ≠ out) ++ [(line, x)] }

/-- x registers whose value a strand still waits for, x0 apart (R168, R288). -/
def State.pendingRegs (s : State) (p : CoreId) (t : StrandId) : List (BitVec 5) :=
  ((s.strand p t).pending ++ s.ext.filterMap fun (e : ExtReq) =>
    if e.who = .scalar p t ∧ e.relaxed then e.rd.map (·.1) else none).filter fun (r : BitVec 5) => r ≠ 0

/-- Whether a strand may issue, its next instruction apart (R164). WFE's condition is tested where it stands (R159). -/
def State.awake (s : State) (p : CoreId) (t : StrandId) : Bool :=
  let st := s.strand p t
  (s.core p).serves.isSome && !st.stopped && !st.stopping && !st.muldiv && !st.queueHolds &&
    (match st.wait with
     | none => true
     | some .latch => st.latch
     | some .values => decide (s.pendingRegs p t = []) && decide (st.readq = [])
     | some .relaxed => !s.extRelaxed p t
     | some .writeBacks => !s.windowDirty p
     | some _ => false)

/-- Whether an address lies in the part of the arena that holds code (R71). -/
def State.inCode (s : State) (p : CoreId) (a : Word) : Bool :=
  match (s.core p).serves with
  | none => false
  | some c => decide ((s.ctx c).entry.arenaBase + 0x20000 ≤ a.toNat ∧ a.toNat < (s.ctx c).entry.arenaBound)

/-- The line of a strand's pc where it is at hand (R162, R163), in the strand's fetch buffer or else in the instruction
cache: its contents, none where the fill met an error. -/
def State.lineAt (s : State) (p : CoreId) (t : StrandId) : Option (Option Nat) :=
  let st := s.strand p t
  match st.fetchBuf.filter fun (l : Nat × Option Nat) => l.1 = st.pc.toNat / 64 with
  | some l => some l.2
  | none => ((s.core p).cachedLine (st.pc.toNat / 64)).map some

/-- The instruction word at an address in its line (R108). -/
def lineWord (x : Nat) (a : Word) : IWord := BitVec.ofNat 32 (x / 2 ^ (8 * (a.toNat % 64)))

/-- The word that a strand issues next where it is at hand: that of an instruction that has issued and not completed, else
the one at its pc (R79, R162). None of it where the fill met an error (R163). -/
def State.nextWord (s : State) (p : CoreId) (t : StrandId) : Option (Option IWord) :=
  let st := s.strand p t
  match st.issuedWord.filter fun (x : Word × IWord) => x.1 = st.pc with
  | some x => some (some x.2)
  | none => (s.lineAt p t).map fun (l : Option Nat) => l.map fun x => lineWord x st.pc

/-- The strand issues: it leaves its wait, and is the one that issued last (R165). -/
def State.issued (s : State) (p : CoreId) (t : StrandId) : State :=
  let s1 := (s.at p t).setCore p { s.core p with lastIssued := t }
  s1.setMe { s1.me with wait := none, cameFrom := s1.me.pc, issuedWord := none }

/-- The word that the acting strand reaches, where it is ready to issue one that it can read (R162, R164). -/
def State.atHand (s : State) : Option IWord :=
  let st := s.me
  if s.awake s.cur s.str && !s.saving s.cur && (s.boundary s.cur s.str).isNone && s.inCode s.cur st.pc then
    (s.nextWord s.cur s.str).join
  else none

/-- Whether a strand's next instruction keeps it from issuing (R164, R168, R288). -/
def State.mayIssue (s : State) (p : CoreId) (t : StrandId) (w : IWord) (i : Instr) : Bool :=
  let st := s.strand p t
  let maj := (w.extractLsb' 26 6).toNat
  let dest := (queuedDest i).bind fun (r : BitVec 5) => if r = 0 then none else some r
  let relaxes : Bool := match i with | .ld m => m.rx | .st m => m.rx | _ => false
  !(xSources i ++ xDests i).any (fun (r : BitVec 5) => decide (r ∈ s.pendingRegs p t)) &&
    (!decide (0x20 ≤ maj ∧ maj ≤ 0x2f) || st.hasRoom dest) &&
    (!relaxes || decide ((s.at p t).relaxedCount < 8))

/-- The first source register of an instruction that a failed load was to write (R288). -/
def Strand.spoiled (st : Strand) (i : Instr) : Option (BitVec 5 × Word × BitVec 16) :=
  st.poisoned.find? fun (x : BitVec 5 × Word × BitVec 16) => decide (x.1 ≠ 0 ∧ x.1 ∈ xSources i)

/-- The write of a pool boundary that an instruction makes (R264). -/
def State.poolWrite (s : State) (i : Instr) : Option (PoolCsr × CsrOp × Word) :=
  let f (rs1 : BitVec 5) (csr : BitVec 12) (op : CsrOp) : Option (PoolCsr × CsrOp × Word) :=
    (poolCsrOf csr.toNat).map fun r => (r, op, s.reg rs1)
  match i with
  | .csrw rs1 csr => f rs1 csr .write
  | .csrs rs1 csr => f rs1 csr .set
  | .csrc rs1 csr => f rs1 csr .clear
  | _ => none

/-- The line that a strand's pc lies in comes into its fetch buffer, from the instruction cache or by a fill from the arena:
one that meets an uncorrectable error is held in the fetch buffer only, marked (R162, R163). No line comes ahead of need
(assumption 100). -/
def State.fetchFill (s : State) (p : CoreId) (t : StrandId) : State :=
  let line := (s.strand p t).pc.toNat / 64
  let hold (a : State) (x : Option Nat) : State := a.setStrand p t { a.strand p t with fetchBuf := some (line, x) }
  if !s.fetchable p (line * 64) then s
  else match (s.core p).cachedLine line with
    | some x => hold s (some x)
    | none =>
      if s.isBad (line * 64) 64 then hold s none
      else
        let x := fromLe (s.peekHome (line * 64) 64)
        hold (s.setCore p ((s.core p).keepLine line x)) (some x)

/-- An atomic request of the host or of a peer reaches its unit (R347). Those of strands and of vector elements
reach theirs where their instruction performs. -/
def State.atomicRequest (s : State) (r : AtomicReq) : State :=
  match r.who with
  | .host => s.hostAtomic r
  | .peer _ => if s.plat.ready then s.outside r.who none (.atomic r) else s
  | _ => s

/-! ### Events -/

/-- ILLEGAL_WORD_FETCH: the acting strand reaches a word that is no instruction (R133). -/
def execIllegalWordFetch (w : IWord) (s : State) : Host.Outcome State Fault Refusal :=
  .next (match decode w with
    | .error _ => if s.atHand = some w then (s.issued s.cur s.str).trap .illegal (w.zeroExtend 64) else s
    | .ok _ => s)

/-- POOL_CSR_WRITE: the acting strand writes POOLV, POOLS or POOLC, where its next instruction does (R264); a write at task
level raises ILLEGAL (R140). -/
def execPoolCsrWrite (r : PoolCsr) (op : CsrOp) (v : Word) (s : State) : Host.Outcome State Fault Refusal :=
  .next (match s.atHand with
    | none => s
    | some w =>
      match decode w with
      | .error _ => s
      | .ok i =>
        if s.poolWrite i ≠ some (r, op, v) ∨ !s.mayIssue s.cur s.str w i ∨ (s.me.spoiled i).isSome then s
        else (s.issued s.cur s.str).privileged i fun (a : State) => a.csrWrite (poolNumber r) op v)

/-- LAUNCH: a write to LAUNCHc (R93). -/
def execLaunch (c : CtxId) (v : Word) (s : State) : Host.Outcome State Fault Refusal :=
  .next (s.whenUp fun (a : State) => a.launch c v)

/-- LAUNCH_DISTRIBUTION_RESUME (R93). -/
def execLaunchDistributionResume (c : CtxId) (s : State) : Host.Outcome State Fault Refusal :=
  .next (s.launchResume c)

/-- CTXREFRESH: a write to CTXREFRESHc (R90). -/
def execCtxrefresh (c : CtxId) (s : State) : Host.Outcome State Fault Refusal :=
  .next (s.whenUp fun (a : State) => a.hostRegister (0x1400 + 8 * c.val) 0)

/-- YREQ_WRITE: a write to YREQp (R172). -/
def execYreqWrite (p : CoreId) (v : Word) (s : State) : Host.Outcome State Fault Refusal :=
  .next (s.whenUp fun (a : State) => a.yreqWrite p v)

/-- TLBINV_ALL: a write to TLBINVc with ALL (R283). -/
def execTlbinvAll (c : CtxId) (s : State) : Host.Outcome State Fault Refusal :=
  .next (s.whenUp fun (a : State) => a.hostRegister (0x3000 + 8 * c.val) (flagAt true 63))

/-- TLBINV_VPN: a write to TLBINVc without ALL (R283). -/
def execTlbinvVpn (c : CtxId) (v : Word) (s : State) : Host.Outcome State Fault Refusal :=
  .next (s.whenUp fun (a : State) => a.hostRegister (0x3000 + 8 * c.val) (v &&& ~~~(flagAt true 63)))

/-- SNAPCMD: a write to SNAPCMD (R325). -/
def execSnapcmd (v : Word) (s : State) : Host.Outcome State Fault Refusal :=
  .next (s.whenUp fun (a : State) => a.snapCmd v)

/-- SNAP_COMPLETE (R327). -/
def execSnapComplete (s : State) : Host.Outcome State Fault Refusal :=
  .next (s.snapComplete)

/-- XREDGRP_WRITE: a write to XREDGRPg (R360). -/
def execXredgrpWrite (g : Fin 16) (v : Word) (s : State) : Host.Outcome State Fault Refusal :=
  .next (s.whenUp fun (a : State) => a.xredgrpWrite g v)

/-- PREEMPT_NOTIFY: a write to PREEMPTc with NOTIFY (R390, R393). -/
def execPreemptNotify (c : CtxId) (v : Word) (s : State) : Host.Outcome State Fault Refusal :=
  .next (s.whenUp fun (a : State) => a.preempt c (v ||| flagAt true 63))

/-- PREEMPT_SAVE: a write to PREEMPTc without NOTIFY (R390, R394). -/
def execPreemptSave (c : CtxId) (v : Word) (s : State) : Host.Outcome State Fault Refusal :=
  .next (s.whenUp fun (a : State) => a.preempt c (v &&& ~~~(flagAt true 63)))

/-- CTXRUN: a write to CTXRUNc (R390, R396). -/
def execCtxrun (c : CtxId) (v : Word) (s : State) : Host.Outcome State Fault Refusal :=
  .next (s.whenUp fun (a : State) => a.ctxRun c v)

/-- CTXRUN_RESUME (R396). -/
def execCtxrunResume (c : CtxId) (l : BitVec 10) (s : State) : Host.Outcome State Fault Refusal :=
  .next (s.ctxRunResume c l.toNat)

/-- DBG_HALT (R398). -/
def execDbgHalt (p : CoreId) (t : StrandId) (s : State) : Host.Outcome State Fault Refusal :=
  .next (s.whenUp fun (a : State) => a.dbgHalt p t)

/-- DBG_RUN (R398). -/
def execDbgRun (p : CoreId) (t : StrandId) (s : State) : Host.Outcome State Fault Refusal :=
  .next (s.whenUp fun (a : State) => a.dbgResume p t false)

/-- DBG_STEP (R398). -/
def execDbgStep (p : CoreId) (t : StrandId) (s : State) : Host.Outcome State Fault Refusal :=
  .next (s.whenUp fun (a : State) => a.dbgResume p t true)

/-- DREGDATA_WRITE (R399). -/
def execDregdataWrite (p : CoreId) (v : Word) (s : State) : Host.Outcome State Fault Refusal :=
  .next (s.whenUp fun (a : State) => a.dregWrite p v)

/-- QDATA_WRITE (R400). -/
def execQdataWrite (p : CoreId) (k : Fin 8) (v : Word) (s : State) : Host.Outcome State Fault Refusal :=
  .next (s.whenUp fun (a : State) => a.qdataWrite p k.val v)

/-- CTXRETIRE: a write to CTXRETIREc (R420). -/
def execCtxretire (c : CtxId) (v : Word) (s : State) : Host.Outcome State Fault Refusal :=
  .next (s.whenUp fun (a : State) => a.retire c v)

/-- RETIRE_FINISH (R421). -/
def execRetireFinish (c : CtxId) (s : State) : Host.Outcome State Fault Refusal :=
  .next (s.retireFinish c)

/-- DEVNUM_WRITE: a write to DEVNUM (R430). -/
def execDevnumWrite (v : Word) (s : State) : Host.Outcome State Fault Refusal :=
  .next (s.whenUp fun (a : State) => a.devnumWrite v)

/-- REGISTER_WRITE: a write to a register with no behaviour of its own (R5, R6). -/
def execRegisterWrite (off : BitVec 32) (v : Word) (s : State) : Host.Outcome State Fault Refusal :=
  .next (if s.mmioOpen off.toNat then
      match mmioReg off.toNat with
      | some r => s.plainWrite r v
      | none => s
    else s)

/-- CORE_TAKE_UP (R416). -/
def execCoreTakeUp (p : CoreId) (c : CtxId) (s : State) : Host.Outcome State Fault Refusal :=
  .next (s.coreTakeUp p c)

/-- STEAL: a request in flight reaches its victim (R96). -/
def execSteal (victim : CoreId) (c : CtxId) (thief : BitVec 10) (shortOk longOk : Bool) (s : State) : Host.Outcome State Fault Refusal :=
  .next (s.deliverSome fun (m : Msg) =>
    match m with
    | .steal v x _ t so lo => decide (v = victim ∧ x = c ∧ t = thief ∧ so = shortOk ∧ lo = longOk)
    | _ => false)

/-- GIVE: an answer in flight reaches the thief (R95). -/
def execGive (thief : CoreId) (c : CtxId) (pairs : List Pair) (s : State) : Host.Outcome State Fault Refusal :=
  .next (s.deliverSome fun (m : Msg) =>
    match m with
    | .give q x _ ps => decide (q = thief ∧ x = c ∧ ps = pairs)
    | _ => false)

/-- FWD: a forwarded pair in flight arrives (R103). -/
def execFwd (target : CoreId) (c : CtxId) (pair : Pair) (s : State) : Host.Outcome State Fault Refusal :=
  .next (s.deliverSome fun (m : Msg) =>
    match m with
    | .fwd q x _ y => decide (q = target ∧ x = c ∧ y = pair)
    | _ => false)

/-- WAKE: a wake in flight arrives (R99). -/
def execWake (p : CoreId) (c : CtxId) (pusher : BitVec 10) (s : State) : Host.Outcome State Fault Refusal :=
  .next (s.deliverSome fun (m : Msg) =>
    match m with
    | .wake q x _ y => decide (q = p ∧ x = c ∧ y = pusher)
    | _ => false)

/-- IFETCH_FILL (R162, R163). -/
def execIfetchFill (p : CoreId) (t : StrandId) (s : State) : Host.Outcome State Fault Refusal :=
  .next (s.fetchFill p t)

/-- MULDIV_RESULT: the strand is ready again; its register was written at issue (R142). -/
def execMuldivResult (p : CoreId) (t : StrandId) (s : State) : Host.Outcome State Fault Refusal :=
  .next (s.setStrand p t { s.strand p t with muldiv := false })

/-- READ_QUEUE_DELIVERY (R168). -/
def execReadQueueDelivery (p : CoreId) (t : StrandId) (s : State) : Host.Outcome State Fault Refusal :=
  .next (s.deliverRead p t)

/-- SCALAR_ACCESS_PERFORM: the n-th relaxed access outstanding performs (R288). -/
def execScalarAccessPerform (p : CoreId) (t : StrandId) (n : Nat) (s : State) : Host.Outcome State Fault Refusal :=
  .next (s.performNth p t n)

/-- VQ_ENTRY_EXECUTE (R205). -/
def execVqEntryExecute (p : CoreId) (t : StrandId) (s : State) : Host.Outcome State Fault Refusal :=
  .next (s.beginHead p t)

/-- VQ_ENTRY_RETIRE (R167). -/
def execVqEntryRetire (p : CoreId) (t : StrandId) (s : State) : Host.Outcome State Fault Refusal :=
  .next (s.retireHead p t)

/-- VECTOR_FAULT: a fault detected is taken at the issue boundary (R383). -/
def execVectorFault (p : CoreId) (t : StrandId) (s : State) : Host.Outcome State Fault Refusal :=
  .next (let st := s.strand p t
    if st.vfault.isSome && !st.tact && !st.halted && !st.dbgHalted then s.takeVfault p t else s)

/-- LANE_GRANT (R105). -/
def execLaneGrant (p : CoreId) (s : State) : Host.Outcome State Fault Refusal :=
  .next (s.serveLanes p 1)

/-- CHANNEL_DEPOSIT: a deposit in flight arrives (R359). -/
def execChannelDeposit (d : Deposit) (s : State) : Host.Outcome State Fault Refusal :=
  .next (s.deliverMsg (.deposit d))

/-- RED_MESSAGE: from another device, or one in flight here (R364). -/
def execRedMessage (m : RedMsg) (s : State) : Host.Outcome State Fault Refusal :=
  .next (if m.fromDev.isSome then s.whenUp fun (a : State) => a.receiveRed m else s.deliverMsg (.red m))

/-- XRED_MESSAGE (R361). -/
def execXredMessage (g : Fin 16) (m : XredMsg) (s : State) : Host.Outcome State Fault Refusal :=
  .next (s.chainMessage g m)

/-- ATOMIC_REQUEST: of the host or of a peer (R347, R426, R431). -/
def execAtomicRequest (r : AtomicReq) (s : State) : Host.Outcome State Fault Refusal :=
  .next (s.atomicRequest r)

/-- COMBINE_FETCH_ARRIVAL (R347). -/
def execCombineFetchArrival (pa : Nat) (s : State) : Host.Outcome State Fault Refusal :=
  .next (s.combineArrival pa)

/-- HOME_ACCESS: of the entry at the head of a vector queue (R273, R303). -/
def execHomeAccess (p : CoreId) (t : StrandId) (n : Nat) (s : State) : Host.Outcome State Fault Refusal :=
  .next (s.homeAccess p t n)

/-- FE_RETRY (R269). -/
def execFeRetry (n : Nat) (s : State) : Host.Outcome State Fault Refusal :=
  .next (s.retryFe n)

/-- VWAIT_POLL (R354). -/
def execVwaitPoll (p : CoreId) (t : StrandId) (s : State) : Host.Outcome State Fault Refusal :=
  .next (s.vwaitPoll p t)

/-- VWAIT_TIMEOUT (R355). -/
def execVwaitTimeout (p : CoreId) (t : StrandId) (s : State) : Host.Outcome State Fault Refusal :=
  .next (s.vwaitTimeout p t)

/-- ENGINE_PIECE (R317). -/
def execEnginePiece (e : Fin 48) (s : State) : Host.Outcome State Fault Refusal :=
  .next (s.enginePiece e)

/-- COPY_COMPLETE (R315). -/
def execCopyComplete (desc : Nat) (s : State) : Host.Outcome State Fault Refusal :=
  .next (s.copyComplete desc)

/-- POWER_WINDOW (R17). -/
def execPowerWindow (n : Vector Nat 384) (s : State) : Host.Outcome State Fault Refusal :=
  .next (s.powerWindow n)

/-- IDLE_INSERTION (R17). -/
def execIdleInsertion (s : State) : Host.Outcome State Fault Refusal :=
  .next (s.idleInsertion)

/-- VX_ARBITRATION (R435). -/
def execVxArbitration (p : CoreId) (tileFull pipeFull : Bool) (s : State) : Host.Outcome State Fault Refusal :=
  .next (s.vxArbitration p tileFull pipeFull)

/-- SENSOR_FAIL (R436). -/
def execSensorFail (p : CoreId) (w : Sensor) (s : State) : Host.Outcome State Fault Refusal :=
  .next (s.sensorFail p w)

/-- THERMAL_THROTTLE (R440). -/
def execThermalThrottle (s : State) : Host.Outcome State Fault Refusal :=
  .next (s.thermalThrottle)

/-- THERMAL_SHUTDOWN (R440). -/
def execThermalShutdown (s : State) : Host.Outcome State Fault Refusal :=
  .next (s.thermalShutdown)

/-- RAIL_FAULT (R441). -/
def execRailFault (r : BootResult) (s : State) : Host.Outcome State Fault Refusal :=
  .next (s.railFault r)

/-- COLD_RESET (R442). -/
def execColdReset (r : BootResult) (s : State) : Host.Outcome State Fault Refusal :=
  .next (s.startBoot true r)

/-- PERST (R442). -/
def execPerst (r : BootResult) (s : State) : Host.Outcome State Fault Refusal :=
  .next (s.warmReset r)

/-- RESETCMD (R442). -/
def execResetcmd (v : Word) (r : BootResult) (s : State) : Host.Outcome State Fault Refusal :=
  .next (s.resetCmd v r)

/-- SELF_TEST (R444). -/
def execSelfTest (p : CoreId) (x : TestResult) (s : State) : Host.Outcome State Fault Refusal :=
  .next (s.selfTest p x)

/-- SCRUB (R101). -/
def execScrub (p : CoreId) (failing : BitVec 128) (s : State) : Host.Outcome State Fault Refusal :=
  .next (s.scrub p failing)

/-- MGMT_CAPMASK_CLEAR (R101). -/
def execMgmtCapmaskClear (p : CoreId) (clear : BitVec 128) (s : State) : Host.Outcome State Fault Refusal :=
  .next (s.mgmtClear p clear)

/-- HOST_WRITE (R426). -/
def execHostWrite (pa : Nat) (bytes : List Byte) (s : State) : Host.Outcome State Fault Refusal :=
  .next (s.hostWrite pa bytes)

/-- HOST_READ (R426). -/
def execHostRead (pa len : Nat) (s : State) : Host.Outcome State Fault Refusal :=
  .next (s.hostRead pa len)

/-- HOST_ATOMIC (R426). -/
def execHostAtomic (r : AtomicReq) (s : State) : Host.Outcome State Fault Refusal :=
  .next (s.hostAtomic r)

/-- HOST_COMPLETION (R429). -/
def execHostCompletion (n : Nat) (st : BusStatus) (data : List Byte) (s : State) : Host.Outcome State Fault Refusal :=
  .next (s.answerFrom true n st data)

/-- HOST_COMPLETION_TIMEOUT (R429). -/
def execHostCompletionTimeout (n : Nat) (s : State) : Host.Outcome State Fault Refusal :=
  .next (s.answerFrom true n .refused [])

/-- GET_VERSION (R438). -/
def execGetVersion (s : State) : Host.Outcome State Fault Refusal :=
  .next (s.spdm .version)

/-- GET_CAPABILITIES (R438). -/
def execGetCapabilities (s : State) : Host.Outcome State Fault Refusal :=
  .next (s.spdm .capabilities)

/-- NEGOTIATE_ALGORITHMS (R438). -/
def execNegotiateAlgorithms (s : State) : Host.Outcome State Fault Refusal :=
  .next (s.spdm .algorithms)

/-- GET_DIGESTS (R438). -/
def execGetDigests (s : State) : Host.Outcome State Fault Refusal :=
  .next (s.spdm .digests)

/-- GET_CERTIFICATE (R438). -/
def execGetCertificate (s : State) : Host.Outcome State Fault Refusal :=
  .next (s.spdm .certificate)

/-- CHALLENGE (R438). -/
def execChallenge (nonce : BitVec 256) (s : State) : Host.Outcome State Fault Refusal :=
  .next (s.spdm (.challenge nonce))

/-- GET_MEASUREMENTS (R438). -/
def execGetMeasurements (q : MeasureRequest) (s : State) : Host.Outcome State Fault Refusal :=
  .next (s.spdm (.measurements q.index q.nonce))

/-- RECOVERY_IMAGE (R443). -/
def execRecoveryImage (x : NewImage) (s : State) : Host.Outcome State Fault Refusal :=
  .next (s.recoveryImage x)

/-- PEER_REQUEST (R431). -/
def execPeerRequest (dev : BitVec 9) (c : CtxId) (op : BusOp) (s : State) : Host.Outcome State Fault Refusal :=
  .next (s.peerRequest dev c op)

/-- PEER_RESPONSE (R431). -/
def execPeerResponse (n : Nat) (st : BusStatus) (data : List Byte) (s : State) : Host.Outcome State Fault Refusal :=
  .next (s.answerFrom false n st data)

/-- PEER_TIMEOUT (R432). -/
def execPeerTimeout (n : Nat) (s : State) : Host.Outcome State Fault Refusal :=
  .next (s.answerFrom false n .refused [])

/-- FLIT_CRC_FAIL: the flit is sent again, with no visible effect (R432). -/
def execFlitCrcFail (_j : Fin 16) (s : State) : Host.Outcome State Fault Refusal :=
  .next (s)

/-- PORT_DOWN (R432). -/
def execPortDown (j : Fin 16) (s : State) : Host.Outcome State Fault Refusal :=
  .next (s.setPort j false)

/-- PORT_RETRAINED (R432). -/
def execPortRetrained (j : Fin 16) (s : State) : Host.Outcome State Fault Refusal :=
  .next (s.setPort j true)

/-- ALLOWANCE_RESTORE (R17). -/
def execAllowanceRestore (n : Vector Nat 384) (s : State) : Host.Outcome State Fault Refusal :=
  .next (s.allowanceRestore n)

/-- THERMAL_THROTTLE_EXIT (R440). -/
def execThermalThrottleExit (n : Vector Nat 384) (s : State) : Host.Outcome State Fault Refusal :=
  .next (s.thermalThrottleExit n)

/-- HOST_CONFIGURATION_REQUEST (R442). -/
def execHostConfigurationRequest (s : State) : Host.Outcome State Fault Refusal :=
  .next (s.configRequest)

/-- ELEMENT_GROUP_ARRIVAL (R286). -/
def execElementGroupArrival (p : CoreId) (t : StrandId) (n : Nat) (s : State) : Host.Outcome State Fault Refusal :=
  .next (s.groupArrive p t n)

end Sys2Proof.Machine
end

