-- ==== Sys2Proof/Machine/ScalarAlu.lean ====
section
/-! DEFINITION. Integer register, immediate, multiply, divide, branch and jump instructions (R143 to R148). -/

namespace Sys2Proof.Machine

/-- Number of zero bits above the highest 1 bit of the low n bits of v. -/
def clzNat (n v : Nat) : Nat := if v % 2 ^ n = 0 then n else n - 1 - Nat.log2 (v % 2 ^ n)

/-- Number of zero bits below the lowest 1 bit, counted from place k up to n. -/
def ctzFrom (v : Nat) : Nat → Nat → Nat
  | 0, k => k
  | fuel + 1, k => if v.testBit k then k else ctzFrom v fuel (k + 1)

/-- Number of 1 bits among the low n bits. -/
def popNat (v : Nat) : Nat → Nat
  | 0 => 0
  | n + 1 => popNat v n + (if v.testBit n then 1 else 0)

/-- The shift amount that the shifts take from a register: its low six bits (R143). -/
def shamt (v : Word) : Nat := v.toNat % 64

/-- Sign extension of a 16-bit immediate (R113). -/
def simm (i : BitVec 16) : Word := i.signExtend 64

/-- Zero extension of a 16-bit immediate (R113). -/
def zimm (i : BitVec 16) : Word := i.zeroExtend 64

/-- The width of a size code in bits (R110). -/
def Size.width : Size → Nat
  | .b => 8 | .h => 16 | .w => 32 | .d => 64

/-- Signed quotient of R145. -/
def divWord (a b : Word) : Word :=
  if b = 0 then BitVec.allOnes 64 else if a = BitVec.intMin 64 ∧ b = BitVec.allOnes 64 then a else a.sdiv b

/-- Signed remainder of R145. -/
def remWord (a b : Word) : Word :=
  if b = 0 then a else if a = BitVec.intMin 64 ∧ b = BitVec.allOnes 64 then 0 else a.srem b

/-- Unsigned quotient of R145. -/
def divuWord (a b : Word) : Word := if b = 0 then BitVec.allOnes 64 else a / b

/-- Unsigned remainder of R145. -/
def remuWord (a b : Word) : Word := if b = 0 then a else a % b

/-- A two-operand integer register instruction (R143). -/
def aluOp (f : Word → Word → Word) (rd rs1 rs2 : BitVec 5) (s : State) : State :=
  s.finish rd (f (s.reg rs1) (s.reg rs2))

/-- A one-operand or immediate instruction (R143, R144). -/
def aluImm (f : Word → Word) (rd rs1 : BitVec 5) (s : State) : State := s.finish rd (f (s.reg rs1))

/-- A multiply or divide: the strand is not ready until the result is delivered (R142). -/
def mulDiv (f : Word → Word → Word) (rd rs1 rs2 : BitVec 5) (s : State) : State :=
  let s1 := aluOp f rd rs1 rs2 s
  s1.setMe { s1.me with muldiv := true }

/-- A conditional branch (R146). -/
def branch (c : Word → Word → Bool) (rs1 rs2 : BitVec 5) (off : BitVec 16) (s : State) : State :=
  if c (s.reg rs1) (s.reg rs2) then s.setPc (s.me.pc + (simm off) * 4) else s.advance

/-- ADD (R143). -/
def execAdd (rd rs1 rs2 : BitVec 5) (s : State) : Host.Outcome State Fault Refusal :=
  .next (aluOp (fun a b => a + b) rd rs1 rs2 s)

/-- SUB (R143). -/
def execSub (rd rs1 rs2 : BitVec 5) (s : State) : Host.Outcome State Fault Refusal :=
  .next (aluOp (fun a b => a - b) rd rs1 rs2 s)

/-- AND (R143). -/
def execAnd (rd rs1 rs2 : BitVec 5) (s : State) : Host.Outcome State Fault Refusal :=
  .next (aluOp (fun a b => a &&& b) rd rs1 rs2 s)

/-- OR (R143). -/
def execOr (rd rs1 rs2 : BitVec 5) (s : State) : Host.Outcome State Fault Refusal :=
  .next (aluOp (fun a b => a ||| b) rd rs1 rs2 s)

/-- XOR (R143). -/
def execXor (rd rs1 rs2 : BitVec 5) (s : State) : Host.Outcome State Fault Refusal :=
  .next (aluOp (fun a b => a ^^^ b) rd rs1 rs2 s)

/-- ANDN (R143). -/
def execAndn (rd rs1 rs2 : BitVec 5) (s : State) : Host.Outcome State Fault Refusal :=
  .next (aluOp (fun a b => a &&& ~~~b) rd rs1 rs2 s)

/-- SLL (R143). -/
def execSll (rd rs1 rs2 : BitVec 5) (s : State) : Host.Outcome State Fault Refusal :=
  .next (aluOp (fun a b => a <<< shamt b) rd rs1 rs2 s)

/-- SRL (R143). -/
def execSrl (rd rs1 rs2 : BitVec 5) (s : State) : Host.Outcome State Fault Refusal :=
  .next (aluOp (fun a b => a >>> shamt b) rd rs1 rs2 s)

/-- SRA (R143). -/
def execSra (rd rs1 rs2 : BitVec 5) (s : State) : Host.Outcome State Fault Refusal :=
  .next (aluOp (fun a b => a.sshiftRight (shamt b)) rd rs1 rs2 s)

/-- ROL (R143). -/
def execRol (rd rs1 rs2 : BitVec 5) (s : State) : Host.Outcome State Fault Refusal :=
  .next (aluOp (fun a b => a.rotateLeft (shamt b)) rd rs1 rs2 s)

/-- SLT (R143). -/
def execSlt (rd rs1 rs2 : BitVec 5) (s : State) : Host.Outcome State Fault Refusal :=
  .next (aluOp (fun a b => flag (a.slt b)) rd rs1 rs2 s)

/-- SLTU (R143). -/
def execSltu (rd rs1 rs2 : BitVec 5) (s : State) : Host.Outcome State Fault Refusal :=
  .next (aluOp (fun a b => flag (a.ult b)) rd rs1 rs2 s)

/-- MIN (R143). -/
def execMin (rd rs1 rs2 : BitVec 5) (s : State) : Host.Outcome State Fault Refusal :=
  .next (aluOp (fun a b => if a.slt b then a else b) rd rs1 rs2 s)

/-- MAX (R143). -/
def execMax (rd rs1 rs2 : BitVec 5) (s : State) : Host.Outcome State Fault Refusal :=
  .next (aluOp (fun a b => if a.slt b then b else a) rd rs1 rs2 s)

/-- MINU (R143). -/
def execMinu (rd rs1 rs2 : BitVec 5) (s : State) : Host.Outcome State Fault Refusal :=
  .next (aluOp (fun a b => if a.ult b then a else b) rd rs1 rs2 s)

/-- MAXU (R143). -/
def execMaxu (rd rs1 rs2 : BitVec 5) (s : State) : Host.Outcome State Fault Refusal :=
  .next (aluOp (fun a b => if a.ult b then b else a) rd rs1 rs2 s)

/-- CLZ (R143). -/
def execClz (rd rs1 : BitVec 5) (s : State) : Host.Outcome State Fault Refusal :=
  .next (aluImm (fun a => word (clzNat 64 a.toNat)) rd rs1 s)

/-- CTZ (R143). -/
def execCtz (rd rs1 : BitVec 5) (s : State) : Host.Outcome State Fault Refusal :=
  .next (aluImm (fun a => word (ctzFrom a.toNat 64 0)) rd rs1 s)

/-- POPC (R143). -/
def execPopc (rd rs1 : BitVec 5) (s : State) : Host.Outcome State Fault Refusal :=
  .next (aluImm (fun a => word (popNat a.toNat 64)) rd rs1 s)

/-- SEXT (R143). -/
def execSext (size : Size) (rd rs1 : BitVec 5) (s : State) : Host.Outcome State Fault Refusal :=
  .next (aluImm (fun a => sextTo64 (Size.width size) a.toNat) rd rs1 s)

/-- ZEXT (R143). -/
def execZext (size : Size) (rd rs1 : BitVec 5) (s : State) : Host.Outcome State Fault Refusal :=
  .next (aluImm (fun a => word (a.toNat % 2 ^ Size.width size)) rd rs1 s)

/-- ADDI (R144). -/
def execAddi (rd rs1 : BitVec 5) (imm : BitVec 16) (s : State) : Host.Outcome State Fault Refusal :=
  .next (aluImm (fun a => a + simm imm) rd rs1 s)

/-- ANDI (R144). -/
def execAndi (rd rs1 : BitVec 5) (imm : BitVec 16) (s : State) : Host.Outcome State Fault Refusal :=
  .next (aluImm (fun a => a &&& zimm imm) rd rs1 s)

/-- ORI (R144). -/
def execOri (rd rs1 : BitVec 5) (imm : BitVec 16) (s : State) : Host.Outcome State Fault Refusal :=
  .next (aluImm (fun a => a ||| zimm imm) rd rs1 s)

/-- XORI (R144). -/
def execXori (rd rs1 : BitVec 5) (imm : BitVec 16) (s : State) : Host.Outcome State Fault Refusal :=
  .next (aluImm (fun a => a ^^^ zimm imm) rd rs1 s)

/-- SLTI (R144). -/
def execSlti (rd rs1 : BitVec 5) (imm : BitVec 16) (s : State) : Host.Outcome State Fault Refusal :=
  .next (aluImm (fun a => flag (a.slt (simm imm))) rd rs1 s)

/-- SLTIU (R144). -/
def execSltiu (rd rs1 : BitVec 5) (imm : BitVec 16) (s : State) : Host.Outcome State Fault Refusal :=
  .next (aluImm (fun a => flag (a.ult (simm imm))) rd rs1 s)

/-- SLLI (R144). -/
def execSlli (rd rs1 : BitVec 5) (sh : BitVec 6) (s : State) : Host.Outcome State Fault Refusal :=
  .next (aluImm (fun a => a <<< sh.toNat) rd rs1 s)

/-- SRLI (R144). -/
def execSrli (rd rs1 : BitVec 5) (sh : BitVec 6) (s : State) : Host.Outcome State Fault Refusal :=
  .next (aluImm (fun a => a >>> sh.toNat) rd rs1 s)

/-- SRAI (R144). -/
def execSrai (rd rs1 : BitVec 5) (sh : BitVec 6) (s : State) : Host.Outcome State Fault Refusal :=
  .next (aluImm (fun a => a.sshiftRight sh.toNat) rd rs1 s)

/-- ROLI (R144). -/
def execRoli (rd rs1 : BitVec 5) (sh : BitVec 6) (s : State) : Host.Outcome State Fault Refusal :=
  .next (aluImm (fun a => a.rotateLeft sh.toNat) rd rs1 s)

/-- LUI (R144). -/
def execLui (rd : BitVec 5) (imm : BitVec 16) (s : State) : Host.Outcome State Fault Refusal :=
  .next (s.finish rd ((imm ++ (0 : BitVec 16)).signExtend 64))

/-- MUL (R145). -/
def execMul (rd rs1 rs2 : BitVec 5) (s : State) : Host.Outcome State Fault Refusal :=
  .next (mulDiv (fun a b => a * b) rd rs1 rs2 s)

/-- MULH (R145). -/
def execMulh (rd rs1 rs2 : BitVec 5) (s : State) : Host.Outcome State Fault Refusal :=
  .next (mulDiv (fun a b => wordInt (a.toInt * b.toInt / 2 ^ 64)) rd rs1 rs2 s)

/-- MULHU (R145). -/
def execMulhu (rd rs1 rs2 : BitVec 5) (s : State) : Host.Outcome State Fault Refusal :=
  .next (mulDiv (fun a b => word (a.toNat * b.toNat / 2 ^ 64)) rd rs1 rs2 s)

/-- DIV (R145). -/
def execDiv (rd rs1 rs2 : BitVec 5) (s : State) : Host.Outcome State Fault Refusal :=
  .next (mulDiv (divWord) rd rs1 rs2 s)

/-- DIVU (R145). -/
def execDivu (rd rs1 rs2 : BitVec 5) (s : State) : Host.Outcome State Fault Refusal :=
  .next (mulDiv (divuWord) rd rs1 rs2 s)

/-- REM (R145). -/
def execRem (rd rs1 rs2 : BitVec 5) (s : State) : Host.Outcome State Fault Refusal :=
  .next (mulDiv (remWord) rd rs1 rs2 s)

/-- REMU (R145). -/
def execRemu (rd rs1 rs2 : BitVec 5) (s : State) : Host.Outcome State Fault Refusal :=
  .next (mulDiv (remuWord) rd rs1 rs2 s)

/-- BEQ (R146). -/
def execBeq (rs1 rs2 : BitVec 5) (off : BitVec 16) (s : State) : Host.Outcome State Fault Refusal :=
  .next (branch (fun a b => a == b) rs1 rs2 off s)

/-- BNE (R146). -/
def execBne (rs1 rs2 : BitVec 5) (off : BitVec 16) (s : State) : Host.Outcome State Fault Refusal :=
  .next (branch (fun a b => a != b) rs1 rs2 off s)

/-- BLT (R146). -/
def execBlt (rs1 rs2 : BitVec 5) (off : BitVec 16) (s : State) : Host.Outcome State Fault Refusal :=
  .next (branch (fun a b => a.slt b) rs1 rs2 off s)

/-- BGE (R146). -/
def execBge (rs1 rs2 : BitVec 5) (off : BitVec 16) (s : State) : Host.Outcome State Fault Refusal :=
  .next (branch (fun a b => !a.slt b) rs1 rs2 off s)

/-- BLTU (R146). -/
def execBltu (rs1 rs2 : BitVec 5) (off : BitVec 16) (s : State) : Host.Outcome State Fault Refusal :=
  .next (branch (fun a b => a.ult b) rs1 rs2 off s)

/-- BGEU (R146). -/
def execBgeu (rs1 rs2 : BitVec 5) (off : BitVec 16) (s : State) : Host.Outcome State Fault Refusal :=
  .next (branch (fun a b => !a.ult b) rs1 rs2 off s)

/-- JAL (R147). -/
def execJal (off : BitVec 26) (s : State) : Host.Outcome State Fault Refusal :=
  .next ((s.setReg 1 (s.me.pc + 4)).setPc (s.me.pc + off.signExtend 64 * 4))

/-- JALR (R147): the target is taken from the value rs1 held before; a misaligned target raises ALIGN. -/
def execJalr (rd rs1 : BitVec 5) (imm : BitVec 16) (s : State) : Host.Outcome State Fault Refusal :=
  let t := s.reg rs1 + simm imm
  if t.toNat % 4 ≠ 0 then .next (s.trap .align t)
  else .next ((s.setReg rd (s.me.pc + 4)).setPc t)

end Sys2Proof.Machine
end

