-- ==== Sys2Proof/Machine/VIssue.lean ====
section
/-! DEFINITION. Vector and tile instructions as they issue: each commits (R130, R166), and what it does when it runs is
in VExec, VMem and VParity. VPF and the hints have no effect (R134). -/

namespace Sys2Proof.Machine

/-- VADD (R207). -/
def execVadd (o : VArgs) (s : State) : Host.Outcome State Fault Refusal :=
  .next (s.commit (.vadd o))

/-- VSUB (R207). -/
def execVsub (o : VArgs) (s : State) : Host.Outcome State Fault Refusal :=
  .next (s.commit (.vsub o))

/-- VRSUB (R207). -/
def execVrsub (o : VArgs) (s : State) : Host.Outcome State Fault Refusal :=
  .next (s.commit (.vrsub o))

/-- VMUL (R213). -/
def execVmul (o : VArgs) (s : State) : Host.Outcome State Fault Refusal :=
  .next (s.commit (.vmul o))

/-- VMULH (R213). -/
def execVmulh (o : VArgs) (s : State) : Host.Outcome State Fault Refusal :=
  .next (s.commit (.vmulh o))

/-- VMAC (R213). -/
def execVmac (o : VArgs) (s : State) : Host.Outcome State Fault Refusal :=
  .next (s.commit (.vmac o))

/-- VDIV (R214). -/
def execVdiv (o : VArgs) (s : State) : Host.Outcome State Fault Refusal :=
  .next (s.commit (.vdiv o))

/-- VREM (R214). -/
def execVrem (o : VArgs) (s : State) : Host.Outcome State Fault Refusal :=
  .next (s.commit (.vrem o))

/-- VMIN (R213). -/
def execVmin (o : VArgs) (s : State) : Host.Outcome State Fault Refusal :=
  .next (s.commit (.vmin o))

/-- VMAX (R213). -/
def execVmax (o : VArgs) (s : State) : Host.Outcome State Fault Refusal :=
  .next (s.commit (.vmax o))

/-- VSADD (R213). -/
def execVsadd (o : VArgs) (s : State) : Host.Outcome State Fault Refusal :=
  .next (s.commit (.vsadd o))

/-- VSSUB (R213). -/
def execVssub (o : VArgs) (s : State) : Host.Outcome State Fault Refusal :=
  .next (s.commit (.vssub o))

/-- VAVG (R213). -/
def execVavg (o : VArgs) (s : State) : Host.Outcome State Fault Refusal :=
  .next (s.commit (.vavg o))

/-- VABS (R213). -/
def execVabs (o : VUnary) (s : State) : Host.Outcome State Fault Refusal :=
  .next (s.commit (.vabs o))

/-- VNEG (R213). -/
def execVneg (o : VUnary) (s : State) : Host.Outcome State Fault Refusal :=
  .next (s.commit (.vneg o))

/-- VPOPC (R213). -/
def execVpopc (o : VUnary) (s : State) : Host.Outcome State Fault Refusal :=
  .next (s.commit (.vpopc o))

/-- VCLZ (R213). -/
def execVclz (o : VUnary) (s : State) : Host.Outcome State Fault Refusal :=
  .next (s.commit (.vclz o))

/-- VAND (R215). -/
def execVand (o : VArgs) (s : State) : Host.Outcome State Fault Refusal :=
  .next (s.commit (.vand o))

/-- VOR (R215). -/
def execVor (o : VArgs) (s : State) : Host.Outcome State Fault Refusal :=
  .next (s.commit (.vor o))

/-- VXOR (R215). -/
def execVxor (o : VArgs) (s : State) : Host.Outcome State Fault Refusal :=
  .next (s.commit (.vxor o))

/-- VNOT (R215). -/
def execVnot (o : VUnary) (s : State) : Host.Outcome State Fault Refusal :=
  .next (s.commit (.vnot o))

/-- VSLL (R215). -/
def execVsll (o : VArgs) (s : State) : Host.Outcome State Fault Refusal :=
  .next (s.commit (.vsll o))

/-- VSRL (R215). -/
def execVsrl (o : VArgs) (s : State) : Host.Outcome State Fault Refusal :=
  .next (s.commit (.vsrl o))

/-- VSRA (R215). -/
def execVsra (o : VArgs) (s : State) : Host.Outcome State Fault Refusal :=
  .next (s.commit (.vsra o))

/-- VMV (R215). -/
def execVmv (o : VUnary) (s : State) : Host.Outcome State Fault Refusal :=
  .next (s.commit (.vmv o))

/-- VMERGE (R215). -/
def execVmerge (o : VArgs) (s : State) : Host.Outcome State Fault Refusal :=
  .next (s.commit (.vmerge o))

/-- VSPLAT (R215). -/
def execVsplat (vd op2 : BitVec 5) (vm : BitVec 3) (kind : VKind) (s : State) : Host.Outcome State Fault Refusal :=
  .next (s.commit (.vsplat vd op2 vm kind))

/-- VCMPEQ (R208). -/
def execVcmpeq (o : VCmpArgs) (s : State) : Host.Outcome State Fault Refusal :=
  .next (s.commit (.vcmpeq o))

/-- VCMPNE (R208). -/
def execVcmpne (o : VCmpArgs) (s : State) : Host.Outcome State Fault Refusal :=
  .next (s.commit (.vcmpne o))

/-- VCMPLT (R208). -/
def execVcmplt (o : VCmpArgs) (s : State) : Host.Outcome State Fault Refusal :=
  .next (s.commit (.vcmplt o))

/-- VCMPLE (R208). -/
def execVcmple (o : VCmpArgs) (s : State) : Host.Outcome State Fault Refusal :=
  .next (s.commit (.vcmple o))

/-- VCMPGT (R208). -/
def execVcmpgt (o : VCmpArgs) (s : State) : Host.Outcome State Fault Refusal :=
  .next (s.commit (.vcmpgt o))

/-- VCMPGE (R208). -/
def execVcmpge (o : VCmpArgs) (s : State) : Host.Outcome State Fault Refusal :=
  .next (s.commit (.vcmpge o))

/-- MAND (R217). -/
def execMand (md ms1 ms2 : BitVec 3) (s : State) : Host.Outcome State Fault Refusal :=
  .next (s.commit (.mand md ms1 ms2))

/-- MOR (R217). -/
def execMor (md ms1 ms2 : BitVec 3) (s : State) : Host.Outcome State Fault Refusal :=
  .next (s.commit (.mor md ms1 ms2))

/-- MXOR (R217). -/
def execMxor (md ms1 ms2 : BitVec 3) (s : State) : Host.Outcome State Fault Refusal :=
  .next (s.commit (.mxor md ms1 ms2))

/-- MNOT (R217). -/
def execMnot (md ms1 : BitVec 3) (s : State) : Host.Outcome State Fault Refusal :=
  .next (s.commit (.mnot md ms1))

/-- MPOPC (R217). -/
def execMpopc (rd : BitVec 5) (ms1 vm : BitVec 3) (s : State) : Host.Outcome State Fault Refusal :=
  .next (s.commit (.mpopc rd ms1 vm))

/-- MFIRST (R217). -/
def execMfirst (rd : BitVec 5) (ms1 vm : BitVec 3) (s : State) : Host.Outcome State Fault Refusal :=
  .next (s.commit (.mfirst rd ms1 vm))

/-- MSET (R217). -/
def execMset (md : BitVec 3) (s : State) : Host.Outcome State Fault Refusal :=
  .next (s.commit (.mset md))

/-- VMATCH (R218). -/
def execVmatch (tgd : BitVec 2) (vs1 xs2 : BitVec 5) (vm : BitVec 3) (s : State) : Host.Outcome State Fault Refusal :=
  .next (s.commit (.vmatch tgd vs1 xs2 vm))

/-- VWRITE (R218). -/
def execVwrite (vd xs2 : BitVec 5) (tgs : BitVec 2) (vm : BitVec 3) (s : State) : Host.Outcome State Fault Refusal :=
  .next (s.commit (.vwrite vd xs2 tgs vm))

/-- TGMOV_TO_MASK (R219). -/
def execTgmovToMask (md : BitVec 3) (tgs : BitVec 2) (s : State) : Host.Outcome State Fault Refusal :=
  .next (s.commit (.tgmovToMask md tgs))

/-- TGMOV_TO_TAG (R219). -/
def execTgmovToTag (tgd : BitVec 2) (ms1 : BitVec 3) (s : State) : Host.Outcome State Fault Refusal :=
  .next (s.commit (.tgmovToTag tgd ms1))

/-- TTLOAD (R222). -/
def execTtload (slot : BitVec 4) (xs1 : BitVec 5) (s : State) : Host.Outcome State Fault Refusal :=
  .next (s.commit (.ttload slot xs1))

/-- VTT (R223). -/
def execVtt (o : VttArgs) (s : State) : Host.Outcome State Fault Refusal :=
  .next (s.commit (.vtt o))

/-- VFADD (R227). -/
def execVfadd (o : VFArgs) (s : State) : Host.Outcome State Fault Refusal :=
  .next (s.commit (.vfadd o))

/-- VFSUB (R227). -/
def execVfsub (o : VFArgs) (s : State) : Host.Outcome State Fault Refusal :=
  .next (s.commit (.vfsub o))

/-- VFMUL (R227). -/
def execVfmul (o : VFArgs) (s : State) : Host.Outcome State Fault Refusal :=
  .next (s.commit (.vfmul o))

/-- VFMA (R227). -/
def execVfma (o : VFArgs) (s : State) : Host.Outcome State Fault Refusal :=
  .next (s.commit (.vfma o))

/-- VFNMA (R227). -/
def execVfnma (o : VFArgs) (s : State) : Host.Outcome State Fault Refusal :=
  .next (s.commit (.vfnma o))

/-- VFMIN (R229). -/
def execVfmin (vd vs1 op2 : BitVec 5) (vm : BitVec 3) (vx : Bool) (s : State) : Host.Outcome State Fault Refusal :=
  .next (s.commit (.vfmin vd vs1 op2 vm vx))

/-- VFMAX (R229). -/
def execVfmax (vd vs1 op2 : BitVec 5) (vm : BitVec 3) (vx : Bool) (s : State) : Host.Outcome State Fault Refusal :=
  .next (s.commit (.vfmax vd vs1 op2 vm vx))

/-- VFDIV (R227). -/
def execVfdiv (o : VFArgs) (s : State) : Host.Outcome State Fault Refusal :=
  .next (s.commit (.vfdiv o))

/-- VFSQRT (R227). -/
def execVfsqrt (o : VFUnary) (s : State) : Host.Outcome State Fault Refusal :=
  .next (s.commit (.vfsqrt o))

/-- VFRSQ (R227). -/
def execVfrsq (o : VFUnary) (s : State) : Host.Outcome State Fault Refusal :=
  .next (s.commit (.vfrsq o))

/-- VFEXP2 (R227). -/
def execVfexp2 (o : VFUnary) (s : State) : Host.Outcome State Fault Refusal :=
  .next (s.commit (.vfexp2 o))

/-- VFLOG2 (R227). -/
def execVflog2 (o : VFUnary) (s : State) : Host.Outcome State Fault Refusal :=
  .next (s.commit (.vflog2 o))

/-- VFABS (R229). -/
def execVfabs (o : VUnary) (s : State) : Host.Outcome State Fault Refusal :=
  .next (s.commit (.vfabs o))

/-- VFNEG (R229). -/
def execVfneg (o : VUnary) (s : State) : Host.Outcome State Fault Refusal :=
  .next (s.commit (.vfneg o))

/-- VFCLASS (R230). -/
def execVfclass (o : VUnary) (s : State) : Host.Outcome State Fault Refusal :=
  .next (s.commit (.vfclass o))

/-- VFCMP (R231). -/
def execVfcmp (cond : FCond) (md : BitVec 3) (vs1 op2 : BitVec 5) (vm : BitVec 3) (vx : Bool) (s : State) : Host.Outcome State Fault Refusal :=
  .next (s.commit (.vfcmp cond md vs1 op2 vm vx))

/-- VCVT (R234). -/
def execVcvt (o : CvtArgs) (s : State) : Host.Outcome State Fault Refusal :=
  .next (s.commit (.vcvt o))

/-- VNARROW (R234). -/
def execVnarrow (o : CvtArgs) (s : State) : Host.Outcome State Fault Refusal :=
  .next (s.commit (.vnarrow o))

/-- VWIDEN (R234). -/
def execVwiden (o : CvtArgs) (s : State) : Host.Outcome State Fault Refusal :=
  .next (s.commit (.vwiden o))

/-- VBSCALE (R238). -/
def execVbscale (o : CvtArgs) (s : State) : Host.Outcome State Fault Refusal :=
  .next (s.commit (.vbscale o))

/-- VBQUANT (R236). -/
def execVbquant (o : CvtArgs) (s : State) : Host.Outcome State Fault Refusal :=
  .next (s.commit (.vbquant o))

/-- VBDEQ (R237). -/
def execVbdeq (o : CvtArgs) (s : State) : Host.Outcome State Fault Refusal :=
  .next (s.commit (.vbdeq o))

/-- VREDSUM (R241). -/
def execVredsum (o : RedArgs) (s : State) : Host.Outcome State Fault Refusal :=
  .next (s.commit (.vredsum o))

/-- VREDSUMO (R241). -/
def execVredsumo (o : RedArgs) (s : State) : Host.Outcome State Fault Refusal :=
  .next (s.commit (.vredsumo o))

/-- VREDMIN (R241). -/
def execVredmin (d vs1 : BitVec 5) (vm : BitVec 3) (toX : Bool) (s : State) : Host.Outcome State Fault Refusal :=
  .next (s.commit (.vredmin d vs1 vm toX))

/-- VREDMAX (R241). -/
def execVredmax (d vs1 : BitVec 5) (vm : BitVec 3) (toX : Bool) (s : State) : Host.Outcome State Fault Refusal :=
  .next (s.commit (.vredmax d vs1 vm toX))

/-- VREDAND (R241). -/
def execVredand (d vs1 : BitVec 5) (vm : BitVec 3) (toX : Bool) (s : State) : Host.Outcome State Fault Refusal :=
  .next (s.commit (.vredand d vs1 vm toX))

/-- VREDOR (R241). -/
def execVredor (d vs1 : BitVec 5) (vm : BitVec 3) (toX : Bool) (s : State) : Host.Outcome State Fault Refusal :=
  .next (s.commit (.vredor d vs1 vm toX))

/-- VREDXOR (R241). -/
def execVredxor (d vs1 : BitVec 5) (vm : BitVec 3) (toX : Bool) (s : State) : Host.Outcome State Fault Refusal :=
  .next (s.commit (.vredxor d vs1 vm toX))

/-- VSCANSUM (R243). -/
def execVscansum (o : VFUnary) (s : State) : Host.Outcome State Fault Refusal :=
  .next (s.commit (.vscansum o))

/-- VSCANMIN (R243). -/
def execVscanmin (o : VUnary) (s : State) : Host.Outcome State Fault Refusal :=
  .next (s.commit (.vscanmin o))

/-- VSCANMAX (R243). -/
def execVscanmax (o : VUnary) (s : State) : Host.Outcome State Fault Refusal :=
  .next (s.commit (.vscanmax o))

/-- VSLIDEUP (R245). -/
def execVslideup (o : VArgs) (s : State) : Host.Outcome State Fault Refusal :=
  .next (s.commit (.vslideup o))

/-- VSLIDEDN (R245). -/
def execVslidedn (o : VArgs) (s : State) : Host.Outcome State Fault Refusal :=
  .next (s.commit (.vslidedn o))

/-- VGATHER (R245). -/
def execVgather (vd vs1 vs2 : BitVec 5) (vm : BitVec 3) (s : State) : Host.Outcome State Fault Refusal :=
  .next (s.commit (.vgather vd vs1 vs2 vm))

/-- VCOMPRESS (R245). -/
def execVcompress (o : VUnary) (s : State) : Host.Outcome State Fault Refusal :=
  .next (s.commit (.vcompress o))

/-- VEXPAND (R245). -/
def execVexpand (o : VUnary) (s : State) : Host.Outcome State Fault Refusal :=
  .next (s.commit (.vexpand o))

/-- VBCAST (R245). -/
def execVbcast (o : VArgs) (s : State) : Host.Outcome State Fault Refusal :=
  .next (s.commit (.vbcast o))

/-- VEXTR (R245). -/
def execVextr (o : VArgs) (s : State) : Host.Outcome State Fault Refusal :=
  .next (s.commit (.vextr o))

/-- VINS (R245). -/
def execVins (o : VArgs) (s : State) : Host.Outcome State Fault Refusal :=
  .next (s.commit (.vins o))

/-- VBSHUF (R246). -/
def execVbshuf (vd vs1 vs2 : BitVec 5) (vm : BitVec 3) (s : State) : Host.Outcome State Fault Refusal :=
  .next (s.commit (.vbshuf vd vs1 vs2 vm))

/-- VIDX (R216). -/
def execVidx (vd : BitVec 5) (start : BitVec 11) (inc : BitVec 10) (s : State) : Host.Outcome State Fault Refusal :=
  .next (s.commit (.vidx vd start inc))

/-- VLD (R303). -/
def execVld (a : VMemArgs) (s : State) : Host.Outcome State Fault Refusal :=
  .next (s.commit (.vld a))

/-- VLDS (R303). -/
def execVlds (a : VMemArgs) (s : State) : Host.Outcome State Fault Refusal :=
  .next (s.commit (.vlds a))

/-- VLDX (R303). -/
def execVldx (a : VMemArgs) (s : State) : Host.Outcome State Fault Refusal :=
  .next (s.commit (.vldx a))

/-- VLDT (R306). -/
def execVldt (a : VMemArgs) (s : State) : Host.Outcome State Fault Refusal :=
  .next (s.commit (.vldt a))

/-- VLDB (R307). -/
def execVldb (a : VMemArgs) (s : State) : Host.Outcome State Fault Refusal :=
  .next (s.commit (.vldb a))

/-- VLDSB (R308). -/
def execVldsb (vd xs1 : BitVec 5) (vm : BitVec 3) (rx : Bool) (s : State) : Host.Outcome State Fault Refusal :=
  .next (s.commit (.vldsb vd xs1 vm rx))

/-- VST (R303). -/
def execVst (a : VMemArgs) (s : State) : Host.Outcome State Fault Refusal :=
  .next (s.commit (.vst a))

/-- VSTS (R303). -/
def execVsts (a : VMemArgs) (s : State) : Host.Outcome State Fault Refusal :=
  .next (s.commit (.vsts a))

/-- VSTX (R303). -/
def execVstx (a : VMemArgs) (s : State) : Host.Outcome State Fault Refusal :=
  .next (s.commit (.vstx a))

/-- VSTT (R306). -/
def execVstt (a : VMemArgs) (s : State) : Host.Outcome State Fault Refusal :=
  .next (s.commit (.vstt a))

/-- VAMOADD (R350). -/
def execVamoadd (a : VAmoArgs) (s : State) : Host.Outcome State Fault Refusal :=
  .next (s.commit (.vamoadd a))

/-- VAMOMIN (R350). -/
def execVamomin (a : VAmoArgs) (s : State) : Host.Outcome State Fault Refusal :=
  .next (s.commit (.vamomin a))

/-- VAMOMAX (R350). -/
def execVamomax (a : VAmoArgs) (s : State) : Host.Outcome State Fault Refusal :=
  .next (s.commit (.vamomax a))

/-- VAMOAND (R350). -/
def execVamoand (a : VAmoArgs) (s : State) : Host.Outcome State Fault Refusal :=
  .next (s.commit (.vamoand a))

/-- VAMOOR (R350). -/
def execVamoor (a : VAmoArgs) (s : State) : Host.Outcome State Fault Refusal :=
  .next (s.commit (.vamoor a))

/-- VAMOXOR (R350). -/
def execVamoxor (a : VAmoArgs) (s : State) : Host.Outcome State Fault Refusal :=
  .next (s.commit (.vamoxor a))

/-- VAMOSWAP (R350). -/
def execVamoswap (a : VAmoArgs) (s : State) : Host.Outcome State Fault Refusal :=
  .next (s.commit (.vamoswap a))

/-- VAMOCAS (R350). -/
def execVamocas (a : VAmoArgs) (s : State) : Host.Outcome State Fault Refusal :=
  .next (s.commit (.vamocas a))

/-- VWAIT (R354). -/
def execVwait (cond : WCond) (md : BitVec 3) (vs1 vs2 : BitVec 5) (vm : BitVec 3) (s : State) : Host.Outcome State Fault Refusal :=
  .next (s.commit (.vwait cond md vs1 vs2 vm))

/-- VSEND (R358). -/
def execVsend (vs1 xs2 : BitVec 5) (vm : BitVec 3) (s : State) : Host.Outcome State Fault Refusal :=
  .next (s.commit (.vsend vs1 xs2 vm))

/-- XRED (R361). -/
def execXred (op : XOp) (vd xs2 : BitVec 5) (vm : BitVec 3) (s : State) : Host.Outcome State Fault Refusal :=
  .next (s.commit (.xred op vd xs2 vm))

/-- BSLOAD (R253). -/
def execBsload (xs1 xs2 : BitVec 5) (vm : BitVec 3) (s : State) : Host.Outcome State Fault Refusal :=
  .next (s.commit (.bsload xs1 xs2 vm))

/-- BSMOV_TO_UPPER (R252). -/
def execBsmovToUpper (vs1 xs2 : BitVec 5) (vm : BitVec 3) (s : State) : Host.Outcome State Fault Refusal :=
  .next (s.commit (.bsmovToUpper vs1 xs2 vm))

/-- BSMOV_FROM_UPPER (R252). -/
def execBsmovFromUpper (vd xs2 : BitVec 5) (vm : BitVec 3) (s : State) : Host.Outcome State Fault Refusal :=
  .next (s.commit (.bsmovFromUpper vd xs2 vm))

/-- IMMA (R254). -/
def execImma (vd vs1 xs2 : BitVec 5) (vm : BitVec 3) (s : State) : Host.Outcome State Fault Refusal :=
  .next (s.commit (.imma vd vs1 xs2 vm))

/-- TMMA (R259). -/
def execTmma (o : TArgs) (s : State) : Host.Outcome State Fault Refusal :=
  .next (s.commit (.tmma o))

/-- TMMAO (R259). -/
def execTmmao (o : TArgs) (s : State) : Host.Outcome State Fault Refusal :=
  .next (s.commit (.tmmao o))

/-- TACCZ (R261). -/
def execTaccz (acc : BitVec 3) (s : State) : Host.Outcome State Fault Refusal :=
  .next (s.commit (.taccz acc))

/-- TACCLD (R261). -/
def execTaccld (acc : BitVec 3) (vA : BitVec 5) (s : State) : Host.Outcome State Fault Refusal :=
  .next (s.commit (.taccld acc vA))

/-- TACCST (R261). -/
def execTaccst (acc : BitVec 3) (vA : BitVec 5) (s : State) : Host.Outcome State Fault Refusal :=
  .next (s.commit (.taccst acc vA))

/-- VPF (R134). -/
def execVpf (_a : VMemArgs) (s : State) : Host.Outcome State Fault Refusal :=
  .next s.advance

/-- HINT (R134). -/
def execHint (_maj : HintMajor) (_imm : BitVec 26) (s : State) : Host.Outcome State Fault Refusal :=
  .next s.advance

end Sys2Proof.Machine
end

