-- ==== Sys2Proof/Machine/Dispatch.lean ====
section
/-! DEFINITION. The meaning of every row of the opcode table, one arm each. -/

namespace Sys2Proof.Machine

/-- The meaning of an instruction or event. -/
def exec (i : Instr) (s : State) : Host.Outcome State Fault Refusal :=
  match i with
  | .add rd rs1 rs2 => Sys2Proof.Machine.execAdd rd rs1 rs2 s
  | .sub rd rs1 rs2 => Sys2Proof.Machine.execSub rd rs1 rs2 s
  | .and rd rs1 rs2 => Sys2Proof.Machine.execAnd rd rs1 rs2 s
  | .or rd rs1 rs2 => Sys2Proof.Machine.execOr rd rs1 rs2 s
  | .xor rd rs1 rs2 => Sys2Proof.Machine.execXor rd rs1 rs2 s
  | .andn rd rs1 rs2 => Sys2Proof.Machine.execAndn rd rs1 rs2 s
  | .sll rd rs1 rs2 => Sys2Proof.Machine.execSll rd rs1 rs2 s
  | .srl rd rs1 rs2 => Sys2Proof.Machine.execSrl rd rs1 rs2 s
  | .sra rd rs1 rs2 => Sys2Proof.Machine.execSra rd rs1 rs2 s
  | .rol rd rs1 rs2 => Sys2Proof.Machine.execRol rd rs1 rs2 s
  | .slt rd rs1 rs2 => Sys2Proof.Machine.execSlt rd rs1 rs2 s
  | .sltu rd rs1 rs2 => Sys2Proof.Machine.execSltu rd rs1 rs2 s
  | .min rd rs1 rs2 => Sys2Proof.Machine.execMin rd rs1 rs2 s
  | .max rd rs1 rs2 => Sys2Proof.Machine.execMax rd rs1 rs2 s
  | .minu rd rs1 rs2 => Sys2Proof.Machine.execMinu rd rs1 rs2 s
  | .maxu rd rs1 rs2 => Sys2Proof.Machine.execMaxu rd rs1 rs2 s
  | .clz rd rs1 => Sys2Proof.Machine.execClz rd rs1 s
  | .ctz rd rs1 => Sys2Proof.Machine.execCtz rd rs1 s
  | .popc rd rs1 => Sys2Proof.Machine.execPopc rd rs1 s
  | .sext size rd rs1 => Sys2Proof.Machine.execSext size rd rs1 s
  | .zext size rd rs1 => Sys2Proof.Machine.execZext size rd rs1 s
  | .addi rd rs1 imm => Sys2Proof.Machine.execAddi rd rs1 imm s
  | .andi rd rs1 imm => Sys2Proof.Machine.execAndi rd rs1 imm s
  | .ori rd rs1 imm => Sys2Proof.Machine.execOri rd rs1 imm s
  | .xori rd rs1 imm => Sys2Proof.Machine.execXori rd rs1 imm s
  | .slti rd rs1 imm => Sys2Proof.Machine.execSlti rd rs1 imm s
  | .sltiu rd rs1 imm => Sys2Proof.Machine.execSltiu rd rs1 imm s
  | .slli rd rs1 sh => Sys2Proof.Machine.execSlli rd rs1 sh s
  | .srli rd rs1 sh => Sys2Proof.Machine.execSrli rd rs1 sh s
  | .srai rd rs1 sh => Sys2Proof.Machine.execSrai rd rs1 sh s
  | .roli rd rs1 sh => Sys2Proof.Machine.execRoli rd rs1 sh s
  | .lui rd imm => Sys2Proof.Machine.execLui rd imm s
  | .mul rd rs1 rs2 => Sys2Proof.Machine.execMul rd rs1 rs2 s
  | .mulh rd rs1 rs2 => Sys2Proof.Machine.execMulh rd rs1 rs2 s
  | .mulhu rd rs1 rs2 => Sys2Proof.Machine.execMulhu rd rs1 rs2 s
  | .div rd rs1 rs2 => Sys2Proof.Machine.execDiv rd rs1 rs2 s
  | .divu rd rs1 rs2 => Sys2Proof.Machine.execDivu rd rs1 rs2 s
  | .rem rd rs1 rs2 => Sys2Proof.Machine.execRem rd rs1 rs2 s
  | .remu rd rs1 rs2 => Sys2Proof.Machine.execRemu rd rs1 rs2 s
  | .beq rs1 rs2 off => Sys2Proof.Machine.execBeq rs1 rs2 off s
  | .bne rs1 rs2 off => Sys2Proof.Machine.execBne rs1 rs2 off s
  | .blt rs1 rs2 off => Sys2Proof.Machine.execBlt rs1 rs2 off s
  | .bge rs1 rs2 off => Sys2Proof.Machine.execBge rs1 rs2 off s
  | .bltu rs1 rs2 off => Sys2Proof.Machine.execBltu rs1 rs2 off s
  | .bgeu rs1 rs2 off => Sys2Proof.Machine.execBgeu rs1 rs2 off s
  | .jal off => Sys2Proof.Machine.execJal off s
  | .jalr rd rs1 imm => Sys2Proof.Machine.execJalr rd rs1 imm s
  | .ld a => Sys2Proof.Machine.execLd a s
  | .st a => Sys2Proof.Machine.execSt a s
  | .aadd a => Sys2Proof.Machine.execAadd a s
  | .aand a => Sys2Proof.Machine.execAand a s
  | .aor a => Sys2Proof.Machine.execAor a s
  | .axor a => Sys2Proof.Machine.execAxor a s
  | .amin a => Sys2Proof.Machine.execAmin a s
  | .amax a => Sys2Proof.Machine.execAmax a s
  | .aswap a => Sys2Proof.Machine.execAswap a s
  | .acas a => Sys2Proof.Machine.execAcas a s
  | .ldfK rd rs1 imm => Sys2Proof.Machine.execLdfK rd rs1 imm s
  | .ldfT rd rs1 imm => Sys2Proof.Machine.execLdfT rd rs1 imm s
  | .stf rs2 rs1 imm => Sys2Proof.Machine.execStf rs2 rs1 imm s
  | .stfW rs2 rs1 imm => Sys2Proof.Machine.execStfW rs2 rs1 imm s
  | .sete rs1 imm => Sys2Proof.Machine.execSete rs1 imm s
  | .probef rd rs1 imm => Sys2Proof.Machine.execProbef rd rs1 imm s
  | .fence scope => Sys2Proof.Machine.execFence scope s
  | .vsync => Sys2Proof.Machine.execVsync s
  | .cflush rs1 rs2 => Sys2Proof.Machine.execCflush rs1 rs2 s
  | .cinv rs1 rs2 => Sys2Proof.Machine.execCinv rs1 rs2 s
  | .seal rs1 rs2 => Sys2Proof.Machine.execSeal rs1 rs2 s
  | .unseal rs1 rs2 => Sys2Proof.Machine.execUnseal rs1 rs2 s
  | .csrr rd csr => Sys2Proof.Machine.execCsrr rd csr s
  | .csrw rs1 csr => Sys2Proof.Machine.execCsrw rs1 csr s
  | .csrs rs1 csr => Sys2Proof.Machine.execCsrs rs1 csr s
  | .csrc rs1 csr => Sys2Proof.Machine.execCsrc rs1 csr s
  | .trap rs1 => Sys2Proof.Machine.execTrap rs1 s
  | .tret => Sys2Proof.Machine.execTret s
  | .brk => Sys2Proof.Machine.execBrk s
  | .wfe => Sys2Proof.Machine.execWfe s
  | .haltc => Sys2Proof.Machine.execHaltc s
  | .fmtset n rs1 => Sys2Proof.Machine.execFmtset n rs1 s
  | .ovtset rs1 => Sys2Proof.Machine.execOvtset rs1 s
  | .rndset rs1 => Sys2Proof.Machine.execRndset rs1 s
  | .send rs1 rs2 => Sys2Proof.Machine.execSend rs1 rs2 s
  | .rserve rs1 => Sys2Proof.Machine.execRserve rs1 s
  | .next => Sys2Proof.Machine.execNext s
  | .nalloc rd => Sys2Proof.Machine.execNalloc rd s
  | .nfree rs1 => Sys2Proof.Machine.execNfree rs1 s
  | .ntake rd rs1 => Sys2Proof.Machine.execNtake rd rs1 s
  | .nlink rs1 rs2 => Sys2Proof.Machine.execNlink rs1 rs2 s
  | .npush rs1 rs2 => Sys2Proof.Machine.execNpush rs1 rs2 s
  | .nhdr rd rs1 => Sys2Proof.Machine.execNhdr rd rs1 s
  | .nseth rs1 rs2 => Sys2Proof.Machine.execNseth rs1 rs2 s
  | .nfwd rs1 => Sys2Proof.Machine.execNfwd rs1 s
  | .ndone => Sys2Proof.Machine.execNdone s
  | .yield => Sys2Proof.Machine.execYield s
  | .resume rs1 => Sys2Proof.Machine.execResume rs1 s
  | .cpy rs1 => Sys2Proof.Machine.execCpy rs1 s
  | .cpy2d rs1 => Sys2Proof.Machine.execCpy2d rs1 s
  | .cpyw rd rs1 => Sys2Proof.Machine.execCpyw rd rs1 s
  | .sbinit rs1 rs2 => Sys2Proof.Machine.execSbinit rs1 rs2 s
  | .sbwait rs1 => Sys2Proof.Machine.execSbwait rs1 s
  | .sbadv rs1 rs2 => Sys2Proof.Machine.execSbadv rs1 rs2 s
  | .snap rd rs1 => Sys2Proof.Machine.execSnap rd rs1 s
  | .publish rd rs1 => Sys2Proof.Machine.execPublish rd rs1 s
  | .objfree rd rs1 => Sys2Proof.Machine.execObjfree rd rs1 s
  | .setlen rd rs1 => Sys2Proof.Machine.execSetlen rd rs1 s
  | .setvt rs1 => Sys2Proof.Machine.execSetvt rs1 s
  | .lanerel => Sys2Proof.Machine.execLanerel s
  | .setvti imm => Sys2Proof.Machine.execSetvti imm s
  | .vadd o => Sys2Proof.Machine.execVadd o s
  | .vsub o => Sys2Proof.Machine.execVsub o s
  | .vrsub o => Sys2Proof.Machine.execVrsub o s
  | .vmul o => Sys2Proof.Machine.execVmul o s
  | .vmulh o => Sys2Proof.Machine.execVmulh o s
  | .vmac o => Sys2Proof.Machine.execVmac o s
  | .vdiv o => Sys2Proof.Machine.execVdiv o s
  | .vrem o => Sys2Proof.Machine.execVrem o s
  | .vmin o => Sys2Proof.Machine.execVmin o s
  | .vmax o => Sys2Proof.Machine.execVmax o s
  | .vsadd o => Sys2Proof.Machine.execVsadd o s
  | .vssub o => Sys2Proof.Machine.execVssub o s
  | .vavg o => Sys2Proof.Machine.execVavg o s
  | .vabs o => Sys2Proof.Machine.execVabs o s
  | .vneg o => Sys2Proof.Machine.execVneg o s
  | .vpopc o => Sys2Proof.Machine.execVpopc o s
  | .vclz o => Sys2Proof.Machine.execVclz o s
  | .vand o => Sys2Proof.Machine.execVand o s
  | .vor o => Sys2Proof.Machine.execVor o s
  | .vxor o => Sys2Proof.Machine.execVxor o s
  | .vnot o => Sys2Proof.Machine.execVnot o s
  | .vsll o => Sys2Proof.Machine.execVsll o s
  | .vsrl o => Sys2Proof.Machine.execVsrl o s
  | .vsra o => Sys2Proof.Machine.execVsra o s
  | .vmv o => Sys2Proof.Machine.execVmv o s
  | .vmerge o => Sys2Proof.Machine.execVmerge o s
  | .vsplat vd op2 vm kind => Sys2Proof.Machine.execVsplat vd op2 vm kind s
  | .vcmpeq o => Sys2Proof.Machine.execVcmpeq o s
  | .vcmpne o => Sys2Proof.Machine.execVcmpne o s
  | .vcmplt o => Sys2Proof.Machine.execVcmplt o s
  | .vcmple o => Sys2Proof.Machine.execVcmple o s
  | .vcmpgt o => Sys2Proof.Machine.execVcmpgt o s
  | .vcmpge o => Sys2Proof.Machine.execVcmpge o s
  | .mand md ms1 ms2 => Sys2Proof.Machine.execMand md ms1 ms2 s
  | .mor md ms1 ms2 => Sys2Proof.Machine.execMor md ms1 ms2 s
  | .mxor md ms1 ms2 => Sys2Proof.Machine.execMxor md ms1 ms2 s
  | .mnot md ms1 => Sys2Proof.Machine.execMnot md ms1 s
  | .mpopc rd ms1 vm => Sys2Proof.Machine.execMpopc rd ms1 vm s
  | .mfirst rd ms1 vm => Sys2Proof.Machine.execMfirst rd ms1 vm s
  | .mset md => Sys2Proof.Machine.execMset md s
  | .vmatch tgd vs1 xs2 vm => Sys2Proof.Machine.execVmatch tgd vs1 xs2 vm s
  | .vwrite vd xs2 tgs vm => Sys2Proof.Machine.execVwrite vd xs2 tgs vm s
  | .tgmovToMask md tgs => Sys2Proof.Machine.execTgmovToMask md tgs s
  | .tgmovToTag tgd ms1 => Sys2Proof.Machine.execTgmovToTag tgd ms1 s
  | .ttload slot xs1 => Sys2Proof.Machine.execTtload slot xs1 s
  | .vtt o => Sys2Proof.Machine.execVtt o s
  | .vfadd o => Sys2Proof.Machine.execVfadd o s
  | .vfsub o => Sys2Proof.Machine.execVfsub o s
  | .vfmul o => Sys2Proof.Machine.execVfmul o s
  | .vfma o => Sys2Proof.Machine.execVfma o s
  | .vfnma o => Sys2Proof.Machine.execVfnma o s
  | .vfmin vd vs1 op2 vm vx => Sys2Proof.Machine.execVfmin vd vs1 op2 vm vx s
  | .vfmax vd vs1 op2 vm vx => Sys2Proof.Machine.execVfmax vd vs1 op2 vm vx s
  | .vfdiv o => Sys2Proof.Machine.execVfdiv o s
  | .vfsqrt o => Sys2Proof.Machine.execVfsqrt o s
  | .vfrsq o => Sys2Proof.Machine.execVfrsq o s
  | .vfexp2 o => Sys2Proof.Machine.execVfexp2 o s
  | .vflog2 o => Sys2Proof.Machine.execVflog2 o s
  | .vfabs o => Sys2Proof.Machine.execVfabs o s
  | .vfneg o => Sys2Proof.Machine.execVfneg o s
  | .vfclass o => Sys2Proof.Machine.execVfclass o s
  | .vfcmp cond md vs1 op2 vm vx => Sys2Proof.Machine.execVfcmp cond md vs1 op2 vm vx s
  | .vcvt o => Sys2Proof.Machine.execVcvt o s
  | .vnarrow o => Sys2Proof.Machine.execVnarrow o s
  | .vwiden o => Sys2Proof.Machine.execVwiden o s
  | .vbscale o => Sys2Proof.Machine.execVbscale o s
  | .vbquant o => Sys2Proof.Machine.execVbquant o s
  | .vbdeq o => Sys2Proof.Machine.execVbdeq o s
  | .vredsum o => Sys2Proof.Machine.execVredsum o s
  | .vredsumo o => Sys2Proof.Machine.execVredsumo o s
  | .vredmin d vs1 vm toX => Sys2Proof.Machine.execVredmin d vs1 vm toX s
  | .vredmax d vs1 vm toX => Sys2Proof.Machine.execVredmax d vs1 vm toX s
  | .vredand d vs1 vm toX => Sys2Proof.Machine.execVredand d vs1 vm toX s
  | .vredor d vs1 vm toX => Sys2Proof.Machine.execVredor d vs1 vm toX s
  | .vredxor d vs1 vm toX => Sys2Proof.Machine.execVredxor d vs1 vm toX s
  | .vscansum o => Sys2Proof.Machine.execVscansum o s
  | .vscanmin o => Sys2Proof.Machine.execVscanmin o s
  | .vscanmax o => Sys2Proof.Machine.execVscanmax o s
  | .vslideup o => Sys2Proof.Machine.execVslideup o s
  | .vslidedn o => Sys2Proof.Machine.execVslidedn o s
  | .vgather vd vs1 vs2 vm => Sys2Proof.Machine.execVgather vd vs1 vs2 vm s
  | .vcompress o => Sys2Proof.Machine.execVcompress o s
  | .vexpand o => Sys2Proof.Machine.execVexpand o s
  | .vbcast o => Sys2Proof.Machine.execVbcast o s
  | .vextr o => Sys2Proof.Machine.execVextr o s
  | .vins o => Sys2Proof.Machine.execVins o s
  | .vbshuf vd vs1 vs2 vm => Sys2Proof.Machine.execVbshuf vd vs1 vs2 vm s
  | .vidx vd start inc => Sys2Proof.Machine.execVidx vd start inc s
  | .vld a => Sys2Proof.Machine.execVld a s
  | .vlds a => Sys2Proof.Machine.execVlds a s
  | .vldx a => Sys2Proof.Machine.execVldx a s
  | .vldt a => Sys2Proof.Machine.execVldt a s
  | .vldb a => Sys2Proof.Machine.execVldb a s
  | .vldsb vd xs1 vm rx => Sys2Proof.Machine.execVldsb vd xs1 vm rx s
  | .vst a => Sys2Proof.Machine.execVst a s
  | .vsts a => Sys2Proof.Machine.execVsts a s
  | .vstx a => Sys2Proof.Machine.execVstx a s
  | .vstt a => Sys2Proof.Machine.execVstt a s
  | .vamoadd a => Sys2Proof.Machine.execVamoadd a s
  | .vamomin a => Sys2Proof.Machine.execVamomin a s
  | .vamomax a => Sys2Proof.Machine.execVamomax a s
  | .vamoand a => Sys2Proof.Machine.execVamoand a s
  | .vamoor a => Sys2Proof.Machine.execVamoor a s
  | .vamoxor a => Sys2Proof.Machine.execVamoxor a s
  | .vamoswap a => Sys2Proof.Machine.execVamoswap a s
  | .vamocas a => Sys2Proof.Machine.execVamocas a s
  | .vwait cond md vs1 vs2 vm => Sys2Proof.Machine.execVwait cond md vs1 vs2 vm s
  | .vsend vs1 xs2 vm => Sys2Proof.Machine.execVsend vs1 xs2 vm s
  | .xred op vd xs2 vm => Sys2Proof.Machine.execXred op vd xs2 vm s
  | .bsload xs1 xs2 vm => Sys2Proof.Machine.execBsload xs1 xs2 vm s
  | .bsmovToUpper vs1 xs2 vm => Sys2Proof.Machine.execBsmovToUpper vs1 xs2 vm s
  | .bsmovFromUpper vd xs2 vm => Sys2Proof.Machine.execBsmovFromUpper vd xs2 vm s
  | .imma vd vs1 xs2 vm => Sys2Proof.Machine.execImma vd vs1 xs2 vm s
  | .tmma o => Sys2Proof.Machine.execTmma o s
  | .tmmao o => Sys2Proof.Machine.execTmmao o s
  | .taccz acc => Sys2Proof.Machine.execTaccz acc s
  | .taccld acc vA => Sys2Proof.Machine.execTaccld acc vA s
  | .taccst acc vA => Sys2Proof.Machine.execTaccst acc vA s
  | .vpf a => Sys2Proof.Machine.execVpf a s
  | .hint maj imm => Sys2Proof.Machine.execHint maj imm s
  | .illegalWordFetch w => Sys2Proof.Machine.execIllegalWordFetch w s
  | .poolCsrWrite r op v => Sys2Proof.Machine.execPoolCsrWrite r op v s
  | .launch c v => Sys2Proof.Machine.execLaunch c v s
  | .launchDistributionResume c => Sys2Proof.Machine.execLaunchDistributionResume c s
  | .ctxrefresh c => Sys2Proof.Machine.execCtxrefresh c s
  | .yreqWrite p v => Sys2Proof.Machine.execYreqWrite p v s
  | .tlbinvAll c => Sys2Proof.Machine.execTlbinvAll c s
  | .tlbinvVpn c v => Sys2Proof.Machine.execTlbinvVpn c v s
  | .snapcmd v => Sys2Proof.Machine.execSnapcmd v s
  | .snapComplete => Sys2Proof.Machine.execSnapComplete s
  | .xredgrpWrite g v => Sys2Proof.Machine.execXredgrpWrite g v s
  | .preemptNotify c v => Sys2Proof.Machine.execPreemptNotify c v s
  | .preemptSave c v => Sys2Proof.Machine.execPreemptSave c v s
  | .ctxrun c v => Sys2Proof.Machine.execCtxrun c v s
  | .ctxrunResume c l => Sys2Proof.Machine.execCtxrunResume c l s
  | .dbgHalt p t => Sys2Proof.Machine.execDbgHalt p t s
  | .dbgRun p t => Sys2Proof.Machine.execDbgRun p t s
  | .dbgStep p t => Sys2Proof.Machine.execDbgStep p t s
  | .dregdataWrite p v => Sys2Proof.Machine.execDregdataWrite p v s
  | .qdataWrite p k v => Sys2Proof.Machine.execQdataWrite p k v s
  | .ctxretire c v => Sys2Proof.Machine.execCtxretire c v s
  | .retireFinish c => Sys2Proof.Machine.execRetireFinish c s
  | .devnumWrite v => Sys2Proof.Machine.execDevnumWrite v s
  | .registerWrite off v => Sys2Proof.Machine.execRegisterWrite off v s
  | .coreTakeUp p c => Sys2Proof.Machine.execCoreTakeUp p c s
  | .steal victim c thief shortOk longOk => Sys2Proof.Machine.execSteal victim c thief shortOk longOk s
  | .give thief c pairs => Sys2Proof.Machine.execGive thief c pairs s
  | .fwd target c pair => Sys2Proof.Machine.execFwd target c pair s
  | .wake p c pusher => Sys2Proof.Machine.execWake p c pusher s
  | .ifetchFill p t => Sys2Proof.Machine.execIfetchFill p t s
  | .muldivResult p t => Sys2Proof.Machine.execMuldivResult p t s
  | .readQueueDelivery p t => Sys2Proof.Machine.execReadQueueDelivery p t s
  | .scalarAccessPerform p t n => Sys2Proof.Machine.execScalarAccessPerform p t n s
  | .vqEntryExecute p t => Sys2Proof.Machine.execVqEntryExecute p t s
  | .vqEntryRetire p t => Sys2Proof.Machine.execVqEntryRetire p t s
  | .vectorFault p t => Sys2Proof.Machine.execVectorFault p t s
  | .laneGrant p => Sys2Proof.Machine.execLaneGrant p s
  | .channelDeposit d => Sys2Proof.Machine.execChannelDeposit d s
  | .redMessage m => Sys2Proof.Machine.execRedMessage m s
  | .xredMessage g m => Sys2Proof.Machine.execXredMessage g m s
  | .atomicRequest r => Sys2Proof.Machine.execAtomicRequest r s
  | .combineFetchArrival pa => Sys2Proof.Machine.execCombineFetchArrival pa s
  | .homeAccess p t n => Sys2Proof.Machine.execHomeAccess p t n s
  | .feRetry n => Sys2Proof.Machine.execFeRetry n s
  | .vwaitPoll p t => Sys2Proof.Machine.execVwaitPoll p t s
  | .vwaitTimeout p t => Sys2Proof.Machine.execVwaitTimeout p t s
  | .enginePiece e => Sys2Proof.Machine.execEnginePiece e s
  | .copyComplete desc => Sys2Proof.Machine.execCopyComplete desc s
  | .powerWindow n => Sys2Proof.Machine.execPowerWindow n s
  | .idleInsertion => Sys2Proof.Machine.execIdleInsertion s
  | .vxArbitration p tileFull pipeFull => Sys2Proof.Machine.execVxArbitration p tileFull pipeFull s
  | .sensorFail p w => Sys2Proof.Machine.execSensorFail p w s
  | .thermalThrottle => Sys2Proof.Machine.execThermalThrottle s
  | .thermalShutdown => Sys2Proof.Machine.execThermalShutdown s
  | .railFault r => Sys2Proof.Machine.execRailFault r s
  | .coldReset r => Sys2Proof.Machine.execColdReset r s
  | .perst r => Sys2Proof.Machine.execPerst r s
  | .resetcmd v r => Sys2Proof.Machine.execResetcmd v r s
  | .selfTest p t => Sys2Proof.Machine.execSelfTest p t s
  | .scrub p failing => Sys2Proof.Machine.execScrub p failing s
  | .mgmtCapmaskClear p clear => Sys2Proof.Machine.execMgmtCapmaskClear p clear s
  | .hostWrite pa bytes => Sys2Proof.Machine.execHostWrite pa bytes s
  | .hostRead pa len => Sys2Proof.Machine.execHostRead pa len s
  | .hostAtomic r => Sys2Proof.Machine.execHostAtomic r s
  | .hostCompletion n st data => Sys2Proof.Machine.execHostCompletion n st data s
  | .hostCompletionTimeout n => Sys2Proof.Machine.execHostCompletionTimeout n s
  | .getVersion => Sys2Proof.Machine.execGetVersion s
  | .getCapabilities => Sys2Proof.Machine.execGetCapabilities s
  | .negotiateAlgorithms => Sys2Proof.Machine.execNegotiateAlgorithms s
  | .getDigests => Sys2Proof.Machine.execGetDigests s
  | .getCertificate => Sys2Proof.Machine.execGetCertificate s
  | .challenge nonce => Sys2Proof.Machine.execChallenge nonce s
  | .getMeasurements q => Sys2Proof.Machine.execGetMeasurements q s
  | .recoveryImage x => Sys2Proof.Machine.execRecoveryImage x s
  | .peerRequest dev c op => Sys2Proof.Machine.execPeerRequest dev c op s
  | .peerResponse n st data => Sys2Proof.Machine.execPeerResponse n st data s
  | .peerTimeout n => Sys2Proof.Machine.execPeerTimeout n s
  | .flitCrcFail j => Sys2Proof.Machine.execFlitCrcFail j s
  | .portDown j => Sys2Proof.Machine.execPortDown j s
  | .portRetrained j => Sys2Proof.Machine.execPortRetrained j s
  | .allowanceRestore n => Sys2Proof.Machine.execAllowanceRestore n s
  | .thermalThrottleExit n => Sys2Proof.Machine.execThermalThrottleExit n s
  | .hostConfigurationRequest => Sys2Proof.Machine.execHostConfigurationRequest s
  | .elementGroupArrival p t n => Sys2Proof.Machine.execElementGroupArrival p t n s

end Sys2Proof.Machine
end

