-- ==== Sys2Proof/Machine/Run.lean ====
section
/-! DEFINITION. How strands fetch and issue (R71, R162 to R165, R168) and what acts in one step (assumption 1). -/

namespace Sys2Proof.Machine

/-! ### Fetch and issue -/

/-- Whether an instruction that leaves the pc where it was has completed all the same. -/
def mayStay (i : Instr) : Bool :=
  (branchOffset i).isSome || match i with | .jalr _ _ _ | .tret => true | _ => false

/-- An instruction that has issued and not completed keeps its word: it completes whatever becomes of its object (R79). -/
def State.keepIssued (s : State) (p : CoreId) (t : StrandId) (pc : Word) (w : IWord) (i : Instr) : State :=
  if (s.strand p t).pc = pc ∧ !mayStay i then s.setStrand p t { s.strand p t with issuedWord := some (pc, w) } else s

/-- An instruction issues; one that reads the register of a failed load raises that load's trap (R288, R429). -/
def State.issueInstr (s : State) (p : CoreId) (t : StrandId) (w : IWord) (i : Instr) : Host.Outcome State Fault Refusal :=
  let s1 := s.issued p t
  match s1.me.spoiled i with
  | some (r, va, cause) =>
    let left := s1.me.poisoned.filter fun (x : BitVec 5 × Word × BitVec 16) => x.1 ≠ r
    .next ((s1.setMe { s1.me with poisoned := left }).trapEntry cause false va s1.me.pc)
  | none =>
    match exec i s1 with
    | .next s2 => .next (s2.keepIssued p t s1.me.pc w i)
    | o => o

/-- One issue of a strand whose next word is at hand: a fetch trap (R133, R163), or the instruction. The marked line of a
fetch trap leaves the fetch buffer, so that a refill may clear the mark. -/
def State.issueWord (s : State) (p : CoreId) (t : StrandId) (x : Option IWord) : Host.Outcome State Fault Refusal :=
  let s1 := s.issued p t
  match x with
  | none => .next ((s1.setMe { s1.me with fetchBuf := none }).trap .memUncorrectable s1.me.pc)
  | some w =>
    match decode w with
    | .error _ => .next (s1.trap .illegal (w.zeroExtend 64))
    | .ok i => s.issueInstr p t w i

/-- A strand that a debugger lets issue once halts again (R398). -/
def State.afterStep (s : State) (p : CoreId) (t : StrandId) : State :=
  if (s.strand p t).halted then s.setStrand p t { s.strand p t with dbgStep := false } else s.debugHalt p t

/-- Whether a word that is at hand keeps its strand from issuing. -/
def State.blocked (s : State) (p : CoreId) (t : StrandId) (x : Option IWord) : Bool :=
  match x with
  | none => false
  | some w =>
    match decode w with
    | .error _ => false
    | .ok i => !s.mayIssue p t w i

/-- Let a strand issue: a trap at its issue boundary comes first (R382, R383); nothing happens while it is not ready
(R164). A trap at the boundary uses the core's issue slot of the cycle and does not count as an issue of the strand
(assumption 85). -/
def State.issue (s : State) (p : CoreId) (t : StrandId) : Host.Outcome State Fault Refusal :=
  let st := s.strand p t
  if s.saving p then .next s
  else match s.boundary p t with
  | some s1 => .next s1
  | none =>
    if !s.awake p t then .next s
    else if !s.inCode p st.pc then
      .next ((s.at p t).trapEntry (Cause.num .arenaBound) false st.pc st.cameFrom)
    else match s.nextWord p t with
      | none => .next s
      | some x =>
        if s.blocked p t x then .next s
        else if !st.dbgStep then s.issueWord p t x
        else match s.issueWord p t x with
          | .next s1 => .next (s1.afterStep p t)
          | o => o

/-- Whether a strand issues, or takes a trap, if it is picked. -/
def State.wantsTurn (s : State) (p : CoreId) (t : StrandId) : Bool :=
  !s.saving p && ((s.boundary p t).isSome ||
    (s.awake p t && (!s.inCode p (s.strand p t).pc ||
      match s.nextWord p t with
      | none => false
      | some x => !s.blocked p t x)))

/-- The strand whose turn it is: the first ready one after the one that issued last (R165). -/
def State.turn (s : State) (p : CoreId) : Option StrandId :=
  ((List.range 8).map fun n => strandOf ((s.core p).lastIssued.val + 1 + n)).find? fun t => s.wantsTurn p t

/-! ### The model's own schedule -/

/-- Go on with the next state of an outcome. -/
def andThen (o : Host.Outcome State Fault Refusal) (f : State → Host.Outcome State Fault Refusal) :
    Host.Outcome State Fault Refusal :=
  match o with
  | .next s => f s
  | .fault x => .fault x
  | .refused x => .refused x

/-- The entry at the head of a strand's queue goes on. -/
def State.headWork (s : State) (p : CoreId) (t : StrandId) : State :=
  let st := s.strand p t
  match st.head with
  | none => if st.queue = [] then s else s.beginHead p t
  | some h =>
    if h.finished then s.retireHead p t
    else if st.headWithdraws then
      let s1 := s.vwaitTimeout p t
      if s1.vwaitDue p t then s1.vwaitPoll p t else s1
    else
      let lands := match st.queue.head?.bind QEntry.instr with
        | some i => landsInGroups i
        | none => false
      let part := ((h.reqs.filter fun (r : VReq) => r.got.isNone).map VReq.group).eraseDups
      let whole := if lands then h.reqs.find? fun (r : VReq) => !part.contains r.group &&
        (h.fault.isNone || part.all fun g => decide (r.group < g)) else none
      match whole with
      | some r => s.groupArrive p t r.group
      | none => s.homeAccess p t 0

/-- What is outstanding for a strand goes on: a multiply or divide, a value of the read queue, a relaxed access, a decrement
that waits for its release, the head of its queue, the fill of its next line. -/
def State.strandWork (s : State) (p : CoreId) (t : StrandId) : State :=
  let s1 := if (s.strand p t).muldiv then s.setStrand p t { s.strand p t with muldiv := false } else s
  let s2 := (((s1.deliverRead p t).performNth p t 0).payOwed p t).headWork p t
  if (s2.strand p t).halted || (s2.lineAt p t).isSome then s2 else s2.fetchFill p t

/-- One cycle of a core: the strand whose turn it is issues, and then the core's outstanding work goes on: what an
instruction itself raises comes before a fault that is detected in its cycle (R382). A core that serves no context takes one
up. -/
def State.coreCycleAt (s : State) (p : CoreId) : Host.Outcome State Fault Refusal :=
  let k := s.core p
  let goOn (a : State) : State := allStrands.foldl (fun (b : State) t => b.strandWork p t) a
  if k.serves.isNone then
    .next (match k.wants with
      | [] => allStrands.foldl (fun (b : State) t => b.performLoose p t 0) s
      | c :: _ => s.coreTakeUp p c)
  else match s.turn p with
    | some t => andThen (s.issue p t) fun (a : State) => .next (goOn a)
    | none => .next (goOn s)

/-- What is outstanding for a context goes on. -/
def State.ctxWork (s : State) (c : CtxId) : State :=
  let k := s.ctx c
  let s1 := if k.launching.isSome then s.launchResume c else s
  let s2 := if k.rBusy then s1.retireFinish c else s1
  let s3 := match (s2.ctx c).pWait with
    | some v => s2.preemptGo c v
    | none => s2
  if (s3.ctx c).resuming = [] then s3 else s3.recheck c

/-- What is outstanding in the base die goes on: a message, the copy engines and snapshots, the combining stores, a
full/empty request that a table refused, a write of the host that waits, launches and retirements. -/
def State.deviceWork (s : State) : State :=
  let s1 := s.deliverNth 0
  let s2 :=
    if s1.descs = [] ∧ s1.snap = none then s1
    else
      let a := (List.finRange 48).foldl (fun (a : State) (e : Fin 48) => a.enginePiece e) s1
      let b := match a.descs.find? fun (d : CopyDesc) => a.mayComplete d with
        | some d => a.copyComplete d.id
        | none => a
      b.snapComplete
  let s3 := match s2.comb.find? fun (x : CombEntry) => !x.resident with
    | some x => s2.combineArrival (x.pa * 8)
    | none => s2
  let s4 := ((s3.combRetry s3.combWait.length).hostGoesOn).retryFe 0
  allCtxs.foldl (fun (a : State) c => a.ctxWork c) s4

/-- One cycle in which everything goes on: a boot in progress alone, while there is one (R442). -/
def State.cycle (s : State) : Host.Outcome State Fault Refusal :=
  if s.plat.booting.isSome then .next s.bootStep
  else allCores.foldl (fun o p => andThen o fun (a : State) => a.coreCycleAt p) (.next s.deviceWork)

/-! ### One action -/

/-- An uncorrectable error appears in a word of HBM data or of a scratchpad (R401). -/
def State.spoil (s : State) (pa : Nat) : State :=
  match region pa with
  | .hbm _ | .spad _ _ => { s with badWords := if pa / 8 ∈ s.badWords then s.badWords else insertNat (pa / 8) s.badWords }
  | _ => s

/-- An uncorrectable error appears in a sector of a core's pool cache (R276). -/
def State.spoilCopy (s : State) (p : CoreId) (sector : Nat) : State :=
  match s.copyAt p sector with
  | some c => if c.way.isSome ∧ (p, sector) ∉ s.badCopies then { s with badCopies := (p, sector) :: s.badCopies } else s
  | none => s

/-- An uncorrectable error appears in a resident word of a combining store that is not yet written back (R401). -/
def State.spoilEntry (s : State) (pa : Nat) : State :=
  { s with comb := s.comb.map fun x => if x.pa = pa / 8 ∧ x.resident ∧ x.former.isSome then { x with bad := true } else x }

/-- An uncorrectable error in a directory buffer (R401 kind 4): a record, and the abort of every resident context (R87), by the
base die's copy of its entry (assumption 52). -/
def State.directoryError (s : State) (pa : Nat) : State :=
  let n := s.mcCount
  (allCtxs.filter fun c => (s.ctx c).entry.valid || s.cores.toList.any fun (k : Core) => decide (k.serves = some c)).foldl
    (fun (a : State) c => a.abortCtx c n) (s.machineCheck 4 none 0 none 0 (word pa) 0)

/-- A parity mismatch appears in an array in compute mode (R204). -/
def State.flip (s : State) (p : CoreId) (array row : Nat) : State :=
  let k := s.core p
  if array / 16 < k.poolV.toNat ∧ (array, row) ∉ k.parityBad then
    s.setCore p { k with parityBad := k.parityBad ++ [(array, row)] }
  else s

/-- A core's copy of a sector is replaced (R271). -/
def State.evict (s : State) (p : CoreId) (sector : Nat) : State := (s.writeBackOwn p [sector]).dropOwn p [sector]

/-- A core's n-th translation is replaced (R283). -/
def State.dropTlb (s : State) (p : CoreId) (n : Nat) : State :=
  s.setCore p { s.core p with tlb := (s.core p).tlb.eraseIdx n }

/-- The n-th entry of an intermediate node that a core's walker holds is replaced (R283). -/
def State.dropNode (s : State) (p : CoreId) (n : Nat) : State :=
  s.setCore p { s.core p with nodes := (s.core p).nodes.eraseIdx n }

/-- A line of a core's instruction cache is replaced, or discarded for a parity mismatch (R162, R163). -/
def State.dropLine (s : State) (p : CoreId) (line : Nat) : State :=
  s.setCore p { s.core p with icache := (s.core p).icache.filter fun x => x.1 ≠ line }

/-- Whether a reading, in units of 1/8 °C, lies below −20 °C or above 150 °C (R436). -/
def badReading (x : BitVec 16) : Bool := decide (x.toInt < -20 * 8) || decide (150 * 8 < x.toInt)

/-- Base cycles in 4 ms (R15, R436). -/
def fourMillis : Nat := 9600000

/-- Whether a sensor has changed by less than 0.5 °C over the last 4 ms while the column's power has changed by more than 20 %
(R436; assumption 94). -/
def stuck (t : Thermal) (now : Nat) (reading : BitVec 16 × BitVec 16 → BitVec 16) (base core : BitVec 16) (power : Nat) : Bool :=
  match t.history.find? fun (x : Nat × BitVec 16 × BitVec 16 × Nat) => decide (x.1 + fourMillis ≤ now) with
  | some (_, b, k, w) =>
    decide (((reading (base, core)).toInt - (reading (b, k)).toInt).natAbs < 4) &&
      decide (w < 5 * (max power w - min power w))
  | none => false

/-- The readings to keep: those of the last 4 ms, newest first, and the one before them. -/
def keptReadings (now : Nat) : List (Nat × BitVec 16 × BitVec 16 × Nat) → List (Nat × BitVec 16 × BitVec 16 × Nat)
  | [] => []
  | x :: xs => if x.1 + fourMillis ≤ now then [x] else x :: keptReadings now xs

/-- New readings of a column's sensors, with the column's power. A sensor that R436 judges failed fails. -/
def State.sense (s : State) (p : CoreId) (base core : BitVec 16) (power : Nat) : State :=
  let k := s.core p
  let t := k.thermal
  let judged (f : BitVec 16 × BitVec 16 → BitVec 16) : Bool :=
    badReading (f (base, core)) || stuck t s.cycles f base core power
  let s1 := s.setCore p { k with thermal := { t with
    tempBase := base
    tempCore := core
    history := (s.cycles, base, core, power) :: keptReadings s.cycles t.history } }
  let s2 := if judged (·.1) then s1.sensorFail p .base else s1
  if judged (·.2) then s2.sensorFail p .core else s2

/-- An uncorrectable error in what a copy engine's buffer holds of a descriptor (R434): it ends with MEM_ERROR (R315). -/
def State.spoilBuffer (s : State) (id : Nat) : State :=
  match s.descs.find? fun (d : CopyDesc) => d.id = id with
  | some d => if d.status.isNone && !s.engineBusy d then s.setDesc { d with status := some 6 } else s
  | none => s

/-- What one entry of the agenda does. -/
def State.act (s : State) (x : Pick) : Host.Outcome State Fault Refusal :=
  match x with
  | .issue p t => if s.turn p = some t then s.issue p t else .next s
  | .event i => if (encode i).isSome then .fault .notAnEvent else exec i s
  | .idle n => .next { s with cycles := s.cycles + n }
  | .poison pa => .next (s.spoil pa)
  | .flip p a r => .next (s.flip p a r)
  | .evict p x => .next (s.evict p x)
  | .dropTlb p n => .next (s.dropTlb p n)
  | .dropNode p n => .next (s.dropNode p n)
  | .dropLine p n => .next (s.dropLine p n)
  | .overlap p t k n => .next (s.overlap p t k n)
  | .spoilCopy p x => .next (s.spoilCopy p x)
  | .spoilEntry pa => .next (s.spoilEntry pa)
  | .directoryError pa => .next (s.directoryError pa)
  | .sense p b k w => .next (s.sense p b k w)
  | .bootStep => .next s.bootStep
  | .scrubAndClear p a b => .next (s.scrubAndClear p a b)
  | .spoilBuffer id => .next (s.spoilBuffer id)
  | .maskVector v m => .next (s.maskVector v m)
  | .deliver n => .next (s.deliverNth n)

/-- One base cycle passes. -/
def State.tick (s : State) : State := { s with cycles := s.cycles + 1 }

end Sys2Proof.Machine
end

