-- ==== Sys2Proof/Machine/Step.lean ====
section
/-! DEFINITION. One step of the device, and how a word comes to be its next instruction. -/

namespace Sys2Proof.Machine

/-- One step (assumption 1): a base cycle passes, and the first entry of the agenda acts, or with none listed every
core and the base die go on. -/
def step (s : State) : Host.Outcome State Fault Refusal :=
  match s.agenda with
  | [] => s.tick.cycle
  | x :: rest => ({ s with agenda := rest } : State).tick.act x

/-- The directory entry of handle 1 (R72): an object over the code, with every class in its mask. -/
def probeEntry : List Byte :=
  leBytes 8 (2 ^ 63 + 2 ^ 48 + 0x20000) ++ leBytes 8 0x20000 ++ List.replicate 16 0xff

/-- Strand 0 of core 0 fetches the word w next (assumption 29): context 0 is as a launch leaves it on core 0, with its
arena at 0x10000 and the word in an object there. -/
def State.withFetchWord (s : State) (_nbits w : Nat) : State :=
  let s1 : State := { s with
    agenda := [.issue 0 0]
    mem := (s.mem.write 0x10020 probeEntry).write 0x30000 (leBytes 4 w) }
  let s2 := s1.setCtx 0 { s1.ctx 0 with
    entry := { (s1.ctx 0).entry with valid := true, arenaBase := 0x10000, arenaBound := 0x50000 } }
  let s3 := s2.setCore 0 { s2.core 0 with
    serves := some 0
    capmask := BitVec.allOnes 128
    icache := [(0x30000 / 64, w)] }
  s3.setStrand 0 0 { s3.strand 0 0 with
    pc := 0x30000
    priv := 1
    halted := false }

end Sys2Proof.Machine
end

