-- ==== Sys2Proof/WellFormed.lean ====
section
/-! DEFINITION. Well-formed instructions: those that some word stands for. The argument types leave little to
check: accepted kinds (R117 to R119), masks that may not be m0 (R133), listed CSRs (R151), source-type codes
(R121), and fields a form does not have. -/

namespace Sys2Proof

/-- A kind that the form accepts, with the reserved bits of a .vc operand zero (R110, R117). -/
def kindOk (ks : List VKind) (k : VKind) (op2 : BitVec 5) : Bool :=
  ks.contains k && (k != .vc || op2.extractLsb' 3 2 == 0)

/-- A source-type code that R121 allocates. -/
def stcOk (s : BitVec 5) : Bool := decide (s.toNat < 27)

/-- Whether the instruction's fields are ones that its encoding admits. -/
def wellFormed : Instr → Bool
  | .vadd o => kindOk [.vv, .vx, .vi, .vc] o.kind o.op2
  | .vsub o => kindOk [.vv, .vx, .vi, .vc] o.kind o.op2
  | .vrsub o => kindOk [.vx, .vi] o.kind o.op2
  | .vmul o => kindOk [.vv, .vx] o.kind o.op2
  | .vmulh o => kindOk [.vv, .vx] o.kind o.op2
  | .vmac o => kindOk [.vv, .vx] o.kind o.op2
  | .vdiv o => kindOk [.vv, .vx] o.kind o.op2
  | .vrem o => kindOk [.vv, .vx] o.kind o.op2
  | .vmin o => kindOk [.vv, .vx, .vi] o.kind o.op2
  | .vmax o => kindOk [.vv, .vx, .vi] o.kind o.op2
  | .vsadd o => kindOk [.vv, .vx, .vi] o.kind o.op2
  | .vssub o => kindOk [.vv, .vx, .vi] o.kind o.op2
  | .vavg o => kindOk [.vv, .vx] o.kind o.op2
  | .vand o => kindOk [.vv, .vx, .vi] o.kind o.op2
  | .vor o => kindOk [.vv, .vx, .vi] o.kind o.op2
  | .vxor o => kindOk [.vv, .vx, .vi] o.kind o.op2
  | .vsll o => kindOk [.vv, .vx, .vi] o.kind o.op2
  | .vsrl o => kindOk [.vv, .vx, .vi] o.kind o.op2
  | .vsra o => kindOk [.vv, .vx, .vi] o.kind o.op2
  | .vmerge o => kindOk [.vv, .vx, .vi] o.kind o.op2
  | .vslideup o => kindOk [.vx, .vi] o.kind o.op2
  | .vslidedn o => kindOk [.vx, .vi] o.kind o.op2
  | .vbcast o => kindOk [.vx, .vi] o.kind o.op2
  | .vextr o => kindOk [.vx, .vi] o.kind o.op2
  | .vins o => kindOk [.vx, .vi] o.kind o.op2
  | .vsplat _ op2 _ k => kindOk [.vx, .vi] k op2
  | .vcmpeq o => kindOk [.vv, .vx, .vi] o.kind o.op2 && o.md != 0
  | .vcmpne o => kindOk [.vv, .vx, .vi] o.kind o.op2 && o.md != 0
  | .vcmplt o => kindOk [.vv, .vx, .vi] o.kind o.op2 && o.md != 0
  | .vcmple o => kindOk [.vv, .vx, .vi] o.kind o.op2 && o.md != 0
  | .vcmpgt o => kindOk [.vv, .vx, .vi] o.kind o.op2 && o.md != 0
  | .vcmpge o => kindOk [.vv, .vx, .vi] o.kind o.op2 && o.md != 0
  | .mand md _ _ => md != 0
  | .mor md _ _ => md != 0
  | .mxor md _ _ => md != 0
  | .mnot md _ => md != 0
  | .mset md => md != 0
  | .tgmovToMask md _ => md != 0
  | .vfcmp _ md _ _ _ _ => md != 0
  | .vwait _ md _ _ _ => md != 0
  | .vcvt o => stcOk o.src
  | .vnarrow o => stcOk o.src
  | .vwiden o => stcOk o.src
  | .vbquant o => stcOk o.src
  | .vbdeq o => stcOk o.src
  | .sext z _ _ => z != .d
  | .zext z _ _ => z != .d
  | .csrr _ c => csrListed c
  | .csrw _ c => csrListed c
  | .csrs _ c => csrListed c
  | .csrc _ c => csrListed c
  | .vld a => a.r2 == 0
  | .vldb a => a.r2 == 0
  | .vst a => a.r2 == 0
  | .vpf a => a.r2 == 0
  | .hint m imm => decHint m imm == .hint m imm
  | _ => true

end Sys2Proof
end

