-- ==== Sys2Proof/Safety.lean ====
section
/-! DEFINITION. What a safe state and a safe run are, and the words in which statements say what an instruction does and
what it leaves alone. -/

namespace Sys2Proof.Machine

/-! ### Safe states and runs -/

/-- Memory is in its canonical form: HBM with its full/empty store, and every scratchpad. -/
def State.memOk (s : State) : Prop := s.mem.wf = true ∧ ∀ p : CoreId, (s.core p).spad.wf = true

/-- Whether a number is a grain (R271). -/
def isGrain (g : Nat) : Bool := decide (g = 32 ∨ g = 128 ∨ g = 512)

/-- Every translation that a core holds maps pages of at least 4 KiB with a grain of 32, 128 or 512 bytes, and the directory
has recorded such grains alone (R271, R275, R281, R283). -/
def State.tlbOk (s : State) : Prop :=
  (∀ p : CoreId, ∀ e ∈ (s.core p).tlb, e.base % 4096 = 0 ∧ e.frame % 4096 = 0 ∧ isGrain e.grain = true) ∧
    ∀ g ∈ s.grains, isGrain g.2 = true

/-- Whether an entry of the agenda names something that can act: an event, never an instruction with a word of its own. -/
def Pick.isLegal : Pick → Bool
  | .event i => (encode i).isNone
  | _ => true

/-- Whether a step answered a next state. -/
def isNext : Host.Outcome State Fault Refusal → Bool
  | .next _ => true
  | _ => false

/-- A run of n steps that never stops. -/
def runsFor : Nat → State → Prop
  | 0, _ => True
  | n + 1, s => ∃ t, step s = .next t ∧ runsFor n t

/-! ### Completion -/

/-- The instruction completes from s, in a state that P describes. -/
def completes (i : Instr) (s : State) (P : State → Prop) : Prop := ∃ t, exec i s = .next t ∧ P t

/-- Nothing of the acting strand is outstanding, it does not wait, its core holds no copy of a sector and has no write-back
outstanding, no snapshot is active, and neither a combining store nor a copy that any core holds has a part in what home
holds. -/
def State.calm (s : State) : Bool :=
  s.me.wait.isNone && s.me.queue.isEmpty && s.me.relaxed.isEmpty && !s.extRelaxed s.cur s.str && s.me.relaxedFault.isNone &&
    s.mine.copies.isEmpty && s.snap.isNone && !s.windowDirty s.cur && s.mine.copyFault.isNone && s.comb.isEmpty &&
    s.combWait.isEmpty && s.badCopies.isEmpty

/-- Whether an address is in HBM data or in a scratchpad, where the device itself performs an access. -/
def onDevice (pa : Nat) : Bool :=
  match region pa with
  | .hbm _ | .spad _ _ => true
  | _ => false

/-! ### Frames -/

/-- Only the x registers of the acting strand, with the marks of its failed loads, and its pc differ: every flag, special
register, other strand, core and context, and every byte of memory is as before. -/
def State.onlyRegs (s t : State) : Prop :=
  t = s.setMe { s.me with x := t.me.x, poisoned := t.me.poisoned, pc := t.me.pc }

/-- The x registers as they are once r has been written: x0 reads 0, and a write to it is discarded (R141). -/
def State.regsWith (s : State) (r : BitVec 5) (v : Word) (t : State) : Prop :=
  ∀ q, t.reg q = if q = 0 then 0 else if q = r then v else s.reg q

/-- The x registers are unchanged. -/
def State.sameRegs (s t : State) : Prop := ∀ q, t.reg q = s.reg q

/-- The instruction wrote v to r and went on to the next one, and did nothing else. -/
def State.wrote (s : State) (r : BitVec 5) (v : Word) (t : State) : Prop :=
  s.onlyRegs t ∧ t.me.pc = s.me.pc + 4 ∧ s.regsWith r v t

/-- The instruction wrote v to r and went on at a target, and did nothing else. -/
def State.jumped (s : State) (r : BitVec 5) (v target : Word) (t : State) : Prop :=
  s.onlyRegs t ∧ t.me.pc = target ∧ s.regsWith r v t

/-- The acting strand is as before but for its x registers, the marks of its failed loads and its pc. -/
def State.sameStrand (s t : State) : Prop :=
  t.cur = s.cur ∧ t.str = s.str ∧ t.me = { s.me with x := t.me.x, poisoned := t.me.poisoned, pc := t.me.pc }

/-- Every other strand is as before. -/
def State.sameOthers (s t : State) : Prop :=
  ∀ (p : CoreId) (u : StrandId), (p, u) ≠ (s.cur, s.str) → t.strand p u = s.strand p u

/-- The special registers of a core are as before. -/
def State.sameSpecial (s t : State) : Prop :=
  ∀ p : CoreId, (t.core p).capmask = (s.core p).capmask ∧ (t.core p).ovt = (s.core p).ovt ∧
    (t.core p).poolV = (s.core p).poolV ∧ (t.core p).poolS = (s.core p).poolS ∧ (t.core p).poolC = (s.core p).poolC ∧
    (t.core p).npool = (s.core p).npool ∧ (t.core p).cpyshare = (s.core p).cpyshare

/-- Every byte of memory reads as before. -/
def State.sameBytes (s t : State) : Prop := ∀ a, t.peekHome a 1 = s.peekHome a 1

/-- Every byte of memory outside n bytes from an address reads as before. -/
def State.sameBytesBut (s : State) (pa n : Nat) (t : State) : Prop :=
  ∀ a, a < pa ∨ pa + n ≤ a → t.peekHome a 1 = s.peekHome a 1

/-- Every byte of memory outside the full/empty store reads as before. -/
def State.sameData (s t : State) : Prop := ∀ a, onDevice a = true → t.peekHome a 1 = s.peekHome a 1

/-- Every byte of memory outside the full/empty store and n bytes from an address reads as before. -/
def State.sameDataBut (s : State) (pa n : Nat) (t : State) : Prop :=
  ∀ a, onDevice a = true → a < pa ∨ pa + n ≤ a → t.peekHome a 1 = s.peekHome a 1

/-- Every word but the one at an address is full or empty as before. -/
def State.sameFullBut (s : State) (pa : Nat) (t : State) : Prop :=
  ∀ a, onDevice a = true → a / 8 ≠ pa / 8 → t.isFull a = s.isFull a

/-- What an instruction leaves alone beside x registers, pc and memory. -/
def State.framed (s t : State) : Prop := s.sameStrand t ∧ s.sameOthers t ∧ s.sameSpecial t

/-- The pc moved past the instruction. -/
def State.wentOn (s t : State) : Prop := t.me.pc = s.me.pc + 4

/-! ### Traps -/

/-- The acting strand took a trap (R153): what it was doing is saved, and it goes on at TRAPVEC at runtime level. Words that
the instruction had gathered to begin again with are dropped, but for those it has taken (assumption 31). Nothing else
changes. -/
def State.tookTrap (s : State) (sw : Bool) (cause : BitVec 16) (tval : Word) (epc : Word) (t : State) : Prop :=
  t = s.setMe { s.me with
    causeSw := sw, cause := cause, tval := tval, tepc := epc.extractLsb' 2 50, ppriv := s.me.priv, priv := 1,
    tact := true, wait := none, issuedWord := none, pc := addr50 s.me.trapvec
    progress := if s.me.taken then s.me.progress else [] }

/-! ### Vector entries -/

/-- The entry e, of instruction i, heads the queue of a strand and may begin (R167, R205, R357): no save is stopping its core
(R394), whose lanes are in their canonical form, and no row has a parity error or has failed. -/
def State.mayRun (s : State) (p : CoreId) (t : StrandId) (e : QEntry) (i : Instr) : Prop :=
  (s.strand p t).queue.head? = some e ∧ decode e.word = .ok i ∧ (s.strand p t).head = none ∧
    (s.strand p t).vfault = none ∧ (s.strand p t).dbgHalted = false ∧ s.saving p = false ∧ (s.core p).arrivedAll e = true ∧
    (s.core p).parityBad = [] ∧ (s.core p).failed = [] ∧ mapWfFrom Lane.zero 0 (s.core p).lanes = true ∧ e.part.Nodup ∧
    e.vlen.toNat ≤ 256 * e.part.length

/-- A lane but for C and the P rows, which sequences use for their own ends (R200, R331). -/
def Lane.shown (l : Lane) : Lane := { l with hidden := 0, carry := false, vague := 0 }

/-- The head e of a queue has run: every lane of its partition below VLEN is, C and the P rows apart, what f makes of the old
one, the flags fl are set in VSTAT, x is the result for an x register, and nothing else changes. -/
def State.ran (s : State) (p : CoreId) (t : StrandId) (e : QEntry) (f : Nat → Lane → Lane) (fl : BitVec 5)
    (x : Option Word) (a : State) : Prop :=
  a = (s.setCore p { s.core p with lanes := (a.core p).lanes, mismatched := (a.core p).mismatched }).setStrand p t
      { s.strand p t with
        head := some { HeadRun.start with result := x, finished := true }
        vstat := (s.strand p t).vstat ||| fl } ∧
    (∀ k < e.vlen.toNat, ((a.core p).lane e.part k).shown = (f k ((s.core p).lane e.part k)).shown) ∧
    (∀ k < 256 * e.part.length, e.vlen.toNat ≤ k → (a.core p).lane e.part k = (s.core p).lane e.part k) ∧
    ∀ b col, b ∉ e.part → col < 256 → (a.core p).laneAt b col = (s.core p).laneAt b col

/-- A lane with an element of w bits written to a group where the mask enables it (R44, R138). -/
def Lane.put (l : Lane) (vd : BitVec 5) (vm : BitVec 3) (w n : Nat) : Lane :=
  if l.mask vm then l.withRows (32 * vd.toNat) w n else l

end Sys2Proof.Machine
end

