-- ==== Sys2Proof/Certificates/Slice0/Obligations.lean ====
section
/-! DEFINITION. The statements about the model, for the provers. -/

open Sys2Proof Sys2Proof.Machine

/-- O1. Decoding the word of a well-formed instruction gives the instruction back (spec/06_encoding.md R109 to R128;
R133). -/
def Obligations.DecodeEncodeRoundTrip : Prop :=
  ∀ (i : Instr) (w : IWord), wellFormed i = true → encode i = some w → decode w = .ok i

/-- O2. A word that decodes is the word of its instruction, which is well formed (spec/06_encoding.md R111; R133). -/
def Obligations.AcceptedWordIsItsEncoding : Prop :=
  ∀ (w : IWord) (i : Instr), decode w = .ok i → encode i = some w ∧ wellFormed i = true

/-- O3. Words that the spec writes out decode to the instructions it names (spec/07_scalar_isa.md R144; R145;
spec/14_memory_isa.md R293; R296). -/
def Obligations.WordsOfTheSpecDecode : Prop :=
  decode 0x24a00100 = .ok (.lui 5 0x0100) ∧ decode 0x20a50010 = .ok (.slli 5 5 16) ∧
  decode 0x28a63803 = .ok (.div 5 6 7) ∧
  decode 0x59305800 = .ok (.stf 9 16 0) ∧ decode 0x5c000020 = .ok (.fence .dev) ∧ decode 0x5c000040 = .ok .vsync ∧
  decode 0x5c0a5880 = .ok (.cflush 10 11) ∧ decode 0x5c0a5900 = .ok (.seal 10 11) ∧
  decode 0 = .error .unallocated

/-- O4. A word that is no instruction, where a ready strand reaches it, raises ILLEGAL with the word as TVAL
(spec/06_encoding.md R133; spec/07_scalar_isa.md R153; R154; spec/08_fetch_issue.md R164). -/
def Obligations.IllegalWordTakesItsTrap : Prop :=
  ∀ (s : State) (w : IWord) (x : DecodeError), decode w = .error x →
    (s.atHand = some w → s.me.tact = false →
      completes (.illegalWordFetch w) s ((s.issued s.cur s.str).tookTrap false 1 (w.zeroExtend 64) s.me.pc)) ∧
    (s.atHand ≠ some w → completes (.illegalWordFetch w) s fun t => t = s)

/-- O5. A step runs the instruction whose word stands at the pc of the strand that issues (spec/08_fetch_issue.md R162 to
R165; spec/02_execution_model.md R42; spec/04_code_objects.md R71). -/
def Obligations.StepRunsTheDecodedInstruction : Prop :=
  ∀ (s : State) (p : CoreId) (t : StrandId) (rest : List Pick) (i : Instr) (w : IWord),
    let s1 : State := { s with agenda := rest, cycles := s.cycles + 1 }
    let pc := (s1.strand p t).pc
    s.agenda = .issue p t :: rest → s1.turn p = some t → s1.boundary p t = none → s1.awake p t = true →
    s1.inCode p pc = true → s1.nextWord p t = some (some w) → decode w = .ok i → s1.mayIssue p t w i = true →
    (s1.strand p t).spoiled i = none → (s1.strand p t).dbgStep = false →
    step s = match exec i (s1.issued p t) with
      | .next a => .next (a.keepIssued p t pc w i)
      | .fault x => .fault x
      | .refused x => .refused x

/-- O6. A step whose fetched word is no instruction takes ILLEGAL, and one whose word has an error MEM_UNCORRECTABLE
(spec/06_encoding.md R133; spec/08_fetch_issue.md R163; spec/07_scalar_isa.md R153). -/
def Obligations.StepTrapsOnAnIllegalWord : Prop :=
  ∀ (s : State) (p : CoreId) (t : StrandId) (rest : List Pick) (x : DecodeError) (w : IWord),
    let s1 : State := { s with agenda := rest, cycles := s.cycles + 1 }
    let pc := (s1.strand p t).pc
    s.agenda = .issue p t :: rest → s1.turn p = some t → s1.boundary p t = none → s1.awake p t = true →
    s1.inCode p pc = true → (s1.strand p t).dbgStep = false → (s1.strand p t).tact = false →
    (s1.nextWord p t = some (some w) → decode w = .error x →
      ∃ a, step s = .next a ∧ (s1.issued p t).tookTrap false 1 (w.zeroExtend 64) pc a) ∧
    (s1.nextWord p t = some none → ∃ a, step s = .next a ∧
      ((s1.issued p t).setMe { (s1.issued p t).me with fetchBuf := none }).tookTrap false 11 pc pc a)

/-- O7. A step at a pc outside the code of the arena takes ARENA_BOUND at the instruction that led there
(spec/04_code_objects.md R71; spec/07_scalar_isa.md R148; R154). That the agenda lets the strand act is assumption 1, and that
the trap leaves the strand that issued last as it was is assumption 85: both are the model's choice. -/
def Obligations.StepTrapsOutsideTheCode : Prop :=
  ∀ (s : State) (p : CoreId) (t : StrandId) (rest : List Pick),
    let s1 : State := { s with agenda := rest, cycles := s.cycles + 1 }
    let st := s1.strand p t
    s.agenda = .issue p t :: rest → s1.turn p = some t → s1.boundary p t = none → s1.awake p t = true →
    (∀ c, (s1.core p).serves = some c → st.pc.toNat < (s1.ctx c).entry.arenaBase + 131072 ∨
      (s1.ctx c).entry.arenaBound ≤ st.pc.toNat) → st.tact = false →
    ∃ a, step s = .next a ∧ (s1.at p t).tookTrap false 5 st.pc st.cameFrom a

/-- O8. The two-operand integer register instructions write their result and change nothing else (spec/07_scalar_isa.md
R143; R141). -/
def Obligations.AluRegisterResults : Prop :=
  ∀ (s : State) (rd r1 r2 : BitVec 5),
    let a := s.reg r1
    let b := s.reg r2
    let k := b.toNat % 64
    completes (.add rd r1 r2) s (s.wrote rd (BitVec.ofNat 64 (a.toNat + b.toNat))) ∧
    completes (.sub rd r1 r2) s (s.wrote rd (BitVec.ofInt 64 ((a.toNat : Int) - b.toNat))) ∧
    completes (.and rd r1 r2) s (s.wrote rd (a &&& b)) ∧
    completes (.or rd r1 r2) s (s.wrote rd (a ||| b)) ∧
    completes (.xor rd r1 r2) s (s.wrote rd (a ^^^ b)) ∧
    completes (.andn rd r1 r2) s (s.wrote rd (a &&& ~~~b)) ∧
    completes (.sll rd r1 r2) s (s.wrote rd (BitVec.ofNat 64 (a.toNat * 2 ^ k))) ∧
    completes (.srl rd r1 r2) s (s.wrote rd (BitVec.ofNat 64 (a.toNat / 2 ^ k))) ∧
    completes (.sra rd r1 r2) s (s.wrote rd (BitVec.ofInt 64 (a.toInt / (2 ^ k : Nat)))) ∧
    completes (.rol rd r1 r2) s (s.wrote rd (a <<< k ||| a >>> (64 - k))) ∧
    completes (.slt rd r1 r2) s (s.wrote rd (if a.toInt < b.toInt then 1 else 0)) ∧
    completes (.sltu rd r1 r2) s (s.wrote rd (if a.toNat < b.toNat then 1 else 0)) ∧
    completes (.min rd r1 r2) s (s.wrote rd (BitVec.ofInt 64 (min a.toInt b.toInt))) ∧
    completes (.max rd r1 r2) s (s.wrote rd (BitVec.ofInt 64 (max a.toInt b.toInt))) ∧
    completes (.minu rd r1 r2) s (s.wrote rd (BitVec.ofNat 64 (min a.toNat b.toNat))) ∧
    completes (.maxu rd r1 r2) s (s.wrote rd (BitVec.ofNat 64 (max a.toNat b.toNat)))

/-- O9. CLZ, CTZ, POPC, SEXT and ZEXT write the count or the extension and change nothing else (spec/07_scalar_isa.md
R143; R141). -/
def Obligations.AluBitResults : Prop :=
  ∀ (s : State) (rd r1 : BitVec 5),
    let a := s.reg r1
    (∃ n, completes (.clz rd r1) s (s.wrote rd (BitVec.ofNat 64 n)) ∧ n ≤ 64 ∧ a.toNat < 2 ^ (64 - n) ∧
      (n < 64 → 2 ^ (63 - n) ≤ a.toNat)) ∧
    (∃ n, completes (.ctz rd r1) s (s.wrote rd (BitVec.ofNat 64 n)) ∧ n ≤ 64 ∧ (∀ k < n, a.getLsbD k = false) ∧
      (n < 64 → a.getLsbD n = true)) ∧
    completes (.popc rd r1) s (s.wrote rd (BitVec.ofNat 64 ((List.range 64).countP fun k => a.getLsbD k))) ∧
    (∀ z w, (z, w) ∈ [(Size.b, 8), (Size.h, 16), (Size.w, 32)] →
      completes (.sext z rd r1) s (s.wrote rd ((a.extractLsb' 0 w).signExtend 64)) ∧
      completes (.zext z rd r1) s (s.wrote rd ((a.extractLsb' 0 w).zeroExtend 64)))

/-- O10. The integer immediate instructions write their result and change nothing else (spec/07_scalar_isa.md R144; R141). -/
def Obligations.AluImmediateResults : Prop :=
  ∀ (s : State) (rd r1 : BitVec 5) (imm : BitVec 16) (sh : BitVec 6),
    let a := s.reg r1
    let k := sh.toNat
    completes (.addi rd r1 imm) s (s.wrote rd (BitVec.ofInt 64 (a.toInt + imm.toInt))) ∧
    completes (.andi rd r1 imm) s (s.wrote rd (BitVec.ofNat 64 (a.toNat &&& imm.toNat))) ∧
    completes (.ori rd r1 imm) s (s.wrote rd (BitVec.ofNat 64 (a.toNat ||| imm.toNat))) ∧
    completes (.xori rd r1 imm) s (s.wrote rd (BitVec.ofNat 64 (a.toNat ^^^ imm.toNat))) ∧
    completes (.slti rd r1 imm) s (s.wrote rd (if a.toInt < imm.toInt then 1 else 0)) ∧
    completes (.sltiu rd r1 imm) s (s.wrote rd (if a.toNat < (BitVec.ofInt 64 imm.toInt).toNat then 1 else 0)) ∧
    completes (.slli rd r1 sh) s (s.wrote rd (BitVec.ofNat 64 (a.toNat * 2 ^ k))) ∧
    completes (.srli rd r1 sh) s (s.wrote rd (BitVec.ofNat 64 (a.toNat / 2 ^ k))) ∧
    completes (.srai rd r1 sh) s (s.wrote rd (BitVec.ofInt 64 (a.toInt / (2 ^ k : Nat)))) ∧
    completes (.roli rd r1 sh) s (s.wrote rd (a <<< k ||| a >>> (64 - k))) ∧
    completes (.lui rd imm) s (s.wrote rd (BitVec.ofInt 64 (imm.toInt * 2 ^ 16)))

/-- O11. Multiply and divide give the values of R145, and hold the strand until the result is delivered
(spec/07_scalar_isa.md R142; R145). -/
def Obligations.MultiplyAndDivideResults : Prop :=
  ∀ (s : State) (rd r1 r2 : BitVec 5) (p : CoreId) (u : StrandId),
    let a := s.reg r1
    let b := s.reg r2
    let writes (i : Instr) (v : Word) : Prop := completes i s fun t =>
      t = s.setMe { s.me with x := t.me.x, poisoned := t.me.poisoned, pc := s.me.pc + 4, muldiv := true } ∧
        s.regsWith rd v t ∧ t.awake s.cur s.str = false
    writes (.mul rd r1 r2) (BitVec.ofNat 64 (a.toNat * b.toNat)) ∧
    writes (.mulh rd r1 r2) (BitVec.ofInt 64 (a.toInt * b.toInt / 2 ^ 64)) ∧
    writes (.mulhu rd r1 r2) (BitVec.ofNat 64 (a.toNat * b.toNat / 2 ^ 64)) ∧
    writes (.div rd r1 r2) (if b = 0 then BitVec.allOnes 64 else BitVec.ofInt 64 (a.toInt.tdiv b.toInt)) ∧
    writes (.divu rd r1 r2) (if b = 0 then BitVec.allOnes 64 else BitVec.ofNat 64 (a.toNat / b.toNat)) ∧
    writes (.rem rd r1 r2) (if b = 0 then a else BitVec.ofInt 64 (a.toInt.tmod b.toInt)) ∧
    writes (.remu rd r1 r2) (if b = 0 then a else BitVec.ofNat 64 (a.toNat % b.toNat)) ∧
    completes (.muldivResult p u) s fun t => t = s.setStrand p u { s.strand p u with muldiv := false }

/-- O12. A conditional branch moves the pc by its offset where its condition holds and past the word otherwise
(spec/07_scalar_isa.md R146). -/
def Obligations.BranchesGoWhereTheyCompare : Prop :=
  ∀ (s : State) (r1 r2 : BitVec 5) (off : BitVec 16),
    let a := s.reg r1
    let b := s.reg r2
    let goes (i : Instr) (c : Prop) [Decidable c] : Prop := completes i s
      (s.jumped 0 0 (if c then s.me.pc + BitVec.ofInt 64 (4 * off.toInt) else s.me.pc + 4))
    goes (.beq r1 r2 off) (a = b) ∧ goes (.bne r1 r2 off) (a ≠ b) ∧ goes (.blt r1 r2 off) (a.toInt < b.toInt) ∧
    goes (.bge r1 r2 off) (b.toInt ≤ a.toInt) ∧ goes (.bltu r1 r2 off) (a.toNat < b.toNat) ∧
    goes (.bgeu r1 r2 off) (b.toNat ≤ a.toNat) ∧
    [Instr.beq r1 r2 off, .bne r1 r2 off, .blt r1 r2 off, .bge r1 r2 off, .bltu r1 r2 off, .bgeu r1 r2 off].map encode =
      [0x0b#6, 0x0c, 0x0d, 0x0e, 0x0f, 0x10].map fun op => some (op ++ r1 ++ r2 ++ off)

/-- O13. JAL and JALR write the link and go to their target; a misaligned JALR target raises ALIGN (R147). -/
def Obligations.JumpsLinkAndGo : Prop :=
  ∀ (s : State) (rd r1 : BitVec 5) (off : BitVec 26) (imm : BitVec 16),
    let t := s.reg r1 + BitVec.ofInt 64 imm.toInt
    completes (.jal off) s (s.jumped 1 (s.me.pc + 4) (s.me.pc + BitVec.ofInt 64 (4 * off.toInt))) ∧
    (t.extractLsb' 0 2 = 0 → completes (.jalr rd r1 imm) s (s.jumped rd (s.me.pc + 4) t)) ∧
    (t.extractLsb' 0 2 ≠ 0 → s.me.tact = false → completes (.jalr rd r1 imm) s (s.tookTrap false 9 t s.me.pc)) ∧
    encode (.jal off) = some (0x11#6 ++ off) ∧ encode (.jalr rd r1 imm) = some (0x12#6 ++ rd ++ r1 ++ imm)

/-- O14. LD writes the sign-extended little-endian bytes of its address, whatever its request type, and changes no memory
(spec/14_memory_isa.md R287; R288; R289; R290; spec/13_memory_hierarchy.md R273). -/
def Obligations.LoadReadsItsBytes : Prop :=
  ∀ (s s1 : State) (a : MArgs) (pl : Place),
    let n := Size.bytes a.size
    let va := s.memAddr a
    (∀ x, s.calm = true → s.me.tact = false → x ≠ .await → s.check va n .read = (.error x, s1) →
      completes (.ld a) s (s1.tookTrap false x.num va s.me.pc)) ∧
    (s.calm = true → s.check va n .read = (.error .await, s1) → completes (.ld a) s fun t =>
      t = s1.setMe { s1.me with wait := some .walk }) ∧ (s.calm = true → s.check va n .read = (.ok pl, s1) →
    let plain := pl.dev = true ∨ a.req = Req.u ∨ s.mine.keeps = false
    let req : BusOp := if plain then .read pl.pa n else .read (pl.pa / pl.grain * pl.grain) pl.grain
    (onDevice pl.pa = true → s.isBad pl.pa n = false → (a.rx = false ∨ pl.dev = true ∨ feBase ≤ pl.pa) →
      completes (.ld a) s fun t => s.wentOn t ∧ s.framed t ∧ s.sameBytes t ∧
        s.regsWith a.r ((BitVec.ofNat (8 * n) (fromLe (s.peekHome pl.pa n))).signExtend 64) t) ∧
    ((pl.pa < feBase ∨ isExternal pl.pa = true) → a.rx = true → pl.dev = false →
      completes (.ld a) s fun t => s.wentOn t ∧ s.sameRegs t ∧ s.sameOthers t ∧ s.sameSpecial t ∧ s.sameBytes t ∧
        t.me.relaxed = [⟨false, a.r, va, pl.pa, a.size, a.req, false, pl.grain, 0, s.me.pc⟩]) ∧
    (∀ off, region pl.pa = .mmio off → completes (.ld a) s (s1.wrote a.r (s1.mmioRead off))) ∧
    (onDevice pl.pa = true → s.isBad pl.pa n = true → (a.rx = false ∨ pl.dev = true ∨ feBase ≤ pl.pa) → s.me.tact = false →
      completes (.ld a) s (s1.tookTrap false 11 va s.me.pc)) ∧
    (isExternal pl.pa = true → s.isBad pl.pa n = false → (a.rx = false ∨ pl.dev = true) → completes (.ld a) s fun t =>
      t = { s1 with ext := s1.ext ++ [(⟨.scalar s.cur s.str, va, pl.pa, req, some (a.r, a.size), false, none,
        if plain then none else some pl.grain, []⟩ : ExtReq)] }.setMe { s.me with wait := some .external }))

/-- O15. ST writes its bytes at the checked address and no others, and its strand reads them back (spec/14_memory_isa.md
R287; R288; R289; R290; spec/13_memory_hierarchy.md R273). -/
def Obligations.StoreWritesItsBytes : Prop :=
  ∀ (s s1 : State) (a : MArgs) (pl : Place),
    let n := Size.bytes a.size
    let va := s.memAddr a
    let bytes := leBytes n (s.reg a.r).toNat
    let plain := pl.dev = true ∨ a.req = Req.u ∨ s.mine.keeps = false
    let req : BusOp := if plain then .write pl.pa bytes else .read (pl.pa / pl.grain * pl.grain) pl.grain
    (∀ x, s.calm = true → s.me.tact = false → x ≠ .await → s.check va n .write = (.error x, s1) →
      completes (.st a) s (s1.tookTrap false x.num va s.me.pc)) ∧
    (s.calm = true → s.check va n .write = (.error .await, s1) → completes (.st a) s fun t =>
      t = s1.setMe { s1.me with wait := some .walk }) ∧
    (s.calm = true → s.memOk → s.tlbOk → s.check va n .write = (.ok pl, s1) →
    (onDevice pl.pa = true → (a.rx = false ∨ pl.dev = true ∨ feBase ≤ pl.pa) →
      completes (.st a) s fun t => s.wentOn t ∧ s.sameRegs t ∧ s.framed t ∧ s.sameBytesBut pl.pa n t ∧
        (t.loadAt t.cur pl.pa n pl.grain pl.dev a.req false).1 = bytes ∧
        (a.req ≠ .s ∨ pl.dev = true ∨ feBase ≤ pl.pa → t.peekHome pl.pa n = bytes)) ∧
    ((pl.pa < feBase ∨ isExternal pl.pa = true) → a.rx = true → pl.dev = false →
      completes (.st a) s fun t => s.wentOn t ∧ s.sameRegs t ∧ s.sameOthers t ∧ s.sameSpecial t ∧ s.sameBytes t ∧
        t.me.relaxed = [⟨true, a.r, va, pl.pa, a.size, a.req, false, pl.grain, s.reg a.r, s.me.pc⟩]) ∧
    (∀ off, region pl.pa = .mmio off → s1.mmioHeld off = none →
      completes (.st a) s fun t => t = s1.advance.mmioWrite off (s.reg a.r)) ∧
    (isExternal pl.pa = true → (a.rx = false ∨ pl.dev = true) → completes (.st a) s fun t =>
      t = { s1 with ext := s1.ext ++ [(⟨.scalar s.cur s.str, va, pl.pa, req, none, false, none,
        if plain then none else some pl.grain, if plain then [] else bytes⟩ : ExtReq)] }.setMe { s.me with wait := some .external }))

/-- O16. A scalar atomic gives the old value and leaves the new one at its address, and nothing else in memory changes
(spec/14_memory_isa.md R287; R291; R292). -/
def Obligations.ScalarAtomicsActOnce : Prop :=
  ∀ (s s1 : State) (a : AArgs) (pl : Place),
    let n := ASize.bytes a.size
    let w := 8 * n
    let o := fromLe (s.peekHome pl.pa n)
    let b := (s.reg a.xs2).toNat % 2 ^ w
    let e := (s.reg a.rd).toNat % 2 ^ w
    let old : BitVec w := BitVec.ofNat w o
    let arg : BitVec w := BitVec.ofNat w b
    let does (i : Instr) (new : BitVec w) : Prop := completes i s fun t =>
      s.wentOn t ∧ s.framed t ∧ s.regsWith a.rd (old.signExtend 64) t ∧ s.sameBytesBut pl.pa n t ∧
        t.peekHome pl.pa n = leBytes n new.toNat
    let all : List (Instr × AmoOp) := [(.aadd a, .add), (.aand a, .and), (.aor a, .or), (.axor a, .xor), (.amin a, .min),
      (.amax a, .max), (.aswap a, .swap), (.acas a, .cas)]
    let hosts (op : AmoOp) : Prop := op = .add ∨ op = .swap ∨ op = .cas
    s.calm = true → s.memOk → s.check (s.reg a.xs1) n .atomic = (.ok pl, s1) →
    (isExternal pl.pa = true → ∀ i op, (i, op) ∈ all → ((∀ off, region pl.pa ≠ .host off) ∨ hosts op) →
      completes i s fun t => t = { s1 with ext := s1.ext ++ [(⟨.scalar s.cur s.str, s.reg a.xs1, pl.pa,
        .atomic ⟨.scalar s.cur s.str, pl.pa, a.size, op, BitVec.ofNat 64 b, BitVec.ofNat 64 e⟩,
        some (a.rd, match a.size with | .w => .w | .d => .d), false, if a.acq then some a.scope else none, none, []⟩ : ExtReq)] }.setMe
          { s.me with wait := some .external }) ∧
    (s.me.tact = false → ∀ i op, (i, op) ∈ all →
      ((∃ off, region pl.pa = .host off) → ¬ hosts op → completes i s (s1.tookTrap false 7 (s.reg a.xs1) s.me.pc)) ∧
      (onDevice pl.pa = true → s.isBad pl.pa n = true → completes i s (s1.tookTrap false 11 (s.reg a.xs1) s.me.pc))) ∧
    (onDevice pl.pa = true → s.isBad pl.pa n = false →
    does (.aadd a) (old + arg) ∧ does (.aand a) (old &&& arg) ∧ does (.aor a) (old ||| arg) ∧ does (.axor a) (old ^^^ arg) ∧
      does (.amin a) (if arg.toInt < old.toInt then arg else old) ∧
      does (.amax a) (if old.toInt < arg.toInt then arg else old) ∧ does (.aswap a) arg ∧
      does (.acas a) (if o = e then arg else old))

/-- O17. Each full/empty operation whose condition holds moves the data and sets the bit of its word alone
(spec/14_memory_isa.md R287; R293; R294; spec/13_memory_hierarchy.md R268 to R270). -/
def Obligations.FullEmptyOperationsComplete : Prop :=
  ∀ (s s1 : State) (rd r1 : BitVec 5) (imm : BitVec 11) (pl : Place),
    let va := s.feAddr r1 imm
    let old := s.homeWord pl.pa
    let does (i : Instr) (r : BitVec 5) (v : Word) (data : Word) (full : Bool) : Prop := completes i s fun t =>
      s.wentOn t ∧ s.framed t ∧ s.regsWith r v t ∧ t.homeWord pl.pa = data ∧ t.isFull pl.pa = full ∧
        s.sameDataBut pl.pa 8 t ∧ s.sameFullBut pl.pa t
    s.calm = true → s.memOk → s.tlbOk → s.waiters = [] → onDevice pl.pa = true →
    (s.check va 8 .peek = (.ok pl, s1) → completes (.probef rd r1 imm) s fun t =>
      s.wentOn t ∧ s.framed t ∧ s.sameBytes t ∧ s.regsWith rd (if s.isFull pl.pa then 1 else 0) t) ∧
    (s.check va 8 .peek = (.ok pl, s1) → s.isFull pl.pa = true → s.isBad pl.pa 8 = false →
      does (.ldfK rd r1 imm) rd old old true) ∧
    (s.check va 8 .change = (.ok pl, s1) → s.isFull pl.pa = true → s.isBad pl.pa 8 = false →
      does (.ldfT rd r1 imm) rd old old false ∧ does (.sete r1 imm) 0 0 old false) ∧
    (s.check va 8 .change = (.ok pl, s1) →
      does (.stf rd r1 imm) 0 0 (s.reg rd) true ∧ (s.isFull pl.pa = false → does (.stfW rd r1 imm) 0 0 (s.reg rd) true))

/-- O18. A misaligned load, store, atomic or full/empty operation raises ALIGN with its address and does nothing else
(spec/14_memory_isa.md R287; spec/07_scalar_isa.md R153; R154). -/
def Obligations.MisalignedAccessesTrap : Prop :=
  ∀ (s : State) (m : MArgs) (a : AArgs) (rd r1 : BitVec 5) (imm : BitVec 11), s.me.tact = false →
    ((s.memAddr m).toNat % Size.bytes m.size ≠ 0 →
      completes (.ld m) s (s.tookTrap false 9 (s.memAddr m) s.me.pc) ∧
      completes (.st m) s (s.tookTrap false 9 (s.memAddr m) s.me.pc)) ∧
    ((s.reg a.xs1).toNat % ASize.bytes a.size ≠ 0 →
      ∀ i ∈ [Instr.aadd a, .aand a, .aor a, .axor a, .amin a, .amax a, .aswap a, .acas a],
        completes i s (s.tookTrap false 9 (s.reg a.xs1) s.me.pc)) ∧
    ((s.feAddr r1 imm).toNat % 8 ≠ 0 →
      ∀ i ∈ [Instr.ldfK rd r1 imm, .ldfT rd r1 imm, .stf rd r1 imm, .stfW rd r1 imm, .sete r1 imm, .probef rd r1 imm],
        completes i s (s.tookTrap false 9 (s.feAddr r1 imm) s.me.pc))

/-- O19. FENCE of every scope goes on whatever the vector queue holds, once the relaxed accesses before it have performed, with
the copy actions of its scope, and VSYNC waits for the queue (spec/14_memory_isa.md R288; R297; R298;
spec/13_memory_hierarchy.md R274). -/
def Obligations.FencesWaitOnlyForEarlierAccesses : Prop :=
  ∀ (s : State) (sc : Scope) (a : RelaxedAcc),
    let n := a.length
    let alone := s.setMe { s.me with relaxed := [], queue := [] }
    let wide : Prop := sc = .dev ∨ sc = .dom
    let done : Prop := s.me.relaxed = [] ∧ s.extRelaxed s.cur s.str = false ∧ s.me.relaxedFault = none ∧
      (wide → s.windowDirty s.cur = false ∧ s.mine.copyFault = none)
    (done → (sc ≠ .strand → s.mine.copies = []) → completes (.fence sc) s (s.jumped 0 0 (s.me.pc + 4))) ∧
    (done → wide → s.comb = [] → s.badCopies = [] → s.snap = none → completes (.fence sc) s fun t =>
      s.wentOn t ∧ s.sameRegs t ∧ ∀ x ∈ t.mine.copies, x.kind ≠ .untracked) ∧
    (s.me.relaxed = [] → s.extRelaxed s.cur s.str = true →
      completes (.fence sc) s fun t => t = s.setMe { s.me with wait := some .relaxed }) ∧
    (s.me.relaxed = [a] → a.isStore = true → a.req = .u → a.pa + n ≤ feBase → a.pa / 32 = (a.pa + n - 1) / 32 →
      alone.calm = true → s.memOk → completes (.fence sc) s fun t =>
        t.me = { s.me with relaxed := [], pc := s.me.pc + 4 } ∧ s.sameOthers t ∧ s.sameSpecial t ∧
          t.peekHome a.pa n = leBytes n a.data.toNat ∧ s.sameBytesBut a.pa n t) ∧
    (s.calm = true → completes .vsync s (s.jumped 0 0 (s.me.pc + 4))) ∧
    (s.me.queue ≠ [] → s.me.vfault = none → completes .vsync s fun t => t = s.setMe { s.me with wait := some .drain }) ∧
    (s.me.queue = [] → s.me.relaxed = [] → s.extRelaxed s.cur s.str = true →
      completes .vsync s fun t => t = s.setMe { s.me with wait := some .relaxed })

/-- O20. CFLUSH leaves no dirty byte, and CINV no copy, of the grains of a range in the issuing core, and the dirty bytes
stand at home (spec/14_memory_isa.md R299; spec/13_memory_hierarchy.md R273). The dirty bytes of an owned copy stand there all
along in this model (assumption 10). -/
def Obligations.CacheOperationsCleanTheirGrains : Prop :=
  ∀ (s s1 : State) (r1 r2 : BitVec 5) (e : TlbEntry),
    let va := (s.reg r1).toNat
    let len := (s.reg r2).toNat
    let pa := e.frame + (va - e.base)
    let atHome (t : State) : Prop := s.snap = none → s.memOk → (s.mine.copies.map (·.sector)).Nodup →
      (∀ x ∈ s.mine.copies, ∀ d ∈ x.dirty, d < 32) → ∀ x ∈ s.mine.copies, x.sector ∈ s1.grainsOf pa len e.grain →
        ∀ d ∈ x.dirty, t.peekHome (32 * x.sector + d) 1 =
          if x.kind = .untracked then [x.bytes.getD d 0] else s.peekHome (32 * x.sector + d) 1
    (len = 0 → completes (.cflush r1 r2) s (s.jumped 0 0 (s.me.pc + 4)) ∧
      completes (.cinv r1 r2) s (s.jumped 0 0 (s.me.pc + 4))) ∧
    (len ≠ 0 → va / 4096 = (va + len - 1) / 4096 → s.lookup s.cur s.myCtx s.mine.ptroot (s.reg r1) = (.ok e, s1) →
      e.canRead = true → e.dev = false → pa < feBase → s.tlbOk → s.comb = [] → s.badCopies = [] → s.me.relaxed = [] →
      s.extRelaxed s.cur s.str = false → (∀ x ∈ s.ext, x.who ≠ .copies s.cur) →
      completes (.cflush r1 r2) s (fun t => s.wentOn t ∧ s.sameRegs t ∧ s.framed t ∧
        (∀ x ∈ t.mine.copies, x.sector ∈ s1.grainsOf pa len e.grain → x.dirty = []) ∧ atHome t) ∧
      completes (.cinv r1 r2) s (fun t => s.wentOn t ∧ s.sameRegs t ∧ s.framed t ∧
        (∀ x ∈ t.mine.copies, x.sector ∉ s1.grainsOf pa len e.grain) ∧ atHome t))

/-- O21. SEAL enters the page of a range for the context, and UNSEAL removes the context's own entries there alone
(spec/14_memory_isa.md R300; spec/13_memory_hierarchy.md R277). An UNSEAL whose split finds the table full raises ACCESS and
removes nothing: that is the model's choice (assumption 43). -/
def Obligations.SealAndUnsealActOnTheirPages : Prop :=
  ∀ (s s1 : State) (r1 r2 : BitVec 5) (e : TlbEntry),
    let x := (s.reg r1).toNat
    let len := (s.reg r2).toNat
    let page := x / 4096 * 4096
    let pa := e.frame + (page - e.base)
    s.calm = true →
    (len = 0 → s.seals.length ≤ 256 → completes (.seal r1 r2) s (fun t => s.wentOn t ∧ s.sameRegs t ∧ t.seals = s.seals) ∧
      completes (.unseal r1 r2) s (fun t => s.wentOn t ∧ s.sameRegs t ∧ t.seals = s.seals)) ∧
    (len ≠ 0 → x / 4096 = (x + len - 1) / 4096 →
      s.lookup s.cur s.myCtx s.mine.ptroot (BitVec.ofNat 64 page) = (.ok e, s1) → e.canRead = true → pa + 4096 ≤ feBase →
      (s.seals.length < 256 → completes (.seal r1 r2) s (fun t => s.wentOn t ∧ s.sameRegs t ∧
        t.seals = s.seals ++ [⟨pa, pa + 4096, s.myCtx⟩] ∧ ∀ a, pa ≤ a → a < pa + 4096 → t.isSealed a = true)) ∧
      (s.me.tact = false → 256 < (s.unsealRuns s.myCtx [(pa, pa + 4096)]).seals.length →
        completes (.unseal r1 r2) s (s1.tookTrap false 7 (s.reg r1) s.me.pc)) ∧
      ((s.unsealRuns s.myCtx [(pa, pa + 4096)]).seals.length ≤ 256 → completes (.unseal r1 r2) s fun t => s.wentOn t ∧ s.sameRegs t ∧
        (∀ k ∈ t.seals, k.owner = s.myCtx → k.bound ≤ pa ∨ pa + 4096 ≤ k.base ∨ k.bound ≤ k.base) ∧
        t.seals.filter (fun k => decide (k.owner ≠ s.myCtx)) = s.seals.filter (fun k => decide (k.owner ≠ s.myCtx))))

/-- O22. CSRR gives the value of the listed register to a strand whose level may read it, once its queue is empty
(spec/07_scalar_isa.md R149; R150; R151; R140). -/
def Obligations.CsrReadsGiveTheRegister : Prop :=
  ∀ (s : State) (rd : BitVec 5) (n : BitVec 12),
    (csrListed n = true → (s.isRuntime = true ∨ csrTaskReads n.toNat = true) → s.me.queue = [] →
      completes (.csrr rd n) s (s.wrote rd (s.csr s.cur s.str n.toNat))) ∧
    s.csr s.cur s.str 0x015 = BitVec.ofNat 64 s.str.val ∧
    s.csr s.cur s.str 0x000 = s.me.vtype.zeroExtend 64 ∧ s.csr s.cur s.str 0x001 = s.me.vlen.zeroExtend 64 ∧
    s.csr s.cur s.str 0x100 = s.mine.ovt.zeroExtend 64 ∧ s.csr s.cur s.str 0x101 = s.mine.poolV.zeroExtend 64 ∧
    s.csr s.cur s.str 0x102 = s.mine.poolS.zeroExtend 64 ∧ s.csr s.cur s.str 0x103 = s.mine.poolC.zeroExtend 64 ∧
    s.csr s.cur s.str 0x106 = s.mine.cpyshare.zeroExtend 64 ∧ s.csr s.cur s.str 0x10a = s.me.tval ∧
    s.csr s.cur s.str 0x10d = s.me.tscratch ∧
    s.csr s.cur s.str 0x10b = s.me.tepc.zeroExtend 64 * 4 ∧ s.csr s.cur s.str 0x108 = s.me.trapvec.zeroExtend 64 * 4 ∧
    s.csr s.cur s.str 0x10c = ((0 : BitVec 57) ++ (if s.me.latch then 1#1 else 0#1) ++ (0 : BitVec 1) ++
      (if s.me.tact then 1#1 else 0#1) ++ s.me.ppriv ++ s.me.priv) ∧
    s.csr s.cur s.str 0x109 = ((if s.me.causeSw then 1#1 else 0#1) ++ (0 : BitVec 47) ++ s.me.cause)

/-- O23. CSRW stores, CSRS sets and CSRC clears bits of a register, a write of a read-only one is ignored, the W1C bits of VSTAT
clear, and FMTSET, RNDSET and OVTSET are the same writes (spec/07_scalar_isa.md R149 to R151; R153; R161;
spec/03_number_formats.md R50; R61; R62). -/
def Obligations.CsrWritesSetClearAndStore : Prop :=
  ∀ (s : State) (r1 : BitVec 5) (n : BitVec 2),
    let x := s.reg r1
    let sets (i : Instr) (st : Strand) : Prop := completes i s fun t => t = s.setMe { st with pc := s.me.pc + 4 }
    sets (.csrw r1 0x005) { s.me with rndseed := x } ∧ sets (.csrs r1 0x005) { s.me with rndseed := s.me.rndseed ||| x } ∧
    sets (.csrc r1 0x005) { s.me with rndseed := s.me.rndseed &&& ~~~x } ∧ sets (.rndset r1) { s.me with rndseed := x } ∧
    sets (.fmtset n r1) { s.me with fmt := s.me.fmt.set n.toFin (x.extractLsb' 0 18) } ∧
    sets (.csrw r1 0x000) s.me ∧
    (s.me.queue = [] → sets (.csrw r1 0x001) s.me ∧ sets (.csrw r1 0x002) { s.me with vstart := x.extractLsb' 0 25 } ∧
      (∀ i ∈ [Instr.csrw r1 0x003, .csrc r1 0x003],
        sets i { s.me with vstat := s.me.vstat &&& ~~~(x.extractLsb' 0 5 &&& 0x1e) }) ∧ sets (.csrs r1 0x003) s.me) ∧
    (s.me.queue ≠ [] → s.me.vfault = none → ∀ c ∈ [(0x001 : BitVec 12), 0x002, 0x003], completes (.csrw r1 c) s fun t =>
      t = s.setMe { s.me with wait := some .drain }) ∧
    (s.isRuntime = true →
      sets (.csrw r1 0x108) { s.me with trapvec := x.extractLsb' 2 50 } ∧
      sets (.csrw r1 0x109) { s.me with causeSw := x.getLsbD 63, cause := x.extractLsb' 0 16 } ∧
      sets (.csrw r1 0x10b) { s.me with tepc := x.extractLsb' 2 50 } ∧
      sets (.csrw r1 0x10c) { s.me with tact := x.getLsbD 4, ppriv := x.extractLsb' 2 2 } ∧
      completes (.csrw r1 0x106) s (fun t => t = (s.setMine { s.mine with cpyshare := x.extractLsb' 0 8 }).setMe
        { s.me with pc := s.me.pc + 4 }) ∧
      sets (.csrw r1 0x10d) { s.me with tscratch := x } ∧ sets (.csrs r1 0x10d) { s.me with tscratch := s.me.tscratch ||| x } ∧
      sets (.csrc r1 0x10d) { s.me with tscratch := s.me.tscratch &&& ~~~x } ∧
      sets (.csrw r1 0x10a) { s.me with tval := x } ∧ sets (.csrs r1 0x10a) { s.me with tval := s.me.tval ||| x } ∧
      sets (.csrc r1 0x10a) { s.me with tval := s.me.tval &&& ~~~x } ∧
      completes (.ovtset r1) s fun t => s.wentOn t ∧ s.sameRegs t ∧
        (∀ k < 8, t.mine.ovt.extractLsb' (2 * k) 2 =
          if x.extractLsb' (2 * k) 2 = (3 : BitVec 2) then 0 else x.extractLsb' (2 * k) 2) ∧
        s.sameStrand t ∧ s.sameOthers t ∧ s.sameBytes t ∧ t.mine.capmask = s.mine.capmask)

/-- O24. At task level the privileged instructions raise ILLEGAL with their word and have no other effect
(spec/07_scalar_isa.md R140; R153; spec/06_encoding.md R133). -/
def Obligations.TaskLevelMayNotRunPrivilegedForms : Prop :=
  ∀ (s : State) (i : Instr) (w : IWord) (rd r1 : BitVec 5) (n : BitVec 12),
    s.me.priv = 0 → s.me.tact = false → encode i = some w →
    (i ∈ [Instr.tret, .haltc, .ovtset r1, .snap rd r1, .objfree rd r1] ∨
      (csrTaskReads n.toNat = false ∧ i = .csrr rd n) ∨
      (csrTaskWrites n.toNat = false ∧ i ∈ [Instr.csrw r1 n, .csrs r1 n, .csrc r1 n])) →
    completes i s (s.tookTrap false 1 (w.zeroExtend 64) s.me.pc)

/-- O25. TRAP and BRK enter the trap handler once the queue is empty, and an armed BRK halts for the debugger
(spec/07_scalar_isa.md R153; R156; spec/22_interruption.md R398). -/
def Obligations.TrapAndBreakpointEnterTheHandler : Prop :=
  ∀ (s : State) (r1 : BitVec 5),
    (s.me.queue = [] → s.me.tact = false →
      completes (.trap r1) s (s.tookTrap true ((s.reg r1).extractLsb' 0 16) (s.reg r1) (s.me.pc + 4)) ∧
      (s.mine.dbg.arm.getLsbD s.str.val = false → completes .brk s (s.tookTrap false 16 0 s.me.pc))) ∧
    (s.calm = true → s.me.muldiv = false → s.mine.deliveries = [] → s.mine.dbg.arm.getLsbD s.str.val = true →
      completes .brk s fun t => t.me.dbgHalted = true ∧ t.me.pc = s.me.pc ∧ s.sameRegs t ∧ s.sameBytes t) ∧
    (s.me.queue ≠ [] → s.me.vfault = none → ∀ i ∈ [Instr.trap r1, .brk],
      completes i s fun t => t = s.setMe { s.me with wait := some .drain })

/-- O26. TRET goes on at TEPC at the saved level with TACT 0 (spec/07_scalar_isa.md R157; R158; spec/22_interruption.md
R386). -/
def Obligations.TrapReturnRestoresTheLevel : Prop :=
  ∀ (s : State), s.isRuntime = true → s.me.replay = [] → s.me.counted = [] → s.me.serving = none →
    completes .tret s fun t => t = s.setMe { s.me with
      pc := s.me.tepc.zeroExtend 64 * 4, priv := if s.me.ppriv = 3 then 2 else s.me.ppriv, tact := false, latch := true }

/-- O27. WFE goes on and clears a latch that is set, and waits at its own address for one that is not
(spec/07_scalar_isa.md R158; R159). -/
def Obligations.WaitForEventTestsTheLatch : Prop :=
  ∀ (s : State),
    (s.me.latch = true → completes .wfe s fun t => t = s.setMe { s.me with latch := false, pc := s.me.pc + 4 }) ∧
    (s.me.latch = false → completes .wfe s fun t => t = s.setMe { s.me with wait := some .latch })

/-- O28. HALTC halts its strand without lanes and changes no register and no memory (spec/07_scalar_isa.md R160;
spec/22_interruption.md R387). That the pc stands past the HALTC (`wentOn`) is deduced (assumption 41). -/
def Obligations.HaltcEndsTheStrand : Prop :=
  ∀ (s : State), s.isRuntime = true → s.calm = true → s.me.firing = none → s.me.replay = [] → s.me.asyncTraps = [] →
    s.me.serving = none → s.mine.deliveries = [] → (∀ c, (s.ctx c).pWait = none) →
    completes .haltc s fun t => t.me.halted = true ∧ s.wentOn t ∧ t.me.part = [] ∧ t.me.cls = .noLanes ∧ t.me.vlen = 0 ∧
      s.sameRegs t ∧ s.sameBytes t

/-- O29. A second trap while TACT is 1 aborts the context and changes no trap register (spec/07_scalar_isa.md R157;
spec/22_interruption.md R402; R403). -/
def Obligations.TrapInAHandlerAbortsTheContext : Prop :=
  ∀ (s : State) (r1 : BitVec 5) (c : CtxId), s.me.queue = [] → s.me.tact = true → s.mine.serves = some c →
    completes (.trap r1) s fun t => (t.ctx c).aborted = true ∧ (t.ctx c).recNo = BitVec.ofNat 32 s.mcCount ∧
      t.mcCount = s.mcCount + 1 ∧ t.me.cause = s.me.cause ∧ t.me.tval = s.me.tval ∧ t.me.tepc = s.me.tepc ∧
      (∃ r, t.machineChecks.getLast? = some r ∧ r.w0.extractLsb' 56 8 = 1 ∧
        r.w0.extractLsb' 0 16 = (s.reg r1).extractLsb' 0 16) ∧
      ∀ (p : CoreId) (u : StrandId), (s.core p).serves = some c → (t.strand p u).halted = true

/-- O30. Every vector and tile instruction that passes its checks enters the queue with what it captured; a failed check
traps (spec/06_encoding.md R130; R131; spec/04_code_objects.md R82; spec/08_fetch_issue.md R164; R166; R168;
spec/10_array_execution.md R205; spec/18_sync_isa.md R357; R361). That CHANNEL_WRITE is checked last (assumption 33) and that
the mask is 0 where no object stands (assumption 22) is the model's reading. -/
def Obligations.VectorInstructionsCommit : Prop :=
  ∀ (s : State) (i : Instr) (w : IWord),
    let v := vspec i (s.vcfg i)
    let dest : List ReadSlot := match queuedDest i with | some r => if r = 0 then [] else [⟨r, none, false⟩] | none => []
    let traps (cause : BitVec 16) (tval : Word) : Prop := s.me.tact = false →
      completes i s (s.tookTrap false cause tval s.me.pc)
    let bound : Bool := (chanRows s.me.chanmap).any fun x => meets x.2 v.writes
    wellFormed i = true → encode i = some w → 0x21 ≤ (w.extractLsb' 26 6).toNat → (w.extractLsb' 26 6).toNat ≤ 0x2f →
    s.me.queue.length < 32 → (s.me.readq.filter fun (r : ReadSlot) => !r.dropped).length < 8 →
    (v.bad = true → traps 2 (flagAt true 63 ||| s.me.vtype.zeroExtend 64)) ∧
    (v.bad = false → ∀ k, k ∈ v.classes → (s.maskAt s.me.pc).getLsbD k = false →
      (∀ j ∈ v.classes, j < k → (s.maskAt s.me.pc).getLsbD j = true) → traps 2 (word k)) ∧
    (v.bad = false → (∀ j ∈ v.classes, (s.maskAt s.me.pc).getLsbD j = true) → ∀ k, k ∈ v.classes →
      s.mine.capmask.getLsbD k = false → (∀ j ∈ v.classes, j < k → s.mine.capmask.getLsbD j = true) → traps 3 (word k)) ∧
    (v.bad = false → (∀ j ∈ v.classes, (s.maskAt s.me.pc).getLsbD j = true ∧ s.mine.capmask.getLsbD j = true) →
      (bound = true → traps 12 (w.zeroExtend 64)) ∧
      (bound = false → completes i s fun t => ∃ e : QEntry,
        t = { s with chains := t.chains }.setMe
          { s.me with queue := s.me.queue ++ [e], readq := s.me.readq ++ dest, vstart := 0, pc := s.me.pc + 4 } ∧
        (∀ op vd r m, i = .xred op vd r m → (s.reg r).toNat < 16 → t.chains = s.chains.set (fin16 (s.reg r).toNat)
          { s.chains[fin16 (s.reg r).toNat] with
            issued := s.chains[fin16 (s.reg r).toNat].issued + 1 } ∧
          e.ticket = s.chains[fin16 (s.reg r).toNat].issued) ∧
        ((∀ op vd r m, i = .xred op vd r m → 16 ≤ (s.reg r).toNat) → t.chains = s.chains) ∧
        e.word = w ∧ e.addr = s.me.pc ∧ e.vtype = s.me.vtype ∧ e.vlen = s.me.vlen ∧ e.fmt = s.me.fmt ∧
        e.ovt = s.mine.ovt ∧ e.seed = s.me.rndseed ∧ e.vstart = s.me.vstart ∧ e.part = s.me.part ∧ e.level1 = s.levelOneAt s.me.pc ∧
        e.ending = [] ∧ e.again = false ∧ e.early = [] ∧
        (∀ r l, xSources i = r :: l → e.x1 = s.reg r) ∧ (∀ r q l, xSources i = r :: q :: l → e.x2 = s.reg q)))

/-- O31. SETVT, SETVTI, LANEREL and SETLEN take effect at commit and enter the queue (spec/10_array_execution.md R210;
R211; spec/08_fetch_issue.md R166; R170; R172; R173; spec/06_encoding.md R116). -/
def Obligations.VectorConfigurationCommits : Prop :=
  ∀ (s : State) (rd r1 : BitVec 5) (imm : BitVec 16),
    let x := s.reg r1
    let c := s.mine.repartition s.str
    let held := if s.me.leaving then 0 else 256 * (c.strands[s.str]).part.length
    let m := min x.toNat (min held (256 * max 1 ((c.strands[s.str]).part.length * s.mine.allowance / 256)))
    let g := if 256 ≤ m then m / 256 * 256 else m
    let y := s.mine.yreq.getLsbD s.str.val
    let enters (i : Instr) (st : Strand) : Prop := completes i s fun t => ∃ e : QEntry,
      t = s.setMe { st with queue := s.me.queue ++ [e], pc := s.me.pc + 4 } ∧ some e.word = encode i ∧ e.addr = s.me.pc
    s.me.queue.length < 32 →
    enters (.setvti imm) { s.me with vtype := imm } ∧
    (field x 63 16 = 0 → enters (.setvt r1) { s.me with vtype := x.extractLsb' 0 16 }) ∧
    (field x 63 16 ≠ 0 → s.me.tact = false →
      completes (.setvt r1) s (s.tookTrap false 2 (flagAt true 63 ||| x &&& 0xffffffff) s.me.pc)) ∧
    enters .lanerel { s.me with vlen := 0 } ∧
    ((s.ctx s.myCtx).replay.running = 0 → completes (.setlen rd r1) s fun t =>
      s.regsWith rd (word g) t ∧ s.wentOn t ∧ t.me.vlen = BitVec.ofNat 17 g ∧
        t.me.vstat = (s.me.vstat &&& 0x1e) ||| (if y then 1 else 0) ∧ t.mine.yreq.getLsbD s.str.val = false ∧
        (∀ u : StrandId, u ≠ s.str → t.mine.yreq.getLsbD u.val = s.mine.yreq.getLsbD u.val) ∧
        t.me.part = (c.strands[s.str]).part ∧ (s.me.cls ≠ .long → t.me.part = s.me.part) ∧
        (∃ e : QEntry, t.me.queue = s.me.queue ++ [e] ∧ some e.word = encode (.setlen rd r1)) ∧
        s.sameOthers t ∧ s.sameSpecial t ∧ s.sameBytes t)

/-- O32. A hint word changes no state but the pc, and raises no trap (spec/06_encoding.md R134). -/
def Obligations.HintWordsChangeNothing : Prop :=
  (∀ (s : State) (a : VMemArgs), completes (.vpf a) s fun t => t = s.setMe { s.me with pc := s.me.pc + 4 }) ∧
  (∀ (s : State) (m : HintMajor) (imm : BitVec 26), completes (.hint m imm) s fun t =>
    t = s.setMe { s.me with pc := s.me.pc + 4 }) ∧
  ∀ w : IWord, 0x3c ≤ (w.extractLsb' 26 6).toNat → (w.extractLsb' 26 6).toNat ≤ 0x3e →
    (∃ a, decode w = .ok (.vpf a)) ∨ ∃ m imm, decode w = .ok (.hint m imm)

/-- O33. The vector integer instructions write the values of R213 and R214 to active lanes and change nothing else
(spec/10_array_execution.md R206; R212; R213; R214; spec/03_number_formats.md R44; spec/10_array_execution.md R205;
R207; spec/16_program_int4.md R331). -/
def Obligations.IntegerVectorResults : Prop :=
  ∀ (s : State) (p : CoreId) (t : StrandId) (e : QEntry) (sgn : Bool) (w : Nat) (o : VArgs) (u : VUnary),
    let v := s.headEnv p t e
    let val (n : Nat) : Int := if sgn = true ∧ 2 ^ (w - 1) ≤ n then (n : Int) - 2 ^ w else n
    let bits (z : Int) : Nat := (z % 2 ^ w).toNat
    let lo : Int := if sgn then -(2 ^ (w - 1)) else 0
    let hi : Int := if sgn then 2 ^ (w - 1) - 1 else 2 ^ w - 1
    let sat (z : Int) : Int := max lo (min hi z)
    let a (k : Nat) : Nat := v.elem o.vs1.toNat k
    let b (k : Nat) : Nat := v.op2 o.kind o.op2 k
    let c (k : Nat) : Nat := v.elem u.vs1.toNat k
    let ovf (f : Nat → Int) : BitVec 5 :=
      if (List.range e.vlen.toNat).any fun k => v.active o.vm k && decide (f k < lo ∨ hi < f k) then 4 else 0
    let does (i : Instr) (vd : BitVec 5) (vm : BitVec 3) (f : Nat → Nat) (fl : BitVec 5) : Prop := s.mayRun p t e i →
      completes (.vqEntryExecute p t) s (s.ran p t e (fun k l => l.put vd vm w (f k)) fl none)
    v.cfg.ty = some (.int sgn w) →
    (s.mayRun p t e (.vadd o) → completes (.vqEntryExecute p t) s fun x => ∀ k < e.vlen.toNat, v.active o.vm k = true →
      ((x.core p).lane e.part k).carry = decide (2 ^ w ≤ a k % 2 ^ w + b k % 2 ^ w) ∧
      ((x.core p).lane e.part k).hidden.getLsbD 0 = decide (2 ^ w ≤ a k % 2 ^ w + b k % 2 ^ w)) ∧
    does (.vadd o) o.vd o.vm (fun k => bits (val (a k) + val (b k))) 0 ∧
    does (.vsub o) o.vd o.vm (fun k => bits (val (a k) - val (b k))) 0 ∧
    does (.vrsub o) o.vd o.vm (fun k => bits (val (b k) - val (a k))) 0 ∧
    does (.vmul o) o.vd o.vm (fun k => bits (val (a k) * val (b k))) 0 ∧
    does (.vmulh o) o.vd o.vm (fun k => bits (val (a k) * val (b k) / 2 ^ w)) 0 ∧
    does (.vmac o) o.vd o.vm (fun k => bits (val (v.elem o.vd.toNat k) + val (a k) * val (b k))) 0 ∧
    does (.vdiv o) o.vd o.vm (fun k => if b k = 0 then 2 ^ w - 1 else bits ((val (a k)).tdiv (val (b k)))) 0 ∧
    does (.vrem o) o.vd o.vm (fun k => if b k = 0 then a k else bits ((val (a k)).tmod (val (b k)))) 0 ∧
    does (.vmin o) o.vd o.vm (fun k => bits (min (val (a k)) (val (b k)))) 0 ∧
    does (.vmax o) o.vd o.vm (fun k => bits (max (val (a k)) (val (b k)))) 0 ∧
    does (.vsadd o) o.vd o.vm (fun k => bits (sat (val (a k) + val (b k)))) (ovf fun k => val (a k) + val (b k)) ∧
    does (.vssub o) o.vd o.vm (fun k => bits (sat (val (a k) - val (b k)))) (ovf fun k => val (a k) - val (b k)) ∧
    does (.vavg o) o.vd o.vm (fun k => bits ((val (a k) + val (b k) + 1) / 2)) 0 ∧
    does (.vabs u) u.vd u.vm (fun k => bits |val (c k)|) 0 ∧
    does (.vneg u) u.vd u.vm (fun k => bits (-val (c k))) 0 ∧
    does (.vpopc u) u.vd u.vm (fun k => (List.range w).countP fun j => (c k).testBit j) 0 ∧
    does (.vclz u) u.vd u.vm (fun k => if c k = 0 then w else w - 1 - (c k).log2) 0

/-- O34. The vector logic, shift and move instructions and VIDX write the values of R215 and R216
(spec/10_array_execution.md R206; R215; R216; spec/03_number_formats.md R44; spec/10_array_execution.md R205). -/
def Obligations.LogicVectorResults : Prop :=
  ∀ (s : State) (p : CoreId) (t : StrandId) (e : QEntry) (ty : ETy) (o : VArgs) (u : VUnary) (vd op2 : BitVec 5)
    (vm : BitVec 3) (z : VKind) (start : BitVec 11) (inc : BitVec 10),
    let v := s.headEnv p t e
    let w := ty.width
    let a (k : Nat) : Nat := v.elem o.vs1.toNat k
    let b (k : Nat) : Nat := v.op2 o.kind o.op2 k
    let c (k : Nat) : Nat := v.elem u.vs1.toNat k
    let amount (k : Nat) : Nat :=
      match o.kind with | .vv => v.elem o.op2.toNat k | .vx => e.x1.toNat | _ => o.op2.toNat
    let top (k : Nat) : Int := if (a k).testBit (w - 1) then (a k : Int) - 2 ^ w else a k
    let does (i : Instr) (f : Nat → Lane → Lane) : Prop := s.mayRun p t e i →
      completes (.vqEntryExecute p t) s (s.ran p t e f 0 none)
    let puts (i : Instr) (vd : BitVec 5) (vm : BitVec 3) (f : Nat → Nat) : Prop := does i fun k l => l.put vd vm w (f k)
    v.cfg.ty = some ty →
    puts (.vand o) o.vd o.vm (fun k => a k &&& b k) ∧ puts (.vor o) o.vd o.vm (fun k => a k ||| b k) ∧
    puts (.vxor o) o.vd o.vm (fun k => a k ^^^ b k) ∧ puts (.vnot u) u.vd u.vm (fun k => 2 ^ w - 1 - c k) ∧
    puts (.vmv u) u.vd u.vm c ∧
    puts (.vsplat vd op2 vm z) vd vm (fun _ => if z = .vx then e.x1.toNat % 2 ^ w else (op2.toInt % 2 ^ w).toNat) ∧
    does (.vmerge o) (fun k l => l.withRows (32 * o.vd.toNat) w (if l.mask o.vm then a k else b k)) ∧
    puts (.vsll o) o.vd o.vm (fun k => if w ≤ amount k then 0 else a k * 2 ^ amount k % 2 ^ w) ∧
    puts (.vsrl o) o.vd o.vm (fun k => if w ≤ amount k then 0 else a k / 2 ^ amount k) ∧
    puts (.vsra o) o.vd o.vm (fun k => (top k / 2 ^ min (amount k) (w - 1) % 2 ^ w).toNat) ∧
    does (.vidx vd start inc) fun k l =>
      l.withRows (32 * vd.toNat) w ((start.toInt + k * inc.toInt) % 2 ^ w).toNat

/-- O35. Compares, mask operations, VMATCH, VWRITE and TGMOV write the bits of R217 to R219, and VTT runs the steps of its slot
(spec/10_array_execution.md R206; R208; R217; R218; R219; R221; R223). -/
def Obligations.MaskAndTagResults : Prop :=
  ∀ (s : State) (p : CoreId) (t : StrandId) (e : QEntry) (sgn : Bool) (ty : ETy) (o : VCmpArgs) (md m1 m2 vm : BitVec 3)
    (rd vd vs1 x2 : BitVec 5) (tg : BitVec 2) (q : VttArgs),
    let v := s.headEnv p t e
    let w := ty.width
    let val (n : Nat) : Int := if sgn = true ∧ 2 ^ (w - 1) ≤ n then (n : Int) - 2 ^ w else n
    let a (k : Nat) : Int := val (v.elem o.vs1.toNat k)
    let b (k : Nat) : Int := val (v.op2 o.kind o.op2 k)
    let set (k : Nat) : Bool := v.active vm k && (v.lane k).mask m1
    let cares (j : Nat) : Bool := decide (j < min w 32) && e.x1.getLsbD (32 + j)
    let gives (i : Instr) (f : Nat → Lane → Lane) (x : Option Word) : Prop := s.mayRun p t e i →
      completes (.vqEntryExecute p t) s (s.ran p t e f 0 x)
    let compares (i : Instr) (f : Nat → Bool) : Prop :=
      gives i (fun k l => if l.mask o.vm then l.withMask o.md (f k) else l) none
    (ty = .int sgn w → v.cfg.ty = some ty →
      compares (.vcmpeq o) (fun k => decide (a k = b k)) ∧ compares (.vcmpne o) (fun k => decide (a k ≠ b k)) ∧
      compares (.vcmplt o) (fun k => decide (a k < b k)) ∧ compares (.vcmple o) (fun k => decide (a k ≤ b k)) ∧
      compares (.vcmpgt o) (fun k => decide (b k < a k)) ∧ compares (.vcmpge o) (fun k => decide (b k ≤ a k))) ∧
    gives (.mand md m1 m2) (fun _ l => l.withMask md (l.mask m1 && l.mask m2)) none ∧
    gives (.mor md m1 m2) (fun _ l => l.withMask md (l.mask m1 || l.mask m2)) none ∧
    gives (.mxor md m1 m2) (fun _ l => l.withMask md (l.mask m1 != l.mask m2)) none ∧
    gives (.mnot md m1) (fun _ l => l.withMask md (!l.mask m1)) none ∧
    gives (.mset md) (fun _ l => l.withMask md true) none ∧
    gives (.mpopc rd m1 vm) (fun _ l => l) (some (word ((List.range e.vlen.toNat).countP set))) ∧
    gives (.mfirst rd m1 vm) (fun _ l => l)
      (some (match (List.range e.vlen.toNat).find? set with | some k => word k | none => BitVec.allOnes 64)) ∧
    gives (.tgmovToMask md tg) (fun _ l => l.withMask md (l.tag tg)) none ∧
    gives (.tgmovToTag tg m1) (fun _ l => l.withTag tg (l.mask m1)) none ∧
    (v.slots[q.slot.toFin].any (stepTooFar v.cfg.g) = false → gives (.vtt q) (fun k l => if v.active q.vm k then
      v.slots[q.slot.toFin].foldl (fun (a : Lane) x => stepLane q x a) { l with carry := false } else l) none) ∧
    (v.cfg.ty = some ty →
      gives (.vmatch tg vs1 x2 vm) (fun k l => if l.mask vm then l.withTag tg ((List.range 32).all fun j =>
        !cares j || (v.elem vs1.toNat k).testBit j == e.x1.getLsbD j) else l) none ∧
      ∃ f : Nat → Nat, (∀ k j, j < w → (f k).testBit j =
          if cares j then e.x1.getLsbD j else (v.elem vd.toNat k).testBit j) ∧
        gives (.vwrite vd x2 tg vm) (fun k l => if l.tag tg then l.put vd vm w (f k) else l) none)

/-- O36. The permutes move whole elements to the lanes of R245, and VBSHUF whole blocks with their scales
(spec/11_vector_numeric.md R244; R245; R246; spec/03_number_formats.md R57). -/
def Obligations.PermuteResults : Prop :=
  ∀ (s : State) (p : CoreId) (t : StrandId) (e : QEntry) (ty : ETy) (o : VArgs) (u : VUnary) (vd vs1 vs2 : BitVec 5)
    (vm : BitVec 3) (sgn : Bool),
    let v := s.headEnv p t e
    let w := ty.width
    let n := e.vlen.toNat
    let at' (x : Word) : Nat := if o.kind = .vx then x.toNat else o.op2.toNat
    let src (r : BitVec 5) (k : Nat) : Nat := if k < n then v.elem r.toNat k else 0
    let act (m : BitVec 3) : List Nat := (List.range n).filter (v.active m)
    let idx (k : Nat) : Nat := (v.lane k).rows (32 * vs2.toNat) 32
    let gives (i : Instr) (f : Nat → Lane → Lane) (x : Option Word) : Prop := s.mayRun p t e i →
      completes (.vqEntryExecute p t) s (s.ran p t e f 0 x)
    v.cfg.ty = some ty →
    gives (.vslideup o) (fun k l => if at' e.x1 ≤ k then l.put o.vd o.vm w (v.elem o.vs1.toNat (k - at' e.x1)) else l) none ∧
    gives (.vslidedn o) (fun k l => l.put o.vd o.vm w (src o.vs1 (k + at' e.x1))) none ∧
    gives (.vgather vd vs1 vs2 vm) (fun k l => l.put vd vm w (src vs1 (idx k))) none ∧
    gives (.vcompress u) (fun k l => match (act u.vm)[k]? with
      | some j => l.withRows (32 * u.vd.toNat) w (v.elem u.vs1.toNat j)
      | none => l) none ∧
    gives (.vexpand u) (fun k l => l.put u.vd u.vm w (v.elem u.vs1.toNat ((List.range k).countP (v.active u.vm)))) none ∧
    gives (.vbcast o) (fun _ l => l.put o.vd o.vm w (src o.vs1 (at' e.x1))) none ∧
    gives (.vins o) (fun k l => if k = at' e.x2 then l.put o.vd o.vm w e.x1.toNat else l) none ∧
    gives (.vbshuf vd vs1 vs2 vm) (fun k l =>
      let b := idx (k / 32 * 32)
      let l1 := l.withRows (32 * vd.toNat) w (src vs1 (32 * b + k % 32))
      if v.active vm (k / 32 * 32) = false then l
      else if k % 32 = 0 then l1.withRows (32 * (vd.toNat + v.cfg.g) - 8) 8
        (if 32 * b < n then (v.lane (32 * b)).rows (32 * (vs1.toNat + v.cfg.g) - 8) 8 else 127)
      else if v.active vm k then l1.withRows (32 * (vd.toNat + v.cfg.g) - 8) 8 0
      else l1) none ∧
    (ty = .int sgn w → gives (.vextr o) (fun _ l => l)
      (some (if sgn then sextTo64 w (src o.vs1 (at' e.x1)) else word (src o.vs1 (at' e.x1)))))

/-- O37. A finished head retires in order, counts in VICOUNT and hands its x result to the read queue, which delivers it
(spec/08_fetch_issue.md R167; R168; spec/03_number_formats.md R61; spec/10_array_execution.md R211;
spec/02_execution_model.md R40). -/
def Obligations.QueueRetirementAndDelivery : Prop :=
  ∀ (s : State) (p : CoreId) (t : StrandId) (e : QEntry) (rest : List QEntry) (h : HeadRun) (r : ReadSlot) (l : List ReadSlot)
    (x : Word),
    let st := s.strand p t
    (st.queue = e :: rest → st.head = some h → h.finished = true → e.chans = 0 → st.replay = [] →
      (s.core p).channels = [] → st.wait ≠ some .slot → rest.any (·.again) = false →
      ((∀ u ∈ (s.core p).uses, ∀ b, u.2 ≠ .leaving b) → st.lanesDue = false → e.releases = false →
        completes (.vqEntryRetire p t) s fun a => a = s.setStrand p t { st with
          queue := rest, head := none, vicount := st.vicount + 1
          readq := if e.dest.isSome then fillSlot (h.result.getD 0) st.readq else st.readq
          wait := if st.wait = some .drain ∧ rest = [] then none else st.wait }) ∧
      (e.instr = some .lanerel → e.ending = [] → (s.core p).laneReqs = [] → completes (.vqEntryRetire p t) s fun a =>
        (a.strand p t).queue = rest ∧ (a.strand p t).vicount = st.vicount + 1 ∧ (a.strand p t).part = [] ∧
          (a.strand p t).cls = .noLanes ∧ (a.strand p t).vlen = 0 ∧ (a.strand p t).x = st.x ∧ a.mem = s.mem)) ∧
    (st.readq = r :: l → r.value = some x → r.dropped = false → st.wait ≠ some .slot →
      completes (.readQueueDelivery p t) s fun a => a = s.setStrand p t { (st.withX r.rd x) with readq := l })

/-- O38. A detected vector fault is taken with its entries held, and the oldest lane request is served
(spec/22_interruption.md R383; R385; R386; spec/05_launch_placement.md R105; R106; spec/08_fetch_issue.md R171). -/
def Obligations.VectorFaultsAndLaneGrants : Prop :=
  ∀ (s : State) (p : CoreId) (t : StrandId) (f : VFault) (rest : List (StrandId × LaneClass)) (a : ArrayId),
    let st := s.strand p t
    let last := st.queue.getLast?
    let inVwait : Bool := match last.bind QEntry.instr with | some (.vwait _ _ _ _ _) => true | _ => false
    let stop : Word := if inVwait then (last.map (·.addr)).getD 0 else st.pc
    let kept : List QEntry := if inVwait && decide (st.queue.length ≠ 1) then st.queue.dropLast else st.queue
    let ks := ((s.core p).clusters.filter (s.core p).isFreeCluster).take (s.longcl p + 1)
    (st.vfault = some f → st.tact = false → st.halted = false → st.dbgHalted = false → st.wait = none →
      st.relaxed = [] → s.extRelaxed p t = false → completes (.vectorFault p t) s fun b =>
        (b.strand p t).replay = kept.map (fun (e : QEntry) => { e with early := [] }) ∧ (b.strand p t).queue = [] ∧ (b.strand p t).vfault = none ∧
        (b.strand p t).vstart = f.vstart ∧ (b.strand p t).vfelem = f.elem ∧ (b.strand p t).cause = f.cause ∧
        (b.strand p t).causeSw = false ∧ (b.strand p t).tval = f.tval ∧
        (b.strand p t).tepc = stop.extractLsb' 2 50 ∧ (b.strand p t).ppriv = st.priv ∧ (b.strand p t).priv = 1 ∧
        (b.strand p t).tact = true ∧ (b.strand p t).pc = addr50 st.trapvec ∧ (b.strand p t).x = st.x ∧ b.mem = s.mem ∧
        b.cur = s.cur ∧ b.str = s.str) ∧
    ((s.core p).laneReqs = (t, .short) :: rest → (s.core p).shortArray = some a →
      completes (.laneGrant p) s fun b => b = s.setCore p { s.core p with
        laneReqs := rest, uses := (s.core p).uses ++ [(a, .short t)]
        strands := (s.core p).strands.set t { st with
          cls := .short, part := [a], vlen := 0, wait := if st.wait = some .lanes then none else st.wait } }) ∧
    ((s.core p).laneReqs = (t, .long) :: rest → ks ≠ [] →
      completes (.laneGrant p) s fun b => b = s.setCore p { s.core p with
        laneReqs := rest, whole := (s.core p).whole ++ ks.map fun k => (k, t)
        strands := (s.core p).strands.set t { st with
          cls := .long, part := ks.flatMap clusterArrays, vlen := 0
          wait := if st.wait = some .lanes then none else st.wait } })

/-- O39. A poll that finds every flag that is left met, or the limit of R355, ends a VWAIT with its md (spec/18_sync_isa.md R353;
R354; R355). -/
def Obligations.WatchedFlagsEndAVwait : Prop :=
  ∀ (s : State) (p : CoreId) (t : StrandId) (e : QEntry) (rest : List QEntry) (h : HeadRun) (r : VReq) (rs : List VReq)
    (k : WCond) (md : BitVec 3) (vs1 vs2 : BitVec 5) (vm : BitVec 3),
    let st := s.strand p t
    let n := field h.limit 31 0
    let unmet := (r :: rs).map (·.elem)
    let lanes (f : Nat → Bool) (a : State) : Prop := ∀ j < e.vlen.toNat, (a.core p).lane e.part j =
      if ((s.core p).lane e.part j).mask vm then ((s.core p).lane e.part j).withMask md (f j) else (s.core p).lane e.part j
    let met (y : VReq) : Prop := ∃ x, y.op = .watch x ∧ onDevice y.pa = true ∧ s.isBad y.pa (y.width / 8) = false ∧
      ¬(y.dev = true ∧ y.sent = true) ∧
      watchMet k (s.headEnv p t e).sgn y.width (fromLe (s.peekHome y.pa (y.width / 8)) % 2 ^ y.width) x = true
    st.queue = e :: rest → decode e.word = .ok (.vwait k md vs1 vs2 vm) → st.head = some h → h.finished = false →
    h.reqs = r :: rs → mapWfFrom Lane.zero 0 (s.core p).lanes = true → (s.core p).parityBad = [] →
    (s.core p).copies = [] → s.comb = [] → s.badCopies = [] → e.part.Nodup → e.vlen.toNat ≤ 256 * e.part.length →
    (h.fault = none → (∀ y ∈ h.reqs, met y) → completes (.vwaitPoll p t) s fun a => ((a.strand p t).head.map (·.finished)) = some true ∧ lanes (fun _ => false) a ∧
        (a.strand p t).x = st.x ∧ s.sameBytes a) ∧
    (n ≠ 0 → h.since + 1024 * n ≤ s.coreCycle → bit h.limit 63 = false → completes (.vwaitTimeout p t) s fun a =>
      ((a.strand p t).head.map (·.finished)) = some true ∧ lanes (fun j => decide (j ∈ unmet)) a ∧
        (a.strand p t).x = st.x ∧ s.sameBytes a) ∧
    (n ≠ 0 → h.since + 1024 * n ≤ s.coreCycle → bit h.limit 63 = true → unmet.Pairwise (· < ·) → st.replay = [] → ¬(st.tact = true ∧ st.wait = some .drain) →
      completes (.vwaitTimeout p t) s fun a =>
        (a.strand p t).vfault = some ⟨17, r.va, BitVec.ofNat 25 r.elem, 0⟩ ∧ lanes (fun j => decide (j ∈ unmet)) a ∧
          (a.strand p t).x = st.x ∧ s.sameBytes a) ∧
    (n = 0 ∨ s.coreCycle < h.since + 1024 * n → completes (.vwaitTimeout p t) s fun a => a = s)

/-- O40. Vector accesses ask for their elements at the addresses of R302 and R349, and outstanding fetches, relaxed accesses,
element requests and element groups perform and land one by one (spec/08_fetch_issue.md R162; R163; spec/14_memory_isa.md R288;
R302; R303; R305; spec/13_memory_hierarchy.md R272; R286; spec/18_sync_isa.md R348 to R351). -/
def Obligations.MemoryRequestsPerformAndLand : Prop :=
  ∀ (s : State) (p : CoreId) (t : StrandId) (n : Nat) (a : RelaxedAcc) (e : QEntry) (rest : List QEntry) (h : HeadRun)
    (r : VReq) (o : VMemArgs) (g : Nat) (am : VAmoArgs) (s1 : State) (rs : List VReq) (i : Instr) (j x y new : Nat) (op : AmoOp),
    let st := s.strand p t
    let v := s.headEnv p t e
    let z := Size.bytes a.size
    let w := sewBits (vtSew e.vtype)
    let index (q : BitVec 5) (k : Nat) : Word := e.x1 + ((v.lane k).rows (32 * q.toNat) 32 |> BitVec.ofNat 32).signExtend 64
    let tiled (k : Nat) : Word :=
      let n := e.vlen.toNat / vtTile e.vtype
      e.x1 + word (k % n) * e.x2 + word (k / n * (w / 8))
    let unit (k : Nat) : Word := e.x1 + word (k * w / 8)
    let step (k : Nat) : Word := e.x1 + word k * e.x2
    let out (k : Nat) : VOp := .store (v.elem o.v.toNat k)
    let accesses : List (Instr × (Nat → Word) × (Nat → VOp)) := [(.vld o, unit, fun _ => .load), (.vlds o, step, fun _ => .load),
      (.vldx o, index o.r2, fun _ => .load), (.vldt o, tiled, fun _ => .load), (.vst o, unit, out), (.vsts o, step, out),
      (.vstx o, index o.r2, out), (.vstt o, tiled, out)]
    let mins : AmoOp × AmoOp := if v.sgn then (.min, .max) else (.minu, .maxu)
    let atomics : List (Instr × AmoOp) := [(.vamoadd am, .add), (.vamoand am, .and), (.vamoor am, .or), (.vamoxor am, .xor),
      (.vamoswap am, .swap), (.vamomin am, mins.1), (.vamomax am, mins.2), (.vamocas am, .cas)]
    let left (l : List VReq) (b : State) : Prop :=
      (b.strand p t).head.map (fun q => (q.reqs, q.finished)) = some (l, l.isEmpty) ∧ (b.strand p t).x = st.x
    let still : Prop := (s.core p).copies = [] ∧ s.comb = [] ∧ s.combWait = [] ∧ s.badCopies = [] ∧ s.snap = none
    let mine := h.reqs.filter fun (x : VReq) => decide (x.group = g)
    let line := st.pc.toNat / 64
    let here := fromLe (s.peekHome (line * 64) 64)
    let holds (b : State) (x : Option Nat) : State := b.setStrand p t { st with fetchBuf := some (line, x) }
    (s.fetchable p st.pc.toNat = true →
      (∀ x, (s.core p).cachedLine line = some x → completes (.ifetchFill p t) s fun b => b = holds s (some x)) ∧
      ((s.core p).cachedLine line = none → s.isBad (line * 64) 64 = true → completes (.ifetchFill p t) s fun b =>
        b = holds s none) ∧
      ((s.core p).cachedLine line = none → s.isBad (line * 64) 64 = false → completes (.ifetchFill p t) s fun b =>
        b = holds (s.setCore p { s.core p with icache := (b.core p).icache }) (some here) ∧
        (b.core p).icache.getLast? = some (line, here) ∧
        (∀ y ∈ (b.core p).icache, y = (line, here) ∨ y ∈ (s.core p).icache) ∧
        ∀ y ∈ (s.core p).icache, y.1 % 256 ≠ line % 256 → y ∈ (b.core p).icache)) ∧
    (st.relaxed[n]? = some a → a.isStore = false → onDevice a.pa = true → s.isBad a.pa z = false →
      (s.core p).copies = [] → s.comb = [] → s.badCopies = [] → completes (.scalarAccessPerform p t n) s fun b =>
        b.strand p t = { st with relaxed := st.relaxed.eraseIdx n }.withX a.r
          ((BitVec.ofNat (8 * z) (fromLe (s.peekHome a.pa z))).signExtend 64) ∧ s.sameBytes b) ∧
    (st.queue = e :: rest → decode e.word = .ok (.vld o) → st.head = some h → h.finished = false →
      nthEligible n [] h.reqs = some r → r.op = .load → onDevice r.pa = true → (s.core p).copies = [] → s.comb = [] →
      s.badCopies = [] → 8 ≤ r.width →
      s.isBad r.pa (r.width / 8) = false → r.width % 8 = 0 → r.bit = 0 →
      completes (.homeAccess p t n) s fun b => ∃ w : HeadRun, (b.strand p t).head = some w ∧
        w.reqs = h.reqs.map (fun (y : VReq) => if y.key = r.key then
          { y with got := some (fromLe (s.peekHome r.pa (r.width / 8))), sent := false } else y) ∧
        (b.strand p t).x = st.x ∧ (b.core p).lanes = (s.core p).lanes ∧ s.sameBytes b) ∧
    (st.queue = e :: rest → decode e.word = .ok (.vld o) → st.head = some h → h.finished = false →
      mine ≠ [] → (∀ x ∈ mine, x.got.isSome = true ∧ x.op = .load ∧ x.elem < e.vlen.toNat) →
      (mine.map (·.elem)).Nodup → (mine ≠ h.reqs) →
      (∀ x ∈ h.reqs, x.group < g → x.got.isSome = true ∨ isExternal x.pa = false) →
      (h.fault = none ∨ ∀ x ∈ h.reqs, g ≤ x.group) → v.cfg.scaled = false →
      mapWfFrom Lane.zero 0 (s.core p).lanes = true → (s.core p).parityBad = [] →
      e.part.Nodup → e.vlen.toNat ≤ 256 * e.part.length →
      completes (.elementGroupArrival p t g) s fun b => (b.strand p t).x = st.x ∧ b.mem = s.mem ∧
        ∀ j < 256 * e.part.length, (b.core p).lane e.part j =
          match mine.find? (fun (x : VReq) => decide (x.elem = j)) with
          | some x => ((s.core p).lane e.part j).withRows (32 * o.v.toNat) v.w (x.got.getD 0)
          | none => (s.core p).lane e.part j) ∧
    (∀ q ∈ accesses, s.mayRun p t e q.1 → 8 ≤ w → e.early = [] → st.relaxed = [] → rs ≠ [] →
      s.probePass p ((s.core p).serves.getD 0) o.req q.1 e.part id
        (((List.range e.vlen.toNat).filter fun k => decide (e.vstart.toNat ≤ k) && v.active o.vm k).map fun k =>
          ⟨k, q.2.1 k, 0, w, q.2.2 k, decide ((q.2.1 k).toNat % (w / 8) ≠ 0)⟩) = (rs, none, s1) →
      completes (.vqEntryExecute p t) s fun b => b = s1.setHead p t { HeadRun.start with reqs := rs }) ∧
    (∀ q ∈ atomics, s.mayRun p t e q.1 → v.cfg.isFp = false → am.rel = false → e.early = [] → st.relaxed = [] →
      rs ≠ [] → (rs.map (·.va)).Nodup → s.probePass p ((s.core p).serves.getD 0) .o q.1 e.part id
        (((List.range e.vlen.toNat).filter fun k => decide (e.vstart.toNat ≤ k) && v.active am.vm k).map fun k =>
          ⟨k, index am.vs2 k, 0, w, .atomic q.2 [(k, v.elem am.vs3.toNat k,
            if q.2 = .cas then v.elem (am.vs3.toNat + v.cfg.g) k else 0)],
            decide ((index am.vs2 k).toNat % (w / 8) ≠ 0)⟩) = (rs, none, s1) →
      completes (.vqEntryExecute p t) s fun b => b = s1.setHead p t { HeadRun.start with reqs := rs }) ∧
    (st.queue = e :: rest → decode e.word = .ok i → st.head = some h → h.finished = false → h.fault = none →
      nthEligible n [] h.reqs = some r → onDevice r.pa = true → still → s.memOk → r.bit = 0 →
      r.width ∈ [8, 16, 32, 64] → r.pa % (r.width / 8) = 0 →
      (∀ c off, region r.pa = .spad c off → ((s.core c).spadPlace off).isSome = true) →
      let others := h.reqs.filter fun (q : VReq) => decide (q.key ≠ r.key)
      ((∃ q ∈ accesses, i = q.1) → r.op = .store x → r.req = .u → isGrain r.grain = true →
        completes (.homeAccess p t n) s fun b => left others b ∧ b.peekHome r.pa (r.width / 8) = leBytes (r.width / 8) x ∧
          s.sameBytesBut r.pa (r.width / 8) b ∧ (b.core p).lanes = (s.core p).lanes) ∧
      ((i, op) ∈ atomics → am.acq = false → r.op = .atomic op [(j, x, y)] → r.width = 32 ∨ r.width = 64 →
        isGrain r.grain = true → s.isBad r.pa (r.width / 8) = false → j < 256 * e.part.length → e.part.Nodup →
        mapWfFrom Lane.zero 0 (s.core p).lanes = true → (s.core p).parityBad = [] →
        (new = let old := fromLe (s.peekHome r.pa (r.width / 8))
          let num (k : Nat) : Int := if 2 ^ (r.width - 1) ≤ k then (k : Int) - 2 ^ r.width else k
          match op with
          | .add => (old + x) % 2 ^ r.width
          | .and => old &&& x
          | .or => old ||| x
          | .xor => old ^^^ x
          | .min => if num x < num old then x else old
          | .max => if num old < num x then x else old
          | .minu => min old x
          | .maxu => max old x
          | .cas => if old = x then y else old
          | _ => x) → x < 2 ^ r.width → y < 2 ^ r.width →
        completes (.homeAccess p t n) s fun b => left others b ∧
          b.peekHome r.pa (r.width / 8) = leBytes (r.width / 8) new ∧ s.sameBytesBut r.pa (r.width / 8) b ∧
          ∀ k < 256 * e.part.length, (b.core p).lane e.part k = if k = j then ((s.core p).lane e.part k).withRows
            (32 * am.vs3.toNat) r.width (fromLe (s.peekHome r.pa (r.width / 8))) else (s.core p).lane e.part k))

/-- O41. SEND puts its deposit or RED message on the network and waits, VSEND its deposit, RSERVE installs its server and waits,
and an XRED of a chain of one device leaves its own elements (spec/18_sync_isa.md R358; R359; R361; R363; R364;
spec/13_memory_hierarchy.md R268). That a lone NaN becomes the canonical one is the model's reading (assumption 66). -/
def Obligations.SendAndReductionServersStart : Prop :=
  ∀ (s s1 : State) (r1 r2 : BitVec 5) (p : CoreId) (pl : Place) (off : Nat) (q : CoreId) (t : StrandId) (e : QEntry) (vm : BitVec 3)
    (op : XOp) (d : CtxId),
    let k := s.core q
    let st := s.strand q t
    let to' := e.x1
    let w := 2 ^ (field to' 19 17 + 1)
    let v := s.headEnv q t e
    let g := fin16 (field e.x1 3 0)
    let chain := s.chains[g]
    let lone (j : Nat) : Nat × BitVec 5 := redLone v.ty (xredOp op) (v.elem r1.toNat j)
    (s.mayRun q t e (.vsend r1 r2 vm) → k.serves = some d → st.relaxed = [] → s.extRelaxed q t = false → k.copies = [] →
      s.windowDirty q = false → (s.ctx d).aborted = false → (to'.extractLsb' 0 10).toNat ∉ (s.ctx d).preempted →
      (s.ctx d).route (to'.extractLsb' 0 10).toNat = some p → (to'.extractLsb' 0 10).toNat < (s.ctx d).size →
      field to' 63 49 = 0 → field to' 31 20 = 0 → field to' 19 17 ≤ 5 → bit to' 15 = false →
      field to' 48 32 + e.vlen.toNat ≤ 65536 → completes (.vqEntryExecute q t) s fun b =>
        b = { s.setHead q t HeadRun.start with net := s.net ++ [.deposit ⟨q, t, true, d, to'.extractLsb' 0 10,
          (to'.extractLsb' 10 3).toFin, to'.extractLsb' 13 2, field to' 48 32, (List.range e.vlen.toNat).map fun j =>
            if v.active vm j then some (BitVec.ofNat 64 ((v.lane j).rows (32 * r1.toNat) w)) else none⟩] }) ∧
    (s.mayRun q t e (.xred op r1 r2 vm) → field e.x1 63 4 = 0 → chain.valid = true → chain.first = true →
      chain.last = true → chain.header = none → chain.results = [] → s.xredTurn g q t e = true →
      completes (.vqEntryExecute q t) s (s.ran q t e (fun j l => l.put r1 vm v.w (lone j).1)
        (((List.range e.vlen.toNat).filter (v.active vm)).foldl (fun a j => a ||| (lone j).2) 0) none)) ∧
    let c := s.myCtx
    let x := s.reg r1
    let v : Word := BitVec.ofNat 64 ((s.reg r2).toNat % 2 ^ 2 ^ (field x 19 17 + 1))
    let l := x.extractLsb' 0 10
    let parked (w : Wait) (m : Msg) : State := { s.setMe { s.me with wait := some w } with net := s.net ++ [m] }
    s.calm = true →
    ((s.ctx c).aborted = false → l.toNat ∉ (s.ctx c).preempted → (s.ctx c).route l.toNat = some p →
      field x 63 49 = 0 → field x 31 20 = 0 → field x 19 17 ≤ 5 → l.toNat < (s.ctx c).size →
      (bit x 15 = false → field x 48 32 < 65536 → completes (.send r1 r2) s fun t => t = parked .deposit (.deposit
        ⟨s.cur, s.str, false, c, l, (x.extractLsb' 10 3).toFin, x.extractLsb' 13 2, field x 48 32, [some v]⟩)) ∧
      (bit x 15 = true → completes (.send r1 r2) s fun t => t = parked .deposit (.red
        ⟨false, c, none, s.mine.lcore, some s.cur, s.str, l, bit x 16, v⟩))) ∧
    (field x 63 49 ≠ 0 ∨ field x 31 20 ≠ 0 ∨ 5 < field x 19 17 ∨ (s.ctx c).size ≤ l.toNat ∨
      bit x 15 = false ∧ 65536 ≤ field x 48 32 → s.me.tact = false →
      completes (.send r1 r2) s (s.tookTrap false 7 x s.me.pc)) ∧
    (x.toNat % 32 = 0 → s.memOk → s.waiters = [] → s.mine.server = none → s.mine.redHeld = [] → s.me.firing = none →
      s.place s.cur c s.isRuntime false x 32 .change = (.ok pl, s1) → region pl.pa = .spad s.cur off →
      s.isBad pl.pa 32 = false → recordOk (s.homeWord pl.pa) (s.homeWord (pl.pa + 24)) = true →
      completes (.rserve r1) s fun t => t.mine.server = some
          ⟨s.str, x, s.homeWord pl.pa, pl.pa + 8, pl.pa + 16, 0, [], [], false⟩ ∧
        t.isFull (pl.pa + 8) = false ∧ t.isFull (pl.pa + 16) = false ∧ t.me = { s.me with wait := some .server } ∧
        s.sameOthers t ∧ s.sameSpecial t ∧ s.sameData t)

/-- O42. Deposits, RED messages, STEAL, GIVE, FWD and WAKE do on their arrival what their rules say
(spec/05_launch_placement.md R95 to R99; R103; spec/02_execution_model.md R26; R27; spec/18_sync_isa.md R357; R358;
R359; R364). -/
def Obligations.MessagesTakeEffectOnArrival : Prop :=
  ∀ (s : State) (rest : List Msg) (d : Deposit) (m : RedMsg) (p q : CoreId) (c : CtxId) (thief pusher : BitVec 10)
    (so lo : Bool) (ps : List Pair) (x : Pair) (dev : BitVec 9) (v : Server) (reg w victim gen l : Nat) (vs : List Nat),
    let s0 : State := { s with net := rest }
    let k := s.core p
    let open' (c : CtxId) (l : Nat) (p : CoreId) : Prop :=
      (s.ctx c).aborted = false ∧ l ∉ (s.ctx c).preempted ∧ (s.ctx c).route l = some p
    let st := s.strand p d.strand
    let held := 256 * st.part.length
    let eligible (x : Pair) : Bool := if s0.pairClass p c x = .long then lo else so
    let n := min 8 ((k.bag.length + 1) / 2)
    let noneWaits (a : State) : Prop := ∀ t, (a.strand p t).wait ≠ some .pair
    (s.net = .deposit d :: rest → open' d.ctx d.lcore.toNat p → k.serves = some d.ctx → k.channels = [] →
      d.vector = false → (s.strand d.fromCore d.fromStrand).wait = some .deposit → st.halted = false →
      chanBinding st.chanmap d.ch = some (reg, w) → st.part.Nodup → mapWfFrom Lane.zero 0 k.lanes = true →
      (∀ j < d.elems.length, d.offset + j < held → (k.lane st.part (d.offset + j)).arrived.getLsbD d.ch.toNat = false) →
      completes (.channelDeposit d) s fun a =>
        (∀ i < held, (a.core p).lane st.part i =
          if d.offset ≤ i ∧ i < d.offset + d.elems.length then
            let l := k.lane st.part i
            let l1 := match d.elems.getD (i - d.offset) none with
              | some e => l.withRows (32 * reg) w e.toNat
              | none => l
            { l1 with arrived := l1.arrived ||| BitVec.ofNat 4 (2 ^ d.ch.toNat) }
          else k.lane st.part i) ∧
        (a.core p).channels = [] ∧ (a.strand p d.strand).latch = true ∧
        (a.strand d.fromCore d.fromStrand).wait = none ∧
        (a.strand d.fromCore d.fromStrand).pc = (s.strand d.fromCore d.fromStrand).pc + 4 ∧
        a.net = rest ∧ a.mem = s.mem) ∧
    (s.plat.ready = true → m.fromDev = some dev → m.fromCore = none → open' m.ctx m.lcore.toNat p →
      k.serves = some m.ctx →
      (k.server = none → (∀ y ∈ k.redHeld, y.fromCore = none) → completes (.redMessage m) s fun a =>
        a = s.setCore p { k with redHeld := k.redHeld ++ [m] }) ∧
      (k.server = some v → k.redHeld = [] → m.stop = false → v.waitingParent = false →
        (v.children.all fun (y : Nat × Nat × Nat × Word) =>
          !decide (y.1 = v.round ∧ y.2.1 = dev.toNat ∧ y.2.2.1 = m.fromLcore.toNat)) = true →
        ¬((v.locals.filter fun (y : Nat × Nat × Word) => decide (y.1 = v.round)).length = field v.rec0 31 24 ∧
          (v.children.filter fun (y : Nat × Nat × Nat × Word) => decide (y.1 = v.round)).length = field v.rec0 23 16) →
        (v.children.filter fun (y : Nat × Nat × Nat × Word) => decide (y.1 = v.round)).length + 1 ≠ field v.rec0 23 16 →
        completes (.redMessage m) s fun a => a = s.setCore p { k with
          server := some { v with children := v.children ++ [(v.round, dev.toNat, m.fromLcore.toNat, m.value)] } })) ∧
    (s.net = .steal p c l thief so lo :: rest → k.serves = some c → l ∉ (s.ctx c).preempted → k.deliveries = [] → k.bag ≠ [] →
      (s.ctx c).replay.running = 0 → open' c thief.toNat q →
      (k.bag.all eligible = true → completes (.steal p c thief so lo) s fun a =>
        a = { s.setCore p { k with bag := k.bag.drop n } with
          net := rest ++ [.give q c thief.toNat ((k.bag.take n).map fun (y : Pair) => pairMark y 1)] }) ∧
      (k.bag.any eligible = false → completes (.steal p c thief so lo) s fun a =>
        a = { s with net := rest ++ [.give q c thief.toNat []] })) ∧
    (s.net = .give p c l ps :: rest → k.serves = some c → k.lcore.toNat = l →
      (ps ≠ [] → k.deliveries = [] → k.bag.length + ps.length ≤ 1024 → (s.ctx c).hungrySet = [] →
        completes (.give p c ps) s fun a =>
          (a.core p).bag = k.bag ++ ps ∧ (a.core p).sweep = none ∧ (a.core p).asked = false ∧
          (a.core p).deliveries = [] ∧ (a.ctx c).gen = (s.ctx c).gen + ps.length ∧
          (a.ctx c).count = (s.ctx c).count ∧ noneWaits a ∧ a.net = rest ∧ a.mem = s.mem) ∧
      (ps = [] → k.asked = true → k.sweep = some ⟨victim :: vs, gen⟩ → open' c victim q → completes (.give p c ps) s fun a =>
        a = { s.setCore p { k with sweep := some ⟨vs, gen⟩ } with
          net := rest ++ [.steal q c victim k.lcore (k.canGrant .short) (k.canGrant .long)] })) ∧
    (s.net = .fwd p c l x :: rest → k.serves = some c → k.lcore.toNat = l → k.deliveries = [] → k.bag.length < 1024 →
      (s.ctx c).hungrySet = [] → completes (.fwd p c x) s fun a =>
        (a.core p).bag = pairMark x 2 :: k.bag ∧ (a.ctx c).gen = (s.ctx c).gen + 1 ∧
          (a.ctx c).count = (s.ctx c).count ∧ noneWaits a ∧ a.net = rest ∧ a.mem = s.mem) ∧
    (s.net = .wake p c l pusher :: rest → k.serves = some c → k.lcore.toNat = l → k.bag ≠ [] → completes (.wake p c pusher) s fun a =>
      (a.core p).hungry = false ∧ noneWaits a ∧ (a.core p).bag = k.bag ∧ a.net = rest ∧ a.mem = s.mem)

/-- O43. NTAKE, NHDR, NLINK, NSETH and NFREE write their words, the full/empty bits and NPOOL, and nothing else; an NLINK of two
principal ports pushes their pair too (spec/09_net_isa.md R181; R185; R186; R187; R188; R190; R191;
spec/02_execution_model.md R21; R23; R24). -/
def Obligations.PortWordInstructionsComplete : Prop :=
  ∀ (s s1 s2 : State) (rd r1 r2 : BitVec 5) (u v : Place),
    let a := s.reg r1
    let b := s.reg r2
    let old := s.homeWord u.pa
    let link (x : Word) : Nat := field x 4 3 * 2 ^ 44 + field x 47 5 * 2
    let sound (t : State) : Prop := s.sameStrand t ∧ s.sameOthers t ∧ s.wentOn t
    let k := s.ctx s.myCtx
    let linked (t : State) : Prop :=
      field (t.homeWord u.pa) 45 0 = link b ∧ field (t.homeWord u.pa) 63 46 = field (s.homeWord u.pa) 63 46 ∧
      field (t.homeWord v.pa) 45 0 = link a ∧ field (t.homeWord v.pa) 63 46 = field (s.homeWord v.pa) 63 46 ∧
      t.isFull u.pa = true ∧ t.isFull v.pa = true ∧
      ∀ x, onDevice x = true → x / 8 ≠ u.pa / 8 → x / 8 ≠ v.pa / 8 →
        t.peekHome x 1 = s.peekHome x 1 ∧ t.isFull x = s.isFull x
    s.calm = true → s.memOk → s.tlbOk → s.waiters = [] → s.retries = [] → onDevice u.pa = true →
    (a.toNat % 8 = 0 → s.nodeWord a.toNat .change = (.ok u, s1) → s.isBad u.pa 8 = false →
      (s.isFull u.pa = true → completes (.ntake rd r1) s fun t => sound t ∧ s.sameSpecial t ∧ s.regsWith rd old t ∧
        s.sameData t ∧ t.isFull u.pa = false ∧ s.sameFullBut u.pa t) ∧
      (s.isFull u.pa = false → s.watches = [] → completes (.ntake rd r1) s fun t => t.me = { s.me with wait := some .fullEmpty } ∧
        t.waiters = [⟨s.cur, s.str, u.pa, u.grain, .ntake rd⟩] ∧ s.sameOthers t ∧ s.sameData t ∧ t.isFull u.pa = false)) ∧
    (a.toNat % 32 = 0 → s.nodeWord a.toNat .peek = (.ok u, s1) → s.isBad u.pa 8 = false → s.isFull u.pa = true →
      completes (.nhdr rd r1) s fun t => sound t ∧ s.sameSpecial t ∧ s.regsWith rd old t ∧ s.sameBytes t) ∧
    (a.toNat % 8 = 0 → b.toNat % 8 = 0 → s.nodeWord a.toNat .change = (.ok u, s1) →
      s1.nodeWord b.toNat .change = (.ok v, s2) → onDevice v.pa = true → u.pa ≠ v.pa →
      s.isBad u.pa 8 = false → s.isBad v.pa 8 = false →
      ((field a 4 3 ≠ 0 ∨ field b 4 3 ≠ 0) → completes (.nlink r1 r2) s fun t =>
        sound t ∧ s.sameSpecial t ∧ s.sameRegs t ∧ linked t) ∧
      (field a 4 3 = 0 → field b 4 3 = 0 → s.mine.bag.length < 1024 → k.hungrySet = [] → k.replay.running = 0 →
        completes (.nlink r1 r2) s fun t => s.sameStrand t ∧ s.wentOn t ∧ s.sameSpecial t ∧ s.sameRegs t ∧ linked t ∧
          t.mine.bag = s.mine.bag ++ [⟨BitVec.ofNat 48 a.toNat, BitVec.ofNat 48 b.toNat, 0⟩] ∧
          (t.ctx s.myCtx).count = k.count + 1 ∧ (t.ctx s.myCtx).gen = k.gen + 1)) ∧
    (a.toNat % 32 = 0 → s.nodeWord a.toNat .change = (.ok u, s1) → s.isBad u.pa 8 = false →
      completes (.nseth r1 r2) s fun t => sound t ∧ s.sameSpecial t ∧ s.sameRegs t ∧
        field (t.homeWord u.pa) 63 50 = field b 63 50 ∧ field (t.homeWord u.pa) 49 48 = 0 ∧
        field (t.homeWord u.pa) 47 46 = field b 47 46 ∧ field (t.homeWord u.pa) 45 0 = field old 45 0 ∧
        s.sameDataBut u.pa 8 t ∧ ∀ x, onDevice x = true → t.isFull x = s.isFull x) ∧
    (a.toNat % 32 = 0 → s.nodeWord a.toNat .change = (.ok u, s1) →
      completes (.nfree r1) s fun t => sound t ∧ s.sameSpecial (t.setMine { t.mine with npool := s.mine.npool }) ∧
        s.sameRegs t ∧ t.mine.npool.toNat = a.toNat / 32 ∧ t.homeWord u.pa = BitVec.ofNat 64 (s.mine.npool.toNat * 2) ∧
        (∀ k ∈ [8, 16, 24], t.homeWord (u.pa + k) = 0) ∧ (∀ k ∈ [0, 8, 16, 24], t.isFull (u.pa + k) = true) ∧
        s.sameDataBut u.pa 32 t ∧ ∀ x, onDevice x = true → x / 32 ≠ u.pa / 32 → t.isFull x = s.isFull x)

/-- O44. NALLOC, NPUSH, NDONE and NEXT take nodes, push pairs, end firings and enter handlers as R29 orders
(spec/09_net_isa.md R178; R179; R182; R184; R189; R191; R192; spec/02_execution_model.md R26; R29; R31 to R33; R41;
spec/25_retirement.md R417). -/
def Obligations.NodesPairsAndFirings : Prop :=
  ∀ (s : State) (rd r1 r2 : BitVec 5) (pl : Place) (x : Pair) (bag : List Pair) (u v : Place) (w h : Word),
    let c := s.myCtx
    let k := s.ctx c
    let a := s.reg r1
    let b := s.reg r2
    let head := s.mine.npool.toNat * 32
    let pair (m : BitVec 4) : Pair := ⟨BitVec.ofNat 48 (a.toNat / 32 * 32), BitVec.ofNat 48 b.toNat, m⟩
    let pushed (t : State) (m : BitVec 4) (n : Word) : Prop := t.mine.bag = s.mine.bag ++ [pair m] ∧
      (t.ctx c).count = k.count + n ∧ (t.ctx c).gen = k.gen + 1 ∧ t.me = { s.me with pc := s.me.pc + 4 } ∧ t.mem = s.mem
    let h1 := s.homeWord u.pa
    let h2 := s.homeWord v.pa
    let swapped : Bool := decide (field h1 63 52 ≠ field h2 63 52) && decide (field h1 63 52 ≠ field w 63 52)
    let o := s.object c (field w 35 24)
    let fell (z : State) (q : BitVec 5) : Word :=
      if q = 26 ∨ q = 27 ∨ q = 28 then 0 else if q = 29 then BitVec.ofNat 64 (2 ^ 63) else z.reg q
    s.calm = true → s.memOk → s.tlbOk → s.waiters = [] → s.retries = [] → k.replay.running = 0 → k.notifyEn = false →
    (s.mine.npool ≠ 0 → s.me.progress = [] → onDevice pl.pa = true → s.isBad pl.pa 32 = false →
      (∀ j < 4, s.nodeWord (head + 8 * j) .change = (.ok { pl with pa := pl.pa + 8 * j }, s) ∧
        s.isFull (pl.pa + 8 * j) = true) →
      completes (.nalloc rd) s fun t => s.wentOn t ∧ s.regsWith rd (BitVec.ofNat 64 head) t ∧ s.sameOthers t ∧
        t.mine.npool = (s.homeWord pl.pa).extractLsb' 1 43 ∧
        (∀ j < 4, t.homeWord (pl.pa + 8 * j) = 0 ∧ t.isFull (pl.pa + 8 * j) = false) ∧ s.sameDataBut pl.pa 32 t ∧
        ∀ y, onDevice y = true → y / 32 ≠ pl.pa / 32 → t.isFull y = s.isFull y) ∧
    (b.toNat % 32 = 0 → nodeOk (a.toNat / 32 * 32) = true → nodeOk b.toNat = true → a.toNat / 4 % 8 = 0 →
      s.mine.bag.length < 1024 → k.hungrySet = [] →
      (a.toNat % 4 = 0 → completes (.npush r1 r2) s fun t => pushed t 0 1) ∧
      (a.toNat % 4 = 1 → completes (.npush r1 r2) s fun t => pushed t 2 0)) ∧
    (a.toNat / 4 % 8 = 0 → a.toNat % 4 = 2 → k.count - 1 ≠ 0 → completes (.npush r1 r2) s fun t =>
      t = (s.setCtx c { k with count := k.count - 1 }).setMe { s.me with pc := s.me.pc + 4 }) ∧
    (a.toNat / 4 % 8 = 0 → a.toNat % 4 = 2 → k.count = 1 → completes (.npush r1 r2) s fun t =>
      t.me = { s.me with pc := s.me.pc + 4 } ∧ (t.ctx c).count = 0 ∧ (t.ctx c).epoch = k.epoch + 1 ∧ t.mem = s.mem ∧
        ∀ (p : CoreId) (y : StrandId), (p, y) ≠ (s.cur, s.str) → (s.core p).serves = some c →
          (s.strand p y).wait = some .pair → (t.strand p y).wait = none ∧ (t.strand p y).pc = (s.strand p y).pc + 4 ∧
            ∀ q, (t.at p y).reg q = fell (s.at p y) q) ∧
    (s.me.firing = some x → s.mine.serves = some c → s.me.replay = [] → s.mine.laneReqs = [] →
      completes .ndone s fun t => t.me = { s.me with
          firing := none, resumed := false, rulePair := none, cls := .noLanes, part := [], vlen := 0
          pc := s.me.pc + 4 } ∧ (t.ctx c).count = k.count - 1 ∧ t.mem = s.mem ∧
        (t.ctx c).epoch = k.epoch + (if k.count = 1 then 1 else 0)) ∧
    (s.me.firing = none → s.me.replay = [] → s.mine.laneReqs = [] → completes .ndone s fun t => t.me = { s.me with
        resumed := false, rulePair := none, cls := .noLanes, part := [], vlen := 0, pc := s.me.pc + 4 } ∧
      t.ctx c = k ∧ t.mem = s.mem) ∧
    (s.me.firing = none → k.count = 0 → completes .next s fun t => s.wentOn t ∧ s.sameOthers t ∧ s.sameSpecial t ∧
      s.sameBytes t ∧ t.me.firing = none ∧ ∀ q, t.reg q = fell s q) ∧
    (s.me.firing = some x → ¬(s.me.nextAt = s.me.pc ∧ 3 ≤ s.me.nstep.toNat) →
      (k.count = 1 → completes .next s fun t => s.wentOn t ∧ t.me.firing = none ∧ (t.ctx c).count = 0 ∧
        (t.ctx c).epoch = k.epoch + 1 ∧ t.mem = s.mem ∧ ∀ q, t.reg q = fell s q) ∧
      (k.count - 1 ≠ 0 → s.mine.bag = [] → k.spills s.mine.lcore.toNat = 0 → completes .next s fun t =>
        t.me = { s.me with
          firing := none, resumed := false, rulePair := none, wait := some .pair, nstep := 2, nextAt := s.me.pc } ∧
        (t.ctx c).count = k.count - 1 ∧ (t.ctx c).epoch = k.epoch ∧ t.mem = s.mem ∧ s.sameOthers t)) ∧
    (s.me.firing = none → k.count ≠ 0 → s.mine.bag = [] → k.spills s.mine.lcore.toNat = 0 →
      completes .next s fun t => t.me = { s.me with wait := some .pair, nstep := 2, nextAt := s.me.pc } ∧
        t.mem = s.mem ∧ s.sameOthers t) ∧
    (s.me.firing = none → k.count ≠ 0 → s.mine.bag = bag ++ [x] → onDevice u.pa = true → onDevice v.pa = true →
      s.nodeWord x.node1.toNat .peek = (.ok u, s) → s.nodeWord x.node2.toNat .peek = (.ok v, s) →
      s.isFull u.pa = true → s.isFull v.pa = true → s.isBad u.pa 8 = false → s.isBad v.pa 8 = false →
      field h1 63 52 ≠ 0xffe → field h2 63 52 ≠ 0xffe → bit h1 51 = false → bit h2 51 = false →
      s.lookupRule s.cur c (field h1 63 52) (field h2 63 52) = (some (w, h), s) → o.valid = true →
      o.mask &&& ~~~s.mine.capmask = 0 → s.me.cls = (if field w 39 38 = 1 then .long else .short) →
      s.me.leaving = false →
      completes .next s fun t => t.me.pc = addr50 (h.extractLsb' 2 50) ∧ t.me.firing = some x ∧ t.me.resumed = false ∧
        t.me.nstep = 0 ∧ t.mine.bag = bag ∧ (t.ctx c).count = k.count ∧ s.sameOthers t ∧ s.sameSpecial t ∧ s.sameBytes t ∧
        ∀ q, t.reg q =
          if q = 26 then BitVec.ofNat 64 (if swapped then x.node2.toNat else x.node1.toNat)
          else if q = 27 then BitVec.ofNat 64 (if swapped then x.node1.toNat else x.node2.toNat)
          else if q = 28 then w
          else if q = 29 then BitVec.ofNat 64 ((if swapped then 16 else 0) + x.origin.toNat) else s.reg q)

/-- O45. NFWD, YIELD and RESUME hand on the pair, save the strand in 17 nodes, taken here or before, and restore it from them
(spec/09_net_isa.md R189; R193; R194; R195; R196; R197; spec/02_execution_model.md R39; R43). Which of the nodes heads the core's
list after RESUME (`npool`) is assumption 86, and that RESUME reads the nodes' words full or empty is assumption 31: both are the
model's choice. -/
def Obligations.ContinuationsAndForwards : Prop :=
  ∀ (s : State) (r1 : BitVec 5) (q : CoreId) (p : Pair) (f : Nat → Nat) (ns : List Nat) (pls : List Place),
    let c := s.myCtx
    let k := s.ctx c
    let x := s.reg r1
    let n (j : Nat) : Nat := ns.getD j 0
    let node (j : Nat) : Nat := f (n j)
    let at' (a : Nat) : Word := s.homeWord (f a)
    let slot (j : Nat) : Word := at' (n (2 + j / 3) + 8 + 8 * (j % 3))
    let w0 := at' (n 0)
    let w2 := at' (n 0 + 16)
    let o := s.object c (field w2 27 16)
    let h := match s.objectAt c s.me.pc.toNat with | some (h, _) => h | none => 0
    let nodesHeld : Prop := ns.length = 17 ∧ ns.Nodup ∧ (ns.map f).Pairwise (fun i j => i + 32 ≤ j ∨ j + 32 ≤ i) ∧
      pls = ns.map (fun a => Place.mk (f a) false 32) ∧
      ∀ a ∈ ns, a % 32 = 0 ∧ ∀ j < 4, onDevice (f a) = true ∧ f (a + 8 * j) = f a + 8 * j ∧
        s.nodeWord (a + 8 * j) .peek = (.ok ⟨f a + 8 * j, false, 32⟩, s) ∧
        s.nodeWord (a + 8 * j) .change = (.ok ⟨f a + 8 * j, false, 32⟩, s)
    s.calm = true → s.memOk → s.tlbOk → s.waiters = [] → s.retries = [] → k.replay.running = 0 → s.me.inNext = false →
    (s.me.resumed = false → s.me.firing = some p → x.toNat < k.size → k.aborted = false → x.toNat ∉ k.preempted →
      k.route x.toNat = some q → completes (.nfwd r1) s fun t => t = State.nextObtains
        { s.setMe { s.me with firing := none, rulePair := none, nstep := 2, nextAt := s.me.pc } with
          net := s.net ++ [.fwd q c x.toNat (pairMark p 2)] }) ∧
    (s.me.firing = none → s.me.tact = false → completes (.nfwd r1) s
      (s.tookTrap false 1 (((encode (.nfwd r1)).getD 0).zeroExtend 64) s.me.pc)) ∧
    (nodesHeld → s.me.readq = [] → (s.me.progressAt = s.me.pc ∧ s.me.progress.length = 85 ∧ nodesOf s.me.progress = ns ∨
        (s.me.progress = [] ∨ s.me.progressAt ≠ s.me.pc) ∧ s.mine.npool.toNat * 32 = n 0 ∧
          (∀ j < 17, s.isBad (node j) 32 = false ∧ ∀ i < 4, s.isFull (node j + 8 * i) = true) ∧
          ∀ j < 16, linkNode (at' (n j)) = n (j + 1)) →
      s.mine.bag.length < 1024 → k.hungrySet = [] → s.me.firing = some p → k.count ≠ 0 →
      completes .yield s fun t => ∃ b : State, t = b.nextObtains ∧
        (∀ j < 17, ∀ i < 4, b.isFull (node j + 8 * i) = true ∧ b.homeWord (node j + 8 * i) =
          (match (contNodes s.me s.str h ns).getD j (0, 0, 0, 0) with
            | (y0, y1, y2, y3) => [y0, y1, y2, y3].getD i 0)) ∧
        b.mine.bag = ⟨BitVec.ofNat 48 (n 0), BitVec.ofNat 48 (n 1), 0⟩ :: s.mine.bag ∧
        (b.ctx c).count = k.count ∧ b.me.firing = none ∧ b.me.progress = [] ∧ s.sameRegs b) ∧
    (nodesHeld → x.toNat = n 0 → n 0 % 32 = 0 → (∀ j < 17, s.isBad (node j) 32 = false) → field w0 63 52 = 0xffe →
      bit w0 50 = true → bit w0 0 = false → linkNode w0 = n 1 → field (at' (n 0 + 8)) 47 5 * 32 = n 2 →
      (∀ j < 14, linkNode (at' (n (2 + j))) = n (3 + j) ∧ bit (at' (n (2 + j))) 0 = false) → o.valid = true →
      o.mask &&& ~~~s.mine.capmask = 0 → s.me.cls = (if field w2 1 0 = 1 then .long else .short) →
      s.me.leaving = false → s.me.firing = none → s.me.readq = [] →
      completes (.resume r1) s fun t => (∀ j < 31, t.reg (BitVec.ofNat 5 (j + 1)) = slot j) ∧
        t.me.priv = w2.extractLsb' 2 2 ∧ t.me.pc = addr50 ((at' (n 0 + 24)).extractLsb' 2 50) ∧ t.me.vlen = 0 ∧
        t.me.tact = false ∧ t.me.resumed = true ∧
        t.me.firing = some ⟨BitVec.ofNat 48 (n 0), BitVec.ofNat 48 (n 1), 0⟩ ∧
        t.mine.npool.toNat * 32 = n 16 ∧ (∀ j < 17, ∀ i < 4, t.isFull (node j + 8 * i) = true))

/-- O46. CPY, CPY2D and CPYW are accepted with their fields, an engine moves the bytes, and the end is reported
(spec/15_copy_snapshot.md R310; R312 to R317; spec/07_scalar_isa.md R158). -/
def Obligations.CopiesAreAcceptedMovedAndEnded : Prop :=
  ∀ (s s1 : State) (rd r1 : BitVec 5) (pl src dst : Place) (q : Nat) (d : CopyDesc) (rest : List CopyDesc) (e : Fin 48)
    (st : Nat) (p : CoreId),
    let x := s.reg r1
    let w (i : Nat) : Word := s.homeWord (pl.pa + 8 * i)
    let cmp : Option Nat := if w 3 = 0 then none else some q
    let entry (two : Bool) (toReg : Option (BitVec 5)) : CopyDesc :=
      { id := s.nextDesc + 1, ctx := s.myCtx, core := s.cur, lcore := s.mine.lcore.toNat, strand := s.str, ptroot := s.mine.ptroot
        background := bit (w 2) 63, stream := false, toReg := toReg, src := field (w 0) 55 0, dst := field (w 1) 55 0
        len := field (w 2) 39 0, rows := if two then field (w 4) 31 0 else 1
        sstride := if two then (w 5).toInt else 0, dstride := if two then (w 6).toInt else 0
        comp := cmp, sbKey := none, done := 0, slotOpen := false, down := false
        status := if field (w 2) 39 0 * (if two then field (w 4) 31 0 else 1) = 0 then some 0 else none }
    let reads (n : Nat) : Prop := x.toNat % n = 0 ∧ s.place s.cur s.myCtx s.isRuntime false x n .read = (.ok pl, s1) ∧
      onDevice pl.pa = true ∧ s.isBad pl.pa n = false ∧ field (w 0) 63 56 = 0 ∧ field (w 1) 63 56 = 0 ∧
      field (w 2) 61 40 = 0 ∧ bit (w 2) 62 = false ∧ (w 3 = 0 ∨ s1.compPlace (w 3) = some q)
    let apart (y : CopyDesc) : Prop := y.total = 0 ∨
      (streamRange y.src y.sstride y.len y.rows).2 ≤ (streamRange y.dst y.dstride y.len y.rows).1 ∨
      (streamRange y.dst y.dstride y.len y.rows).2 ≤ (streamRange y.src y.sstride y.len y.rows).1
    let accepted (y : CopyDesc) (a : State) : Prop := a.descs = s.descs ++ [y] ∧ a.nextDesc = s.nextDesc + 1 ∧
      s.sameOthers a ∧ s.sameSpecial a ∧ s.sameData a ∧ (w 3 ≠ 0 → a.isFull q = false)
    let slots : Prop := (s.descs.filter fun (y : CopyDesc) => decide (y.core = s.cur)).length < 16
    let d' : CopyDesc := { d with down := if d.done = 0 then s.rowsDown d else d.down }
    let s0 := s.setDesc d'
    let n := d'.piece (d'.at d'.src d'.sstride) (d'.at d'.dst d'.dstride)
    let issuer := s.strand p d.strand
    let value : Word := BitVec.ofNat 64 (st * 2 ^ 60 + (if d.down = true ∧ st ≠ 0 then 0 else d.done % 2 ^ 48))
    (s.calm = true → s.memOk → s.tlbOk → s.waiters = [] → s.me.progress = [] → slots →
      (reads 32 → apart (entry false none) → completes (.cpy r1) s fun t =>
        accepted (entry false none) t ∧ t.me = { s.me with pc := s.me.pc + 4 }) ∧
      (reads 32 → apart (entry false (some rd)) → completes (.cpyw rd r1) s fun t =>
        accepted (entry false (some rd)) t ∧ t.me = { s.me with wait := some (.copyEnd (s.nextDesc + 1)) }) ∧
      (reads 64 → field (w 4) 63 32 = 0 → w 7 = 0 → apart (entry true none) → completes (.cpy2d r1) s fun t =>
        accepted (entry true none) t ∧ t.me = { s.me with pc := s.me.pc + 4 })) ∧
    (s.calm = true → s.me.tact = false → (x.toNat % 32 ≠ 0 → completes (.cpy r1) s (s.tookTrap false 9 x s.me.pc) ∧
        completes (.cpyw rd r1) s (s.tookTrap false 9 x s.me.pc)) ∧
      (x.toNat % 64 ≠ 0 → completes (.cpy2d r1) s (s.tookTrap false 9 x s.me.pc))) ∧
    (s.memOk → s.descs = [d] → s.ext = [] → s.snap = none → s.comb = [] → s.badCopies = [] → d.core.val / 8 = e.val →
      d.background = false → d.sbKey = none → d.slotOpen = false → d.status = none → d.done < d.total →
      s0.enginePlace d' (d'.at d'.src d'.sstride) false = (.ok src, s0) →
      s0.enginePlace d' (d'.at d'.dst d'.dstride) true = (.ok dst, s0) →
      onDevice src.pa = true → onDevice dst.pa = true → s.isBad src.pa n = false →
      completes (.enginePiece e) s fun t => 0 < n ∧ n ≤ 64 ∧ s.sameBytesBut dst.pa n t ∧
        t.peekHome dst.pa n = s.peekHome src.pa n ∧
        t.descs = [{ d' with done := d.done + n, status := if d.total ≤ d.done + n then some 0 else none }]) ∧
    (s.memOk → s.descs = d :: rest → (∀ y ∈ rest, y.id ≠ d.id) → s.ext = [] → s.waiters = [] → s.comb = [] →
      d.status = some st → s.serverOf d.ctx d.lcore = some p → issuer.halted = false →
      (∀ pa, d.comp = some pa → pa % 8 = 0 ∧ ∃ z off, region pa = .spad z off ∧ (s.spadFor d.ctx z off).isSome = true) →
      completes (.copyComplete d.id) s fun t => t.descs = rest ∧ (t.strand p d.strand).latch = true ∧
        (∀ pa, d.comp = some pa → t.homeWord pa = value ∧ t.isFull pa = true ∧ s.sameDataBut pa 8 t) ∧
        (d.comp = none → s.sameData t) ∧
        ∀ r, d.toReg = some r → issuer.wait = some (.copyEnd d.id) → (t.strand p d.strand).wait = none ∧
          (t.strand p d.strand).pc = issuer.pc + 4 ∧ (r ≠ 0 → (t.strand p d.strand).x[r.toFin] = value))

/-- O47. SBINIT starts and ends a stream buffer, SBWAIT waits for filled slots, and SBADV moves its counters
(spec/15_copy_snapshot.md R320 to R324; spec/07_scalar_isa.md R158). That SBINIT looks at the slots as a reader (`oneWindow`) is
assumption 48, and that a release sets the latches of the users too is assumption 79: both are the model's choice. -/
def Obligations.StreamBuffersCountTheirSlots : Prop :=
  ∀ (s s1 : State) (r1 r2 : BitVec 5) (key : Nat) (b : StreamBuf) (pl : Place) (win : CoreId) (first : Nat),
    let x := s.reg r1
    let y := s.reg r2
    let h := field x 5 0
    let k := field y 8 0
    let w (i : Nat) : Word := s.homeWord (pl.pa + 8 * i)
    let slots := field (w 1) 23 16 + 1
    let size := (field (w 1) 13 0 + 1) * 64
    let quiet (t : State) : Prop := s.sameRegs t ∧ s.sameSpecial t ∧ s.sameBytes t
    let latched (t : State) : Prop := ∀ u ∈ b.users, ∀ p, s.serverOf u.1 u.2.1 = some p →
      (s.strand p u.2.2).halted = false → (t.strand p u.2.2).latch = true
    let told (n : Nat) (t : State) : Prop := latched t ∧ ∀ (p : CoreId) (u : StrandId) (z : Word),
      (s.core p).serves ≠ none → (s.strand p u).wait = some (.sbuf key z) →
        if field z 16 8 ≤ n then (t.strand p u).wait = none ∧ (t.strand p u).pc = (s.strand p u).pc + 4
        else (t.strand p u).wait = some (.sbuf key z) ∧ (t.strand p u).pc = (s.strand p u).pc
    let entryRead : Prop := field x 63 6 = 0 ∧ bit y 0 = false ∧ s.tlbOk ∧ s.me.progress = [] ∧ s.sbufAt key = none ∧
      s.place s.cur s.myCtx s.isRuntime false (BitVec.ofNat 64 (s.me.sbbase.toNat * 2048 + 32 * h)) 32 .read = (.ok pl, s1) ∧
      onDevice pl.pa = true ∧ s.isBad pl.pa 32 = false ∧ field (w 0) 63 56 = 0 ∧ field (w 0) 5 0 = 0 ∧
      field (w 1) 63 24 = 0 ∧ field (w 1) 15 14 = 0 ∧ w 2 = 0 ∧ w 3 = 0 ∧
      s1.oneWindow (field (w 0) 55 6 * 64) (slots * size) = some (win, first)
    let here := (s.sbufs.filter fun (z : StreamBuf) => decide (z.core = win ∧ !z.away)).length
    let parked (p : CoreId) (u : StrandId) : Prop := (s.core p).serves ≠ none ∧ ∃ z, (s.strand p u).wait = some (.sbuf key z)
    (s.me.tact = false → (field x 63 6 ≠ 0 → completes (.sbinit r1 r2) s (s.tookTrap false 7 x s.me.pc)) ∧
      (field x 63 17 ≠ 0 ∨ field x 7 6 ≠ 0 → completes (.sbwait r1) s (s.tookTrap false 7 x s.me.pc))) ∧
    (s.calm = true → s.sbKey s.cur s.str h = some key →
    (entryRead → here < 64 →
      completes (.sbinit r1 r2) s fun t => quiet t ∧ s.wentOn t ∧ t.sbufs = s.sbufs ++
        [⟨key, win, s.myCtx, field (w 0) 55 6 * 64, slots, size, 0, slots, 0, 0, [s.userOf s.cur s.str], first, false⟩]) ∧
    (entryRead → 64 ≤ here → s.me.tact = false →
      completes (.sbinit r1 r2) s (s1.tookTrap false 7 (x ||| BitVec.ofNat 64 (2 ^ 63)) s.me.pc)) ∧
    (field x 63 6 = 0 → bit y 0 = true → s.sbufAt key = none → completes (.sbinit r1 r2) s (s.jumped 0 0 (s.me.pc + 4))) ∧
    (field x 63 6 = 0 → bit y 0 = true → s.sbufAt key = some b → (∀ p u, parked p u → (s.strand p u).tact = false) →
      (∀ p u, s.parkedVldsb p u b = none) → completes (.sbinit r1 r2) s fun t =>
      quiet t ∧ s.wentOn t ∧ t.sbufAt key = none ∧ latched t ∧
        (∀ p u, parked p u → (t.strand p u).cause = 7 ∧ (t.strand p u).tepc = (s.strand p u).pc.extractLsb' 2 50 ∧
          (t.strand p u).pc = addr50 (s.strand p u).trapvec ∧ (t.strand p u).tact = true) ∧
        ∀ d ∈ s.descs, d.sbKey = some key → d.status = none → { d with status := some 8 } ∈ t.descs) ∧
    (s.sbufAt key = some b → field x 63 17 = 0 → field x 7 6 = 0 → field x 16 8 ≤ b.slots →
      completes (.sbwait r1) s fun t => quiet t ∧
        (∃ z, t.sbufAt key = some z ∧ s.userOf s.cur s.str ∈ z.users ∧ z = { b with users := z.users }) ∧
        t.me = if field x 16 8 ≤ b.filled then { s.me with pc := s.me.pc + 4 }
          else { s.me with wait := some (.sbuf key x) }) ∧
    (s.me.tact = false → field x 63 17 = 0 → field x 7 6 = 0 →
      (s.sbufAt key = none ∨ (s.sbufAt key = some b ∧ b.slots < field x 16 8)) →
      completes (.sbwait r1) s (s.tookTrap false 7 x s.me.pc)) ∧
    (s.sbufAt key = some b → k = 0 → completes (.sbadv r1 r2) s (s.jumped 0 0 (s.me.pc + 4))) ∧
    (s.sbufAt key = some b → bit y 63 = false → 0 < k → k ≤ b.filled → completes (.sbadv r1 r2) s fun t =>
      quiet t ∧ s.wentOn t ∧ told (b.filled - k) t ∧ t.sbufAt key =
        some { b with rp := (b.rp + k) % b.slots, free := b.free + k, filled := b.filled - k }) ∧
    (s.sbufAt key = some b → bit y 63 = true → 0 < k → k ≤ b.free → completes (.sbadv r1 r2) s fun t =>
      quiet t ∧ s.wentOn t ∧ told (b.filled + k) t ∧ t.sbufAt key =
        some { b with wp := (b.wp + k) % b.slots, free := b.free - k, filled := b.filled + k }) ∧
    (s.me.tact = false → s.sbufAt key = some b → (if bit y 63 then b.free else b.filled) < k →
      completes (.sbadv r1 r2) s (s.tookTrap false 7 y s.me.pc)) ∧
    (s.me.tact = false → s.sbufAt key = none → completes (.sbadv r1 r2) s (s.tookTrap false 7 x s.me.pc)))

/-- O48. SNAP and SNAPCMD start a snapshot or say why not, SNAP_COMPLETE ends it, PUBLISH places an object and OBJFREE frees one
(spec/15_copy_snapshot.md R325 to R327; spec/04_code_objects.md R72; R74; R77; R79). -/
def Obligations.SnapshotsAndCodeObjects : Prop :=
  ∀ (s s1 : State) (rd r1 : BitVec 5) (pl : Place) (v : Word) (n : Snapshot) (ws : List Word) (k a : Nat),
    let x := s.reg r1
    let c := s.myCtx
    let pass := s.me.progress
    let h := objHeader pass
    let base := (s.ctx c).entry.arenaBase
    let o := s.object c (field x 11 0)
    let fits (ws : List Word) : Prop :=
      let w (i : Nat) : Word := ws.getD i 0
      ws.length = 8 ∧ (∀ i, 4 ≤ i → i < 8 → w i = 0) ∧ w 0 = BitVec.ofNat 64 n.src ∧ w 1 = BitVec.ofNat 64 n.len ∧
        w 2 = BitVec.ofNat 64 n.dst ∧ w 3 = BitVec.ofNat 64 n.comp ∧ n.src % 4096 = 0 ∧ n.len % 4096 = 0 ∧
        n.dst % 4096 = 0 ∧ n.comp % 8 = 0 ∧ n.len ≠ 0 ∧ n.src + n.len ≤ feBase ∧
        (n.dst + n.len ≤ feBase ∨ (2 ^ 50 ≤ n.dst ∧ n.dst + n.len ≤ 2 ^ 51)) ∧
        (n.comp = 0 ∨ onDevice n.comp = true) ∧ (n.src + n.len ≤ n.dst ∨ n.dst + n.len ≤ n.src) ∧ n.copied = [] ∧
        n.failed = none
    let refused (ws : List Word) : Prop :=
      let w (i : Nat) : Nat := (ws.getD i 0).toNat
      (∃ i, 4 ≤ i ∧ i < 8 ∧ w i ≠ 0) ∨ w 0 % 4096 ≠ 0 ∨ w 1 % 4096 ≠ 0 ∨ w 2 % 4096 ≠ 0 ∨ w 3 % 8 ≠ 0 ∨ w 1 = 0 ∨
        feBase < w 0 + w 1 ∨ ¬(w 2 + w 1 ≤ feBase ∨ (2 ^ 50 ≤ w 2 ∧ w 2 + w 1 ≤ 2 ^ 51)) ∨
        (w 3 ≠ 0 ∧ onDevice (w 3) = false) ∨ (w 0 < w 2 + w 1 ∧ w 2 < w 0 + w 1)
    let gives (code : Nat) (t : State) : Prop := t.snap = s.snap ∧ t.gen = s.gen ∧ t.snapCode = BitVec.ofNat 8 code ∧
      s.wentOn t ∧ s.regsWith rd (BitVec.ofNat 64 code) t ∧ s.framed t ∧ s.sameBytes t
    let reads : Prop := s.isRuntime = true ∧ ({ s with snap := none } : State).calm = true ∧ s.tlbOk ∧ s.me.progress = [] ∧ x.toNat % 64 = 0 ∧
      s.place s.cur c true false x 64 .read = (.ok pl, s1) ∧ onDevice pl.pa = true ∧ s.isBad pl.pa 64 = false ∧
      ws = (List.range 8).map fun i => s.homeWord (pl.pa + 8 * i)
    (reads → (s.snap ≠ none → completes (.snap rd r1) s (gives 1)) ∧
      (s.snap = none → refused ws → completes (.snap rd r1) s (gives 2))) ∧
    (reads → s.snap = none → fits ws → completes (.snap rd r1) s fun t => t.snap = some n ∧ t.gen = !s.gen ∧ t.snapCode = 0 ∧
      s.wentOn t ∧ s.regsWith rd 0 t ∧ s.framed t ∧ s.sameBytes t) ∧
    (s.plat.ready = true → v.toNat % 64 = 0 → onDevice v.toNat = true → s.isBad v.toNat 64 = false →
      ws = (List.range 8).map (fun i => s.homeWord (v.toNat + 8 * i)) →
      (s.snap = none → fits ws → completes (.snapcmd v) s fun t =>
        t = { s with snap := some n, gen := !s.gen, snapCode := 0 }) ∧
      (s.snap = none → refused ws → completes (.snapcmd v) s fun t => t = { s with snapCode := 2 }) ∧
      (s.snap ≠ none → completes (.snapcmd v) s fun t => t = { s with snapCode := 1 })) ∧
    (s.snap = some n → s.ext = [] → (∀ b < n.len / 512, n.src / 512 + b ∈ n.copied) → n.comp = 0 →
      completes .snapComplete s fun t => t = { s with snap := none }) ∧
    (s.memOk → s.snap = some n → s.ext = [] → s.waiters = [] → s.comb = [] → s.badCopies = [] → n.comp % 8 = 0 →
      onDevice n.comp = true → n.comp ≠ 0 → s.engineRefused n.comp = false →
      (∀ z off, region n.comp = .spad z off → ((s.core z).spadPlace off).isSome = true) →
      (∀ b < n.len / 512, n.src / 512 + b ∈ n.copied) → completes .snapComplete s fun t => t.snap = none ∧
        t.isFull n.comp = true ∧ s.sameDataBut n.comp 8 t ∧ t.homeWord n.comp = match n.failed with
          | some (y, z) => BitVec.ofNat 64 (z * 2 ^ 60 + y % 2 ^ 48)
          | none => BitVec.ofNat 64 (n.len % 2 ^ 48)) ∧
    (s.calm = true → s.memOk → x.toNat % 8 = 0 → s.me.progressAt = s.me.pc → 8 ≤ pass.length →
      wordRefusal s.isRuntime pass (pass.length - 1) = none → h.size ≤ 8 * pass.length → h.size < 2 ^ 32 →
      h.level ≤ Config.deviceLevel → h.kind ≤ 1 →
      (List.range 4095).find? (fun j => !(s.object c (j + 1)).valid) = some k → s.freePlace c h.size = some a →
      base + 131072 ≤ a → a + h.size ≤ feBase → a - base < 2 ^ 32 →
      completes (.publish rd r1) s fun t => s.wentOn t ∧ s.regsWith rd (BitVec.ofNat 64 (k + 1)) t ∧ s.sameOthers t ∧
        t.object c (k + 1) = ⟨true, h.level, decide (h.kind = 1), a, h.size, objMask h pass⟩ ∧
        t.peekHome a h.size = (pass.flatMap fun y => leBytes 8 y.toNat).take h.size ∧
        ∀ y, onDevice y = true → (y < a ∨ a + h.size ≤ y) →
          (y < base + 32 * (k + 1) ∨ base + 32 * (k + 1) + 32 ≤ y) → t.peekHome y 1 = s.peekHome y 1) ∧
    (s.isRuntime = true → (field x 63 12 ≠ 0 ∨ o.valid = false) → completes (.objfree rd r1) s (s.wrote rd 1)) ∧
    (s.isRuntime = true → s.snap = none → s.comb = [] → s.badCopies = [] → s.memOk → field x 63 12 = 0 → o.valid = true → base + 131072 ≤ feBase →
      base + 131072 ≤ o.base → o.base + o.size ≤ feBase → completes (.objfree rd r1) s fun t => s.wentOn t ∧
        s.regsWith rd 0 t ∧ (t.object c (field x 11 0)).valid = false ∧
        (∀ (p : CoreId) (u : StrandId), (p, u) ≠ (s.cur, s.str) → t.strand p u = (s.strand p u).dropLines o.base o.size) ∧
        ∀ j < o.size / 4 * 4, t.peekHome (o.base + j) 1 = [0])

/-- O49. Writes to pool boundaries, CTXREFRESH, YREQ, TLBINV, XREDGRP, DEVNUM and plain registers do what their rules say
(spec/13_memory_hierarchy.md R264; R265; R283; spec/05_launch_placement.md R87; R90; spec/08_fetch_issue.md R172;
spec/18_sync_isa.md R355; R360; spec/26_device_boundary.md R430; spec/25_retirement.md R418; spec/27_physical.md R445;
spec/07_scalar_isa.md R158). -/
def Obligations.RegisterWritesTakeEffect : Prop :=
  ∀ (s : State) (p : CoreId) (c : CtxId) (g : Fin 16) (v : Word) (r : PoolCsr) (op : CsrOp),
    let k := s.ctx c
    let old : Word := (match r with | .v => s.mine.poolV | .s => s.mine.poolS | .c => s.mine.poolC).zeroExtend 64
    let new : BitVec 5 := (match op with | .write => v | .set => old ||| v | .clear => old &&& ~~~v).extractLsb' 0 5
    let nv := if r = .v then new else s.mine.poolV
    let ns := if r = .s then new else s.mine.poolS
    let nc := if r = .c then new else s.mine.poolC
    let changed (w : Nat) : Prop := s.mine.modeOf w ≠ wayMode nv.toNat ns.toNat nc.toNat w
    let e := s.readEntry c
    let e1 := if e.saveSize < saveMin then { e with saveBase := k.entry.saveBase, saveSize := k.entry.saveSize } else e
    let table (a : Nat) : List (Option Nat) := (List.range (e1.width * e1.height)).map (s.coreEntry a)
    let quiet : Prop := s.hostHeld = [] ∧ s.accessesLeft c = false ∧ ∀ (q : CoreId) (u : StrandId),
      (s.core q).serves = some c → (s.strand q u).relaxed = [] ∧ (s.strand q u).head = none
    let kept (f : TlbEntry → Bool) (g : NodeEntry → Bool) (t : State) : Prop := t.mem = s.mem ∧
      ∀ q : CoreId, t.core q = { s.core q with tlb := (s.core q).tlb.filter f, nodes := (s.core q).nodes.filter g }
    let page := field v 55 12 * 4096
    let next : BitVec 9 := v.extractLsb' 9 9
    let prev : BitVec 9 := v.extractLsb' 0 9
    let reg (off : Nat) : Instr := .registerWrite (BitVec.ofNat 32 off) v
    let now := s.issued s.cur s.str
    let about (w : IWord) (i : Instr) : Prop := s.atHand = some w ∧ decode w = .ok i ∧ s.poolWrite i = some (r, op, v) ∧
      s.mayIssue s.cur s.str w i = true ∧ s.me.spoiled i = none
    (∀ w i, about w i → s.isRuntime = true → s.waiters = [] → s.retries = [] → s.mine.copies = [] →
      s.windowDirty s.cur = false → new.toNat ≤ 16 → nv ≤ ns → ns ≤ nc →
      (∀ n < 16, changed n → s.mine.wayHeld n = false) →
      (∀ w : Fin 16, foreignTag s.mine.wayTag[w] s.mine.serves = false) →
      completes (.poolCsrWrite r op v) s fun t => t.mine.poolV = nv ∧ t.mine.poolS = ns ∧ t.mine.poolC = nc ∧
        s.wentOn t ∧ s.sameRegs t ∧ ∀ w < 16, changed w → (∀ x ∈ t.mine.lanes, x.1 / 4096 ≠ w) ∧
          (∀ x ∈ t.mine.spad, x.1 / 2 ^ 20 ≠ w) ∧ ∀ x ∈ t.mine.spadFull, x / 2 ^ 17 ≠ w) ∧
    (∀ w i, about w i → s.me.tact = false →
      (s.isRuntime = true → (16 < new.toNat ∨ ns < nv ∨ nc < ns) →
        completes (.poolCsrWrite r op v) s (now.tookTrap false 1 v s.me.pc)) ∧
      (s.isRuntime = false → completes (.poolCsrWrite r op v) s (now.tookTrap false 1 (w.zeroExtend 64) s.me.pc))) ∧
    (s.atHand = none → completes (.poolCsrWrite r op v) s fun t => t = s) ∧
    completes (reg 0x20008) s (fun t => t = { s with plat := { s.plat with
      lastTrip := if bit v 61 then false else s.plat.lastTrip } }) ∧
    (s.plat.ready = true →
      (s.net = [] → s.hostHeld = [] → k.heldMsgs = [] → k.cores = table e1.coretab → k.resuming = [] → k.pWait = none →
        completes (.ctxrefresh c) s fun t =>
        t.ctx c = { k with
          entry := e1, cores := k.cores, routes := table e1.routetab, launched := true
          caproutes := (List.range 128).map fun i => s.homeWord (e1.caproute + 8 * i) } ∧ t.mem = s.mem ∧
        ∀ q : CoreId, (s.core q).serves = some c → (t.core q).rules = []) ∧
      completes (.yreqWrite p v) s (fun t => (t.core p).yreq = v.extractLsb' 0 8 ∧
        (∀ q : CoreId, q ≠ p → t.core q = s.core q) ∧ ∀ u : StrandId, t.strand p u =
          if bit v u.val && !(s.strand p u).halted then { s.strand p u with latch := true } else s.strand p u) ∧
      (quiet → completes (.tlbinvAll c) s (kept (fun x => decide (x.ctx ≠ c)) fun x => decide (x.ctx ≠ c)) ∧
        completes (.tlbinvVpn c v) s (kept (fun x => !decide (x.ctx = c ∧ x.base ≤ page ∧ page < x.base + x.size))
          fun x => !decide (x.ctx = c ∧ x.index = page / 2 ^ (12 + 9 * x.level)))) ∧
      completes (.xredgrpWrite g v) s (fun t => t = { s with chains := s.chains.set g { s.chains[g] with
        valid := bit v 63 && (bit v 18 || decide (prev < s.devnum)) && (bit v 19 || decide (s.devnum < next))
        last := bit v 19, first := bit v 18, next := next, prev := prev } }) ∧
      ((∀ d : CtxId, (s.ctx d).entry.valid = false) →
        completes (.devnumWrite v) s fun t => t = { s with devnum := v.extractLsb' 0 9 }) ∧
      ((∃ d : CtxId, (s.ctx d).entry.valid = true) → completes (.devnumWrite v) s fun t => t = s) ∧
      completes (reg 0) s (fun t => t = { s with ctxtbase := v.extractLsb' 14 38 }) ∧
      completes (reg (0x5000 + 8 * p.val)) s (fun t => t = s.setCore p { s.core p with
        waitTrap := bit v 63, waitLimit := v.extractLsb' 0 32 }) ∧
      completes (reg (0xb400 + 8 * c.val)) s (fun t => t = s.setCtx c { k with
        notifyEn := bit v 63, notifyAddr := v.extractLsb' 3 49 }))

/-- O50. LAUNCH raises the count and pushes its seeds, a stopped one goes on, and a core takes a waiting context up
(spec/05_launch_placement.md R88; R91 to R93; spec/02_execution_model.md R26; R27; R32; spec/25_retirement.md R416;
R418). The order of the refusals (assumption 40), the moment a seed is read (75), the save area that a refused launch leaves (77)
and the saddlebag and node list of a take-up (46) are the model's choice. -/
def Obligations.LaunchesPushTheirSeeds : Prop :=
  ∀ (s : State) (c : CtxId) (v : Word) (p : CoreId) (x : Launching) (l : Nat),
    let k := s.ctx c
    let e := s.readEntry c
    let h := s.homeWord v.toNat
    let n := field h 15 0
    let core := s.core p
    let roomFor (m : Nat) : Prop := k.aborted = false ∧ 0 ∉ k.preempted ∧ k.route 0 = some p ∧ core.serves = some c ∧
      core.lcore = 0 ∧
      core.bag.length + m ≤ 1024 ∧ k.hungrySet = []
    let ended (list first m : Nat) (t : State) : Prop :=
      (t.core p).bag = core.bag ++ (List.range m).map (fun j => s.seed list (first + j)) ∧ (t.ctx c).lBusy = false ∧
      (t.ctx c).lDone = true ∧ (t.ctx c).launching = none ∧ (t.ctx c).gen = k.gen + m ∧ t.mem = s.mem ∧
      (0 < m → ∀ u : StrandId, (t.strand p u).wait ≠ some .pair)
    (s.plat.ready = true → k.aborted = false → k.rBusy = false → k.lBusy = false → k.launched = true →
      (e.valid = true → v.toNat % 16 = 0 → 1 ≤ e.poolV.toNat → e.poolV.toNat + 2 ≤ e.poolS.toNat →
        saveMin ≤ e.saveSize → inHbm v.toNat (16 + 16 * n) = true → s.listOk v.toNat n = true →
        s.isBad v.toNat (16 + 16 * n) = false → k.replay.mode = 0 → k.replay.running = 0 → k.heldMsgs = [] →
        bit h 31 = true → (∀ y ∈ k.cores, ∀ q, y.bind coreOf = some q → (s.core q).serves = some c) → roomFor n →
        completes (.launch c v) s fun t => ended v.toNat 0 n t ∧ (t.ctx c).count = k.count + BitVec.ofNat 64 n ∧
          (t.ctx c).lErr = 0 ∧ (t.ctx c).lPushed = BitVec.ofNat 16 n ∧ (t.ctx c).entry = e) ∧
      (e.valid = false → completes (.launch c v) s fun t => t = s.setCtx c { k with
        entry := { e with saveBase := k.entry.saveBase, saveSize := k.entry.saveSize }
        lDone := false, lErr := 1, lPushed := 0 })) ∧
    (s.plat.ready = true → k.aborted = false → k.rBusy = false → k.lBusy = true →
      completes (.launch c v) s fun t => t = s.setCtx c { k with lLost := true }) ∧
    (k.launching = some x →
      (x.ready = true → x.one = true → x.next ≤ x.n → roomFor (x.n - x.next) →
        completes (.launchDistributionResume c) s fun t => ended x.list x.next (x.n - x.next) t ∧
          (t.ctx c).count = k.count) ∧
      (x.ready = false → completes (.launchDistributionResume c) s fun t => t = s)) ∧
    (k.lcoreOf p = some l → core.copies = [] → s.windowDirty p = false → (∀ y ∈ s.loose, y.1 ≠ p) → s.waiters = [] →
      s.retries = [] → core.serves = none → c ∈ core.wants → k.aborted = false → k.entry.valid = true →
      l ∉ k.preempted → k.heldMsgs = [] → (∀ w : Fin 16, foreignTag core.wayTag[w] (some c) = false) →
      completes (.coreTakeUp p c) s fun t => (t.core p).serves = some c ∧ (t.core p).lcore = BitVec.ofNat 10 l ∧
        (t.core p).ptroot = k.entry.ptroot ∧ (t.core p).poolV = k.entry.poolV ∧ (t.core p).poolS = k.entry.poolS ∧
        (t.core p).poolC = k.entry.poolC ∧ (t.core p).npool = core.npool ∧ (t.core p).bag = [] ∧ c ∉ (t.core p).wants ∧
        ∀ u : StrandId, let st := s.strand p u
          let starts := st.halted && !st.dbgHalted && decide (st.trapvec ≠ 0)
          (t.strand p u).halted = (st.halted && !starts) ∧ (t.strand p u).x = st.x ∧
          (t.strand p u).pc = (if starts then addr50 st.trapvec else st.pc) ∧
          (t.strand p u).priv = (if starts then 1 else st.priv) ∧ (t.strand p u).tact = (st.tact && !starts))

/-- O51. PREEMPT_NOTIFY marks the strands, PREEMPT_SAVE saves a core at rest, and CTXRUN and its retry restore it
(spec/22_interruption.md R390 to R394; R396; R403). That ERR 6 comes before the other checks (assumption 40) and that a strand
a debugger has halted takes no PREEMPT (assumption 41) are the model's choice. -/
def Obligations.PreemptionsSaveAndResume : Prop :=
  ∀ (s : State) (c : CtxId) (v : Word) (p : CoreId),
    let k := s.ctx c
    let l := field v 9 0
    let note := v ||| BitVec.ofNat 64 (2 ^ 63)
    let core := s.core p
    let base := k.entry.saveBase + l * k.entry.saveSize
    let rec' (u : StrandId) (off : Nat) : Word := s.homeWord (base + 0x2000 * u.val + off)
    let free : Prop := k.rBusy = false ∧ k.pBusy = false ∧ k.entry.valid = true ∧ k.aborted = false ∧ k.launching = none
    let resumed (t : State) : Prop := (t.core p).serves = some c ∧ (t.core p).lcore.toNat = l ∧
      (∀ u : StrandId, (∀ (r : Fin 32), r ≠ 0 → (t.strand p u).x[r] = rec' u (8 * r.val)) ∧
        (t.strand p u).pc = rec' u 0x100 ∧ (t.strand p u).halted = bit (rec' u 0) 62) ∧
      (t.core p).bag = s.readPairs (base + 0x11000) (field (s.homeWord (base + 0x10000)) 42 32) ∧
      (t.core p).npool = (s.homeWord (base + 0x10008)).extractLsb' 5 43 ∧ l ∉ (t.ctx c).preempted ∧
      (t.ctx c).pBusy = false ∧ (t.ctx c).pDone = true
    let clear : Prop := s.canResume c l = some p ∧ k.heldMsgs = [] ∧ k.outWays = [] ∧ core.copies = [] ∧ l < 1024 ∧
      s.windowDirty p = false ∧ (∀ y ∈ s.loose, y.1 ≠ p) ∧ s.waiters = [] ∧ s.retries = [] ∧
      (∀ y ∈ s.badWords, 8 * y < base ∨ base + 0x38000 ≤ 8 * y) ∧
      ∀ w : Fin 16, foreignTag core.wayTag[w] (some c) = false
    (s.plat.ready = true → free → bit v 62 = true → completes (.preemptNotify c v) s fun t => (t.ctx c).pErr = 0 ∧
      t.mem = s.mem ∧ ∀ (q : CoreId) (u : StrandId), t.strand q u =
        if (s.core q).serves = some c ∧ (s.core q).lcore.toNat < k.size ∧ (s.strand q u).halted = false ∧
          (s.strand q u).dbgHalted = false then { s.strand q u with preempt := some note } else s.strand q u) ∧
    (s.plat.ready = true → k.rBusy = false → ∀ i ∈ [Instr.preemptNotify c v, .preemptSave c v, .ctxrun c v],
      (k.aborted = false → k.pBusy = false → k.entry.valid = false →
        completes i s fun t => t = s.setCtx c { k with pDone := false, pErr := 1 }) ∧
      (k.aborted = true → completes i s fun t => t = s.setCtx c { k with pErr := 6 })) ∧
    (s.plat.ready = true → free → s.memOk → s.snap = none → s.comb = [] → s.badCopies = [] → bit v 62 = false → l < k.size → saveMin ≤ k.entry.saveSize →
      l ∉ k.preempted → s.serverOf c l = some p → base + saveMin ≤ feBase → core.bag.length ≤ 1024 →
      (∀ u : StrandId, (s.strand p u).halted = true ∧ s.atRest p u = true ∧ (s.strand p u).readq = [] ∧
        (s.strand p u).queue.length ≤ 32 ∧ (s.strand p u).replay.length ≤ 32) →
      completes (.preemptSave c v) s fun t => (t.core p).serves = none ∧ l ∈ (t.ctx c).preempted ∧
        (t.ctx c).pBusy = false ∧ (t.ctx c).pDone = true ∧ (t.ctx c).pErr = 0 ∧
        ∀ u : StrandId, (t.strand p u).halted = true ∧ (t.strand p u).x = (s.strand p u).x ∧
          (∀ (r : Fin 32), r ≠ 0 → t.homeWord (base + 0x2000 * u.val + 8 * r.val) = (s.strand p u).x[r]) ∧
          t.homeWord (base + 0x2000 * u.val + 0x100) = (s.strand p u).pc) ∧
    (s.plat.ready = true → free → bit v 62 = false → l < k.size → l ∈ k.preempted → clear →
      completes (.ctxrun c v) s resumed) ∧
    (k.resuming = [l] → clear → completes (.ctxrunResume c (v.extractLsb' 0 10)) s resumed)

/-- O52. Debug events halt, resume and step strands and edit their state, and CTXRETIRE and RETIRE_FINISH end a context
(spec/22_interruption.md R397 to R400; spec/25_retirement.md R420; R421; spec/07_scalar_isa.md R158). That a word written to the pc
is where the strand says it came from (assumption 32), and that CTXRETIRE tests the base die's copy of VALID (assumption 52), are
the model's choice. -/
def Obligations.DebuggersAndRetirementAct : Prop :=
  ∀ (s : State) (p : CoreId) (t : StrandId) (c : CtxId) (v : Word) (j : Fin 8) (e : QEntry),
    let st := s.strand p t
    let k := s.ctx c
    let d := (s.core p).dbg
    let sel := s.strand p d.regStrand.toFin
    let qst := s.strand p d.qStrand.toFin
    let stopped (x : Strand) : Bool := x.halted || x.dbgHalted
    let retired (a : State) : Prop := (∀ q : CoreId, ∀ w : Fin 16, (a.core q).wayTag[w].map (·.1) ≠ some c) ∧
      (∀ y ∈ a.seals, y.owner ≠ c) ∧ (a.ctx c).count = 0 ∧ (a.ctx c).heldMsgs = [] ∧ (a.ctx c).rBusy = false ∧
      (a.ctx c).rDone = true ∧ (a.ctx c).aborted = false ∧ (a.ctx c).launched = false
    let noCopy : Prop := ∀ y ∈ s.descs, y.ctx ≠ c
    let sealed : Prop := ∀ y ∈ s.seals, y.base < y.bound
    (s.plat.ready = true →
      (st.halted = false → st.dbgHalted = false → st.wait = none → st.relaxed = [] → st.queue = [] →
        st.head = none → (s.core p).deliveries = [] → (∀ y ∈ s.ext, y.who ≠ .scalar p t) →
        completes (.dbgHalt p t) s fun a =>
          a.strand p t = { st with
            dbgHalted := true
            dbgStep := false
            dbgAsked := false
            muldiv := false
            progress := if st.taken then st.progress else []
            asyncTraps := st.asyncTraps.filter fun (x : BitVec 16 × Word) => decide (3 < x.2.toNat) } ∧
          a.mem = s.mem ∧ ∀ (q : CoreId) (u : StrandId), (q, u) ≠ (p, t) → a.strand q u = s.strand q u) ∧
      (stopped st = true → (s.core p).deliveries = [] → ∀ x ∈ [(Instr.dbgRun p t, false), (.dbgStep p t, true)], completes x.1 s fun a =>
        a = s.setStrand p t { st with halted := false, dbgHalted := false, dbgAsked := false, dbgStep := x.2, latch := true }) ∧
      (stopped sel = true → d.regSpace = 2 → completes (.dregdataWrite p v) s fun a =>
        a = s.setStrand p d.regStrand.toFin { sel with pc := v &&& ~~~3, cameFrom := v &&& ~~~3 }) ∧
      (stopped sel = true → d.regSpace = 0 → d.regNum.toNat < 32 → completes (.dregdataWrite p v) s fun a =>
        (a.strand p d.regStrand.toFin).pc = sel.pc ∧ a.mem = s.mem ∧ ∀ r : BitVec 5,
          (a.at p d.regStrand.toFin).reg r = if r = 0 then 0 else if r.toNat = d.regNum.toNat then v
            else (s.at p d.regStrand.toFin).reg r) ∧
      (stopped qst = true → d.qBuf = false → qst.head = none → qst.queue[d.qEntry.toNat]? = some e →
        (j ≠ 0 → completes (.qdataWrite p j v) s fun a => a = s.setStrand p d.qStrand.toFin { qst with
          queue := qst.queue.set d.qEntry.toNat (e.withWord j.val v) }) ∧
        (j = 0 → completes (.qdataWrite p j v) s fun a => a = s)) ∧
      (k.rBusy = false → k.entry.valid = true → noCopy → sealed → (k.count = 0 ∨ k.aborted = true ∨ bit v 0 = true) →
        completes (.ctxretire c v) s fun a => retired a ∧ ∀ q : CoreId, (a.core q).serves ≠ some c) ∧
      (k.rBusy = false → k.entry.valid = false → completes (.ctxretire c v) s fun a =>
        a = s.setCtx c { k with rDone := false, rErr := 1 })) ∧
    (k.rBusy = true → (noCopy → sealed → completes (.retireFinish c) s retired) ∧
      ((∃ y ∈ s.descs, y.ctx = c) → completes (.retireFinish c) s fun a => a = s))

/-- O53. Host, peer and atomic requests perform at their home, and a full/empty request is tried again
(spec/26_device_boundary.md R426; R427; R431; spec/18_sync_isa.md R346; R347; spec/13_memory_hierarchy.md R269;
spec/14_memory_isa.md R291). That a refused host AtomicOp is answered and recorded nowhere (assumption 12), and what the
combining store holds of a word (assumption 63), are the model's choice. -/
def Obligations.RequestsFromOutsidePerform : Prop :=
  ∀ (s : State) (pa n o : Nat) (bytes : List Byte) (r : AtomicReq) (dev : BitVec 9) (c : CtxId) (w : Waiter) (rd : BitVec 5)
    (reg : MmioReg),
    let z := ASize.bytes r.size
    let old := fromLe (s.peekHome r.pa z)
    let new : Nat := match r.op with
      | .add => (old + r.operand.toNat) % 2 ^ (8 * z)
      | .swap => r.operand.toNat % 2 ^ (8 * z)
      | _ => if old = r.expected.toNat % 2 ^ (8 * z) then r.operand.toNat % 2 ^ (8 * z) else old
    let takes (pa n : Nat) : Prop := s.keptFrom pa n = false
    let chained (who : Requester) : State := { s with comb := [⟨r.pa / 8, false, [{ r with who := who }], none, false, none⟩] }
    let st := s.strand w.core w.strand
    let still : Prop := s.comb = [] ∧ s.combWait = [] ∧ s.badCopies = []
    s.plat.ready = true → s.memOk → s.snap = none → s.hostHeld = [] →
    (still → onDevice pa = true → bytes ≠ [] → s.reachable none pa bytes.length = true → takes pa bytes.length →
      completes (.hostWrite pa bytes) s fun t => t.peekHome pa bytes.length = bytes ∧
        s.sameBytesBut pa bytes.length t ∧ t.hostErrV = s.hostErrV) ∧
    (onDevice pa = true → bytes ≠ [] → s.keptFrom pa bytes.length = true → completes (.hostWrite pa bytes) s fun t =>
      t = { s with
        hostErrV := true, hostErrAddr := BitVec.ofNat 52 pa
        hostErrCount := if s.hostErrCount = 2047 then 2047 else s.hostErrCount + 1 }) ∧
    (region pa = .mmio o → o % 8 = 0 → mmioReg o = some reg → s.mmioHeld o = none → bytes.length = 8 →
      completes (.hostWrite pa bytes) s fun t => t = s.writeReg reg (BitVec.ofNat 64 (fromLe bytes))) ∧
    (still → onDevice pa = true → s.reachable none pa n = true → s.isBad pa n = false →
      completes (.hostRead pa n) s fun t => t = { s with hostReplies := s.hostReplies ++ [(.ok, s.peekHome pa n)] }) ∧
    (still → r.pa % z = 0 → takes r.pa z → r.op ∈ [AmoOp.add, .swap, .cas] →
      (s.reachable none r.pa z = true → completes (.hostAtomic r) s (fun t => t = chained .host) ∧
        (r.who = .host → completes (.atomicRequest r) s fun t => t = chained .host) ∧
        (r.who = .peer dev → completes (.atomicRequest r) s fun t => t = chained (.peer dev)))) ∧
    (r.op ∉ [AmoOp.add, .swap, .cas] →
      completes (.hostAtomic r) s fun t => t = { s with hostReplies := s.hostReplies ++ [(.refused, [])] }) ∧
    (s.comb = [⟨pa / 8, false, [r], none, false, none⟩] → s.combWait = [] → s.badCopies = [] → r.pa / 8 = pa / 8 → r.pa % z = 0 → onDevice r.pa = true → r.who = .host →
      (∀ p off, region r.pa = .spad p off → ((s.core p).spadPlace off).isSome = true) →
      s.isBad (pa / 8 * 8) 8 = false → r.op ∈ [AmoOp.add, .swap, .cas] →
      completes (.combineFetchArrival pa) s fun t => t.peekHome r.pa z = leBytes z new ∧ s.sameBytesBut r.pa z t ∧
        t.hostReplies = s.hostReplies ++ [(.ok, leBytes z old)] ∧ 
        t.comb = [⟨pa / 8, true, [], some (s.homeWord (pa / 8 * 8)), false, none⟩]) ∧
    (still → (s.core w.core).copies = [] → s.retries = [w] → s.isFull w.pa ≠ w.op.wantsFull → s.waiters = [] →
      s.watches = [] → completes (.feRetry 0) s fun t => t.retries = [] ∧ t.waiters = [w] ∧ s.sameBytes t ∧
        ∀ p u, t.strand p u = s.strand p u) ∧
    (still → (s.core w.core).copies = [] → s.retries = [w] → s.waiters = [] → w.op = .ldfT rd → onDevice w.pa = true → s.isFull w.pa = true →
      s.isBad w.pa 8 = false → completes (.feRetry 0) s fun t =>
        t.strand w.core w.strand = { st.withX rd (s.homeWord w.pa) with wait := none, pc := st.pc + 4 } ∧
        t.isFull w.pa = false ∧ t.retries = [] ∧ s.sameData t) ∧
    (still → dev ≠ s.devnum → region pa = .peer s.devnum o → o < feBase →
      (s.reachable (some c) o n = true → s.isBad o n = false → completes (.peerRequest dev c (.read pa n)) s fun t =>
        t = { s with peerReplies := s.peerReplies ++ [(dev, .ok, s.peekHome o n)] }) ∧
      (s.reachable (some c) o bytes.length = true → takes o bytes.length →
        completes (.peerRequest dev c (.write pa bytes)) s fun t => t.peekHome o bytes.length = bytes ∧
          s.sameBytesBut o bytes.length t ∧ t.peerReplies = s.peerReplies ++ [(dev, .ok, [])]))

/-- O54. Answers from the host or a peer end the access they belong to, chains take their messages, and ports go up and
down (spec/26_device_boundary.md R429; R431; R432; spec/18_sync_isa.md R360 to R362). MEM_UNCORRECTABLE for an answer of the host
that reports a memory error is the model's choice (assumption 98). -/
def Obligations.AnswersChainsAndPortsAct : Prop :=
  ∀ (s : State) (p : CoreId) (t : StrandId) (e : ExtReq) (r : BitVec 5) (z : Size) (data : List Byte) (g j : Fin 16)
    (m : XredMsg) (x : Nat),
    let st := s.strand p t
    let k := s.chains[g]
    let w := 8 * Size.bytes z
    let value (bs : List Byte) : Word := (BitVec.ofNat w (fromLe bs)).signExtend 64
    let asked : BusOp := match e.fill with | some y => .read (e.pa / y * y) y | none => .read e.pa (Size.bytes z)
    let back : Prop := (∃ n l, m = .result n l) ∨ m = .abort true
    let got (bs : List Byte) : Strand := { st.withX r (value bs) with wait := none, pc := st.pc + 4 }
    let faults (cause : BitVec 16) (a : State) : Prop := a = { s with ext := [] }.setStrand p t { st with
      causeSw := false, cause := cause, tval := e.va, tepc := st.pc.extractLsb' 2 50, ppriv := st.priv, priv := 1
      tact := true, wait := none, progress := if st.taken then st.progress else [], issuedWord := none
      pc := addr50 st.trapvec }
    (s.ext = [e] → e.who = .scalar p t → e.relaxed = false → e.op = asked → e.rd = some (r, z) →
      e.acq = none → (∀ c : CtxId, (s.ctx c).pWait = none) → (∀ u : StrandId, (s.strand p u).owed = 0) →
      (∀ i ∈ [Instr.hostCompletion 0 .ok data, .peerResponse 0 .ok data],
        (e.toHost = true ↔ i = .hostCompletion 0 .ok data) →
        (e.fill = none → completes i s fun a => a = { s with ext := [] }.setStrand p t (got data)) ∧
        (e.fill = some x → isGrain x = true → e.put = [] → e.pa % Size.bytes z = 0 → (s.core p).copies = [] →
          completes i s fun a => a.ext = [] ∧ a.strand p t = got (data.drop (e.pa % x)) ∧ a.mem = s.mem)) ∧
      (st.halted = false → st.tact = false → ∀ x ∈ [(BusStatus.refused, (7 : BitVec 16)), (.memError, 11)],
        (e.toHost = true → completes (.hostCompletion 0 x.1 data) s (faults x.2)) ∧
        (e.toHost = false → completes (.peerResponse 0 x.1 data) s (faults x.2))) ∧
      (st.halted = false → st.tact = false → (e.toHost = true → completes (.hostCompletionTimeout 0) s (faults 7)) ∧
        (e.toHost = false → completes (.peerTimeout 0) s (faults 7)))) ∧
    (k.serving = none → completes (.xredMessage g m) s fun a =>
      (back → a = { s with chains := s.chains.set g { k with fromNext := k.fromNext ++ [m] } }) ∧
      (¬back → a = { s with chains := s.chains.set g { k with fromPrev := k.fromPrev ++ [m] } })) ∧
    completes (.flitCrcFail j) s (fun a => a = s) ∧
    (∀ x ∈ [(Instr.portDown j, false), (.portRetrained j, true)], completes x.1 s fun a =>
      a = { s with portsUp := a.portsUp } ∧
        ∀ m < 16, a.portsUp.getLsbD m = if m = j.val then x.2 else s.portsUp.getLsbD m)

/-- O55. The power controller's events move the allowance within its bounds and throttle as R17, R435, R436 and R440 say
(spec/01_device_overview.md R17; spec/08_fetch_issue.md R173; spec/26_device_boundary.md R435; R436;
spec/27_physical.md R440; R446; spec/25_retirement.md R424). What reset leaves after a shutdown rests on assumptions 2, 4 and 6. -/
def Obligations.PowerAndTemperatureEvents : Prop :=
  ∀ (s : State) (n : Vector Nat 384) (p q : CoreId) (x : Int) (tf pf : Bool),
    let k := s.core p
    let th := k.thermal
    let cap (q : CoreId) : Nat := if (s.core q).thermal.capped then 128 else 256
    let allowedTo (q : CoreId) (x : Nat) (t : State) : Prop :=
      t.core q = { s.core q with allowance := min (cap q) (max 1 x) }
    let allowed (f : CoreId → Nat) (t : State) : Prop := ∀ q : CoreId, allowedTo q (f q) t
    let rest (t : State) : Prop := t = { s with cores := t.cores, plat := t.plat }
    let settled (pl : Platform) (t : State) : Prop :=
      ((∀ q : CoreId, (t.core q).allowance = cap q) → t.plat = { pl with idleInserted := false, loweredAt := none }) ∧
      ((∃ q : CoreId, (t.core q).allowance ≠ cap q) → t.plat = pl)
    let spared (q : CoreId) : Prop := ∃ c, (s.core q).serves = some c ∧ (s.ctx c).replay.running = 2
    completes (.powerWindow n) s (fun t => rest t ∧
      (∀ q : CoreId, spared q → allowedTo q (s.core q).allowance t) ∧
      (∀ q : CoreId, ¬spared q → allowedTo q (min (s.core q).allowance n[q]) t) ∧
      t.plat = { s.plat with loweredAt := t.plat.loweredAt, idleInserted := t.plat.idleInserted } ∧
      ((∃ q : CoreId, (t.core q).allowance < (s.core q).allowance) → t.plat.loweredAt = some s.cycles) ∧
      ((∀ q : CoreId, (s.core q).allowance ≤ (t.core q).allowance) → t.plat.loweredAt = s.plat.loweredAt) ∧
      ((∃ q : CoreId, spared q ∧ n[q] < (s.core q).allowance) → t.plat.idleInserted = true) ∧
      ((∀ q : CoreId, spared q → (s.core q).allowance ≤ n[q]) → t.plat.idleInserted = s.plat.idleInserted)) ∧
    (∀ b, s.plat.loweredAt = some b → b + 240000 ≤ s.cycles →
      completes .idleInsertion s fun t => t = { s with plat := { s.plat with idleInserted := true } }) ∧
    (s.plat.loweredAt = none ∨ (∃ b, s.plat.loweredAt = some b ∧ s.cycles < b + 240000) →
      completes .idleInsertion s fun t => t = s) ∧
    (s.plat.throttled = false → completes (.allowanceRestore n) s fun t => rest t ∧
      allowed (fun q => max (s.core q).allowance n[q]) t ∧ settled s.plat t) ∧
    (th.temp = some x → th.capped = false →
      (x ≤ 85 * 8 → completes (.vxArbitration p tf pf) s fun t =>
        t = s.setCore p { k with thermal := { th with tileCount := 0, pipeCount := 0 } }) ∧
      (85 * 8 < x → completes (.vxArbitration p true true) s fun t => t = s.setCore p { k with thermal :=
        if th.pipeCount < th.tileCount then { th with tileCount := 0, pipeCount := min 65535 (th.pipeCount + 1) }
        else { th with tileCount := min 65535 (th.tileCount + 1), pipeCount := 0 } })) ∧
    (th.failBase = false → completes (.sensorFail p .base) s fun t => (t.core p).thermal.failBase = true ∧
      (t.core p).thermal.failCore = th.failCore ∧ (t.core p).thermal.capped = (th.capped || th.failCore) ∧
      (t.core p).allowance = (if th.failCore then min 128 k.allowance else k.allowance) ∧
      t.plat.evCount = s.plat.evCount + (if th.failCore then 2 else 1) ∧ t.mem = s.mem ∧ t.ctxs = s.ctxs) ∧
    (th.failCore = false → completes (.sensorFail p .core) s fun t => (t.core p).thermal.failCore = true ∧
      (t.core p).thermal.failBase = th.failBase ∧ (t.core p).thermal.capped = (th.capped || th.failBase) ∧
      (t.core p).allowance = (if th.failBase then min 128 k.allowance else k.allowance)) ∧
    (s.hottest = some (q, x) →
      (105 * 8 < x → s.plat.throttled = false → completes .thermalThrottle s fun t => rest t ∧
        (∀ r : CoreId, t.core r = { s.core r with allowance := 1 }) ∧ t.plat.throttled = true ∧
        t.plat.idleInserted = true ∧ t.plat.evCount = s.plat.evCount + 1) ∧
      (x ≤ 100 * 8 → s.plat.throttled = true → completes (.thermalThrottleExit n) s fun t => rest t ∧
        allowed (fun q => max (s.core q).allowance n[q]) t ∧ settled { s.plat with throttled := false } t) ∧
      (125 * 8 < x → completes .thermalShutdown s fun t => t.plat.poweredDown = true ∧ t.plat.ready = false ∧
        t.plat.stage = 0 ∧ t.plat.zeroCores = 255 ∧
        t.cores = State.reset.cores ∧ t.ctxs = State.reset.ctxs ∧ t.mem = []))

/-- O56. Each reset begins the boot of R442, whose steps bring the device to READY or recovery with the self-tested masks, and
faults in service clear classes (spec/27_physical.md R441 to R446; spec/05_launch_placement.md R100; R101). CAPMASK before a
self-test (assumption 4), memory that nothing has written (assumption 6) and the boot's outcomes as the event's argument
(assumption 24) are the model's choice. -/
def Obligations.ResetsAndCapabilityMasks : Prop :=
  ∀ (s : State) (r r1 : BootResult) (v : Word) (p : CoreId) (x : TestResult) (clear : BitVec 128) (image : List Byte)
    (done : List CoreId),
    let k := s.core p
    let ok := r.firstOk || r.secondOk
    let passed (m : BitVec 128) : BitVec 128 :=
      if (List.range 32).all fun j => m.getLsbD j then m else 0
    let lost (m : BitVec 128) : Bool := (List.range 32).any fun j => m.getLsbD j
    let empty (t : State) : Prop := t.mem = [] ∧ t.ctxs = State.reset.ctxs ∧ t.seals = [] ∧
      ∀ (q : CoreId) (u : StrandId), (t.strand q u).halted = true ∧ (t.core q).serves = none
    let booted (flash : List Byte × List Byte) (t : State) : Prop := empty t ∧ t.plat.ready = ok ∧ t.plat.recovery = !ok ∧
      t.plat.stage = (if ok then 7 else 2) ∧ (ok = true → t.plat.image = if r.firstOk then flash.1 else flash.2) ∧
      ∀ q : CoreId, (t.core q).capmask = if ok then
        (if r.tests[q].rows = [] ∧ (∀ y ∈ s.plat.repair, y.1 ≠ q) then passed r.tests[q].classes else (t.core q).capmask)
        else 0
    let boots (first : Nat) (flash : List Byte × List Byte) (t : State) : Prop := empty t ∧ t.plat.ready = false ∧
      t.plat.recovery = false ∧ t.plat.stage.toNat = first ∧ t.plat.flash = flash ∧ (∀ q : CoreId, (t.core q).capmask = 0) ∧
      (∀ n, n + first ≤ (if ok then 7 else 2) → (t.bootSteps n).plat.stage.toNat = n + first ∧
        (t.bootSteps n).plat.ready = false) ∧
      booted flash (t.bootSteps (8 - first))
    let cleared (t : State) : Prop := (t.core p).capmask =
      (if lost (k.capmask &&& clear) then 0 else k.capmask &&& ~~~clear) ∧ t.mem = s.mem ∧ t.ctxs = s.ctxs
    completes (.coldReset r) s (boots 1 s.plat.flash) ∧
    (s.plat.poweredDown = false → completes (.railFault r) s (boots 1 s.plat.flash) ∧
      completes (.perst r) s (boots 2 s.plat.flash) ∧
      (s.plat.ready = true → completes (.resetcmd 0x5a r) s (boots 2 s.plat.flash))) ∧
    (v ≠ 0x5a ∨ s.plat.ready = false → completes (.resetcmd v r) s fun t => t = s) ∧
    (s.plat.recovery = true → completes (.recoveryImage ⟨image, r⟩) s (boots 2 (image, image))) ∧
    (s.plat.recovery = false → completes (.recoveryImage ⟨image, r⟩) s fun t => t = s) ∧
    (s.plat.booting = some (r1, done) → s.plat.stage = 5 → p ∉ done → x.rows = [] → (∀ y ∈ s.plat.repair, y.1 ≠ p) →
      completes (.selfTest p x) s fun t => (t.core p).capmask = passed x.classes ∧ t.mem = s.mem ∧
        t.plat.booting = some (r1, p :: done) ∧ ∀ q : CoreId, q ≠ p → t.core q = s.core q) ∧
    (s.plat.booting = none → completes (.selfTest p x) s fun t => t = s) ∧
    (s.plat.ready = true → (k.serves = none → completes (.scrub p clear) s cleared) ∧
      completes (.mgmtCapmaskClear p clear) s cleared ∧
      completes .hostConfigurationRequest s (fun t => t = { s with hostReplies := s.hostReplies ++ [(.ok, [])] })) ∧
    (s.plat.ready = false → completes .hostConfigurationRequest s fun t =>
      t = { s with plat := { s.plat with configRetries := s.plat.configRetries + 1 } })

/-- O57. Each SPDM request is answered once the device is READY or in recovery, and changes nothing else
(spec/26_device_boundary.md R438; spec/27_physical.md R443). The forms of the answers that the SPDM standard gives, the signed
measurements among them, are the model's (assumptions 24 and 93). -/
def Obligations.SpdmRequestsAreAnswered : Prop :=
  ∀ (s : State) (nonce : BitVec 256) (n : Nat) (ask : Option (BitVec 256)),
    let sent (l : List Byte) (t : State) : Prop :=
      t = { s with plat := { s.plat with spdmSent := s.plat.spdmSent ++ [l] } }
    let chain := Config.certificateChain
    let body := Config.spdmBody 5 ++ sha256 chain ++ leBytes 32 nonce.toNat
    let block : List Byte := if n = 4 then leBytes 32 s.plat.measured.toNat else if n = 1 then sha256 s.plat.image
      else Config.firmwareDigest n s.plat.image
    let measured := Config.spdmBody 6 ++ block
    ((s.plat.ready = true ∨ s.plat.recovery = true) →
      completes .getVersion s (sent (Config.spdmBody 0)) ∧ completes .getCapabilities s (sent (Config.spdmBody 1)) ∧
      completes .negotiateAlgorithms s (sent (Config.spdmBody 2)) ∧
      completes .getDigests s (sent (Config.spdmBody 3 ++ sha256 chain)) ∧
      completes .getCertificate s (sent (Config.spdmBody 4 ++ chain)) ∧
      completes (.challenge nonce) s (sent (body ++ Config.sign body)) ∧
      (1 ≤ n → n ≤ 4 → completes (.getMeasurements ⟨n, none⟩) s (sent measured) ∧
        completes (.getMeasurements ⟨n, some nonce⟩) s
          (sent (measured ++ leBytes 32 nonce.toNat ++ Config.sign (measured ++ leBytes 32 nonce.toNat))))) ∧
    (s.plat.ready = false → s.plat.recovery = false →
      ∀ i ∈ [Instr.getVersion, .getCapabilities, .negotiateAlgorithms, .getDigests, .getCertificate, .challenge nonce,
        .getMeasurements ⟨n, ask⟩], completes i s fun t => t = s)

/-- O58. Right after reset every strand is halted, the registers hold their Reset column, and memory lists nothing
(spec/25_retirement.md R416; spec/07_scalar_isa.md R151; spec/05_launch_placement.md R100; spec/13_memory_hierarchy.md
R264; spec/15_copy_snapshot.md R317; spec/27_physical.md R442; R445). Bytes of HBM that nothing has written read as 0: the
model's choice (assumption 6). -/
def Obligations.ResetLeavesTheStatedValues : Prop :=
  State.reset.memOk ∧ State.reset.tlbOk ∧
  (∀ (p : CoreId) (t : StrandId), let st := State.reset.strand p t
    st.halted = true ∧ st.priv = 0 ∧ st.tact = false ∧ st.latch = false ∧ st.cause = 0 ∧ st.tval = 0 ∧ st.vtype = 0 ∧
      st.vlen = 0 ∧ st.vstart = 0 ∧ st.vstat = 0 ∧ st.queue = [] ∧ st.replay = []) ∧
  (∀ p : CoreId, let k := State.reset.core p
    k.serves = none ∧ k.ovt = 0x0055 ∧ k.cpyshare = 0x40 ∧ k.poolV = 0 ∧ k.poolS = 0 ∧ k.poolC = 0 ∧ k.npool = 0) ∧
  (∀ c : CtxId, let k := State.reset.ctx c
    k.entry.valid = false ∧ k.count = 0 ∧ k.aborted = false ∧ k.lErr = 0 ∧ k.pErr = 0 ∧ k.rErr = 0 ∧ k.epoch = 0) ∧
  State.reset.seals = [] ∧ State.reset.snap = none ∧ State.reset.descs = [] ∧ State.reset.waiters = [] ∧
  State.reset.net = [] ∧ State.reset.ext = [] ∧ State.reset.plat.ready = false ∧ State.reset.mcCount = 0 ∧
  ∀ a, State.reset.mem.get a = 0

/-- O59. Every access keeps memory in its canonical form, and a lookup keeps held translations page-aligned
(spec/13_memory_hierarchy.md R270; R273; R281 to R283; spec/27_physical.md R442). -/
def Obligations.OperationsKeepTheirForms : Prop :=
  ∀ (s : State) (p : CoreId) (c : CtxId) (pa grain : Nat) (dev full alloc : Bool) (req : Req) (bytes : List Byte) (root : Nat)
    (va : Word) (e : TlbEntry) (x : Copy) (b : Nat),
    (s.memOk → (s.storeAt p pa bytes grain dev req alloc).memOk ∧ (s.pokeHome pa bytes).memOk ∧
      (s.homeWrite pa bytes).memOk ∧ (s.setFull pa full).memOk ∧ (s.writeBack p x).memOk ∧ (s.snapBlock b).memOk) ∧
    (s.tlbOk → isGrain grain = true → (s.storeAt p pa bytes grain dev req alloc).tlbOk ∧
      (s.loadAt p pa b grain dev req alloc).2.tlbOk) ∧
    (s.tlbOk → (s.lookup p c root va).2.tlbOk ∧
      ((s.lookup p c root va).1 = .ok e → e.base % 4096 = 0 ∧ e.frame % 4096 = 0 ∧ isGrain e.grain = true))

/-- O60. The floating-point, conversion, block-scale, reduction, scan, slice and tile instructions write the values of their
rules to active lanes, to xd or to the accumulators, raise their flags, and change nothing else (spec/11_vector_numeric.md R226
to R231; R234; R237; R238; R241; R243; spec/12_matrix.md R252; R254; R257; R259; R261; spec/03_number_formats.md R47; R65 to
R69). The code that VFMIN and VFMAX write for operands of equal value, and the group that VBSCALE takes, are the model's choice
(assumption 96). -/
def Obligations.FloatReductionAndProductResults : Prop :=
  ∀ (s : State) (p : CoreId) (t : StrandId) (e : QEntry) (f : FpFmt) (ty src : ETy) (sgn sg toX : Bool) (w sw : Nat) (o : VFArgs)
    (u : VUnary) (y : VFUnary) (z : CvtArgs) (q : RedArgs) (k : TArgs) (cond : FCond) (md vm acc : BitVec 3)
    (vd vs1 op2 xs : BitVec 5),
    let v := s.headEnv p t e
    let n := e.vlen.toNat
    let act (m : BitVec 3) : List Nat := (List.range n).filter (v.active m)
    let gives (i : Instr) (h : Nat → Lane → Lane) (fl : BitVec 5) (x : Option Word) : Prop := s.mayRun p t e i →
      completes (.vqEntryExecute p t) s (s.ran p t e h fl x)
    let any (m : BitVec 3) (g : Nat → BitVec 5) : BitVec 5 := (act m).foldl (fun a j => a ||| g j) 0
    let each (i : Instr) (d : BitVec 5) (m : BitVec 3) (g : Nat → Nat × BitVec 5) : Prop :=
      gives i (fun j l => l.put d m v.w (g j).1) (any m fun j => (g j).2) none
    let val (b : Bool) (width c : Nat) : Int := if b = true ∧ 2 ^ (width - 1) ≤ c then (c : Int) - 2 ^ width else c
    let lo : Int := if sgn then -(2 ^ (w - 1)) else 0
    let hi : Int := if sgn then 2 ^ (w - 1) - 1 else 2 ^ w - 1
    let clip (x : Int) : Nat × BitVec 5 := ((max lo (min hi x) % 2 ^ w).toNat, if x < lo ∨ hi < x then 4 else 0)
    let elem (r : BitVec 5) (j : Nat) : Int := val sgn w (v.elem r.toNat j)
    let modeOf (rm : Rm) : Nat := v.cfg.mode rm
    (v.cfg.ty = some (.fp f) →
      let second (vx : Bool) (r : BitVec 5) (j : Nat) : Nat :=
        if vx then e.x1.toNat % 2 ^ f.width else v.elem r.toNat j
      let a (j : Nat) : FpVal := f.value (v.elem o.vs1.toNat j)
      let b (j : Nat) : FpVal := f.value (second o.vx o.op2 j)
      let d (j : Nat) : FpVal := f.value (v.elem o.vd.toNat j)
      let two (i : Instr) (g : FpVal → FpVal → Res × VFlags) : Prop :=
        each i o.vd o.vm fun j => fpOp f (modeOf o.rm) (v.rnd j 0) [a j, b j] (g (a j) (b j))
      let three (i : Instr) (flip : Bool) : Prop := each i o.vd o.vm fun j =>
        fpOp f (modeOf o.rm) (v.rnd j 0) [a j, b j, d j] (fpFma (modeOf o.rm) (if flip then (a j).neg else a j) (b j) (d j))
      let one (i : Instr) (g : FpVal → Res × VFlags) : Prop := each i y.vd y.vm fun j =>
        let x := f.value (v.elem y.vs1.toNat j)
        fpOp f (modeOf y.rm) (v.rnd j 0) [x] (g x)
      two (.vfadd o) (fpAdd (modeOf o.rm)) ∧ two (.vfsub o) (fun x z => fpAdd (modeOf o.rm) x z.neg) ∧
      two (.vfmul o) (fun x z => ((fpMulVal x z).1.res, (fpMulVal x z).2)) ∧ two (.vfdiv o) fpDiv ∧
      three (.vfma o) false ∧ three (.vfnma o) true ∧ one (.vfsqrt y) fpSqrt ∧ one (.vfrsq y) fpRsqrt ∧
      one (.vfexp2 y) fpExp2 ∧ one (.vflog2 y) fpLog2 ∧
      each (.vfmin vd vs1 op2 vm toX) vd vm (fun j => fpMinMaxOp f false (v.elem vs1.toNat j) (second toX op2 j)) ∧
      each (.vfmax vd vs1 op2 vm toX) vd vm (fun j => fpMinMaxOp f true (v.elem vs1.toNat j) (second toX op2 j)) ∧
      each (.vfabs u) u.vd u.vm (fun j =>
        (if f.s = 1 then v.elem u.vs1.toNat j % 2 ^ (f.e + f.m) else v.elem u.vs1.toNat j, 0)) ∧
      each (.vfneg u) u.vd u.vm (fun j =>
        (if f.s = 1 then v.elem u.vs1.toNat j ^^^ 2 ^ (f.e + f.m) else v.elem u.vs1.toNat j, 0)) ∧
      gives (.vfclass u) (fun j l => l.put u.vd u.vm (max v.w 4) (fpClass f (v.elem u.vs1.toNat j))) 0 none ∧
      gives (.vfcmp cond md vs1 op2 vm toX) (fun j l => if l.mask vm then
          l.withMask md (fpCompare cond (f.value (v.elem vs1.toNat j)) (f.value (second toX op2 j))).1 else l)
        (any vm fun j => (fpCompare cond (f.value (v.elem vs1.toNat j)) (f.value (second toX op2 j))).2) none) ∧
    (v.cfg.ty = some ty → v.cfg.stc z.src = some (src, false) →
      let bits (j : Nat) : Nat := (v.lane j).rows (32 * z.vs1.toNat) src.width
      let all (g : Nat → Nat × BitVec 5) : Prop := ∀ i ∈ [Instr.vcvt z, .vnarrow z, .vwiden z], each i z.vd z.vm g
      (ty = .int sgn w → src = .int sg sw → all fun j => clip (val sg sw (bits j))) ∧
      (ty = .fp f → src = .int sg sw → all fun j => f.finish (modeOf z.rm) (v.rnd j 0) (intVal (val sg sw (bits j))).res) ∧
      (∀ h, ty = .int sgn w → src = .fp h → all fun j => fpToInt sgn w (modeOf z.rm) (v.rnd j 0) (h.value (bits j))) ∧
      (∀ h, ty = .fp f → src = .fp h → all fun j =>
        fpOp f (modeOf z.rm) (v.rnd j 0) [h.value (bits j)] ((h.value (bits j)).res, 0))) ∧
    (v.cfg.ty = some (.fp f) → v.cfg.stc z.src = some (src, true) → each (.vbdeq z) z.vd z.vm fun j =>
      let c := (v.lane (j / 32 * 32)).rows (32 * (z.vs1.toNat + groupFor (src.width + 8)) - 8) 8
      if c = 255 then f.nanResult
      else f.finish (modeOf z.rm) (v.rnd j 0)
        ((src.value ((v.lane j).rows (32 * z.vs1.toNat) src.width)).scale ((c : Int) - 127)).res) ∧
    (bit e.x1 63 = false → gives (.vbscale z) (fun j l =>
      if l.mask z.vm = false ∨ v.active z.vm (j / 32 * 32) = false then l
      else (l.withRows (32 * z.vd.toNat) v.w (v.elem z.vs1.toNat j)).withRows (32 * (z.vd.toNat + v.cfg.g) - 8) 8
        (if j % 32 = 0 then field e.x1 7 0 else 0)) 0 none) ∧
    (v.cfg.ty = some (.int sgn w) →
      let xs (m : BitVec 3) (r : BitVec 5) : List Int := (act m).map (elem r)
      let empty (m : BitVec 3) : BitVec 5 := if act m = [] then 2 else 0
      let lane0 (d : BitVec 5) (b : Bool) (x : Int) (j : Nat) (l : Lane) : Lane :=
        if b = false ∧ j = 0 then l.withRows (32 * d.toNat) w (x % 2 ^ w).toNat else l
      let toReg (b : Bool) (x : Int) : Option Word := if b then some (BitVec.ofInt 64 x) else none
      let sum := (xs q.vm q.vs1).foldl (· + ·) 0
      let fold (i : Instr) (x : Int) : Prop := gives i (lane0 vd toX x) (empty vm) (toReg toX x)
      let codes : List Nat := (act vm).map fun j => v.elem vs1.toNat j
      (∀ i ∈ [Instr.vredsum q, .vredsumo q], gives i (lane0 q.d q.toX sum) (empty q.vm) (toReg q.toX sum)) ∧
      (e.level1 = false ∨ act vm ≠ [] → fold (.vredmin vd vs1 vm toX) ((xs vm vs1).foldl min hi) ∧
        fold (.vredmax vd vs1 vm toX) ((xs vm vs1).foldl max lo)) ∧
      (e.level1 = true → act vm = [] → fold (.vredmin vd vs1 vm toX) 0 ∧ fold (.vredmax vd vs1 vm toX) 0) ∧
      fold (.vredand vd vs1 vm toX) (val sgn w (codes.foldl (· &&& ·) (2 ^ w - 1))) ∧
      fold (.vredor vd vs1 vm toX) (val sgn w (codes.foldl (· ||| ·) 0)) ∧
      fold (.vredxor vd vs1 vm toX) (val sgn w (codes.foldl (· ^^^ ·) 0)) ∧
      (let before (m : BitVec 3) (r : BitVec 5) (j : Nat) : List Int := ((act m).filter (· ≤ j)).map (elem r)
        let scans (i : Instr) (d : BitVec 5) (m : BitVec 3) (g : Nat → Int) : Prop :=
          gives i (fun j l => l.put d m w (g j % 2 ^ w).toNat) (empty m) none
        scans (.vscansum y) y.vd y.vm (fun j => (before y.vm y.vs1 j).foldl (· + ·) 0) ∧
        scans (.vscanmin u) u.vd u.vm (fun j => (before u.vm u.vs1 j).foldl min hi) ∧
        scans (.vscanmax u) u.vd u.vm (fun j => (before u.vm u.vs1 j).foldl max lo))) ∧
    (let ne := field e.x1 23 16 + 1
      let row (c : Nat) : Nat := field e.x1 9 0 + c * v.cfg.rows
      gives (.bsmovToUpper vs1 xs vm) (fun _ l => if l.mask vm then (List.range ne).foldl (fun (x : Lane) c =>
        x.withUpper (row c) v.cfg.rows (l.rows (32 * (vs1.toNat + c * v.cfg.g)) v.cfg.rows)) l else l) 0 none ∧
      gives (.bsmovFromUpper vd xs vm) (fun _ l => if l.mask vm then (List.range ne).foldl (fun (x : Lane) c =>
        x.withRows (32 * (vd.toNat + c * v.cfg.g)) v.cfg.rows (l.upperRows (row c) v.cfg.rows)) l else l) 0 none ∧
      (v.cfg.ty = some (.int sgn w) → gives (.imma vd vs1 xs vm) (fun _ l => if l.mask vm then
        (List.range (field e.x1 27 24 + 1)).foldl (fun (x : Lane) r =>
          let at' := 32 * (vd.toNat + 2 * r)
          let dot := ((List.range ne).filter fun c => decide (r * ne + c < n)).foldl
            (fun (a : Int) c => a + elem vs1 (r * ne + c) * val sgn w (l.upperRows (row c) w)) 0
          x.withRows at' 48 (((l.rows at' 48 : Int) + dot) % 2 ^ 48).toNat) l else l) 0 none)) ∧
    (let tr := vtTile e.vtype
      let deep := n / tr
      let old (c : Nat) : Word := mapGet 0 (s.strand p t).acc c
      let kept (i : Instr) (new : Nat → Option Word) : Prop := s.mayRun p t e i → mapWfFrom 0 0 (s.strand p t).acc = true →
        completes (.vqEntryExecute p t) s fun a => a = (s.setCore p { s.core p with
            lanes := (a.core p).lanes
            mismatched := (a.core p).mismatched }).setStrand p t { s.strand p t with
              head := some { HeadRun.start with finished := true }
              acc := (a.strand p t).acc } ∧
          (∀ c, mapGet 0 (a.strand p t).acc c = (new c).getD (old c)) ∧
          ∀ j < 256 * e.part.length, (a.core p).lane e.part j = (s.core p).lane e.part j
      let signed48 (x : Int) : Word := (BitVec.ofInt 48 x).signExtend 64
      kept (.taccz acc) (fun c => if c / 256 = acc.toNat then some 0 else none) ∧
      (v.cfg.ty = some (.int sgn w) →
        kept (.taccld acc vs1) (fun c => if c / 256 = acc.toNat then
          some (if c % 256 < n then signed48 (elem vs1 (c % 256)) else 0) else none) ∧
        (v.cfg.scaled = false → gives (.taccst acc vd) (fun j l =>
            if j < 256 then l.withRows (32 * vd.toNat) w (clip (((old (256 * acc.toNat + j)).extractLsb' 0 48).toInt)).1 else l)
          ((List.range (min n 256)).foldl (fun a j => a ||| (clip (((old (256 * acc.toNat + j)).extractLsb' 0 48).toInt)).2) 0)
          none) ∧
        (n ≠ 0 → tr ≤ 16 → ∀ i ∈ [Instr.tmma k, .tmmao k], kept i fun c =>
          let m := c % 256 / 16
          let h := c % 16
          if c / 256 = k.acc.toNat ∧ m < tr ∧ h < tr then
            some (signed48 (((old c).extractLsb' 0 48).toInt + (List.range (k.count.toNat + 1)).foldl (fun (a : Int) g =>
              (List.range deep).foldl (fun (b : Int) x => b +
                val sgn w (v.elem (k.vA.toNat + g * v.cfg.g) (m * deep + x)) *
                val sgn w (v.elem (k.vB.toNat + g * v.cfg.g) (h * deep + x))) a) 0))
          else none)))
end

