-- ==== Sys2Proof/Laws/Memory.lean ====
section
/-! SUPPORT. Memory: its canonical form is kept by every operation on it, a read after a write gives what was written,
and a write leaves every other byte alone. -/

namespace Sys2Proof.Machine

variable {α : Type} [DecidableEq α] {d : α}

theorem mapWfFrom_mono {m : List (Nat × α)} {lo hi : Nat} (h : lo ≤ hi) (w : mapWfFrom d hi m = true) :
    mapWfFrom d lo m = true := by
  cases m with
  | nil => rfl
  | cons x xs =>
    simp only [mapWfFrom, Bool.and_eq_true, decide_eq_true_eq] at w ⊢
    exact ⟨⟨by omega, w.1.2⟩, w.2⟩

/-- Below the bound a canonical list lists nothing. -/
theorem mapGet_below {m : List (Nat × α)} {lo a : Nat} (w : mapWfFrom d lo m = true) (h : a < lo) : mapGet d m a = d := by
  cases m with
  | nil => rfl
  | cons x xs =>
    simp only [mapWfFrom, Bool.and_eq_true, decide_eq_true_eq] at w
    have h1 : a ≠ x.1 := by omega
    have h2 : a < x.1 := by omega
    simp [mapGet, h1, h2]

theorem mapSet_wfFrom {m : List (Nat × α)} {lo a : Nat} (v : α) (w : mapWfFrom d lo m = true) (h : lo ≤ a) :
    mapWfFrom d lo (mapSet d m a v) = true := by
  induction m generalizing lo with
  | nil => by_cases e : v = d <;> simp [mapSet, mapWfFrom, e, h]
  | cons x xs ih =>
    obtain ⟨k, u⟩ := x
    simp only [mapWfFrom, Bool.and_eq_true, decide_eq_true_eq] at w
    obtain ⟨⟨w1, w2⟩, w3⟩ := w
    simp only [mapSet]
    split
    · next e =>
      split
      · exact mapWfFrom_mono (by omega) w3
      · next n => subst e; simp [mapWfFrom, h, n, w3]
    · split
      · split
        · simp [mapWfFrom, w1, w2, w3]
        · next n => simp [mapWfFrom, h, n, w2, w3]; omega
      · simp only [mapWfFrom, Bool.and_eq_true, decide_eq_true_eq]
        exact ⟨⟨w1, w2⟩, ih w3 (by omega)⟩

/-- Setting a key keeps the canonical form. -/
theorem mapSet_wf {m : List (Nat × α)} (a : Nat) (v : α) (w : mapWfFrom d 0 m = true) :
    mapWfFrom d 0 (mapSet d m a v) = true := mapSet_wfFrom v w (Nat.zero_le a)

/-- A key reads as it was set. -/
theorem mapGet_mapSet_from {m : List (Nat × α)} {lo : Nat} (a : Nat) (v : α) (w : mapWfFrom d lo m = true) :
    mapGet d (mapSet d m a v) a = v := by
  induction m generalizing lo with
  | nil => by_cases e : v = d <;> simp [mapSet, mapGet, e]
  | cons x xs ih =>
    obtain ⟨k, u⟩ := x
    simp only [mapWfFrom, Bool.and_eq_true, decide_eq_true_eq] at w
    simp only [mapSet]
    split
    · split
      · next e1 e2 => rw [e2]; exact mapGet_below w.2 (by omega)
      · simp [mapGet]
    · split
      · split
        · next e1 e2 e3 => simp [mapGet, e1, e2, e3]
        · simp [mapGet]
      · next e1 e2 => simp [mapGet, e1, e2, ih w.2]

/-- Setting a key leaves every other key as it was. -/
theorem mapGet_mapSet_ne_from {m : List (Nat × α)} {lo : Nat} (a b : Nat) (v : α) (w : mapWfFrom d lo m = true) (h : b ≠ a) :
    mapGet d (mapSet d m a v) b = mapGet d m b := by
  induction m generalizing lo with
  | nil => by_cases e : v = d <;> simp [mapSet, mapGet, e, h]
  | cons x xs ih =>
    obtain ⟨k, u⟩ := x
    simp only [mapWfFrom, Bool.and_eq_true, decide_eq_true_eq] at w
    simp only [mapSet]
    split
    · next e =>
      subst e
      split
      · by_cases l : b < a
        · have : mapGet d xs b = d := mapGet_below w.2 (by omega)
          simp [mapGet, h, l, this]
        · simp [mapGet, h, l]
      · simp [mapGet, h]
    · split
      · split
        · rfl
        · next e1 e2 e3 =>
          by_cases l : b < a
          · have : b ≠ k := by omega
            have : b < k := by omega
            simp [mapGet, *]
          · simp [mapGet, h, l]
      · next e1 e2 => simp only [mapGet, ih w.2]

/-- A byte reads as it was written. -/
theorem Memory.get_set {m : Memory} (a : Nat) (b : Byte) (w : m.wf = true) : (m.set a b).get a = b :=
  mapGet_mapSet_from a b w

/-- A byte written leaves every other byte alone. -/
theorem Memory.get_set_ne {m : Memory} {a c : Nat} (b : Byte) (w : m.wf = true) (h : c ≠ a) : (m.set a b).get c = m.get c :=
  mapGet_mapSet_ne_from a c b w h

/-- Writing a byte keeps the canonical form. -/
theorem Memory.set_wf {m : Memory} (a : Nat) (b : Byte) (w : m.wf = true) : (m.set a b).wf = true := mapSet_wf a b w

/-- Writing bytes keeps the canonical form. -/
theorem Memory.write_wf {m : Memory} (a : Nat) (bs : List Byte) (w : m.wf = true) : (m.write a bs).wf = true := by
  induction bs generalizing m a with
  | nil => exact w
  | cons b bs ih => exact ih (a + 1) (Memory.set_wf a b w)

/-- Bytes written leave every byte outside them alone. -/
theorem Memory.get_write_out {m : Memory} (a c : Nat) (bs : List Byte) (w : m.wf = true)
    (h : c < a ∨ a + bs.length ≤ c) : (m.write a bs).get c = m.get c := by
  induction bs generalizing m a with
  | nil => rfl
  | cons b bs ih =>
    simp only [List.length_cons] at h
    rw [Memory.write, ih (a + 1) (Memory.set_wf a b w) (by omega), Memory.get_set_ne b w (by omega)]

/-- Bytes read as they were written. -/
theorem Memory.read_write {m : Memory} (a : Nat) (bs : List Byte) (w : m.wf = true) :
    (m.write a bs).read a bs.length = bs := by
  induction bs generalizing m a with
  | nil => rfl
  | cons b bs ih =>
    rw [Memory.write, List.length_cons, Memory.read, ih (a + 1) (Memory.set_wf a b w),
      Memory.get_write_out (a + 1) a bs (Memory.set_wf a b w) (by omega), Memory.get_set a b w]

/-- Equal contents in canonical form are equal memories. -/
theorem mapGet_ext_from {m n : List (Nat × α)} {lo : Nat} (w : mapWfFrom d lo m = true) (v : mapWfFrom d lo n = true)
    (h : ∀ a, mapGet d m a = mapGet d n a) : m = n := by
  induction m generalizing n lo with
  | nil =>
    cases n with
    | nil => rfl
    | cons y ys =>
      simp only [mapWfFrom, Bool.and_eq_true, decide_eq_true_eq] at v
      have := h y.1
      simp [mapGet] at this
      exact absurd this.symm v.1.2
  | cons x xs ih =>
    obtain ⟨k, u⟩ := x
    simp only [mapWfFrom, Bool.and_eq_true, decide_eq_true_eq] at w
    cases n with
    | nil =>
      have := h k
      simp [mapGet] at this
      exact absurd this w.1.2
    | cons y ys =>
      obtain ⟨l, z⟩ := y
      simp only [mapWfFrom, Bool.and_eq_true, decide_eq_true_eq] at v
      have hk := h k
      have hl := h l
      have e : k = l := by
        rcases Nat.lt_trichotomy k l with c | c | c
        · have : k ≠ l := by omega
          simp [mapGet, this, c] at hk
          exact absurd hk w.1.2
        · exact c
        · have n1 : l ≠ k := by omega
          simp [mapGet, n1, c] at hl
          exact absurd hl.symm v.1.2
      subst e
      have eu : u = z := by simpa [mapGet] using hk
      subst eu
      have : xs = ys := ih w.2 v.2 fun a => by
        have ha := h a
        by_cases h1 : a = k
        · subst h1; rw [mapGet_below w.2 (by omega), mapGet_below v.2 (by omega)]
        · by_cases h2 : a < k
          · rw [mapGet_below w.2 (by omega), mapGet_below v.2 (by omega)]
          · simpa [mapGet, h1, h2] using ha
      rw [this]

theorem Memory.read_length (m : Memory) (a n : Nat) : (m.read a n).length = n := by
  induction n generalizing a with
  | zero => rfl
  | succ n ih => simp [Memory.read, ih]

theorem leBytes_length (n v : Nat) : (leBytes n v).length = n := by
  induction n generalizing v with
  | zero => rfl
  | succ n ih => simp [leBytes, ih]

/-- The bytes of a number hold it modulo the width. -/
theorem fromLe_leBytes (n v : Nat) : fromLe (leBytes n v) = v % 256 ^ n := by
  induction n generalizing v with
  | zero => simp [leBytes, fromLe, Nat.mod_one]
  | succ n ih =>
    have : v % (256 * 256 ^ n) = v % 256 + 256 * (v / 256 % 256 ^ n) := Nat.mod_mul
    rw [leBytes, fromLe, ih, Nat.pow_succ, Nat.mul_comm (256 ^ n) 256, this, BitVec.toNat_ofNat]

end Sys2Proof.Machine
end

