-- ==== Sys2Proof/Laws/State.lean ====
section
/-! SUPPORT. What each update of the state leaves, field by field, so that no later proof unfolds a record update: a
core, a strand, a context replaced, and the acting strand's registers and pc. -/

namespace Sys2Proof.Machine

/-! ### A core replaced -/

@[simp] theorem State.setCore_cur (s : State) (p : CoreId) (c : Core) : (s.setCore p c).cur = s.cur := rfl
@[simp] theorem State.setCore_str (s : State) (p : CoreId) (c : Core) : (s.setCore p c).str = s.str := rfl
@[simp] theorem State.setCore_agenda (s : State) (p : CoreId) (c : Core) : (s.setCore p c).agenda = s.agenda := rfl
@[simp] theorem State.setCore_fresh (s : State) (p : CoreId) (c : Core) : (s.setCore p c).fresh = s.fresh := rfl
@[simp] theorem State.setCore_ctxs (s : State) (p : CoreId) (c : Core) : (s.setCore p c).ctxs = s.ctxs := rfl
@[simp] theorem State.setCore_mem (s : State) (p : CoreId) (c : Core) : (s.setCore p c).mem = s.mem := rfl
@[simp] theorem State.setCore_badWords (s : State) (p : CoreId) (c : Core) : (s.setCore p c).badWords = s.badWords := rfl
@[simp] theorem State.setCore_badCopies (s : State) (p : CoreId) (c : Core) : (s.setCore p c).badCopies = s.badCopies := rfl
@[simp] theorem State.setCore_loose (s : State) (p : CoreId) (c : Core) : (s.setCore p c).loose = s.loose := rfl
@[simp] theorem State.setCore_waiters (s : State) (p : CoreId) (c : Core) : (s.setCore p c).waiters = s.waiters := rfl
@[simp] theorem State.setCore_retries (s : State) (p : CoreId) (c : Core) : (s.setCore p c).retries = s.retries := rfl
@[simp] theorem State.setCore_watches (s : State) (p : CoreId) (c : Core) : (s.setCore p c).watches = s.watches := rfl
@[simp] theorem State.setCore_seals (s : State) (p : CoreId) (c : Core) : (s.setCore p c).seals = s.seals := rfl
@[simp] theorem State.setCore_snap (s : State) (p : CoreId) (c : Core) : (s.setCore p c).snap = s.snap := rfl
@[simp] theorem State.setCore_snapCode (s : State) (p : CoreId) (c : Core) : (s.setCore p c).snapCode = s.snapCode := rfl
@[simp] theorem State.setCore_gen (s : State) (p : CoreId) (c : Core) : (s.setCore p c).gen = s.gen := rfl
@[simp] theorem State.setCore_grains (s : State) (p : CoreId) (c : Core) : (s.setCore p c).grains = s.grains := rfl
@[simp] theorem State.setCore_descs (s : State) (p : CoreId) (c : Core) : (s.setCore p c).descs = s.descs := rfl
@[simp] theorem State.setCore_nextDesc (s : State) (p : CoreId) (c : Core) : (s.setCore p c).nextDesc = s.nextDesc := rfl
@[simp] theorem State.setCore_engines (s : State) (p : CoreId) (c : Core) : (s.setCore p c).engines = s.engines := rfl
@[simp] theorem State.setCore_sbufs (s : State) (p : CoreId) (c : Core) : (s.setCore p c).sbufs = s.sbufs := rfl
@[simp] theorem State.setCore_comb (s : State) (p : CoreId) (c : Core) : (s.setCore p c).comb = s.comb := rfl
@[simp] theorem State.setCore_combWait (s : State) (p : CoreId) (c : Core) : (s.setCore p c).combWait = s.combWait := rfl
@[simp] theorem State.setCore_net (s : State) (p : CoreId) (c : Core) : (s.setCore p c).net = s.net := rfl
@[simp] theorem State.setCore_ext (s : State) (p : CoreId) (c : Core) : (s.setCore p c).ext = s.ext := rfl
@[simp] theorem State.setCore_ctxtbase (s : State) (p : CoreId) (c : Core) : (s.setCore p c).ctxtbase = s.ctxtbase := rfl
@[simp] theorem State.setCore_chains (s : State) (p : CoreId) (c : Core) : (s.setCore p c).chains = s.chains := rfl
@[simp] theorem State.setCore_devnum (s : State) (p : CoreId) (c : Core) : (s.setCore p c).devnum = s.devnum := rfl
@[simp] theorem State.setCore_portsUp (s : State) (p : CoreId) (c : Core) : (s.setCore p c).portsUp = s.portsUp := rfl
@[simp] theorem State.setCore_dup (s : State) (p : CoreId) (c : Core) : (s.setCore p c).dup = s.dup := rfl
@[simp] theorem State.setCore_hostErrV (s : State) (p : CoreId) (c : Core) : (s.setCore p c).hostErrV = s.hostErrV := rfl
@[simp] theorem State.setCore_hostErrCount (s : State) (p : CoreId) (c : Core) : (s.setCore p c).hostErrCount = s.hostErrCount := rfl
@[simp] theorem State.setCore_hostErrAddr (s : State) (p : CoreId) (c : Core) : (s.setCore p c).hostErrAddr = s.hostErrAddr := rfl
@[simp] theorem State.setCore_machineChecks (s : State) (p : CoreId) (c : Core) : (s.setCore p c).machineChecks = s.machineChecks := rfl
@[simp] theorem State.setCore_mcCount (s : State) (p : CoreId) (c : Core) : (s.setCore p c).mcCount = s.mcCount := rfl
@[simp] theorem State.setCore_msix (s : State) (p : CoreId) (c : Core) : (s.setCore p c).msix = s.msix := rfl
@[simp] theorem State.setCore_msixMask (s : State) (p : CoreId) (c : Core) : (s.setCore p c).msixMask = s.msixMask := rfl
@[simp] theorem State.setCore_msixPending (s : State) (p : CoreId) (c : Core) : (s.setCore p c).msixPending = s.msixPending := rfl
@[simp] theorem State.setCore_hostReplies (s : State) (p : CoreId) (c : Core) : (s.setCore p c).hostReplies = s.hostReplies := rfl
@[simp] theorem State.setCore_hostHeld (s : State) (p : CoreId) (c : Core) : (s.setCore p c).hostHeld = s.hostHeld := rfl
@[simp] theorem State.setCore_peerReplies (s : State) (p : CoreId) (c : Core) : (s.setCore p c).peerReplies = s.peerReplies := rfl
@[simp] theorem State.setCore_cycles (s : State) (p : CoreId) (c : Core) : (s.setCore p c).cycles = s.cycles := rfl
@[simp] theorem State.setCore_plat (s : State) (p : CoreId) (c : Core) : (s.setCore p c).plat = s.plat := rfl

@[simp] theorem State.core_setCore (s : State) (p : CoreId) (c : Core) : (s.setCore p c).core p = c := by
  simp [State.core, State.setCore]

theorem State.core_setCore_ne (s : State) (p q : CoreId) (c : Core) (h : p ≠ q) : (s.setCore p c).core q = s.core q := by
  have : p.val ≠ q.val := fun e => h (Fin.ext e)
  simp [State.core, State.setCore, this]

theorem State.core_setCore_ite (s : State) (p q : CoreId) (c : Core) :
    (s.setCore p c).core q = if p = q then c else s.core q := by
  split
  · next h => rw [← h, State.core_setCore]
  · next h => exact s.core_setCore_ne p q c h

@[simp] theorem State.setCore_core (s : State) (p : CoreId) : s.setCore p (s.core p) = s := by
  have : s.cores.set p s.cores[p] = s.cores := by simp
  simp only [State.setCore, State.core, this]

@[simp] theorem State.setCore_setCore (s : State) (p : CoreId) (c d : Core) : (s.setCore p c).setCore p d = s.setCore p d := by
  simp [State.setCore]

/-! ### A context replaced -/

@[simp] theorem State.setCtx_cur (s : State) (c : CtxId) (k : Ctx) : (s.setCtx c k).cur = s.cur := rfl
@[simp] theorem State.setCtx_str (s : State) (c : CtxId) (k : Ctx) : (s.setCtx c k).str = s.str := rfl
@[simp] theorem State.setCtx_agenda (s : State) (c : CtxId) (k : Ctx) : (s.setCtx c k).agenda = s.agenda := rfl
@[simp] theorem State.setCtx_fresh (s : State) (c : CtxId) (k : Ctx) : (s.setCtx c k).fresh = s.fresh := rfl
@[simp] theorem State.setCtx_cores (s : State) (c : CtxId) (k : Ctx) : (s.setCtx c k).cores = s.cores := rfl
@[simp] theorem State.setCtx_mem (s : State) (c : CtxId) (k : Ctx) : (s.setCtx c k).mem = s.mem := rfl
@[simp] theorem State.setCtx_badWords (s : State) (c : CtxId) (k : Ctx) : (s.setCtx c k).badWords = s.badWords := rfl
@[simp] theorem State.setCtx_badCopies (s : State) (c : CtxId) (k : Ctx) : (s.setCtx c k).badCopies = s.badCopies := rfl
@[simp] theorem State.setCtx_loose (s : State) (c : CtxId) (k : Ctx) : (s.setCtx c k).loose = s.loose := rfl
@[simp] theorem State.setCtx_waiters (s : State) (c : CtxId) (k : Ctx) : (s.setCtx c k).waiters = s.waiters := rfl
@[simp] theorem State.setCtx_retries (s : State) (c : CtxId) (k : Ctx) : (s.setCtx c k).retries = s.retries := rfl
@[simp] theorem State.setCtx_watches (s : State) (c : CtxId) (k : Ctx) : (s.setCtx c k).watches = s.watches := rfl
@[simp] theorem State.setCtx_seals (s : State) (c : CtxId) (k : Ctx) : (s.setCtx c k).seals = s.seals := rfl
@[simp] theorem State.setCtx_snap (s : State) (c : CtxId) (k : Ctx) : (s.setCtx c k).snap = s.snap := rfl
@[simp] theorem State.setCtx_snapCode (s : State) (c : CtxId) (k : Ctx) : (s.setCtx c k).snapCode = s.snapCode := rfl
@[simp] theorem State.setCtx_gen (s : State) (c : CtxId) (k : Ctx) : (s.setCtx c k).gen = s.gen := rfl
@[simp] theorem State.setCtx_grains (s : State) (c : CtxId) (k : Ctx) : (s.setCtx c k).grains = s.grains := rfl
@[simp] theorem State.setCtx_descs (s : State) (c : CtxId) (k : Ctx) : (s.setCtx c k).descs = s.descs := rfl
@[simp] theorem State.setCtx_nextDesc (s : State) (c : CtxId) (k : Ctx) : (s.setCtx c k).nextDesc = s.nextDesc := rfl
@[simp] theorem State.setCtx_engines (s : State) (c : CtxId) (k : Ctx) : (s.setCtx c k).engines = s.engines := rfl
@[simp] theorem State.setCtx_sbufs (s : State) (c : CtxId) (k : Ctx) : (s.setCtx c k).sbufs = s.sbufs := rfl
@[simp] theorem State.setCtx_comb (s : State) (c : CtxId) (k : Ctx) : (s.setCtx c k).comb = s.comb := rfl
@[simp] theorem State.setCtx_combWait (s : State) (c : CtxId) (k : Ctx) : (s.setCtx c k).combWait = s.combWait := rfl
@[simp] theorem State.setCtx_net (s : State) (c : CtxId) (k : Ctx) : (s.setCtx c k).net = s.net := rfl
@[simp] theorem State.setCtx_ext (s : State) (c : CtxId) (k : Ctx) : (s.setCtx c k).ext = s.ext := rfl
@[simp] theorem State.setCtx_ctxtbase (s : State) (c : CtxId) (k : Ctx) : (s.setCtx c k).ctxtbase = s.ctxtbase := rfl
@[simp] theorem State.setCtx_chains (s : State) (c : CtxId) (k : Ctx) : (s.setCtx c k).chains = s.chains := rfl
@[simp] theorem State.setCtx_devnum (s : State) (c : CtxId) (k : Ctx) : (s.setCtx c k).devnum = s.devnum := rfl
@[simp] theorem State.setCtx_portsUp (s : State) (c : CtxId) (k : Ctx) : (s.setCtx c k).portsUp = s.portsUp := rfl
@[simp] theorem State.setCtx_dup (s : State) (c : CtxId) (k : Ctx) : (s.setCtx c k).dup = s.dup := rfl
@[simp] theorem State.setCtx_hostErrV (s : State) (c : CtxId) (k : Ctx) : (s.setCtx c k).hostErrV = s.hostErrV := rfl
@[simp] theorem State.setCtx_hostErrCount (s : State) (c : CtxId) (k : Ctx) : (s.setCtx c k).hostErrCount = s.hostErrCount := rfl
@[simp] theorem State.setCtx_hostErrAddr (s : State) (c : CtxId) (k : Ctx) : (s.setCtx c k).hostErrAddr = s.hostErrAddr := rfl
@[simp] theorem State.setCtx_machineChecks (s : State) (c : CtxId) (k : Ctx) : (s.setCtx c k).machineChecks = s.machineChecks := rfl
@[simp] theorem State.setCtx_mcCount (s : State) (c : CtxId) (k : Ctx) : (s.setCtx c k).mcCount = s.mcCount := rfl
@[simp] theorem State.setCtx_msix (s : State) (c : CtxId) (k : Ctx) : (s.setCtx c k).msix = s.msix := rfl
@[simp] theorem State.setCtx_msixMask (s : State) (c : CtxId) (k : Ctx) : (s.setCtx c k).msixMask = s.msixMask := rfl
@[simp] theorem State.setCtx_msixPending (s : State) (c : CtxId) (k : Ctx) : (s.setCtx c k).msixPending = s.msixPending := rfl
@[simp] theorem State.setCtx_hostReplies (s : State) (c : CtxId) (k : Ctx) : (s.setCtx c k).hostReplies = s.hostReplies := rfl
@[simp] theorem State.setCtx_hostHeld (s : State) (c : CtxId) (k : Ctx) : (s.setCtx c k).hostHeld = s.hostHeld := rfl
@[simp] theorem State.setCtx_peerReplies (s : State) (c : CtxId) (k : Ctx) : (s.setCtx c k).peerReplies = s.peerReplies := rfl
@[simp] theorem State.setCtx_cycles (s : State) (c : CtxId) (k : Ctx) : (s.setCtx c k).cycles = s.cycles := rfl
@[simp] theorem State.setCtx_plat (s : State) (c : CtxId) (k : Ctx) : (s.setCtx c k).plat = s.plat := rfl

@[simp] theorem State.setCtx_core (s : State) (c : CtxId) (k : Ctx) (p : CoreId) : (s.setCtx c k).core p = s.core p := rfl
@[simp] theorem State.setCore_ctx (s : State) (p : CoreId) (x : Core) (c : CtxId) : (s.setCore p x).ctx c = s.ctx c := rfl

@[simp] theorem State.ctx_setCtx (s : State) (c : CtxId) (k : Ctx) : (s.setCtx c k).ctx c = k := by
  simp [State.ctx, State.setCtx]

theorem State.ctx_setCtx_ne (s : State) (c d : CtxId) (k : Ctx) (h : c ≠ d) : (s.setCtx c k).ctx d = s.ctx d := by
  have : c.val ≠ d.val := fun e => h (Fin.ext e)
  simp [State.ctx, State.setCtx, this]

/-! ### A strand replaced -/

@[simp] theorem State.setStrand_cur (s : State) (p : CoreId) (t : StrandId) (st : Strand) : (s.setStrand p t st).cur = s.cur := rfl
@[simp] theorem State.setStrand_str (s : State) (p : CoreId) (t : StrandId) (st : Strand) : (s.setStrand p t st).str = s.str := rfl
@[simp] theorem State.setStrand_agenda (s : State) (p : CoreId) (t : StrandId) (st : Strand) : (s.setStrand p t st).agenda = s.agenda := rfl
@[simp] theorem State.setStrand_fresh (s : State) (p : CoreId) (t : StrandId) (st : Strand) : (s.setStrand p t st).fresh = s.fresh := rfl
@[simp] theorem State.setStrand_ctxs (s : State) (p : CoreId) (t : StrandId) (st : Strand) : (s.setStrand p t st).ctxs = s.ctxs := rfl
@[simp] theorem State.setStrand_mem (s : State) (p : CoreId) (t : StrandId) (st : Strand) : (s.setStrand p t st).mem = s.mem := rfl
@[simp] theorem State.setStrand_badWords (s : State) (p : CoreId) (t : StrandId) (st : Strand) : (s.setStrand p t st).badWords = s.badWords := rfl
@[simp] theorem State.setStrand_badCopies (s : State) (p : CoreId) (t : StrandId) (st : Strand) : (s.setStrand p t st).badCopies = s.badCopies := rfl
@[simp] theorem State.setStrand_loose (s : State) (p : CoreId) (t : StrandId) (st : Strand) : (s.setStrand p t st).loose = s.loose := rfl
@[simp] theorem State.setStrand_waiters (s : State) (p : CoreId) (t : StrandId) (st : Strand) : (s.setStrand p t st).waiters = s.waiters := rfl
@[simp] theorem State.setStrand_retries (s : State) (p : CoreId) (t : StrandId) (st : Strand) : (s.setStrand p t st).retries = s.retries := rfl
@[simp] theorem State.setStrand_watches (s : State) (p : CoreId) (t : StrandId) (st : Strand) : (s.setStrand p t st).watches = s.watches := rfl
@[simp] theorem State.setStrand_seals (s : State) (p : CoreId) (t : StrandId) (st : Strand) : (s.setStrand p t st).seals = s.seals := rfl
@[simp] theorem State.setStrand_snap (s : State) (p : CoreId) (t : StrandId) (st : Strand) : (s.setStrand p t st).snap = s.snap := rfl
@[simp] theorem State.setStrand_snapCode (s : State) (p : CoreId) (t : StrandId) (st : Strand) : (s.setStrand p t st).snapCode = s.snapCode := rfl
@[simp] theorem State.setStrand_gen (s : State) (p : CoreId) (t : StrandId) (st : Strand) : (s.setStrand p t st).gen = s.gen := rfl
@[simp] theorem State.setStrand_grains (s : State) (p : CoreId) (t : StrandId) (st : Strand) : (s.setStrand p t st).grains = s.grains := rfl
@[simp] theorem State.setStrand_descs (s : State) (p : CoreId) (t : StrandId) (st : Strand) : (s.setStrand p t st).descs = s.descs := rfl
@[simp] theorem State.setStrand_nextDesc (s : State) (p : CoreId) (t : StrandId) (st : Strand) : (s.setStrand p t st).nextDesc = s.nextDesc := rfl
@[simp] theorem State.setStrand_engines (s : State) (p : CoreId) (t : StrandId) (st : Strand) : (s.setStrand p t st).engines = s.engines := rfl
@[simp] theorem State.setStrand_sbufs (s : State) (p : CoreId) (t : StrandId) (st : Strand) : (s.setStrand p t st).sbufs = s.sbufs := rfl
@[simp] theorem State.setStrand_comb (s : State) (p : CoreId) (t : StrandId) (st : Strand) : (s.setStrand p t st).comb = s.comb := rfl
@[simp] theorem State.setStrand_combWait (s : State) (p : CoreId) (t : StrandId) (st : Strand) : (s.setStrand p t st).combWait = s.combWait := rfl
@[simp] theorem State.setStrand_net (s : State) (p : CoreId) (t : StrandId) (st : Strand) : (s.setStrand p t st).net = s.net := rfl
@[simp] theorem State.setStrand_ext (s : State) (p : CoreId) (t : StrandId) (st : Strand) : (s.setStrand p t st).ext = s.ext := rfl
@[simp] theorem State.setStrand_ctxtbase (s : State) (p : CoreId) (t : StrandId) (st : Strand) : (s.setStrand p t st).ctxtbase = s.ctxtbase := rfl
@[simp] theorem State.setStrand_chains (s : State) (p : CoreId) (t : StrandId) (st : Strand) : (s.setStrand p t st).chains = s.chains := rfl
@[simp] theorem State.setStrand_devnum (s : State) (p : CoreId) (t : StrandId) (st : Strand) : (s.setStrand p t st).devnum = s.devnum := rfl
@[simp] theorem State.setStrand_portsUp (s : State) (p : CoreId) (t : StrandId) (st : Strand) : (s.setStrand p t st).portsUp = s.portsUp := rfl
@[simp] theorem State.setStrand_dup (s : State) (p : CoreId) (t : StrandId) (st : Strand) : (s.setStrand p t st).dup = s.dup := rfl
@[simp] theorem State.setStrand_hostErrV (s : State) (p : CoreId) (t : StrandId) (st : Strand) : (s.setStrand p t st).hostErrV = s.hostErrV := rfl
@[simp] theorem State.setStrand_hostErrCount (s : State) (p : CoreId) (t : StrandId) (st : Strand) : (s.setStrand p t st).hostErrCount = s.hostErrCount := rfl
@[simp] theorem State.setStrand_hostErrAddr (s : State) (p : CoreId) (t : StrandId) (st : Strand) : (s.setStrand p t st).hostErrAddr = s.hostErrAddr := rfl
@[simp] theorem State.setStrand_machineChecks (s : State) (p : CoreId) (t : StrandId) (st : Strand) : (s.setStrand p t st).machineChecks = s.machineChecks := rfl
@[simp] theorem State.setStrand_mcCount (s : State) (p : CoreId) (t : StrandId) (st : Strand) : (s.setStrand p t st).mcCount = s.mcCount := rfl
@[simp] theorem State.setStrand_msix (s : State) (p : CoreId) (t : StrandId) (st : Strand) : (s.setStrand p t st).msix = s.msix := rfl
@[simp] theorem State.setStrand_msixMask (s : State) (p : CoreId) (t : StrandId) (st : Strand) : (s.setStrand p t st).msixMask = s.msixMask := rfl
@[simp] theorem State.setStrand_msixPending (s : State) (p : CoreId) (t : StrandId) (st : Strand) : (s.setStrand p t st).msixPending = s.msixPending := rfl
@[simp] theorem State.setStrand_hostReplies (s : State) (p : CoreId) (t : StrandId) (st : Strand) : (s.setStrand p t st).hostReplies = s.hostReplies := rfl
@[simp] theorem State.setStrand_hostHeld (s : State) (p : CoreId) (t : StrandId) (st : Strand) : (s.setStrand p t st).hostHeld = s.hostHeld := rfl
@[simp] theorem State.setStrand_peerReplies (s : State) (p : CoreId) (t : StrandId) (st : Strand) : (s.setStrand p t st).peerReplies = s.peerReplies := rfl
@[simp] theorem State.setStrand_cycles (s : State) (p : CoreId) (t : StrandId) (st : Strand) : (s.setStrand p t st).cycles = s.cycles := rfl
@[simp] theorem State.setStrand_plat (s : State) (p : CoreId) (t : StrandId) (st : Strand) : (s.setStrand p t st).plat = s.plat := rfl
@[simp] theorem State.setStrand_core_serves (s : State) (p q : CoreId) (t : StrandId) (st : Strand) : ((s.setStrand p t st).core q).serves = (s.core q).serves := by
  rw [State.setStrand, State.core_setCore_ite]; split
  · next h => subst h; rfl
  · rfl
@[simp] theorem State.setStrand_core_lcore (s : State) (p q : CoreId) (t : StrandId) (st : Strand) : ((s.setStrand p t st).core q).lcore = (s.core q).lcore := by
  rw [State.setStrand, State.core_setCore_ite]; split
  · next h => subst h; rfl
  · rfl
@[simp] theorem State.setStrand_core_ptroot (s : State) (p q : CoreId) (t : StrandId) (st : Strand) : ((s.setStrand p t st).core q).ptroot = (s.core q).ptroot := by
  rw [State.setStrand, State.core_setCore_ite]; split
  · next h => subst h; rfl
  · rfl
@[simp] theorem State.setStrand_core_capmask (s : State) (p q : CoreId) (t : StrandId) (st : Strand) : ((s.setStrand p t st).core q).capmask = (s.core q).capmask := by
  rw [State.setStrand, State.core_setCore_ite]; split
  · next h => subst h; rfl
  · rfl
@[simp] theorem State.setStrand_core_ovt (s : State) (p q : CoreId) (t : StrandId) (st : Strand) : ((s.setStrand p t st).core q).ovt = (s.core q).ovt := by
  rw [State.setStrand, State.core_setCore_ite]; split
  · next h => subst h; rfl
  · rfl
@[simp] theorem State.setStrand_core_poolV (s : State) (p q : CoreId) (t : StrandId) (st : Strand) : ((s.setStrand p t st).core q).poolV = (s.core q).poolV := by
  rw [State.setStrand, State.core_setCore_ite]; split
  · next h => subst h; rfl
  · rfl
@[simp] theorem State.setStrand_core_poolS (s : State) (p q : CoreId) (t : StrandId) (st : Strand) : ((s.setStrand p t st).core q).poolS = (s.core q).poolS := by
  rw [State.setStrand, State.core_setCore_ite]; split
  · next h => subst h; rfl
  · rfl
@[simp] theorem State.setStrand_core_poolC (s : State) (p q : CoreId) (t : StrandId) (st : Strand) : ((s.setStrand p t st).core q).poolC = (s.core q).poolC := by
  rw [State.setStrand, State.core_setCore_ite]; split
  · next h => subst h; rfl
  · rfl
@[simp] theorem State.setStrand_core_npool (s : State) (p q : CoreId) (t : StrandId) (st : Strand) : ((s.setStrand p t st).core q).npool = (s.core q).npool := by
  rw [State.setStrand, State.core_setCore_ite]; split
  · next h => subst h; rfl
  · rfl
@[simp] theorem State.setStrand_core_cpyshare (s : State) (p q : CoreId) (t : StrandId) (st : Strand) : ((s.setStrand p t st).core q).cpyshare = (s.core q).cpyshare := by
  rw [State.setStrand, State.core_setCore_ite]; split
  · next h => subst h; rfl
  · rfl
@[simp] theorem State.setStrand_core_bag (s : State) (p q : CoreId) (t : StrandId) (st : Strand) : ((s.setStrand p t st).core q).bag = (s.core q).bag := by
  rw [State.setStrand, State.core_setCore_ite]; split
  · next h => subst h; rfl
  · rfl
@[simp] theorem State.setStrand_core_sweepCount (s : State) (p q : CoreId) (t : StrandId) (st : Strand) : ((s.setStrand p t st).core q).sweepCount = (s.core q).sweepCount := by
  rw [State.setStrand, State.core_setCore_ite]; split
  · next h => subst h; rfl
  · rfl
@[simp] theorem State.setStrand_core_sweep (s : State) (p q : CoreId) (t : StrandId) (st : Strand) : ((s.setStrand p t st).core q).sweep = (s.core q).sweep := by
  rw [State.setStrand, State.core_setCore_ite]; split
  · next h => subst h; rfl
  · rfl
@[simp] theorem State.setStrand_core_asked (s : State) (p q : CoreId) (t : StrandId) (st : Strand) : ((s.setStrand p t st).core q).asked = (s.core q).asked := by
  rw [State.setStrand, State.core_setCore_ite]; split
  · next h => subst h; rfl
  · rfl
@[simp] theorem State.setStrand_core_hungry (s : State) (p q : CoreId) (t : StrandId) (st : Strand) : ((s.setStrand p t st).core q).hungry = (s.core q).hungry := by
  rw [State.setStrand, State.core_setCore_ite]; split
  · next h => subst h; rfl
  · rfl
@[simp] theorem State.setStrand_core_deliveries (s : State) (p q : CoreId) (t : StrandId) (st : Strand) : ((s.setStrand p t st).core q).deliveries = (s.core q).deliveries := by
  rw [State.setStrand, State.core_setCore_ite]; split
  · next h => subst h; rfl
  · rfl
@[simp] theorem State.setStrand_core_whole (s : State) (p q : CoreId) (t : StrandId) (st : Strand) : ((s.setStrand p t st).core q).whole = (s.core q).whole := by
  rw [State.setStrand, State.core_setCore_ite]; split
  · next h => subst h; rfl
  · rfl
@[simp] theorem State.setStrand_core_uses (s : State) (p q : CoreId) (t : StrandId) (st : Strand) : ((s.setStrand p t st).core q).uses = (s.core q).uses := by
  rw [State.setStrand, State.core_setCore_ite]; split
  · next h => subst h; rfl
  · rfl
@[simp] theorem State.setStrand_core_laneReqs (s : State) (p q : CoreId) (t : StrandId) (st : Strand) : ((s.setStrand p t st).core q).laneReqs = (s.core q).laneReqs := by
  rw [State.setStrand, State.core_setCore_ite]; split
  · next h => subst h; rfl
  · rfl
@[simp] theorem State.setStrand_core_lanes (s : State) (p q : CoreId) (t : StrandId) (st : Strand) : ((s.setStrand p t st).core q).lanes = (s.core q).lanes := by
  rw [State.setStrand, State.core_setCore_ite]; split
  · next h => subst h; rfl
  · rfl
@[simp] theorem State.setStrand_core_spad (s : State) (p q : CoreId) (t : StrandId) (st : Strand) : ((s.setStrand p t st).core q).spad = (s.core q).spad := by
  rw [State.setStrand, State.core_setCore_ite]; split
  · next h => subst h; rfl
  · rfl
@[simp] theorem State.setStrand_core_spadFull (s : State) (p q : CoreId) (t : StrandId) (st : Strand) : ((s.setStrand p t st).core q).spadFull = (s.core q).spadFull := by
  rw [State.setStrand, State.core_setCore_ite]; split
  · next h => subst h; rfl
  · rfl
@[simp] theorem State.setStrand_core_wayTag (s : State) (p q : CoreId) (t : StrandId) (st : Strand) : ((s.setStrand p t st).core q).wayTag = (s.core q).wayTag := by
  rw [State.setStrand, State.core_setCore_ite]; split
  · next h => subst h; rfl
  · rfl
@[simp] theorem State.setStrand_core_parityBad (s : State) (p q : CoreId) (t : StrandId) (st : Strand) : ((s.setStrand p t st).core q).parityBad = (s.core q).parityBad := by
  rw [State.setStrand, State.core_setCore_ite]; split
  · next h => subst h; rfl
  · rfl
@[simp] theorem State.setStrand_core_mismatched (s : State) (p q : CoreId) (t : StrandId) (st : Strand) : ((s.setStrand p t st).core q).mismatched = (s.core q).mismatched := by
  rw [State.setStrand, State.core_setCore_ite]; split
  · next h => subst h; rfl
  · rfl
@[simp] theorem State.setStrand_core_failed (s : State) (p q : CoreId) (t : StrandId) (st : Strand) : ((s.setStrand p t st).core q).failed = (s.core q).failed := by
  rw [State.setStrand, State.core_setCore_ite]; split
  · next h => subst h; rfl
  · rfl
@[simp] theorem State.setStrand_core_copies (s : State) (p q : CoreId) (t : StrandId) (st : Strand) : ((s.setStrand p t st).core q).copies = (s.core q).copies := by
  rw [State.setStrand, State.core_setCore_ite]; split
  · next h => subst h; rfl
  · rfl
@[simp] theorem State.setStrand_core_copyFault (s : State) (p q : CoreId) (t : StrandId) (st : Strand) : ((s.setStrand p t st).core q).copyFault = (s.core q).copyFault := by
  rw [State.setStrand, State.core_setCore_ite]; split
  · next h => subst h; rfl
  · rfl
@[simp] theorem State.setStrand_core_tlb (s : State) (p q : CoreId) (t : StrandId) (st : Strand) : ((s.setStrand p t st).core q).tlb = (s.core q).tlb := by
  rw [State.setStrand, State.core_setCore_ite]; split
  · next h => subst h; rfl
  · rfl
@[simp] theorem State.setStrand_core_nodes (s : State) (p q : CoreId) (t : StrandId) (st : Strand) : ((s.setStrand p t st).core q).nodes = (s.core q).nodes := by
  rw [State.setStrand, State.core_setCore_ite]; split
  · next h => subst h; rfl
  · rfl
@[simp] theorem State.setStrand_core_rules (s : State) (p q : CoreId) (t : StrandId) (st : Strand) : ((s.setStrand p t st).core q).rules = (s.core q).rules := by
  rw [State.setStrand, State.core_setCore_ite]; split
  · next h => subst h; rfl
  · rfl
@[simp] theorem State.setStrand_core_icache (s : State) (p q : CoreId) (t : StrandId) (st : Strand) : ((s.setStrand p t st).core q).icache = (s.core q).icache := by
  rw [State.setStrand, State.core_setCore_ite]; split
  · next h => subst h; rfl
  · rfl
@[simp] theorem State.setStrand_core_lastIssued (s : State) (p q : CoreId) (t : StrandId) (st : Strand) : ((s.setStrand p t st).core q).lastIssued = (s.core q).lastIssued := by
  rw [State.setStrand, State.core_setCore_ite]; split
  · next h => subst h; rfl
  · rfl
@[simp] theorem State.setStrand_core_yreq (s : State) (p q : CoreId) (t : StrandId) (st : Strand) : ((s.setStrand p t st).core q).yreq = (s.core q).yreq := by
  rw [State.setStrand, State.core_setCore_ite]; split
  · next h => subst h; rfl
  · rfl
@[simp] theorem State.setStrand_core_waitTrap (s : State) (p q : CoreId) (t : StrandId) (st : Strand) : ((s.setStrand p t st).core q).waitTrap = (s.core q).waitTrap := by
  rw [State.setStrand, State.core_setCore_ite]; split
  · next h => subst h; rfl
  · rfl
@[simp] theorem State.setStrand_core_waitLimit (s : State) (p q : CoreId) (t : StrandId) (st : Strand) : ((s.setStrand p t st).core q).waitLimit = (s.core q).waitLimit := by
  rw [State.setStrand, State.core_setCore_ite]; split
  · next h => subst h; rfl
  · rfl
@[simp] theorem State.setStrand_core_allowance (s : State) (p q : CoreId) (t : StrandId) (st : Strand) : ((s.setStrand p t st).core q).allowance = (s.core q).allowance := by
  rw [State.setStrand, State.core_setCore_ite]; split
  · next h => subst h; rfl
  · rfl
@[simp] theorem State.setStrand_core_channels (s : State) (p q : CoreId) (t : StrandId) (st : Strand) : ((s.setStrand p t st).core q).channels = (s.core q).channels := by
  rw [State.setStrand, State.core_setCore_ite]; split
  · next h => subst h; rfl
  · rfl
@[simp] theorem State.setStrand_core_server (s : State) (p q : CoreId) (t : StrandId) (st : Strand) : ((s.setStrand p t st).core q).server = (s.core q).server := by
  rw [State.setStrand, State.core_setCore_ite]; split
  · next h => subst h; rfl
  · rfl
@[simp] theorem State.setStrand_core_redHeld (s : State) (p q : CoreId) (t : StrandId) (st : Strand) : ((s.setStrand p t st).core q).redHeld = (s.core q).redHeld := by
  rw [State.setStrand, State.core_setCore_ite]; split
  · next h => subst h; rfl
  · rfl
@[simp] theorem State.setStrand_core_dbg (s : State) (p q : CoreId) (t : StrandId) (st : Strand) : ((s.setStrand p t st).core q).dbg = (s.core q).dbg := by
  rw [State.setStrand, State.core_setCore_ite]; split
  · next h => subst h; rfl
  · rfl
@[simp] theorem State.setStrand_core_thermal (s : State) (p q : CoreId) (t : StrandId) (st : Strand) : ((s.setStrand p t st).core q).thermal = (s.core q).thermal := by
  rw [State.setStrand, State.core_setCore_ite]; split
  · next h => subst h; rfl
  · rfl
@[simp] theorem State.setStrand_core_wants (s : State) (p q : CoreId) (t : StrandId) (st : Strand) : ((s.setStrand p t st).core q).wants = (s.core q).wants := by
  rw [State.setStrand, State.core_setCore_ite]; split
  · next h => subst h; rfl
  · rfl

@[simp] theorem State.strand_setStrand (s : State) (p : CoreId) (t : StrandId) (st : Strand) :
    (s.setStrand p t st).strand p t = st := by
  simp [State.strand, State.setStrand]

theorem State.strand_setStrand_ne (s : State) (p q : CoreId) (t u : StrandId) (st : Strand) (h : (p, t) ≠ (q, u)) :
    (s.setStrand p t st).strand q u = s.strand q u := by
  simp only [State.strand, State.setStrand, State.core_setCore_ite]
  split
  · next e =>
    subst e
    have : t.val ≠ u.val := fun e => h (by rw [Fin.ext e])
    simp [this]
  · rfl

@[simp] theorem State.setStrand_ctx (s : State) (p : CoreId) (t : StrandId) (st : Strand) (c : CtxId) :
    (s.setStrand p t st).ctx c = s.ctx c := rfl

@[simp] theorem State.setStrand_strand (s : State) (p : CoreId) (t : StrandId) : s.setStrand p t (s.strand p t) = s := by
  have : (s.core p).strands.set t (s.core p).strands[t] = (s.core p).strands := by simp
  simp only [State.setStrand, State.strand, this]
  exact s.setCore_core p

@[simp] theorem State.setStrand_setStrand (s : State) (p : CoreId) (t : StrandId) (a b : Strand) :
    (s.setStrand p t a).setStrand p t b = s.setStrand p t b := by
  simp [State.setStrand]

/-! ### The acting strand replaced -/

@[simp] theorem State.setMe_cur (s : State) (st : Strand) : (s.setMe st).cur = s.cur := rfl
@[simp] theorem State.setMe_str (s : State) (st : Strand) : (s.setMe st).str = s.str := rfl
@[simp] theorem State.setMe_agenda (s : State) (st : Strand) : (s.setMe st).agenda = s.agenda := rfl
@[simp] theorem State.setMe_fresh (s : State) (st : Strand) : (s.setMe st).fresh = s.fresh := rfl
@[simp] theorem State.setMe_ctxs (s : State) (st : Strand) : (s.setMe st).ctxs = s.ctxs := rfl
@[simp] theorem State.setMe_mem (s : State) (st : Strand) : (s.setMe st).mem = s.mem := rfl
@[simp] theorem State.setMe_badWords (s : State) (st : Strand) : (s.setMe st).badWords = s.badWords := rfl
@[simp] theorem State.setMe_badCopies (s : State) (st : Strand) : (s.setMe st).badCopies = s.badCopies := rfl
@[simp] theorem State.setMe_loose (s : State) (st : Strand) : (s.setMe st).loose = s.loose := rfl
@[simp] theorem State.setMe_waiters (s : State) (st : Strand) : (s.setMe st).waiters = s.waiters := rfl
@[simp] theorem State.setMe_retries (s : State) (st : Strand) : (s.setMe st).retries = s.retries := rfl
@[simp] theorem State.setMe_watches (s : State) (st : Strand) : (s.setMe st).watches = s.watches := rfl
@[simp] theorem State.setMe_seals (s : State) (st : Strand) : (s.setMe st).seals = s.seals := rfl
@[simp] theorem State.setMe_snap (s : State) (st : Strand) : (s.setMe st).snap = s.snap := rfl
@[simp] theorem State.setMe_snapCode (s : State) (st : Strand) : (s.setMe st).snapCode = s.snapCode := rfl
@[simp] theorem State.setMe_gen (s : State) (st : Strand) : (s.setMe st).gen = s.gen := rfl
@[simp] theorem State.setMe_grains (s : State) (st : Strand) : (s.setMe st).grains = s.grains := rfl
@[simp] theorem State.setMe_descs (s : State) (st : Strand) : (s.setMe st).descs = s.descs := rfl
@[simp] theorem State.setMe_nextDesc (s : State) (st : Strand) : (s.setMe st).nextDesc = s.nextDesc := rfl
@[simp] theorem State.setMe_engines (s : State) (st : Strand) : (s.setMe st).engines = s.engines := rfl
@[simp] theorem State.setMe_sbufs (s : State) (st : Strand) : (s.setMe st).sbufs = s.sbufs := rfl
@[simp] theorem State.setMe_comb (s : State) (st : Strand) : (s.setMe st).comb = s.comb := rfl
@[simp] theorem State.setMe_combWait (s : State) (st : Strand) : (s.setMe st).combWait = s.combWait := rfl
@[simp] theorem State.setMe_net (s : State) (st : Strand) : (s.setMe st).net = s.net := rfl
@[simp] theorem State.setMe_ext (s : State) (st : Strand) : (s.setMe st).ext = s.ext := rfl
@[simp] theorem State.setMe_ctxtbase (s : State) (st : Strand) : (s.setMe st).ctxtbase = s.ctxtbase := rfl
@[simp] theorem State.setMe_chains (s : State) (st : Strand) : (s.setMe st).chains = s.chains := rfl
@[simp] theorem State.setMe_devnum (s : State) (st : Strand) : (s.setMe st).devnum = s.devnum := rfl
@[simp] theorem State.setMe_portsUp (s : State) (st : Strand) : (s.setMe st).portsUp = s.portsUp := rfl
@[simp] theorem State.setMe_dup (s : State) (st : Strand) : (s.setMe st).dup = s.dup := rfl
@[simp] theorem State.setMe_hostErrV (s : State) (st : Strand) : (s.setMe st).hostErrV = s.hostErrV := rfl
@[simp] theorem State.setMe_hostErrCount (s : State) (st : Strand) : (s.setMe st).hostErrCount = s.hostErrCount := rfl
@[simp] theorem State.setMe_hostErrAddr (s : State) (st : Strand) : (s.setMe st).hostErrAddr = s.hostErrAddr := rfl
@[simp] theorem State.setMe_machineChecks (s : State) (st : Strand) : (s.setMe st).machineChecks = s.machineChecks := rfl
@[simp] theorem State.setMe_mcCount (s : State) (st : Strand) : (s.setMe st).mcCount = s.mcCount := rfl
@[simp] theorem State.setMe_msix (s : State) (st : Strand) : (s.setMe st).msix = s.msix := rfl
@[simp] theorem State.setMe_msixMask (s : State) (st : Strand) : (s.setMe st).msixMask = s.msixMask := rfl
@[simp] theorem State.setMe_msixPending (s : State) (st : Strand) : (s.setMe st).msixPending = s.msixPending := rfl
@[simp] theorem State.setMe_hostReplies (s : State) (st : Strand) : (s.setMe st).hostReplies = s.hostReplies := rfl
@[simp] theorem State.setMe_hostHeld (s : State) (st : Strand) : (s.setMe st).hostHeld = s.hostHeld := rfl
@[simp] theorem State.setMe_peerReplies (s : State) (st : Strand) : (s.setMe st).peerReplies = s.peerReplies := rfl
@[simp] theorem State.setMe_cycles (s : State) (st : Strand) : (s.setMe st).cycles = s.cycles := rfl
@[simp] theorem State.setMe_plat (s : State) (st : Strand) : (s.setMe st).plat = s.plat := rfl
@[simp] theorem State.setMe_core_serves (s : State) (st : Strand) (q : CoreId) : ((s.setMe st).core q).serves = (s.core q).serves := s.setStrand_core_serves s.cur q s.str st
@[simp] theorem State.setMe_core_lcore (s : State) (st : Strand) (q : CoreId) : ((s.setMe st).core q).lcore = (s.core q).lcore := s.setStrand_core_lcore s.cur q s.str st
@[simp] theorem State.setMe_core_ptroot (s : State) (st : Strand) (q : CoreId) : ((s.setMe st).core q).ptroot = (s.core q).ptroot := s.setStrand_core_ptroot s.cur q s.str st
@[simp] theorem State.setMe_core_capmask (s : State) (st : Strand) (q : CoreId) : ((s.setMe st).core q).capmask = (s.core q).capmask := s.setStrand_core_capmask s.cur q s.str st
@[simp] theorem State.setMe_core_ovt (s : State) (st : Strand) (q : CoreId) : ((s.setMe st).core q).ovt = (s.core q).ovt := s.setStrand_core_ovt s.cur q s.str st
@[simp] theorem State.setMe_core_poolV (s : State) (st : Strand) (q : CoreId) : ((s.setMe st).core q).poolV = (s.core q).poolV := s.setStrand_core_poolV s.cur q s.str st
@[simp] theorem State.setMe_core_poolS (s : State) (st : Strand) (q : CoreId) : ((s.setMe st).core q).poolS = (s.core q).poolS := s.setStrand_core_poolS s.cur q s.str st
@[simp] theorem State.setMe_core_poolC (s : State) (st : Strand) (q : CoreId) : ((s.setMe st).core q).poolC = (s.core q).poolC := s.setStrand_core_poolC s.cur q s.str st
@[simp] theorem State.setMe_core_npool (s : State) (st : Strand) (q : CoreId) : ((s.setMe st).core q).npool = (s.core q).npool := s.setStrand_core_npool s.cur q s.str st
@[simp] theorem State.setMe_core_cpyshare (s : State) (st : Strand) (q : CoreId) : ((s.setMe st).core q).cpyshare = (s.core q).cpyshare := s.setStrand_core_cpyshare s.cur q s.str st
@[simp] theorem State.setMe_core_bag (s : State) (st : Strand) (q : CoreId) : ((s.setMe st).core q).bag = (s.core q).bag := s.setStrand_core_bag s.cur q s.str st
@[simp] theorem State.setMe_core_sweepCount (s : State) (st : Strand) (q : CoreId) : ((s.setMe st).core q).sweepCount = (s.core q).sweepCount := s.setStrand_core_sweepCount s.cur q s.str st
@[simp] theorem State.setMe_core_sweep (s : State) (st : Strand) (q : CoreId) : ((s.setMe st).core q).sweep = (s.core q).sweep := s.setStrand_core_sweep s.cur q s.str st
@[simp] theorem State.setMe_core_asked (s : State) (st : Strand) (q : CoreId) : ((s.setMe st).core q).asked = (s.core q).asked := s.setStrand_core_asked s.cur q s.str st
@[simp] theorem State.setMe_core_hungry (s : State) (st : Strand) (q : CoreId) : ((s.setMe st).core q).hungry = (s.core q).hungry := s.setStrand_core_hungry s.cur q s.str st
@[simp] theorem State.setMe_core_deliveries (s : State) (st : Strand) (q : CoreId) : ((s.setMe st).core q).deliveries = (s.core q).deliveries := s.setStrand_core_deliveries s.cur q s.str st
@[simp] theorem State.setMe_core_whole (s : State) (st : Strand) (q : CoreId) : ((s.setMe st).core q).whole = (s.core q).whole := s.setStrand_core_whole s.cur q s.str st
@[simp] theorem State.setMe_core_uses (s : State) (st : Strand) (q : CoreId) : ((s.setMe st).core q).uses = (s.core q).uses := s.setStrand_core_uses s.cur q s.str st
@[simp] theorem State.setMe_core_laneReqs (s : State) (st : Strand) (q : CoreId) : ((s.setMe st).core q).laneReqs = (s.core q).laneReqs := s.setStrand_core_laneReqs s.cur q s.str st
@[simp] theorem State.setMe_core_lanes (s : State) (st : Strand) (q : CoreId) : ((s.setMe st).core q).lanes = (s.core q).lanes := s.setStrand_core_lanes s.cur q s.str st
@[simp] theorem State.setMe_core_spad (s : State) (st : Strand) (q : CoreId) : ((s.setMe st).core q).spad = (s.core q).spad := s.setStrand_core_spad s.cur q s.str st
@[simp] theorem State.setMe_core_spadFull (s : State) (st : Strand) (q : CoreId) : ((s.setMe st).core q).spadFull = (s.core q).spadFull := s.setStrand_core_spadFull s.cur q s.str st
@[simp] theorem State.setMe_core_wayTag (s : State) (st : Strand) (q : CoreId) : ((s.setMe st).core q).wayTag = (s.core q).wayTag := s.setStrand_core_wayTag s.cur q s.str st
@[simp] theorem State.setMe_core_parityBad (s : State) (st : Strand) (q : CoreId) : ((s.setMe st).core q).parityBad = (s.core q).parityBad := s.setStrand_core_parityBad s.cur q s.str st
@[simp] theorem State.setMe_core_mismatched (s : State) (st : Strand) (q : CoreId) : ((s.setMe st).core q).mismatched = (s.core q).mismatched := s.setStrand_core_mismatched s.cur q s.str st
@[simp] theorem State.setMe_core_failed (s : State) (st : Strand) (q : CoreId) : ((s.setMe st).core q).failed = (s.core q).failed := s.setStrand_core_failed s.cur q s.str st
@[simp] theorem State.setMe_core_copies (s : State) (st : Strand) (q : CoreId) : ((s.setMe st).core q).copies = (s.core q).copies := s.setStrand_core_copies s.cur q s.str st
@[simp] theorem State.setMe_core_copyFault (s : State) (st : Strand) (q : CoreId) : ((s.setMe st).core q).copyFault = (s.core q).copyFault := s.setStrand_core_copyFault s.cur q s.str st
@[simp] theorem State.setMe_core_tlb (s : State) (st : Strand) (q : CoreId) : ((s.setMe st).core q).tlb = (s.core q).tlb := s.setStrand_core_tlb s.cur q s.str st
@[simp] theorem State.setMe_core_nodes (s : State) (st : Strand) (q : CoreId) : ((s.setMe st).core q).nodes = (s.core q).nodes := s.setStrand_core_nodes s.cur q s.str st
@[simp] theorem State.setMe_core_rules (s : State) (st : Strand) (q : CoreId) : ((s.setMe st).core q).rules = (s.core q).rules := s.setStrand_core_rules s.cur q s.str st
@[simp] theorem State.setMe_core_icache (s : State) (st : Strand) (q : CoreId) : ((s.setMe st).core q).icache = (s.core q).icache := s.setStrand_core_icache s.cur q s.str st
@[simp] theorem State.setMe_core_lastIssued (s : State) (st : Strand) (q : CoreId) : ((s.setMe st).core q).lastIssued = (s.core q).lastIssued := s.setStrand_core_lastIssued s.cur q s.str st
@[simp] theorem State.setMe_core_yreq (s : State) (st : Strand) (q : CoreId) : ((s.setMe st).core q).yreq = (s.core q).yreq := s.setStrand_core_yreq s.cur q s.str st
@[simp] theorem State.setMe_core_waitTrap (s : State) (st : Strand) (q : CoreId) : ((s.setMe st).core q).waitTrap = (s.core q).waitTrap := s.setStrand_core_waitTrap s.cur q s.str st
@[simp] theorem State.setMe_core_waitLimit (s : State) (st : Strand) (q : CoreId) : ((s.setMe st).core q).waitLimit = (s.core q).waitLimit := s.setStrand_core_waitLimit s.cur q s.str st
@[simp] theorem State.setMe_core_allowance (s : State) (st : Strand) (q : CoreId) : ((s.setMe st).core q).allowance = (s.core q).allowance := s.setStrand_core_allowance s.cur q s.str st
@[simp] theorem State.setMe_core_channels (s : State) (st : Strand) (q : CoreId) : ((s.setMe st).core q).channels = (s.core q).channels := s.setStrand_core_channels s.cur q s.str st
@[simp] theorem State.setMe_core_server (s : State) (st : Strand) (q : CoreId) : ((s.setMe st).core q).server = (s.core q).server := s.setStrand_core_server s.cur q s.str st
@[simp] theorem State.setMe_core_redHeld (s : State) (st : Strand) (q : CoreId) : ((s.setMe st).core q).redHeld = (s.core q).redHeld := s.setStrand_core_redHeld s.cur q s.str st
@[simp] theorem State.setMe_core_dbg (s : State) (st : Strand) (q : CoreId) : ((s.setMe st).core q).dbg = (s.core q).dbg := s.setStrand_core_dbg s.cur q s.str st
@[simp] theorem State.setMe_core_thermal (s : State) (st : Strand) (q : CoreId) : ((s.setMe st).core q).thermal = (s.core q).thermal := s.setStrand_core_thermal s.cur q s.str st
@[simp] theorem State.setMe_core_wants (s : State) (st : Strand) (q : CoreId) : ((s.setMe st).core q).wants = (s.core q).wants := s.setStrand_core_wants s.cur q s.str st

@[simp] theorem State.me_setMe (s : State) (st : Strand) : (s.setMe st).me = st := s.strand_setStrand s.cur s.str st

@[simp] theorem State.setMe_me (s : State) : s.setMe s.me = s := s.setStrand_strand s.cur s.str

@[simp] theorem State.setMe_setMe (s : State) (a b : Strand) : (s.setMe a).setMe b = s.setMe b :=
  s.setStrand_setStrand s.cur s.str a b

@[simp] theorem State.setMe_ctx (s : State) (st : Strand) (c : CtxId) : (s.setMe st).ctx c = s.ctx c := rfl

@[simp] theorem State.setMe_mine_serves (s : State) (st : Strand) : (s.setMe st).mine.serves = s.mine.serves :=
  s.setMe_core_serves st s.cur

@[simp] theorem State.setMe_myCtx (s : State) (st : Strand) : (s.setMe st).myCtx = s.myCtx := by
  simp [State.myCtx]

/-! ### Registers and the pc -/

@[simp] theorem Strand.withX_pc (st : Strand) (r : BitVec 5) (v : Word) : (st.withX r v).pc = st.pc := by unfold Strand.withX; split <;> rfl
@[simp] theorem Strand.withX_vtype (st : Strand) (r : BitVec 5) (v : Word) : (st.withX r v).vtype = st.vtype := by unfold Strand.withX; split <;> rfl
@[simp] theorem Strand.withX_vlen (st : Strand) (r : BitVec 5) (v : Word) : (st.withX r v).vlen = st.vlen := by unfold Strand.withX; split <;> rfl
@[simp] theorem Strand.withX_vstart (st : Strand) (r : BitVec 5) (v : Word) : (st.withX r v).vstart = st.vstart := by unfold Strand.withX; split <;> rfl
@[simp] theorem Strand.withX_vstat (st : Strand) (r : BitVec 5) (v : Word) : (st.withX r v).vstat = st.vstat := by unfold Strand.withX; split <;> rfl
@[simp] theorem Strand.withX_vicount (st : Strand) (r : BitVec 5) (v : Word) : (st.withX r v).vicount = st.vicount := by unfold Strand.withX; split <;> rfl
@[simp] theorem Strand.withX_rndseed (st : Strand) (r : BitVec 5) (v : Word) : (st.withX r v).rndseed = st.rndseed := by unfold Strand.withX; split <;> rfl
@[simp] theorem Strand.withX_fmt (st : Strand) (r : BitVec 5) (v : Word) : (st.withX r v).fmt = st.fmt := by unfold Strand.withX; split <;> rfl
@[simp] theorem Strand.withX_chanmap (st : Strand) (r : BitVec 5) (v : Word) : (st.withX r v).chanmap = st.chanmap := by unfold Strand.withX; split <;> rfl
@[simp] theorem Strand.withX_treeRoot (st : Strand) (r : BitVec 5) (v : Word) : (st.withX r v).treeRoot = st.treeRoot := by unfold Strand.withX; split <;> rfl
@[simp] theorem Strand.withX_treeDev (st : Strand) (r : BitVec 5) (v : Word) : (st.withX r v).treeDev = st.treeDev := by unfold Strand.withX; split <;> rfl
@[simp] theorem Strand.withX_treeLcore (st : Strand) (r : BitVec 5) (v : Word) : (st.withX r v).treeLcore = st.treeLcore := by unfold Strand.withX; split <;> rfl
@[simp] theorem Strand.withX_sbbase (st : Strand) (r : BitVec 5) (v : Word) : (st.withX r v).sbbase = st.sbbase := by unfold Strand.withX; split <;> rfl
@[simp] theorem Strand.withX_vfelem (st : Strand) (r : BitVec 5) (v : Word) : (st.withX r v).vfelem = st.vfelem := by unfold Strand.withX; split <;> rfl
@[simp] theorem Strand.withX_trapvec (st : Strand) (r : BitVec 5) (v : Word) : (st.withX r v).trapvec = st.trapvec := by unfold Strand.withX; split <;> rfl
@[simp] theorem Strand.withX_causeSw (st : Strand) (r : BitVec 5) (v : Word) : (st.withX r v).causeSw = st.causeSw := by unfold Strand.withX; split <;> rfl
@[simp] theorem Strand.withX_cause (st : Strand) (r : BitVec 5) (v : Word) : (st.withX r v).cause = st.cause := by unfold Strand.withX; split <;> rfl
@[simp] theorem Strand.withX_tval (st : Strand) (r : BitVec 5) (v : Word) : (st.withX r v).tval = st.tval := by unfold Strand.withX; split <;> rfl
@[simp] theorem Strand.withX_tepc (st : Strand) (r : BitVec 5) (v : Word) : (st.withX r v).tepc = st.tepc := by unfold Strand.withX; split <;> rfl
@[simp] theorem Strand.withX_latch (st : Strand) (r : BitVec 5) (v : Word) : (st.withX r v).latch = st.latch := by unfold Strand.withX; split <;> rfl
@[simp] theorem Strand.withX_tact (st : Strand) (r : BitVec 5) (v : Word) : (st.withX r v).tact = st.tact := by unfold Strand.withX; split <;> rfl
@[simp] theorem Strand.withX_ppriv (st : Strand) (r : BitVec 5) (v : Word) : (st.withX r v).ppriv = st.ppriv := by unfold Strand.withX; split <;> rfl
@[simp] theorem Strand.withX_priv (st : Strand) (r : BitVec 5) (v : Word) : (st.withX r v).priv = st.priv := by unfold Strand.withX; split <;> rfl
@[simp] theorem Strand.withX_tscratch (st : Strand) (r : BitVec 5) (v : Word) : (st.withX r v).tscratch = st.tscratch := by unfold Strand.withX; split <;> rfl
@[simp] theorem Strand.withX_halted (st : Strand) (r : BitVec 5) (v : Word) : (st.withX r v).halted = st.halted := by unfold Strand.withX; split <;> rfl
@[simp] theorem Strand.withX_dbgHalted (st : Strand) (r : BitVec 5) (v : Word) : (st.withX r v).dbgHalted = st.dbgHalted := by unfold Strand.withX; split <;> rfl
@[simp] theorem Strand.withX_dbgStep (st : Strand) (r : BitVec 5) (v : Word) : (st.withX r v).dbgStep = st.dbgStep := by unfold Strand.withX; split <;> rfl
@[simp] theorem Strand.withX_dbgAsked (st : Strand) (r : BitVec 5) (v : Word) : (st.withX r v).dbgAsked = st.dbgAsked := by unfold Strand.withX; split <;> rfl
@[simp] theorem Strand.withX_wait (st : Strand) (r : BitVec 5) (v : Word) : (st.withX r v).wait = st.wait := by unfold Strand.withX; split <;> rfl
@[simp] theorem Strand.withX_queue (st : Strand) (r : BitVec 5) (v : Word) : (st.withX r v).queue = st.queue := by unfold Strand.withX; split <;> rfl
@[simp] theorem Strand.withX_head (st : Strand) (r : BitVec 5) (v : Word) : (st.withX r v).head = st.head := by unfold Strand.withX; split <;> rfl
@[simp] theorem Strand.withX_replay (st : Strand) (r : BitVec 5) (v : Word) : (st.withX r v).replay = st.replay := by unfold Strand.withX; split <;> rfl
@[simp] theorem Strand.withX_vfault (st : Strand) (r : BitVec 5) (v : Word) : (st.withX r v).vfault = st.vfault := by unfold Strand.withX; split <;> rfl
@[simp] theorem Strand.withX_preempt (st : Strand) (r : BitVec 5) (v : Word) : (st.withX r v).preempt = st.preempt := by unfold Strand.withX; split <;> rfl
@[simp] theorem Strand.withX_asyncTraps (st : Strand) (r : BitVec 5) (v : Word) : (st.withX r v).asyncTraps = st.asyncTraps := by unfold Strand.withX; split <;> rfl
@[simp] theorem Strand.withX_readq (st : Strand) (r : BitVec 5) (v : Word) : (st.withX r v).readq = st.readq := by unfold Strand.withX; split <;> rfl
@[simp] theorem Strand.withX_relaxed (st : Strand) (r : BitVec 5) (v : Word) : (st.withX r v).relaxed = st.relaxed := by unfold Strand.withX; split <;> rfl
@[simp] theorem Strand.withX_relaxedFault (st : Strand) (r : BitVec 5) (v : Word) : (st.withX r v).relaxedFault = st.relaxedFault := by unfold Strand.withX; split <;> rfl
@[simp] theorem Strand.withX_muldiv (st : Strand) (r : BitVec 5) (v : Word) : (st.withX r v).muldiv = st.muldiv := by unfold Strand.withX; split <;> rfl
@[simp] theorem Strand.withX_firing (st : Strand) (r : BitVec 5) (v : Word) : (st.withX r v).firing = st.firing := by unfold Strand.withX; split <;> rfl
@[simp] theorem Strand.withX_resumed (st : Strand) (r : BitVec 5) (v : Word) : (st.withX r v).resumed = st.resumed := by unfold Strand.withX; split <;> rfl
@[simp] theorem Strand.withX_nstep (st : Strand) (r : BitVec 5) (v : Word) : (st.withX r v).nstep = st.nstep := by unfold Strand.withX; split <;> rfl
@[simp] theorem Strand.withX_nextAt (st : Strand) (r : BitVec 5) (v : Word) : (st.withX r v).nextAt = st.nextAt := by unfold Strand.withX; split <;> rfl
@[simp] theorem Strand.withX_rulePair (st : Strand) (r : BitVec 5) (v : Word) : (st.withX r v).rulePair = st.rulePair := by unfold Strand.withX; split <;> rfl
@[simp] theorem Strand.withX_cls (st : Strand) (r : BitVec 5) (v : Word) : (st.withX r v).cls = st.cls := by unfold Strand.withX; split <;> rfl
@[simp] theorem Strand.withX_part (st : Strand) (r : BitVec 5) (v : Word) : (st.withX r v).part = st.part := by unfold Strand.withX; split <;> rfl
@[simp] theorem Strand.withX_acc (st : Strand) (r : BitVec 5) (v : Word) : (st.withX r v).acc = st.acc := by unfold Strand.withX; split <;> rfl
@[simp] theorem Strand.withX_counted (st : Strand) (r : BitVec 5) (v : Word) : (st.withX r v).counted = st.counted := by unfold Strand.withX; split <;> rfl
@[simp] theorem Strand.withX_progress (st : Strand) (r : BitVec 5) (v : Word) : (st.withX r v).progress = st.progress := by unfold Strand.withX; split <;> rfl
@[simp] theorem Strand.withX_progressAt (st : Strand) (r : BitVec 5) (v : Word) : (st.withX r v).progressAt = st.progressAt := by unfold Strand.withX; split <;> rfl
@[simp] theorem Strand.withX_serving (st : Strand) (r : BitVec 5) (v : Word) : (st.withX r v).serving = st.serving := by unfold Strand.withX; split <;> rfl
@[simp] theorem Strand.withX_cameFrom (st : Strand) (r : BitVec 5) (v : Word) : (st.withX r v).cameFrom = st.cameFrom := by unfold Strand.withX; split <;> rfl
@[simp] theorem Strand.withX_lanesDue (st : Strand) (r : BitVec 5) (v : Word) : (st.withX r v).lanesDue = st.lanesDue := by unfold Strand.withX; split <;> rfl
@[simp] theorem Strand.withX_owed (st : Strand) (r : BitVec 5) (v : Word) : (st.withX r v).owed = st.owed := by unfold Strand.withX; split <;> rfl
@[simp] theorem Strand.withX_fetchBuf (st : Strand) (r : BitVec 5) (v : Word) : (st.withX r v).fetchBuf = st.fetchBuf := by unfold Strand.withX; split <;> rfl
@[simp] theorem Strand.withX_issuedWord (st : Strand) (r : BitVec 5) (v : Word) : (st.withX r v).issuedWord = st.issuedWord := by unfold Strand.withX; split <;> rfl
@[simp] theorem State.setReg_cur (s : State) (r : BitVec 5) (v : Word) : (s.setReg r v).cur = s.cur := rfl
@[simp] theorem State.setPc_cur (s : State) (a : Word) : (s.setPc a).cur = s.cur := rfl
@[simp] theorem State.finish_cur (s : State) (r : BitVec 5) (v : Word) : (s.finish r v).cur = s.cur := rfl
@[simp] theorem State.setReg_str (s : State) (r : BitVec 5) (v : Word) : (s.setReg r v).str = s.str := rfl
@[simp] theorem State.setPc_str (s : State) (a : Word) : (s.setPc a).str = s.str := rfl
@[simp] theorem State.finish_str (s : State) (r : BitVec 5) (v : Word) : (s.finish r v).str = s.str := rfl
@[simp] theorem State.setReg_agenda (s : State) (r : BitVec 5) (v : Word) : (s.setReg r v).agenda = s.agenda := rfl
@[simp] theorem State.setPc_agenda (s : State) (a : Word) : (s.setPc a).agenda = s.agenda := rfl
@[simp] theorem State.finish_agenda (s : State) (r : BitVec 5) (v : Word) : (s.finish r v).agenda = s.agenda := rfl
@[simp] theorem State.setReg_fresh (s : State) (r : BitVec 5) (v : Word) : (s.setReg r v).fresh = s.fresh := rfl
@[simp] theorem State.setPc_fresh (s : State) (a : Word) : (s.setPc a).fresh = s.fresh := rfl
@[simp] theorem State.finish_fresh (s : State) (r : BitVec 5) (v : Word) : (s.finish r v).fresh = s.fresh := rfl
@[simp] theorem State.setReg_ctxs (s : State) (r : BitVec 5) (v : Word) : (s.setReg r v).ctxs = s.ctxs := rfl
@[simp] theorem State.setPc_ctxs (s : State) (a : Word) : (s.setPc a).ctxs = s.ctxs := rfl
@[simp] theorem State.finish_ctxs (s : State) (r : BitVec 5) (v : Word) : (s.finish r v).ctxs = s.ctxs := rfl
@[simp] theorem State.setReg_mem (s : State) (r : BitVec 5) (v : Word) : (s.setReg r v).mem = s.mem := rfl
@[simp] theorem State.setPc_mem (s : State) (a : Word) : (s.setPc a).mem = s.mem := rfl
@[simp] theorem State.finish_mem (s : State) (r : BitVec 5) (v : Word) : (s.finish r v).mem = s.mem := rfl
@[simp] theorem State.setReg_badWords (s : State) (r : BitVec 5) (v : Word) : (s.setReg r v).badWords = s.badWords := rfl
@[simp] theorem State.setPc_badWords (s : State) (a : Word) : (s.setPc a).badWords = s.badWords := rfl
@[simp] theorem State.finish_badWords (s : State) (r : BitVec 5) (v : Word) : (s.finish r v).badWords = s.badWords := rfl
@[simp] theorem State.setReg_badCopies (s : State) (r : BitVec 5) (v : Word) : (s.setReg r v).badCopies = s.badCopies := rfl
@[simp] theorem State.setPc_badCopies (s : State) (a : Word) : (s.setPc a).badCopies = s.badCopies := rfl
@[simp] theorem State.finish_badCopies (s : State) (r : BitVec 5) (v : Word) : (s.finish r v).badCopies = s.badCopies := rfl
@[simp] theorem State.setReg_loose (s : State) (r : BitVec 5) (v : Word) : (s.setReg r v).loose = s.loose := rfl
@[simp] theorem State.setPc_loose (s : State) (a : Word) : (s.setPc a).loose = s.loose := rfl
@[simp] theorem State.finish_loose (s : State) (r : BitVec 5) (v : Word) : (s.finish r v).loose = s.loose := rfl
@[simp] theorem State.setReg_waiters (s : State) (r : BitVec 5) (v : Word) : (s.setReg r v).waiters = s.waiters := rfl
@[simp] theorem State.setPc_waiters (s : State) (a : Word) : (s.setPc a).waiters = s.waiters := rfl
@[simp] theorem State.finish_waiters (s : State) (r : BitVec 5) (v : Word) : (s.finish r v).waiters = s.waiters := rfl
@[simp] theorem State.setReg_retries (s : State) (r : BitVec 5) (v : Word) : (s.setReg r v).retries = s.retries := rfl
@[simp] theorem State.setPc_retries (s : State) (a : Word) : (s.setPc a).retries = s.retries := rfl
@[simp] theorem State.finish_retries (s : State) (r : BitVec 5) (v : Word) : (s.finish r v).retries = s.retries := rfl
@[simp] theorem State.setReg_watches (s : State) (r : BitVec 5) (v : Word) : (s.setReg r v).watches = s.watches := rfl
@[simp] theorem State.setPc_watches (s : State) (a : Word) : (s.setPc a).watches = s.watches := rfl
@[simp] theorem State.finish_watches (s : State) (r : BitVec 5) (v : Word) : (s.finish r v).watches = s.watches := rfl
@[simp] theorem State.setReg_seals (s : State) (r : BitVec 5) (v : Word) : (s.setReg r v).seals = s.seals := rfl
@[simp] theorem State.setPc_seals (s : State) (a : Word) : (s.setPc a).seals = s.seals := rfl
@[simp] theorem State.finish_seals (s : State) (r : BitVec 5) (v : Word) : (s.finish r v).seals = s.seals := rfl
@[simp] theorem State.setReg_snap (s : State) (r : BitVec 5) (v : Word) : (s.setReg r v).snap = s.snap := rfl
@[simp] theorem State.setPc_snap (s : State) (a : Word) : (s.setPc a).snap = s.snap := rfl
@[simp] theorem State.finish_snap (s : State) (r : BitVec 5) (v : Word) : (s.finish r v).snap = s.snap := rfl
@[simp] theorem State.setReg_snapCode (s : State) (r : BitVec 5) (v : Word) : (s.setReg r v).snapCode = s.snapCode := rfl
@[simp] theorem State.setPc_snapCode (s : State) (a : Word) : (s.setPc a).snapCode = s.snapCode := rfl
@[simp] theorem State.finish_snapCode (s : State) (r : BitVec 5) (v : Word) : (s.finish r v).snapCode = s.snapCode := rfl
@[simp] theorem State.setReg_gen (s : State) (r : BitVec 5) (v : Word) : (s.setReg r v).gen = s.gen := rfl
@[simp] theorem State.setPc_gen (s : State) (a : Word) : (s.setPc a).gen = s.gen := rfl
@[simp] theorem State.finish_gen (s : State) (r : BitVec 5) (v : Word) : (s.finish r v).gen = s.gen := rfl
@[simp] theorem State.setReg_grains (s : State) (r : BitVec 5) (v : Word) : (s.setReg r v).grains = s.grains := rfl
@[simp] theorem State.setPc_grains (s : State) (a : Word) : (s.setPc a).grains = s.grains := rfl
@[simp] theorem State.finish_grains (s : State) (r : BitVec 5) (v : Word) : (s.finish r v).grains = s.grains := rfl
@[simp] theorem State.setReg_descs (s : State) (r : BitVec 5) (v : Word) : (s.setReg r v).descs = s.descs := rfl
@[simp] theorem State.setPc_descs (s : State) (a : Word) : (s.setPc a).descs = s.descs := rfl
@[simp] theorem State.finish_descs (s : State) (r : BitVec 5) (v : Word) : (s.finish r v).descs = s.descs := rfl
@[simp] theorem State.setReg_nextDesc (s : State) (r : BitVec 5) (v : Word) : (s.setReg r v).nextDesc = s.nextDesc := rfl
@[simp] theorem State.setPc_nextDesc (s : State) (a : Word) : (s.setPc a).nextDesc = s.nextDesc := rfl
@[simp] theorem State.finish_nextDesc (s : State) (r : BitVec 5) (v : Word) : (s.finish r v).nextDesc = s.nextDesc := rfl
@[simp] theorem State.setReg_engines (s : State) (r : BitVec 5) (v : Word) : (s.setReg r v).engines = s.engines := rfl
@[simp] theorem State.setPc_engines (s : State) (a : Word) : (s.setPc a).engines = s.engines := rfl
@[simp] theorem State.finish_engines (s : State) (r : BitVec 5) (v : Word) : (s.finish r v).engines = s.engines := rfl
@[simp] theorem State.setReg_sbufs (s : State) (r : BitVec 5) (v : Word) : (s.setReg r v).sbufs = s.sbufs := rfl
@[simp] theorem State.setPc_sbufs (s : State) (a : Word) : (s.setPc a).sbufs = s.sbufs := rfl
@[simp] theorem State.finish_sbufs (s : State) (r : BitVec 5) (v : Word) : (s.finish r v).sbufs = s.sbufs := rfl
@[simp] theorem State.setReg_comb (s : State) (r : BitVec 5) (v : Word) : (s.setReg r v).comb = s.comb := rfl
@[simp] theorem State.setPc_comb (s : State) (a : Word) : (s.setPc a).comb = s.comb := rfl
@[simp] theorem State.finish_comb (s : State) (r : BitVec 5) (v : Word) : (s.finish r v).comb = s.comb := rfl
@[simp] theorem State.setReg_combWait (s : State) (r : BitVec 5) (v : Word) : (s.setReg r v).combWait = s.combWait := rfl
@[simp] theorem State.setPc_combWait (s : State) (a : Word) : (s.setPc a).combWait = s.combWait := rfl
@[simp] theorem State.finish_combWait (s : State) (r : BitVec 5) (v : Word) : (s.finish r v).combWait = s.combWait := rfl
@[simp] theorem State.setReg_net (s : State) (r : BitVec 5) (v : Word) : (s.setReg r v).net = s.net := rfl
@[simp] theorem State.setPc_net (s : State) (a : Word) : (s.setPc a).net = s.net := rfl
@[simp] theorem State.finish_net (s : State) (r : BitVec 5) (v : Word) : (s.finish r v).net = s.net := rfl
@[simp] theorem State.setReg_ext (s : State) (r : BitVec 5) (v : Word) : (s.setReg r v).ext = s.ext := rfl
@[simp] theorem State.setPc_ext (s : State) (a : Word) : (s.setPc a).ext = s.ext := rfl
@[simp] theorem State.finish_ext (s : State) (r : BitVec 5) (v : Word) : (s.finish r v).ext = s.ext := rfl
@[simp] theorem State.setReg_ctxtbase (s : State) (r : BitVec 5) (v : Word) : (s.setReg r v).ctxtbase = s.ctxtbase := rfl
@[simp] theorem State.setPc_ctxtbase (s : State) (a : Word) : (s.setPc a).ctxtbase = s.ctxtbase := rfl
@[simp] theorem State.finish_ctxtbase (s : State) (r : BitVec 5) (v : Word) : (s.finish r v).ctxtbase = s.ctxtbase := rfl
@[simp] theorem State.setReg_chains (s : State) (r : BitVec 5) (v : Word) : (s.setReg r v).chains = s.chains := rfl
@[simp] theorem State.setPc_chains (s : State) (a : Word) : (s.setPc a).chains = s.chains := rfl
@[simp] theorem State.finish_chains (s : State) (r : BitVec 5) (v : Word) : (s.finish r v).chains = s.chains := rfl
@[simp] theorem State.setReg_devnum (s : State) (r : BitVec 5) (v : Word) : (s.setReg r v).devnum = s.devnum := rfl
@[simp] theorem State.setPc_devnum (s : State) (a : Word) : (s.setPc a).devnum = s.devnum := rfl
@[simp] theorem State.finish_devnum (s : State) (r : BitVec 5) (v : Word) : (s.finish r v).devnum = s.devnum := rfl
@[simp] theorem State.setReg_portsUp (s : State) (r : BitVec 5) (v : Word) : (s.setReg r v).portsUp = s.portsUp := rfl
@[simp] theorem State.setPc_portsUp (s : State) (a : Word) : (s.setPc a).portsUp = s.portsUp := rfl
@[simp] theorem State.finish_portsUp (s : State) (r : BitVec 5) (v : Word) : (s.finish r v).portsUp = s.portsUp := rfl
@[simp] theorem State.setReg_dup (s : State) (r : BitVec 5) (v : Word) : (s.setReg r v).dup = s.dup := rfl
@[simp] theorem State.setPc_dup (s : State) (a : Word) : (s.setPc a).dup = s.dup := rfl
@[simp] theorem State.finish_dup (s : State) (r : BitVec 5) (v : Word) : (s.finish r v).dup = s.dup := rfl
@[simp] theorem State.setReg_hostErrV (s : State) (r : BitVec 5) (v : Word) : (s.setReg r v).hostErrV = s.hostErrV := rfl
@[simp] theorem State.setPc_hostErrV (s : State) (a : Word) : (s.setPc a).hostErrV = s.hostErrV := rfl
@[simp] theorem State.finish_hostErrV (s : State) (r : BitVec 5) (v : Word) : (s.finish r v).hostErrV = s.hostErrV := rfl
@[simp] theorem State.setReg_hostErrCount (s : State) (r : BitVec 5) (v : Word) : (s.setReg r v).hostErrCount = s.hostErrCount := rfl
@[simp] theorem State.setPc_hostErrCount (s : State) (a : Word) : (s.setPc a).hostErrCount = s.hostErrCount := rfl
@[simp] theorem State.finish_hostErrCount (s : State) (r : BitVec 5) (v : Word) : (s.finish r v).hostErrCount = s.hostErrCount := rfl
@[simp] theorem State.setReg_hostErrAddr (s : State) (r : BitVec 5) (v : Word) : (s.setReg r v).hostErrAddr = s.hostErrAddr := rfl
@[simp] theorem State.setPc_hostErrAddr (s : State) (a : Word) : (s.setPc a).hostErrAddr = s.hostErrAddr := rfl
@[simp] theorem State.finish_hostErrAddr (s : State) (r : BitVec 5) (v : Word) : (s.finish r v).hostErrAddr = s.hostErrAddr := rfl
@[simp] theorem State.setReg_machineChecks (s : State) (r : BitVec 5) (v : Word) : (s.setReg r v).machineChecks = s.machineChecks := rfl
@[simp] theorem State.setPc_machineChecks (s : State) (a : Word) : (s.setPc a).machineChecks = s.machineChecks := rfl
@[simp] theorem State.finish_machineChecks (s : State) (r : BitVec 5) (v : Word) : (s.finish r v).machineChecks = s.machineChecks := rfl
@[simp] theorem State.setReg_mcCount (s : State) (r : BitVec 5) (v : Word) : (s.setReg r v).mcCount = s.mcCount := rfl
@[simp] theorem State.setPc_mcCount (s : State) (a : Word) : (s.setPc a).mcCount = s.mcCount := rfl
@[simp] theorem State.finish_mcCount (s : State) (r : BitVec 5) (v : Word) : (s.finish r v).mcCount = s.mcCount := rfl
@[simp] theorem State.setReg_msix (s : State) (r : BitVec 5) (v : Word) : (s.setReg r v).msix = s.msix := rfl
@[simp] theorem State.setReg_msixMask (s : State) (r : BitVec 5) (v : Word) : (s.setReg r v).msixMask = s.msixMask := rfl
@[simp] theorem State.setReg_msixPending (s : State) (r : BitVec 5) (v : Word) : (s.setReg r v).msixPending = s.msixPending := rfl
@[simp] theorem State.setPc_msix (s : State) (a : Word) : (s.setPc a).msix = s.msix := rfl
@[simp] theorem State.setPc_msixMask (s : State) (a : Word) : (s.setPc a).msixMask = s.msixMask := rfl
@[simp] theorem State.setPc_msixPending (s : State) (a : Word) : (s.setPc a).msixPending = s.msixPending := rfl
@[simp] theorem State.finish_msix (s : State) (r : BitVec 5) (v : Word) : (s.finish r v).msix = s.msix := rfl
@[simp] theorem State.finish_msixMask (s : State) (r : BitVec 5) (v : Word) : (s.finish r v).msixMask = s.msixMask := rfl
@[simp] theorem State.finish_msixPending (s : State) (r : BitVec 5) (v : Word) : (s.finish r v).msixPending = s.msixPending := rfl
@[simp] theorem State.setReg_hostReplies (s : State) (r : BitVec 5) (v : Word) : (s.setReg r v).hostReplies = s.hostReplies := rfl
@[simp] theorem State.setPc_hostReplies (s : State) (a : Word) : (s.setPc a).hostReplies = s.hostReplies := rfl
@[simp] theorem State.finish_hostReplies (s : State) (r : BitVec 5) (v : Word) : (s.finish r v).hostReplies = s.hostReplies := rfl
@[simp] theorem State.setReg_hostHeld (s : State) (r : BitVec 5) (v : Word) : (s.setReg r v).hostHeld = s.hostHeld := rfl
@[simp] theorem State.setPc_hostHeld (s : State) (a : Word) : (s.setPc a).hostHeld = s.hostHeld := rfl
@[simp] theorem State.finish_hostHeld (s : State) (r : BitVec 5) (v : Word) : (s.finish r v).hostHeld = s.hostHeld := rfl
@[simp] theorem State.setReg_peerReplies (s : State) (r : BitVec 5) (v : Word) : (s.setReg r v).peerReplies = s.peerReplies := rfl
@[simp] theorem State.setPc_peerReplies (s : State) (a : Word) : (s.setPc a).peerReplies = s.peerReplies := rfl
@[simp] theorem State.finish_peerReplies (s : State) (r : BitVec 5) (v : Word) : (s.finish r v).peerReplies = s.peerReplies := rfl
@[simp] theorem State.setReg_cycles (s : State) (r : BitVec 5) (v : Word) : (s.setReg r v).cycles = s.cycles := rfl
@[simp] theorem State.setPc_cycles (s : State) (a : Word) : (s.setPc a).cycles = s.cycles := rfl
@[simp] theorem State.finish_cycles (s : State) (r : BitVec 5) (v : Word) : (s.finish r v).cycles = s.cycles := rfl
@[simp] theorem State.setReg_plat (s : State) (r : BitVec 5) (v : Word) : (s.setReg r v).plat = s.plat := rfl
@[simp] theorem State.setPc_plat (s : State) (a : Word) : (s.setPc a).plat = s.plat := rfl
@[simp] theorem State.finish_plat (s : State) (r : BitVec 5) (v : Word) : (s.finish r v).plat = s.plat := rfl

@[simp] theorem State.me_setReg (s : State) (r : BitVec 5) (v : Word) : (s.setReg r v).me = s.me.withX r v := s.me_setMe _

@[simp] theorem State.me_setPc (s : State) (a : Word) : (s.setPc a).me = { s.me with pc := a } := s.me_setMe _

@[simp] theorem State.me_advance (s : State) : s.advance.me = { s.me with pc := s.me.pc + 4 } := s.me_setMe _

@[simp] theorem State.me_finish (s : State) (r : BitVec 5) (v : Word) :
    (s.finish r v).me = { s.me.withX r v with pc := s.me.pc + 4 } := by
  simp [State.finish]

/-- Everything that finishing an instruction does. -/
theorem State.finish_eq (s : State) (r : BitVec 5) (v : Word) :
    s.finish r v = s.setMe { s.me.withX r v with pc := s.me.pc + 4 } := by
  simp [State.finish, State.advance, State.setPc, State.setReg]

@[simp] theorem State.reg_zero (s : State) : s.reg 0 = 0 := rfl

theorem State.reg_finish (s : State) (r q : BitVec 5) (v : Word) :
    (s.finish r v).reg q = if q = 0 then 0 else if q = r then v else s.reg q := by
  unfold State.reg
  rw [State.me_finish]
  by_cases hq : q = 0
  · rw [if_pos hq, if_pos hq]
  · rw [if_neg hq, if_neg hq, if_neg hq]
    unfold Strand.withX
    by_cases hr : r = 0
    · rw [if_pos hr, if_neg (hr ▸ hq)]
    · rw [if_neg hr]
      by_cases e : q = r
      · subst e; simp
      · have : r.toNat ≠ q.toNat := fun x => e (BitVec.eq_of_toNat_eq x.symm)
        simp [e, this]

/-! ### Acting at another strand -/

@[simp] theorem State.at_agenda (s : State) (p : CoreId) (t : StrandId) : (s.at p t).agenda = s.agenda := rfl
@[simp] theorem State.at_fresh (s : State) (p : CoreId) (t : StrandId) : (s.at p t).fresh = s.fresh := rfl
@[simp] theorem State.at_cores (s : State) (p : CoreId) (t : StrandId) : (s.at p t).cores = s.cores := rfl
@[simp] theorem State.at_ctxs (s : State) (p : CoreId) (t : StrandId) : (s.at p t).ctxs = s.ctxs := rfl
@[simp] theorem State.at_mem (s : State) (p : CoreId) (t : StrandId) : (s.at p t).mem = s.mem := rfl
@[simp] theorem State.at_badWords (s : State) (p : CoreId) (t : StrandId) : (s.at p t).badWords = s.badWords := rfl
@[simp] theorem State.at_badCopies (s : State) (p : CoreId) (t : StrandId) : (s.at p t).badCopies = s.badCopies := rfl
@[simp] theorem State.at_loose (s : State) (p : CoreId) (t : StrandId) : (s.at p t).loose = s.loose := rfl
@[simp] theorem State.at_waiters (s : State) (p : CoreId) (t : StrandId) : (s.at p t).waiters = s.waiters := rfl
@[simp] theorem State.at_retries (s : State) (p : CoreId) (t : StrandId) : (s.at p t).retries = s.retries := rfl
@[simp] theorem State.at_watches (s : State) (p : CoreId) (t : StrandId) : (s.at p t).watches = s.watches := rfl
@[simp] theorem State.at_seals (s : State) (p : CoreId) (t : StrandId) : (s.at p t).seals = s.seals := rfl
@[simp] theorem State.at_snap (s : State) (p : CoreId) (t : StrandId) : (s.at p t).snap = s.snap := rfl
@[simp] theorem State.at_snapCode (s : State) (p : CoreId) (t : StrandId) : (s.at p t).snapCode = s.snapCode := rfl
@[simp] theorem State.at_gen (s : State) (p : CoreId) (t : StrandId) : (s.at p t).gen = s.gen := rfl
@[simp] theorem State.at_grains (s : State) (p : CoreId) (t : StrandId) : (s.at p t).grains = s.grains := rfl
@[simp] theorem State.at_descs (s : State) (p : CoreId) (t : StrandId) : (s.at p t).descs = s.descs := rfl
@[simp] theorem State.at_nextDesc (s : State) (p : CoreId) (t : StrandId) : (s.at p t).nextDesc = s.nextDesc := rfl
@[simp] theorem State.at_engines (s : State) (p : CoreId) (t : StrandId) : (s.at p t).engines = s.engines := rfl
@[simp] theorem State.at_sbufs (s : State) (p : CoreId) (t : StrandId) : (s.at p t).sbufs = s.sbufs := rfl
@[simp] theorem State.at_comb (s : State) (p : CoreId) (t : StrandId) : (s.at p t).comb = s.comb := rfl
@[simp] theorem State.at_combWait (s : State) (p : CoreId) (t : StrandId) : (s.at p t).combWait = s.combWait := rfl
@[simp] theorem State.at_net (s : State) (p : CoreId) (t : StrandId) : (s.at p t).net = s.net := rfl
@[simp] theorem State.at_ext (s : State) (p : CoreId) (t : StrandId) : (s.at p t).ext = s.ext := rfl
@[simp] theorem State.at_ctxtbase (s : State) (p : CoreId) (t : StrandId) : (s.at p t).ctxtbase = s.ctxtbase := rfl
@[simp] theorem State.at_chains (s : State) (p : CoreId) (t : StrandId) : (s.at p t).chains = s.chains := rfl
@[simp] theorem State.at_devnum (s : State) (p : CoreId) (t : StrandId) : (s.at p t).devnum = s.devnum := rfl
@[simp] theorem State.at_portsUp (s : State) (p : CoreId) (t : StrandId) : (s.at p t).portsUp = s.portsUp := rfl
@[simp] theorem State.at_dup (s : State) (p : CoreId) (t : StrandId) : (s.at p t).dup = s.dup := rfl
@[simp] theorem State.at_hostErrV (s : State) (p : CoreId) (t : StrandId) : (s.at p t).hostErrV = s.hostErrV := rfl
@[simp] theorem State.at_hostErrCount (s : State) (p : CoreId) (t : StrandId) : (s.at p t).hostErrCount = s.hostErrCount := rfl
@[simp] theorem State.at_hostErrAddr (s : State) (p : CoreId) (t : StrandId) : (s.at p t).hostErrAddr = s.hostErrAddr := rfl
@[simp] theorem State.at_machineChecks (s : State) (p : CoreId) (t : StrandId) : (s.at p t).machineChecks = s.machineChecks := rfl
@[simp] theorem State.at_mcCount (s : State) (p : CoreId) (t : StrandId) : (s.at p t).mcCount = s.mcCount := rfl
@[simp] theorem State.at_msix (s : State) (p : CoreId) (t : StrandId) : (s.at p t).msix = s.msix := rfl
@[simp] theorem State.at_msixMask (s : State) (p : CoreId) (t : StrandId) : (s.at p t).msixMask = s.msixMask := rfl
@[simp] theorem State.at_msixPending (s : State) (p : CoreId) (t : StrandId) : (s.at p t).msixPending = s.msixPending := rfl
@[simp] theorem State.at_hostReplies (s : State) (p : CoreId) (t : StrandId) : (s.at p t).hostReplies = s.hostReplies := rfl
@[simp] theorem State.at_hostHeld (s : State) (p : CoreId) (t : StrandId) : (s.at p t).hostHeld = s.hostHeld := rfl
@[simp] theorem State.at_peerReplies (s : State) (p : CoreId) (t : StrandId) : (s.at p t).peerReplies = s.peerReplies := rfl
@[simp] theorem State.at_cycles (s : State) (p : CoreId) (t : StrandId) : (s.at p t).cycles = s.cycles := rfl
@[simp] theorem State.at_plat (s : State) (p : CoreId) (t : StrandId) : (s.at p t).plat = s.plat := rfl
@[simp] theorem State.at_cur (s : State) (p : CoreId) (t : StrandId) : (s.at p t).cur = p := rfl
@[simp] theorem State.at_str (s : State) (p : CoreId) (t : StrandId) : (s.at p t).str = t := rfl

@[simp] theorem State.at_core (s : State) (p q : CoreId) (t : StrandId) : (s.at p t).core q = s.core q := rfl
@[simp] theorem State.at_me (s : State) (p : CoreId) (t : StrandId) : (s.at p t).me = s.strand p t := rfl

end Sys2Proof.Machine
end

