-- ==== Sys2Proof/Laws/Ops.lean ====
section
/-! SUPPORT. What each shared operation can do, said once: finishing an instruction, taking a trap, waiting for the queue
and for relaxed accesses, the privilege check, translation and its checks, the commit of a vector instruction; and the
canonical form of memory, which every operation over it keeps. -/

namespace Sys2Proof.Machine

/-! ### Finishing an instruction -/

/-- `finish` writes one register and goes on, and does nothing else. -/
theorem State.finish_wrote (s : State) (r : BitVec 5) (v : Word) : s.wrote r v (s.finish r v) := by
  refine ⟨?_, ?_, fun q => s.reg_finish r q v⟩
  · simp only [State.onlyRegs, State.me_finish]
    unfold State.finish State.advance State.setPc State.setReg
    simp [State.setMe_setMe, Strand.withX]
    split <;> rfl
  · simp

/-- `advance` goes on and does nothing else. -/
theorem State.advance_eq (s : State) : s.advance = s.setMe { s.me with pc := s.me.pc + 4 } := rfl

theorem branch_taken {c : Word → Word → Bool} {r1 r2 : BitVec 5} {off : BitVec 16} {s : State}
    (h : c (s.reg r1) (s.reg r2) = true) : branch c r1 r2 off s = s.setPc (s.me.pc + simm off * 4) := by
  simp [branch, h]

theorem branch_not_taken {c : Word → Word → Bool} {r1 r2 : BitVec 5} {off : BitVec 16} {s : State}
    (h : c (s.reg r1) (s.reg r2) = false) : branch c r1 r2 off s = s.advance := by
  simp [branch, h]

/-! ### Traps -/

theorem addr50_append (v : BitVec 50) : addr50 v = (0 : BitVec 12) ++ v ++ (0 : BitVec 2) := by
  have h : ∀ i, (addr50 v).getLsbD i = ((0 : BitVec 12) ++ v ++ (0 : BitVec 2)).getLsbD i := by
    intro i
    simp only [addr50, word, BitVec.getLsbD_append, BitVec.getLsbD_ofNat]
    rw [show v.toNat * 4 = v.toNat * 2 ^ 2 from rfl, Nat.testBit_mul_two_pow]
    by_cases h1 : i < 2
    · simp [h1]
    · by_cases h2 : i - 2 < 50
      · have : i < 64 := by omega
        simp [h1, h2, this, BitVec.testBit_toNat]; omega
      · have : v.getLsbD (i - 2) = false := BitVec.getLsbD_of_ge _ _ (by omega)
        simp [h1, h2, BitVec.testBit_toNat, this]
  exact BitVec.eq_of_getLsbD_eq fun i _ => h i

/-- With TACT 0 a trap entry is the one of R153. -/
theorem State.trapEntry_took (s : State) (c : BitVec 16) (sw : Bool) (tval epc : Word) (h : s.me.tact = false) :
    s.tookTrap sw c tval epc (s.trapEntry c sw tval epc) := by
  simp only [State.tookTrap, State.trapEntry, h, addr50_append, Bool.false_eq_true, if_false]

/-- With TACT 1 it is a double trap (R157). -/
theorem State.trapEntry_double (s : State) (c : BitVec 16) (sw : Bool) (tval epc : Word) (h : s.me.tact = true) :
    s.trapEntry c sw tval epc = s.doubleTrap c tval := by
  simp [State.trapEntry, h]

theorem State.trap_took (s : State) (c : Cause) (tval : Word) (hc : c ≠ .await) (h : s.me.tact = false) :
    s.tookTrap false c.num tval s.me.pc (s.trap c tval) := by
  rw [State.trap, if_neg hc]
  exact s.trapEntry_took _ _ _ _ h

/-- A trap, single or double, changes no byte of memory. -/
theorem State.trapEntry_mem (s : State) (c : BitVec 16) (sw : Bool) (tval epc : Word) :
    (s.trapEntry c sw tval epc).mem = s.mem := by
  unfold State.trapEntry State.doubleTrap
  split
  · split
    · simp [State.abortCtx, State.machineCheck, State.orphanExt, State.signal]
    · simp [State.machineCheck, State.signal]
  · rfl

/-! ### The privilege check -/

theorem State.privileged_runtime (s : State) (i : Instr) (k : State → State) (h : s.isRuntime = true) :
    s.privileged i k = k s := by simp [State.privileged, h]

theorem State.privileged_task (s : State) (i : Instr) (k : State → State) (h : s.isRuntime = false) :
    s.privileged i k = s.trap .illegal (((encode i).getD 0).zeroExtend 64) := by simp [State.privileged, h]

/-! ### Waits for the queue and for relaxed accesses -/

/-- What `drained` can do: go on with an empty queue, wait at its address, or, in a handler whose head has faulted, a
double trap. -/
theorem State.drained_cases (s : State) (k : State → State) :
    (s.me.queue = [] ∧ s.drained k = k s) ∨ (s.me.queue ≠ [] ∧ s.drained k = s.park .drain) ∨
    (s.me.queue ≠ [] ∧ s.me.tact = true ∧ ∃ f, s.me.vfault = some f ∧ s.drained k = s.doubleTrap f.cause f.tval) := by
  unfold State.drained
  split
  · next h => exact .inl ⟨h, rfl⟩
  · next h =>
    split
    · next f hf =>
      split
      · next ht => exact .inr (.inr ⟨h, ht, f, hf, rfl⟩)
      · exact .inr (.inl ⟨h, rfl⟩)
    · exact .inr (.inl ⟨h, rfl⟩)

theorem State.drained_empty (s : State) (k : State → State) (h : s.me.queue = []) : s.drained k = k s := by
  simp [State.drained, h]

theorem State.setStrand_self (s : State) (p : CoreId) (t : StrandId) : s.setStrand p t (s.strand p t) = s := by
  have h1 : (s.core p).strands.set t.val (s.strand p t) = (s.core p).strands := by simp [State.strand]
  have h2 : s.cores.set p.val (s.core p) = s.cores := by simp [State.core]
  unfold State.setStrand State.setCore
  rw [h1]
  show { s with cores := s.cores.set p.val (s.core p) } = s
  rw [h2]

theorem State.drainRelaxed_none (s : State) (p : CoreId) (t : StrandId) (h : (s.strand p t).relaxed = []) :
    s.drainRelaxed p t = s := by
  have : ({ s.strand p t with relaxed := [] } : Strand) = s.strand p t := by rw [← h]
  simp [State.drainRelaxed, h, this]

theorem State.performSame_none (s : State) (p : CoreId) (t : StrandId) (pa n : Nat) (h : (s.strand p t).relaxed = []) :
    s.performSame p t pa n = s := by
  simp [State.performSame, h]

/-- The parts of a calm state. -/
theorem State.calm_parts {s : State} (h : s.calm = true) :
    s.me.wait = none ∧ s.me.queue = [] ∧ s.me.relaxed = [] ∧ s.extRelaxed s.cur s.str = false ∧
      s.me.relaxedFault = none ∧ s.mine.copies = [] ∧ s.snap = none ∧ s.windowDirty s.cur = false ∧
      s.mine.copyFault = none ∧ s.comb = [] ∧ s.combWait = [] ∧ s.badCopies = [] := by
  simp only [State.calm, Bool.and_eq_true, Option.isNone_iff_eq_none, List.isEmpty_iff, Bool.not_eq_true'] at h
  obtain ⟨⟨⟨⟨⟨⟨⟨⟨⟨⟨⟨h1, h2⟩, h3⟩, h4⟩, h5⟩, h6⟩, h7⟩, h8⟩, h9⟩, h10⟩, h11⟩, h12⟩ := h
  exact ⟨h1, h2, h3, h4, h5, h6, h7, h8, h9, h10, h11, h12⟩

/-- A calm strand has no relaxed access to wait for. -/
theorem State.afterRelaxed_calm {s : State} (k : State → State) (h : s.calm = true) : s.afterRelaxed k = k s := by
  obtain ⟨-, -, h3, h4, h5, -⟩ := State.calm_parts h
  have h0 : s.drainRelaxed s.cur s.str = s := s.drainRelaxed_none _ _ h3
  simp [State.afterRelaxed, h0, h4, h5]

theorem State.releaseCopies_none {s : State} (p : CoreId) (sc : Scope) (h : (s.core p).copies = []) :
    s.releaseCopies p sc = s := by
  unfold State.releaseCopies
  split
  · rfl
  · rfl
  · rw [h]; rfl

/-- Nor has it anything to release. -/
theorem State.afterRelease_calm {s : State} (sc : Scope) (k : State → State) (h : s.calm = true) :
    s.afterRelease sc k = k s := by
  obtain ⟨-, -, -, -, -, h6, -, h8, h9, -⟩ := State.calm_parts h
  have h0 : s.releaseCopies s.cur sc = s := s.releaseCopies_none _ _ h6
  simp only [State.afterRelease, State.afterRelaxed_calm _ h, h0, h8, Bool.and_false, Bool.false_eq_true, if_false, h9]
  split <;> simp_all

theorem State.synced_calm {s : State} (k : State → State) (h : s.calm = true) : s.synced k = k s := by
  rw [State.synced, State.drained_empty _ _ (State.calm_parts h).2.1, State.afterRelaxed_calm k h]

/-! ### Translation and its checks -/

/-- The checks change what the translation changed. -/
theorem State.place_state (s : State) (p : CoreId) (c : CtxId) (r v : Bool) (va : Word) (n : Nat) (k : Acc)
    (b : Option ArrayId) : (s.place p c r v va n k b).2 = (s.lookup p c (s.core p).ptroot va b).2 := by
  unfold State.place
  split
  · next h => simp [h]
  · next h =>
    simp only [h]
    split_ifs <;> rfl

/-- Where the checks let an access go, the page allows it and no seal forbids it (R282, R287). -/
theorem State.place_ok {s t : State} {p : CoreId} {c : CtxId} {r v : Bool} {va : Word} {n : Nat} {k : Acc}
    {b : Option ArrayId} {pl : Place} (h : s.place p c r v va n k b = (.ok pl, t)) :
    ∃ e, s.lookup p c (s.core p).ptroot va b = (.ok e, t) ∧ pl.pa = e.frame + (va.toNat - e.base) ∧ pl.dev = e.dev ∧
      pl.grain = e.grain ∧ (k.reads = true → e.canRead = true) ∧ (k.writes = true → e.canWrite = true) ∧
      (k.writes = true → s.inArena pl.pa = false ∧ s.isSealed pl.pa = false) := by
  unfold State.place at h
  split at h
  · simp at h
  · next e s1 he =>
    dsimp only at h
    split_ifs at h with h1 h2 h3
    iterate 3 exact absurd h (by simp)
    simp only [Prod.mk.injEq, Except.ok.injEq] at h
    obtain ⟨rfl, rfl⟩ := h
    refine ⟨e, he, rfl, rfl, rfl, ?_, ?_, ?_⟩
    · intro hk; simp only [hk] at h2; simp_all
    · intro hk; simp only [hk] at h2; simp_all
    · intro hk; simp only [hk] at h3; simp_all

/-- An access that passes every check is aligned (R287). -/
theorem State.check_ok {s t : State} {va : Word} {n : Nat} {k : Acc} {pl : Place} (h : s.check va n k = (.ok pl, t)) :
    va.toNat % n = 0 ∧ s.place s.cur s.myCtx s.isRuntime false va n k = (.ok pl, t) := by
  unfold State.check at h
  split at h
  · simp at h
  · next h0 => exact ⟨by simpa using h0, h⟩

theorem State.check_misaligned (s : State) (va : Word) (n : Nat) (k : Acc) (h : va.toNat % n ≠ 0) :
    s.check va n k = (.error .align, s) := by
  simp [State.check, h]

/-! ### Commit -/

/-- What the commit of a vector or tile instruction can do: wait for room, trap with ILLEGAL_TYPE, CAPABILITY or
CHANNEL_WRITE, or join the queue (R130, R166). -/
theorem State.commit_cases (s : State) (i : Instr) :
    s.commit i = s ∨
    (∃ tval, s.commit i = s.trap .illegalType tval) ∨
    (∃ k, s.mine.capmask.getLsbD k = false ∧ s.commit i = s.trap .capability (word k)) ∨
    (∃ w : Word, s.commit i = s.trap .channelWrite w) ∨
    ∃ e, s.commit i = ((s.setMe { s.me.enqueue e with vstart := 0 }).advance).chainOrder i e := by
  have lacking : ∀ (m : BitVec 128) (l : List Nat) (b : Option Nat) (k : Nat),
      (l.filter fun k => !m.getLsbD k).foldl (fun (b : Option Nat) k =>
        match b with | none => some k | some x => some (min x k)) b = some k →
      (∀ x, b = some x → m.getLsbD x = false) → m.getLsbD k = false := by
    intro m l
    induction l with
    | nil => intro b k h hb; exact hb k (by simpa using h)
    | cons x l ih =>
      intro b k h hb
      by_cases hx : m.getLsbD x
      · exact ih b k (by simpa [hx] using h) hb
      · simp only [hx, Bool.not_false, List.filter_cons_of_pos, List.foldl_cons] at h
        refine ih _ k h fun y hy => ?_
        cases b with
        | none => simp only [Option.some.injEq] at hy; subst hy; simpa using hx
        | some z =>
          simp only [Option.some.injEq] at hy
          rcases Nat.le_total z x with hz | hz
          · rw [← hy, Nat.min_eq_left hz]; exact hb z rfl
          · rw [← hy, Nat.min_eq_right hz]; simpa using hx
  unfold State.commit
  dsimp only
  split
  · exact .inl rfl
  · split
    · exact .inr (.inl ⟨_, rfl⟩)
    · split
      · exact .inr (.inl ⟨_, rfl⟩)
      · split
        · next k hk =>
          exact .inr (.inr (.inl ⟨k, lacking _ _ none k hk (by simp), rfl⟩))
        · split
          · exact .inr (.inr (.inr (.inl ⟨_, rfl⟩)))
          · exact .inr (.inr (.inr (.inr ⟨_, rfl⟩)))

end Sys2Proof.Machine
end

