-- ==== Sys2Proof/Laws/Keeps.lean ====
section
/-! SUPPORT. Memory keeps its canonical form: every operation on copies, on combining stores, on memory and in translation
keeps it. And what an access does from a core that holds no copy. -/

namespace Sys2Proof.Machine

/-- Nothing is listed after reset. -/
theorem State.reset_memOk : State.reset.memOk := by
  refine ⟨rfl, fun p => ?_⟩
  simp only [State.core, State.reset, Fin.getElem_fin, Vector.getElem_replicate]
  rfl

theorem State.memOk_of_eq {s t : State} (hm : t.mem = s.mem) (hc : ∀ p, (t.core p).spad = (s.core p).spad)
    (h : s.memOk) : t.memOk := ⟨hm ▸ h.1, fun p => hc p ▸ h.2 p⟩

/-- A change of memory alone to a canonical one. -/
theorem State.memOk_of_mem {s t : State} (hm : t.mem.wf = true) (hc : t.cores = s.cores) (h : s.memOk) : t.memOk :=
  ⟨hm, fun p => by have := h.2 p; unfold State.core at this ⊢; rwa [hc]⟩

/-- A fold keeps what each of its steps keeps. -/
theorem foldl_keeps {α β : Type} (P : β → Prop) (f : β → α → β) (hf : ∀ b a, P b → P (f b a)) :
    ∀ (l : List α) (b : β), P b → P (l.foldl f b)
  | [], _, h => h
  | a :: l, b, h => foldl_keeps P f hf l (f b a) (hf b a h)

/-- A change of one core that leaves its scratchpad alone. -/
theorem State.setCore_memOk {s : State} (p : CoreId) (c : Core) (hc : c.spad = (s.core p).spad) (h : s.memOk) :
    (s.setCore p c).memOk := by
  refine memOk_of_eq (s := s) rfl (fun q => ?_) h
  rw [State.core_setCore_ite]
  split
  · next e => rw [← e, hc]
  · rfl

theorem State.setStrand_memOk {s : State} (p : CoreId) (t : StrandId) (st : Strand) (h : s.memOk) :
    (s.setStrand p t st).memOk := State.setCore_memOk p _ rfl h

theorem State.setMe_memOk {s : State} (st : Strand) (h : s.memOk) : (s.setMe st).memOk :=
  State.setStrand_memOk _ _ _ h

theorem State.setCtx_memOk {s : State} (c : CtxId) (k : Ctx) (h : s.memOk) : (s.setCtx c k).memOk :=
  State.memOk_of_eq rfl (fun _ => rfl) h

theorem State.spad_write_memOk {s : State} (p : CoreId) (m : Memory) (hm : m.wf = true) (h : s.memOk) :
    (s.setCore p { s.core p with spad := m }).memOk := by
  refine ⟨h.1, fun q => ?_⟩
  rw [State.core_setCore_ite]
  split
  · exact hm
  · exact h.2 q

theorem State.machineCheck_memOk {s : State} (k : Nat) (c : Option CtxId) (p : CoreId) (t : Option StrandId)
    (cause : BitVec 16) (a pc : Word) (h : s.memOk) : (s.machineCheck k c p t cause a pc).memOk := by
  refine State.memOk_of_eq (s := s) ?_ (fun q => ?_) h
  · simp only [State.machineCheck, State.signal]
  · simp only [State.core, State.machineCheck, State.signal]

theorem State.abortCtx_memOk {s : State} (c : CtxId) (n : Nat) (h : s.memOk) : (s.abortCtx c n).memOk := by
  refine State.memOk_of_eq (s := s) ?_ (fun p => ?_) h
  · simp only [State.abortCtx, State.setCtx, State.orphanExt]
  · simp only [State.abortCtx, State.setCtx, State.core, Fin.getElem_fin, Vector.getElem_map]
    split
    · rfl
    · rfl

/-! ### Copies -/

theorem State.snapBlock_memOk {s : State} (b : Nat) (h : s.memOk) : (s.snapBlock b).memOk := by
  unfold State.snapBlock
  split
  · exact h
  · split
    · exact h
    · refine ⟨?_, h.2⟩
      dsimp only
      split
      · exact h.1
      · exact Memory.write_wf _ _ h.1

theorem State.homeWrite_memOk {s : State} (pa : Nat) (bs : List Byte) (h : s.memOk) : (s.homeWrite pa bs).memOk := by
  unfold State.homeWrite
  have := fun l => foldl_keeps State.memOk (fun (a : State) b => a.snapBlock b) (fun _ b h => snapBlock_memOk b h) l s h
  exact ⟨Memory.write_wf _ _ (this _).1, (this _).2⟩

theorem State.core_mapCopies (s : State) (f : CoreId → List Copy → List Copy) (p : CoreId) :
    (s.mapCopies f).core p = { s.core p with copies := f p (s.core p).copies } := by
  obtain ⟨k, hk⟩ := p
  exact Vector.getElem_ofFn hk

theorem State.mem_mapCopies (s : State) (f : CoreId → List Copy → List Copy) : (s.mapCopies f).mem = s.mem := by
  simp only [State.mapCopies]

theorem State.mapCopies_memOk {s : State} (f : CoreId → List Copy → List Copy) (h : s.memOk) : (s.mapCopies f).memOk :=
  State.memOk_of_eq (State.mem_mapCopies s f) (fun p => by rw [State.core_mapCopies]) h

theorem State.lostDirty_memOk {s : State} (p : CoreId) (c : Copy) (h : s.memOk) : (s.lostDirty p c).memOk := by
  have hm : ∀ (l : List Nat) (m : Memory), m.wf = true →
      (l.foldl (fun (m : Memory) d => m.set (32 * c.sector + d) (c.bytes.getD d 0)) m).wf = true :=
    foldl_keeps (fun m : Memory => m.wf = true) _ fun _ _ hm => Memory.set_wf _ _ hm
  unfold State.lostDirty
  dsimp only
  have hw : (if c.kind = CopyKind.untracked then s.mem else
      c.dirty.foldl (fun (m : Memory) d => m.set (32 * c.sector + d) (c.bytes.getD d 0)) s.mem).wf = true := by
    split
    · exact h.1
    · exact hm _ _ h.1
  split
  · exact abortCtx_memOk _ _ (machineCheck_memOk _ _ _ _ _ _ _ ⟨hw, h.2⟩)
  · exact machineCheck_memOk _ _ _ _ _ _ _ ⟨hw, h.2⟩

theorem State.loseDirty_memOk {s : State} (f : CoreId → Copy → Bool) (h : s.memOk) : (s.loseDirty f).memOk := by
  refine foldl_keeps State.memOk _ (fun a x ha => ?_) _ _ h
  split
  · split
    · exact lostDirty_memOk _ _ ha
    · exact ha
  · exact ha

theorem State.recall_memOk {s : State} (l : List Nat) (k : Option CoreId) (h : s.memOk) : (s.recall l k).memOk :=
  State.mapCopies_memOk _ (loseDirty_memOk _ h)

theorem State.downgrade_memOk {s : State} (p : CoreId) (l : List Nat) (h : s.memOk) : (s.downgrade p l).memOk :=
  State.mapCopies_memOk _ (loseDirty_memOk _ h)

theorem State.writeBack_memOk {s : State} (p : CoreId) (c : Copy) (h : s.memOk) : (s.writeBack p c).memOk := by
  unfold State.writeBack
  split
  · exact h
  · split
    · exact setCore_memOk _ _ rfl (lostDirty_memOk _ _ h)
    · refine setCore_memOk _ _ rfl ?_
      split
      · exact h
      · split
        · exact foldl_keeps State.memOk _ (fun _ _ h => homeWrite_memOk _ _ h) _ _ (recall_memOk _ _ h)
        · exact memOk_of_eq (s := s) rfl (fun _ => rfl) h

/-- Write-backs of a list of copies keep the form. -/
theorem State.writeBacks_memOk {s : State} (p : CoreId) (l : List Copy) (h : s.memOk) :
    (l.foldl (fun a c => a.writeBack p c) s).memOk :=
  foldl_keeps State.memOk _ (fun _ c h => writeBack_memOk p c h) _ _ h

theorem State.writeBackOwn_memOk {s : State} (p : CoreId) (l : List Nat) (h : s.memOk) : (s.writeBackOwn p l).memOk :=
  writeBacks_memOk p _ h

theorem State.dropOwn_memOk {s : State} (p : CoreId) (l : List Nat) (h : s.memOk) : (s.dropOwn p l).memOk :=
  State.setCore_memOk _ _ rfl h

theorem State.leaveCache_memOk {s : State} (p : CoreId) (f : Copy → Bool) (g : Copy → Copy) (h : s.memOk) :
    (s.leaveCache p f g).memOk :=
  State.setCore_memOk _ _ rfl (writeBacks_memOk p _ h)

theorem State.scalarRoom_memOk {s : State} (p : CoreId) (l : Nat) (h : s.memOk) : (s.scalarRoom p l).memOk := by
  unfold State.scalarRoom
  dsimp only
  split
  · exact h
  · split
    · exact h
    · exact leaveCache_memOk _ _ _ h

theorem State.poolRoom_memOk {s : State} (p : CoreId) (b : Nat) (h : s.memOk) : (s.poolRoom p b).2.memOk := by
  unfold State.poolRoom
  dsimp only
  split
  · exact h
  · split
    · exact h
    · split
      · exact h
      · exact leaveCache_memOk _ _ _ h

theorem State.placeCopies_memOk {s : State} (p : CoreId) (vec : Bool) (pa g : Nat) (k : CopyKind) (va : Word)
    (new : List (Nat × List Byte)) (h : s.memOk) : (s.placeCopies p vec pa g k va new).memOk := by
  unfold State.placeCopies
  dsimp only
  refine setCore_memOk _ _ rfl ?_
  have h1 := fun l => foldl_keeps State.memOk (fun (a : State) l => a.scalarRoom p l) (fun _ l h => scalarRoom_memOk p l h) l s h
  exact memOk_of_eq rfl (fun _ => rfl) (poolRoom_memOk p _ (h1 _))

theorem State.fillCopies_memOk {s : State} (p : CoreId) (vec : Bool) (pa g : Nat) (k : CopyKind) (h : s.memOk) :
    (s.fillCopies p vec pa g k).memOk := by
  unfold State.fillCopies
  dsimp only
  split
  · exact placeCopies_memOk _ _ _ _ _ _ _ h
  · exact placeCopies_memOk _ _ _ _ _ _ _ (writeBackOwn_memOk _ _ h)

theorem State.intoPool_memOk {s : State} (p : CoreId) (pa : Nat) (h : s.memOk) : (s.intoPool p pa).memOk :=
  State.setCore_memOk _ _ rfl (poolRoom_memOk _ _ h)

theorem State.recordGrain_memOk {s : State} (pa g : Nat) (h : s.memOk) : (s.recordGrain pa g).memOk := by
  unfold State.recordGrain
  split
  · exact h
  · exact memOk_of_eq rfl (fun _ => rfl) h

theorem State.useCopy_memOk {s : State} (p : CoreId) (vec : Bool) (pa : Nat) (c : Copy) (h : s.memOk) :
    (s.useCopy p vec pa c).memOk := by
  unfold State.useCopy
  split
  · exact intoPool_memOk _ _ h
  · exact h

theorem State.refetch_memOk {s : State} (p : CoreId) (pa n : Nat) (h : s.memOk) : (s.refetch p pa n).memOk := by
  unfold State.refetch
  split
  · split
    · exact dropOwn_memOk _ _ h
    · exact h
  · exact h

theorem State.putCopy_memOk {s : State} (p : CoreId) (pa : Nat) (bs : List Byte) (va : Word) (h : s.memOk) :
    (s.putCopy p pa bs va).memOk := State.setCore_memOk _ _ rfl h

theorem State.newGeneration_memOk {s : State} (p : CoreId) (b : Nat) (h : s.memOk) : (s.newGeneration p b).memOk := by
  unfold State.newGeneration
  dsimp only
  split
  · exact h
  · exact setCore_memOk _ _ rfl (writeBacks_memOk p _ (snapBlock_memOk _ h))

theorem State.storeOwned_memOk {s : State} (p : CoreId) (pa : Nat) (bs : List Byte) (h : s.memOk) :
    (s.storeOwned p pa bs).memOk := homeWrite_memOk _ _ (putCopy_memOk _ _ _ _ (newGeneration_memOk _ _ h))

/-! ### Combining stores -/

theorem State.restoreWord_memOk {s : State} (pa : Nat) (w : Word) (h : s.memOk) : (s.restoreWord pa w).memOk := by
  unfold State.restoreWord
  split
  · split
    · exact spad_write_memOk _ _ (Memory.write_wf _ _ (h.2 _)) h
    · exact h
  · exact memOk_of_mem (s := s) (Memory.write_wf _ _ h.1) rfl h

theorem State.combOut_memOk {s : State} (x : CombEntry) (h : s.memOk) : (s.combOut x).memOk := by
  have h1 : ({ s with comb := s.comb.filter fun y => y.pa ≠ x.pa } : State).memOk := memOk_of_eq (s := s) rfl (fun _ => rfl) h
  unfold State.combOut
  dsimp only
  split
  · next f _ _ =>
    split
    · exact abortCtx_memOk _ _ (machineCheck_memOk _ _ _ _ _ _ _ (restoreWord_memOk _ _ h1))
    · exact machineCheck_memOk _ _ _ _ _ _ _ (restoreWord_memOk _ _ h1)
  · exact h1

theorem State.combSettle_memOk {s : State} (l : List Nat) (h : s.memOk) : (s.combSettle l).memOk :=
  foldl_keeps State.memOk _ (fun _ x h => combOut_memOk x h) _ _ h

theorem State.prepareAtomic_memOk {s : State} (p : CoreId) (pa g : Nat) (h : s.memOk) : (s.prepareAtomic p pa g).memOk :=
  State.recall_memOk _ _ (dropOwn_memOk _ _ (writeBackOwn_memOk _ _ h))

theorem State.prepareHome_memOk {s : State} (p : CoreId) (pa g : Nat) (h : s.memOk) : (s.prepareHome p pa g).memOk :=
  State.prepareAtomic_memOk _ _ _ (combSettle_memOk _ h)

theorem State.acquire_memOk {s : State} (p : CoreId) (sc : Scope) (h : s.memOk) : (s.acquire p sc).memOk := by
  unfold State.acquire
  split
  · exact h
  · exact setCore_memOk _ _ rfl h

theorem State.releaseCopies_memOk {s : State} (p : CoreId) (sc : Scope) (h : s.memOk) : (s.releaseCopies p sc).memOk := by
  unfold State.releaseCopies
  split
  · exact h
  · exact h
  · exact writeBacks_memOk p _ h

/-! ### Loads and stores -/

theorem State.loadHbm_memOk {s : State} (p : CoreId) (pa n g : Nat) (r : Req) (vec : Bool) (h : s.memOk) :
    (s.loadHbm p pa n g r vec).2.memOk := by
  have h0 := refetch_memOk p pa n h
  unfold State.loadHbm
  dsimp only
  split
  · exact useCopy_memOk _ _ _ _ h0
  · exact writeBackOwn_memOk _ _ (combSettle_memOk _ h0)
  · refine fillCopies_memOk _ _ _ _ _ ?_
    split
    · exact combSettle_memOk _ h0
    · exact dropOwn_memOk _ _ (writeBackOwn_memOk _ _ (combSettle_memOk _ h0))
  · exact fillCopies_memOk _ _ _ _ _ (downgrade_memOk _ _ (writeBackOwn_memOk _ _ (combSettle_memOk _
      (recordGrain_memOk _ _ h0))))

theorem State.storeHbm_memOk {s : State} (p : CoreId) (pa : Nat) (bs : List Byte) (g : Nat) (r : Req) (vec : Bool)
    (h : s.memOk) : (s.storeHbm p pa bs g r vec).memOk := by
  have hb := fun l => writeBackOwn_memOk p l (combSettle_memOk l h)
  have own : ∀ l g', ((((((s.recordGrain pa g).combSettle l).writeBackOwn p l).recall l (some p)).fillCopies p vec pa g'
      .owned).storeOwned p pa bs).memOk := fun l _ =>
    storeOwned_memOk _ _ _ (fillCopies_memOk _ _ _ _ _ (recall_memOk _ _ (writeBackOwn_memOk p l
      (combSettle_memOk l (recordGrain_memOk _ _ h)))))
  unfold State.storeHbm
  dsimp only
  split
  · exact homeWrite_memOk _ _ (recall_memOk _ _ (dropOwn_memOk _ _ (hb _)))
  · exact setCore_memOk _ _ rfl (homeWrite_memOk _ _ (recall_memOk _ _ (hb _)))
  · split
    · split
      · exact storeOwned_memOk _ _ _ (useCopy_memOk _ _ _ _ h)
      · exact own _ _
    · exact own _ _
  · split
    · split
      · exact storeOwned_memOk _ _ _ (useCopy_memOk _ _ _ _ h)
      · exact putCopy_memOk _ _ _ _ (setCore_memOk _ _ rfl (useCopy_memOk _ _ _ _ h))
    · exact putCopy_memOk _ _ _ _ (fillCopies_memOk _ _ _ _ _ (combSettle_memOk _ h))

/-- What bytes performed at home are: bytes of a scratchpad or of HBM, or nothing where neither stands. -/
theorem State.putHome_cases (s : State) (pa : Nat) (bs : List Byte) :
    s.putHome pa bs = s ∨
    (∃ p place w b, s.putHome pa bs =
      { s.setCore p { s.core p with spad := (s.core p).spad.write place bs } with watches := w, badWords := b }) ∨
    ∃ a, s.putHome pa bs = s.homeWrite a bs := by
  unfold State.putHome
  generalize Core.spadPlace = f
  generalize region pa = r
  cases r with
  | spad p off =>
    cases ho : f (s.core p) off with
    | some place => exact .inr (.inl ⟨p, place, _, _, by simp only [ho]; rfl⟩)
    | none => exact .inl (by simp only [ho])
  | hbm a => exact .inr (.inr ⟨a, rfl⟩)
  | _ => exact .inl rfl

theorem State.putHome_memOk {s : State} (pa : Nat) (bs : List Byte) (h : s.memOk) : (s.putHome pa bs).memOk := by
  rcases s.putHome_cases pa bs with e | ⟨p, place, w, b, e⟩ | ⟨a, e⟩ <;> rw [e]
  · exact h
  · exact memOk_of_eq (s := s.setCore p { s.core p with spad := (s.core p).spad.write place bs }) rfl (fun _ => rfl)
      (spad_write_memOk p _ (Memory.write_wf _ _ (h.2 p)) h)
  · exact homeWrite_memOk _ _ h

theorem State.pokeHome_memOk {s : State} (pa : Nat) (bs : List Byte) (h : s.memOk) : (s.pokeHome pa bs).memOk := by
  unfold State.pokeHome
  refine putHome_memOk _ _ ?_
  split
  · exact recall_memOk _ _ (combSettle_memOk _ h)
  · exact combSettle_memOk _ h

/-- What setting a full/empty bit is: a change of a scratchpad's list of full words or of one byte of the store. -/
theorem State.setFull_cases (s : State) (pa : Nat) (b : Bool) :
    s.setFull pa b = s ∨ (∃ p l, s.setFull pa b = s.setCore p { s.core p with spadFull := l }) ∨
    ∃ a x, s.setFull pa b = { s with mem := s.mem.set a x } := by
  unfold State.setFull
  generalize Core.spadPlace = f
  generalize region pa = r
  cases r with
  | spad p off =>
    cases ho : f (s.core p) off with
    | some place => exact .inr (.inl ⟨p, _, by simp only [ho]; rfl⟩)
    | none => exact .inl (by simp only [ho])
  | _ => exact .inr (.inr ⟨_, _, rfl⟩)

theorem State.setFull_memOk {s : State} (pa : Nat) (b : Bool) (h : s.memOk) : (s.setFull pa b).memOk := by
  rcases s.setFull_cases pa b with e | ⟨p, l, e⟩ | ⟨a, x, e⟩ <;> rw [e]
  · exact h
  · exact setCore_memOk _ _ rfl h
  · exact ⟨Memory.set_wf _ _ h.1, h.2⟩

theorem State.windowAccess_memOk {s : State} (p : CoreId) (vec : Bool) (who : Requester) (va : Word) (pa n g : Nat)
    (plain : Bool) (store : Option (List Byte)) (rd : Option (BitVec 5 × Size)) (relaxed : Bool) (h : s.memOk) :
    (s.windowAccess p vec who va pa n g plain store rd relaxed).2.memOk := by
  have asked : ∀ {a : State} (l : List ExtReq), a.memOk → ({ a with ext := l } : State).memOk :=
    fun _ ha => memOk_of_eq rfl (fun _ => rfl) ha
  have h0 := refetch_memOk p pa n h
  unfold State.windowAccess
  dsimp only
  split
  · split
    · exact asked _ (dropOwn_memOk _ _ (writeBackOwn_memOk _ _ h))
    · exact asked _ (writeBackOwn_memOk _ _ h)
  · split
    · split
      · exact putCopy_memOk _ _ _ _ (useCopy_memOk _ _ _ _ h0)
      · exact useCopy_memOk _ _ _ _ h0
    · exact asked _ h0

theorem State.performRelaxed_memOk {s : State} (p : CoreId) (t : StrandId) (a : RelaxedAcc) (h : s.memOk) :
    (s.performRelaxed p t a).memOk := by
  have out : ∀ z : Option (List Byte) × State, z.2.memOk → (match z with
      | (some bs, s1) => if a.isStore then s1 else
          s1.setStrand p t ((s1.strand p t).withX a.r (sextTo64 (8 * a.length) (fromLe bs)))
      | (none, s1) => s1).memOk := by
    rintro ⟨x, s1⟩ h1
    cases x with
    | none => exact h1
    | some bs =>
      dsimp only
      split
      · exact h1
      · exact setStrand_memOk _ _ _ h1
  unfold State.performRelaxed
  generalize (if a.dev = true then Req.u else a.req) = req
  dsimp only
  split
  · split
    · exact storeHbm_memOk _ _ _ _ _ _ h
    · split
      · exact setStrand_memOk _ _ _ h
      · exact setStrand_memOk _ _ _ (loadHbm_memOk _ _ _ _ _ _ h)
  · split
    · exact setStrand_memOk _ _ _ h
    · exact out _ (windowAccess_memOk _ _ _ _ _ _ _ _ _ _ _ h)
  · split
    · exact setStrand_memOk _ _ _ h
    · exact out _ (windowAccess_memOk _ _ _ _ _ _ _ _ _ _ _ h)
  · split
    · exact pokeHome_memOk _ _ h
    · split
      · exact setStrand_memOk _ _ _ h
      · exact setStrand_memOk _ _ _ h

theorem State.drainRelaxed_memOk {s : State} (p : CoreId) (t : StrandId) (h : s.memOk) : (s.drainRelaxed p t).memOk :=
  foldl_keeps State.memOk _ (fun _ a h => performRelaxed_memOk p t a h) _ _ (setStrand_memOk _ _ _ h)

/-! ### Translation -/

theorem State.pteAt_memOk {s : State} (p : CoreId) (c : CtxId) (pa : Nat) (h : s.memOk) : (s.pteAt p c pa).2.memOk := by
  unfold State.pteAt
  split
  · split
    · exact h
    · exact writeBackOwn_memOk _ _ (combSettle_memOk _ h)
  · split
    · exact h
    · split <;> exact h
  iterate 2
    · dsimp only
      split
      · split
        · exact h
        · exact setCore_memOk _ _ rfl h
      · exact setCore_memOk _ _ rfl h
      · split
        · exact h
        · exact memOk_of_eq rfl (fun _ => rfl) h
  · exact h

theorem State.walk_memOk (p : CoreId) (c : CtxId) (va : Nat) :
    ∀ (l : Nat) (node : Nat) {s : State}, s.memOk → (s.walk p c va l node).2.memOk
  | 0, _, _, h => h
  | l + 1, node, s, h => by
    have hp := fun a => pteAt_memOk p c a h
    unfold State.walk
    dsimp only
    split
    · exact walk_memOk p c va l _ h
    · split
      · next s1 he => have := hp (node + 8 * (va >>> (12 + 9 * l) % 512)); rw [he] at this; exact this
      · next e s1 he =>
        have h1 : s1.memOk := by have := hp (node + 8 * (va >>> (12 + 9 * l) % 512)); rw [he] at this; exact this
        split
        · exact h1
        · exact h1
        · exact walk_memOk p c va l _ (setCore_memOk _ _ rfl h1)

theorem State.lookup_memOk {s : State} (p : CoreId) (c : CtxId) (root : Nat) (va : Word) (b : Option ArrayId) (h : s.memOk) :
    (s.lookup p c root va b).2.memOk := by
  have hw := walk_memOk p c va.toNat 5 root h
  unfold State.lookup
  split
  · exact h
  · split
    · exact h
    · split
      · exact h
      · split
        · next he => rw [he] at hw; exact hw
        · next he => rw [he] at hw; exact setCore_memOk _ _ rfl hw

theorem State.place_memOk {s : State} (p : CoreId) (c : CtxId) (r v : Bool) (va : Word) (n : Nat) (k : Acc)
    (b : Option ArrayId) (h : s.memOk) : (s.place p c r v va n k b).2.memOk := by
  rw [State.place_state]; exact lookup_memOk _ _ _ _ _ h

theorem State.check_memOk {s : State} (va : Word) (n : Nat) (k : Acc) (h : s.memOk) : (s.check va n k).2.memOk := by
  unfold State.check
  split
  · exact h
  · exact place_memOk _ _ _ _ _ _ _ _ h

end Sys2Proof.Machine
end

