-- ==== Sys2Proof/Laws/Calm.lean ====
section
/-! SUPPORT. What accesses and translations do from a core that holds no copy, with nothing in a combining store: memory
alone changes, and at the bytes written alone. -/

namespace Sys2Proof.Machine

/-- With no snapshot active, bytes performed at home are the only change of memory (R326). -/
theorem State.homeWrite_mem {s : State} (pa : Nat) (bs : List Byte) (h : s.snap = none) :
    (s.homeWrite pa bs).mem = s.mem.write pa bs := by
  simp [State.homeWrite, h]

theorem State.writeBackOwn_none {s : State} (p : CoreId) (l : List Nat) (h : (s.core p).copies = []) :
    s.writeBackOwn p l = s := by
  simp [State.writeBackOwn, h]

theorem State.combSettle_none {s : State} (l : List Nat) (h : s.comb = []) : s.combSettle l = s := by
  simp [State.combSettle, h]

theorem State.copyAt_none {s : State} (p : CoreId) (n : Nat) (h : (s.core p).copies = []) : s.copyAt p n = none := by
  simp [State.copyAt, h]

theorem State.refetch_none {s : State} (p : CoreId) (pa n : Nat) (h : (s.core p).copies = []) : s.refetch p pa n = s := by
  simp [State.refetch, State.copyAt_none p _ h]

theorem State.setCore_self (s : State) (p : CoreId) : s.setCore p (s.core p) = s := by
  unfold State.setCore State.core
  simp

theorem State.dropOwn_none {s : State} (p : CoreId) (l : List Nat) (h : (s.core p).copies = []) : s.dropOwn p l = s := by
  have h1 : ((s.core p).copies.filter fun c => !decide (c.sector ∈ l)) = (s.core p).copies := by rw [h]; rfl
  unfold State.dropOwn
  rw [h1]
  exact State.setCore_self s p

theorem State.scalarRoom_none {s : State} (p : CoreId) (l : Nat) (h : (s.core p).copies = []) : s.scalarRoom p l = s := by
  simp [State.scalarRoom, h]

theorem State.poolRoom_none {s : State} (p : CoreId) (b : Nat) (h : (s.core p).copies = []) : (s.poolRoom p b).2 = s := by
  unfold State.poolRoom
  simp only [h, List.filter_nil, List.find?_nil]
  split <;> rfl

/-- A core that holds no copy takes new ones without a change of memory. -/
theorem State.placeCopies_mem {s : State} (p : CoreId) (vec : Bool) (pa g : Nat) (k : CopyKind) (va : Word)
    (new : List (Nat × List Byte)) (h : (s.core p).copies = []) :
    (s.placeCopies p vec pa g k va new).mem = s.mem ∧ (s.placeCopies p vec pa g k va new).snap = s.snap ∧
      (s.badCopies = [] → (s.placeCopies p vec pa g k va new).badCopies = []) := by
  have hl : ∀ l : List Nat, l.foldl (fun (a : State) l => a.scalarRoom p l) s = s := by
    intro l
    induction l with
    | nil => rfl
    | cons x l ih => simp only [List.foldl_cons, scalarRoom_none p x h]; exact ih
  unfold State.placeCopies
  simp only [hl]
  have h2 := poolRoom_none (s := s) p (pa / 512) h
  generalize s.poolRoom p (pa / 512) = z at h2
  obtain ⟨w, s2⟩ := z
  simp only at h2
  subst h2
  exact ⟨rfl, rfl, fun hb => by simp [hb]⟩

theorem State.fillCopies_mem {s : State} (p : CoreId) (vec : Bool) (pa g : Nat) (k : CopyKind)
    (h : (s.core p).copies = []) :
    (s.fillCopies p vec pa g k).mem = s.mem ∧ (s.fillCopies p vec pa g k).snap = s.snap ∧
      (s.badCopies = [] → (s.fillCopies p vec pa g k).badCopies = []) := by
  unfold State.fillCopies
  simp only [writeBackOwn_none p _ h]
  split
  · exact placeCopies_mem _ _ _ _ _ _ _ h
  · exact placeCopies_mem _ _ _ _ _ _ _ h

theorem State.recordGrain_mem (s : State) (pa g : Nat) :
    (s.recordGrain pa g).mem = s.mem ∧ (s.recordGrain pa g).snap = s.snap ∧ (s.recordGrain pa g).cores = s.cores ∧
      (s.recordGrain pa g).comb = s.comb ∧ (s.recordGrain pa g).badCopies = s.badCopies := by
  unfold State.recordGrain
  split <;> exact ⟨rfl, rfl, rfl, rfl, rfl⟩

/-- No copy hits in a core that holds none. -/
theorem State.loadHit_none {s : State} (p : CoreId) (pa : Nat) (r : Req) (h : (s.core p).copies = []) :
    s.loadHit p pa r = none := by
  simp [State.loadHit, State.copyAt_none p _ h]

/-- A recall of copies that hold no error changes the copies of other cores alone. -/
theorem State.recall_eq {s : State} (l : List Nat) (k : Option CoreId) (h : s.badCopies = []) :
    (s.recall l k).mem = s.mem ∧ (s.recall l k).snap = s.snap ∧ (s.recall l k).badCopies = [] := by
  simp only [State.recall, State.loseDirty, h, List.foldl_nil, State.mapCopies, and_self]

/-- After a recall the core that keeps its copies holds what it held. -/
theorem State.recall_keeps {s : State} (l : List Nat) (p : CoreId) (h : s.badCopies = []) :
    ((s.recall l (some p)).core p).copies = (s.core p).copies := by
  simp only [State.recall, State.loseDirty, h, List.foldl_nil, State.core_mapCopies]
  simp

/-- A write-back of an owned copy that holds no error leaves memory as it is (R273). -/
theorem State.writeBack_owned {s : State} (p : CoreId) (c : Copy) (hk : c.kind = .owned) (hb : s.badCopies = []) :
    (s.writeBack p c).mem = s.mem ∧ (s.writeBack p c).snap = s.snap ∧ (s.writeBack p c).badCopies = [] := by
  have hn : s.copyBad p c = false := by simp [State.copyBad, hb]
  unfold State.writeBack
  split
  · exact ⟨rfl, rfl, hb⟩
  · simp only [hn, hk]
    exact ⟨rfl, rfl, hb⟩

/-- With no snapshot active, and no copy with an error, a store into a block of the earlier generation changes no byte
before its own (R326). -/
theorem State.newGeneration_mem {s : State} (p : CoreId) (b : Nat) (hs : s.snap = none) (hb : s.badCopies = []) :
    (s.newGeneration p b).mem = s.mem ∧ (s.newGeneration p b).snap = none := by
  have h0 : s.snapBlock b = s := by simp [State.snapBlock, hs]
  have fold : ∀ (l : List Copy) (a : State), (∀ c ∈ l, c.kind = .owned) → a.badCopies = [] →
      (l.foldl (fun (a : State) c => a.writeBack p c) a).mem = a.mem ∧
        (l.foldl (fun (a : State) c => a.writeBack p c) a).snap = a.snap := by
    intro l
    induction l with
    | nil => exact fun _ _ _ => ⟨rfl, rfl⟩
    | cons c l ih =>
      intro a hl ha
      have h1 := writeBack_owned p c (hl c (by simp)) ha
      have h2 := ih (a.writeBack p c) (fun x hx => hl x (by simp [hx])) h1.2.2
      exact ⟨h2.1.trans h1.1, h2.2.trans h1.2.1⟩
  unfold State.newGeneration
  dsimp only
  split
  · exact ⟨rfl, hs⟩
  · rw [h0]
    have h1 := fold ((s.core p).copies.filter fun (c : Copy) =>
      decide (c.sector / 16 = b ∧ c.kind = .owned ∧ c.gen ≠ s.gen)) s (by simp; intros; assumption) hb
    exact ⟨h1.1, h1.2.trans hs⟩

/-- A store that performs in an owned copy writes its bytes at home, and no other (R273). -/
theorem State.storeOwned_mem {s : State} (p : CoreId) (pa : Nat) (bs : List Byte) (hs : s.snap = none)
    (hb : s.badCopies = []) : (s.storeOwned p pa bs).mem = s.mem.write pa bs := by
  have h := newGeneration_mem p (pa / 512) hs hb
  unfold State.storeOwned
  rw [homeWrite_mem (s := (s.newGeneration p (pa / 512)).putCopy p pa bs 0) pa bs h.2]
  exact congrArg (fun m : Memory => m.write pa bs) h.1

/-- A store at home writes its bytes and no other, whatever its request type, from a core that keeps no copy of the
grain (R273): a .s store that may keep a copy leaves home as it is. -/
theorem State.storeHbm_mem {s : State} (p : CoreId) (pa : Nat) (bs : List Byte) (g : Nat) (r : Req) (vec : Bool)
    (hc : (s.core p).copies = []) (hs : s.snap = none) (hx : s.comb = []) (hb : s.badCopies = []) :
    (s.storeHbm p pa bs g r vec).mem =
      if r = .s ∧ (s.core p).keeps = true then s.mem else s.mem.write pa bs := by
  have own : ∀ l g', (((((((s.recordGrain pa g).combSettle l).writeBackOwn p l).recall l (some p)).fillCopies p vec pa g'
      .owned)).storeOwned p pa bs).mem = s.mem.write pa bs := by
    intro l g'
    obtain ⟨r1, r2, r3, r4, r5⟩ := recordGrain_mem s pa g
    have hc' : ((s.recordGrain pa g).core p).copies = [] := by rw [State.core, r3]; exact hc
    rw [combSettle_none _ (r4.trans hx), writeBackOwn_none p _ hc']
    have hb' := r5.trans hb
    have h1 := recall_keeps l p hb'
    have h2 := recall_eq l (some p) hb'
    rw [hc'] at h1
    have h3 := fillCopies_mem (s := (s.recordGrain pa g).recall l (some p)) p vec pa g' .owned h1
    rw [storeOwned_mem p pa bs (by rw [h3.2.1, h2.2.1, r2, hs]) (h3.2.2 h2.2.2), h3.1, h2.1, r1]
  have hn := copyAt_none (s := s) p (pa / 32) hc
  have hr := fun l k => recall_eq (s := s) l k hb
  have hu : ∀ l k, ((s.recall l k).homeWrite pa bs).mem = s.mem.write pa bs := by
    intro l k
    rw [homeWrite_mem _ _ (by rw [(hr l k).2.1, hs]), (hr l k).1]
  unfold State.storeHbm
  by_cases hv : (s.core p).keeps = true
  · simp only [hv, if_true, and_true]
    cases r with
    | s =>
      simp only [combSettle_none _ hx, hn, if_true]
      exact (fillCopies_mem (s := s) p vec pa _ _ hc).1
    | o => simp [hn, own]
    | w => simp [combSettle_none _ hx, writeBackOwn_none p _ hc, hu]
    | u => simp [combSettle_none _ hx, writeBackOwn_none p _ hc, dropOwn_none p _ hc, hu]
  · simp [hv, combSettle_none _ hx, writeBackOwn_none p _ hc, dropOwn_none p _ hc, hu]

/-- A load of a core that holds no copy gives what home holds, and changes nothing there (R273). -/
theorem State.loadHbm_bytes {s : State} (p : CoreId) (pa n g : Nat) (r : Req) (vec : Bool)
    (hc : (s.core p).copies = []) (hx : s.comb = []) (hb : s.badCopies = []) :
    (s.loadHbm p pa n g r vec).1 = s.mem.read pa n ∧ (s.loadHbm p pa n g r vec).2.mem = s.mem := by
  have down : ∀ l g', ((((((s.recordGrain pa g).combSettle l).writeBackOwn p l).downgrade p l).fillCopies p vec pa g'
      .tracked)).mem = s.mem := by
    intro l g'
    obtain ⟨r1, r2, r3, r4, r5⟩ := recordGrain_mem s pa g
    have hc' : ((s.recordGrain pa g).core p).copies = [] := by rw [State.core, r3]; exact hc
    have hb' := r5.trans hb
    rw [combSettle_none _ (r4.trans hx), writeBackOwn_none p _ hc']
    have h1 : (((s.recordGrain pa g).downgrade p l).core p).copies = [] := by
      simp [State.downgrade, State.core_mapCopies, State.loseDirty, hb', hc']
    have h2 : ((s.recordGrain pa g).downgrade p l).mem = s.mem := by
      rw [← r1]
      simp [State.downgrade, State.loseDirty, hb', State.mapCopies]
    rw [(fillCopies_mem p vec pa g' _ h1).1, h2]
  unfold State.loadHbm
  simp only [refetch_none p pa n hc, loadHit_none p pa r hc]
  split
  · simp_all
  · simp [combSettle_none _ hx, writeBackOwn_none p _ hc]
  · simp only [combSettle_none _ hx, writeBackOwn_none p _ hc, dropOwn_none p _ hc, ite_self]
    exact ⟨trivial, (fillCopies_mem (s := s) p vec pa _ _ hc).1⟩
  · exact ⟨by rw [down], down _ _⟩

/-! ### Translation -/

/-- What a translation changes in a calm core: the entries that it holds, those of tables beyond the package among them,
and the requests for these. -/
def State.translated (p : CoreId) (s t : State) : Prop :=
  ∃ l n b f, t = { s.setCore p { s.core p with tlb := l, nodes := n, tables := b } with ext := f }

theorem State.translated_refl (p : CoreId) (s : State) : State.translated p s s :=
  ⟨(s.core p).tlb, (s.core p).nodes, (s.core p).tables, s.ext, by
    have : ({ s.core p with tlb := (s.core p).tlb, nodes := (s.core p).nodes, tables := (s.core p).tables } : Core) =
      s.core p := rfl
    rw [this, State.setCore_self]⟩

theorem State.translated_trans {p : CoreId} {s t u : State} (h : State.translated p s t) (k : State.translated p t u) :
    State.translated p s u := by
  obtain ⟨l, n, b, f, rfl⟩ := h
  obtain ⟨l', n', b', f', rfl⟩ := k
  refine ⟨l', n', b', f', ?_⟩
  simp [State.setCore, State.core]

theorem State.translated_calm {p : CoreId} {s t : State} (h : State.translated p s t) :
    (t.core p).copies = (s.core p).copies ∧ t.comb = s.comb ∧ t.mem = s.mem := by
  obtain ⟨l, n, b, f, rfl⟩ := h
  refine ⟨?_, rfl, rfl⟩
  simp [State.core, State.setCore]

/-- What the walker asks for, and what it drops of what it holds. -/
theorem State.translated_tables (p : CoreId) (s : State) (b : List (Nat × BusStatus × Word)) (f : List ExtReq) :
    State.translated p s ({ s.setCore p { s.core p with tables := b } with ext := f }) :=
  ⟨(s.core p).tlb, (s.core p).nodes, b, f, rfl⟩

theorem State.pteAt_calm {s : State} (p : CoreId) (c : CtxId) (pa : Nat) (hc : (s.core p).copies = [])
    (hx : s.comb = []) : State.translated p s (s.pteAt p c pa).2 := by
  have asked : ∀ f, State.translated p s { s with ext := f } := fun f => by
    have h := translated_tables p s (s.core p).tables f
    rwa [show ({ s.core p with tables := (s.core p).tables } : Core) = s.core p from rfl, State.setCore_self] at h
  have held : ∀ b, State.translated p s (s.setCore p { s.core p with tables := b }) := fun b => translated_tables p s b s.ext
  unfold State.pteAt
  split
  · split
    · exact translated_refl p s
    · simp only [combSettle_none _ hx, writeBackOwn_none p _ hc]
      exact translated_refl p s
  · split
    · exact translated_refl p s
    · split <;> exact translated_refl p s
  iterate 2
    · dsimp only
      split
      · split
        · exact translated_refl p s
        · exact held _
      · exact held _
      · split
        · exact translated_refl p s
        · exact asked _
  · exact translated_refl p s

theorem State.walk_calm (p : CoreId) (c : CtxId) (va : Nat) :
    ∀ (l : Nat) (node : Nat) (s : State), (s.core p).copies = [] → s.comb = [] →
      State.translated p s (s.walk p c va l node).2
  | 0, _, s, _, _ => translated_refl p s
  | l + 1, node, s, hc, hx => by
    have hp := fun a => pteAt_calm p c a hc hx
    unfold State.walk
    dsimp only
    split
    · exact walk_calm p c va l _ s hc hx
    · split
      · next s1 he => have := hp (node + 8 * (va >>> (12 + 9 * l) % 512)); rw [he] at this; exact this
      · next e s1 he =>
        have h1 : State.translated p s s1 := by
          have := hp (node + 8 * (va >>> (12 + 9 * l) % 512)); rw [he] at this; exact this
        have hk := translated_calm h1
        split
        · exact h1
        · exact h1
        · next next _ =>
          have h2 : ∀ n, State.translated p s1 (s1.setCore p { s1.core p with nodes := n }) :=
            fun n => ⟨(s1.core p).tlb, n, (s1.core p).tables, s1.ext, rfl⟩
          have h3 := h2 (⟨c, l, va >>> (12 + 9 * l), next⟩ :: (s1.core p).nodes)
          have h4 := translated_calm h3
          exact translated_trans (translated_trans h1 h3) (walk_calm p c va l _ _ (by rw [h4.1, hk.1, hc]) (by rw [h4.2.1, hk.2.1, hx]))

/-- A translation of a core that holds no copy changes the entries that it holds, and nothing else (R283). -/
theorem State.lookup_calm {s : State} (p : CoreId) (c : CtxId) (root : Nat) (va : Word) (b : Option ArrayId)
    (hc : (s.core p).copies = []) (hx : s.comb = []) : State.translated p s (s.lookup p c root va b).2 := by
  have hw := walk_calm p c va.toNat 5 root s hc hx
  unfold State.lookup
  split
  · exact translated_refl p s
  · split
    · exact translated_refl p s
    · split
      · exact translated_refl p s
      · split
        · next he => rw [he] at hw; exact hw
        · next s1 he =>
          rw [he] at hw
          exact translated_trans hw ⟨_, (s1.core p).nodes, (s1.core p).tables, s1.ext, rfl⟩

theorem State.place_calm {s : State} (p : CoreId) (c : CtxId) (r v : Bool) (va : Word) (n : Nat) (k : Acc)
    (b : Option ArrayId) (hc : (s.core p).copies = []) (hx : s.comb = []) :
    State.translated p s (s.place p c r v va n k b).2 := by
  rw [State.place_state]; exact lookup_calm _ _ _ _ _ hc hx

/-- The checks of R287 in a calm state change the entries that the core holds, and nothing else. -/
theorem State.check_calm {s : State} (va : Word) (n : Nat) (k : Acc) (h : s.calm = true) :
    State.translated s.cur s (s.check va n k).2 := by
  obtain ⟨-, -, -, -, -, h6, -, -, -, h10, -⟩ := State.calm_parts h
  unfold State.check
  split
  · exact translated_refl _ s
  · exact place_calm _ _ _ _ _ _ _ _ h6 h10

end Sys2Proof.Machine
end

