-- ==== Sys2Proof/Laws/PerInstr.lean ====
section
/-! SUPPORT. Statements made for every instruction, with one lemma for each constructor of Instr: RoundTrip, that decoding
the word of a well-formed instruction gives it back. -/

set_option linter.unusedSimpArgs false
set_option linter.unreachableTactic false
set_option linter.unusedTactic false
set_option linter.unnecessarySeqFocus false

namespace Sys2Proof.Laws

/-- Decoding the word of a well-formed instruction gives the instruction, every operand at every value. -/
def RoundTrip.Statement (i : Instr) : Prop := ∀ w, wellFormed i = true → encode i = some w → decode w = .ok i

/-! ### One lemma for each major opcode -/

theorem major01 {w : IWord} (h : w.extractLsb' 26 6 = 0x01) : decode w = decAlu (w.extractLsb' 21 5) (w.extractLsb' 16 5) (w.extractLsb' 11 5) (w.extractLsb' 0 11) := by
  unfold decode; rw [h]; rfl
theorem major02 {w : IWord} (h : w.extractLsb' 26 6 = 0x02) : decode w = .ok (.addi (w.extractLsb' 21 5) (w.extractLsb' 16 5) (w.extractLsb' 0 16)) := by
  unfold decode; rw [h]; rfl
theorem major03 {w : IWord} (h : w.extractLsb' 26 6 = 0x03) : decode w = .ok (.andi (w.extractLsb' 21 5) (w.extractLsb' 16 5) (w.extractLsb' 0 16)) := by
  unfold decode; rw [h]; rfl
theorem major04 {w : IWord} (h : w.extractLsb' 26 6 = 0x04) : decode w = .ok (.ori (w.extractLsb' 21 5) (w.extractLsb' 16 5) (w.extractLsb' 0 16)) := by
  unfold decode; rw [h]; rfl
theorem major05 {w : IWord} (h : w.extractLsb' 26 6 = 0x05) : decode w = .ok (.xori (w.extractLsb' 21 5) (w.extractLsb' 16 5) (w.extractLsb' 0 16)) := by
  unfold decode; rw [h]; rfl
theorem major06 {w : IWord} (h : w.extractLsb' 26 6 = 0x06) : decode w = .ok (.slti (w.extractLsb' 21 5) (w.extractLsb' 16 5) (w.extractLsb' 0 16)) := by
  unfold decode; rw [h]; rfl
theorem major07 {w : IWord} (h : w.extractLsb' 26 6 = 0x07) : decode w = .ok (.sltiu (w.extractLsb' 21 5) (w.extractLsb' 16 5) (w.extractLsb' 0 16)) := by
  unfold decode; rw [h]; rfl
theorem major08 {w : IWord} (h : w.extractLsb' 26 6 = 0x08) : decode w = decShift (w.extractLsb' 21 5) (w.extractLsb' 16 5) (w.extractLsb' 0 16) := by
  unfold decode; rw [h]; rfl
theorem major09 {w : IWord} (h : w.extractLsb' 26 6 = 0x09) : decode w = accept ((w.extractLsb' 16 5) == 0) (.lui (w.extractLsb' 21 5) (w.extractLsb' 0 16)) := by
  unfold decode; rw [h]; rfl
theorem major0a {w : IWord} (h : w.extractLsb' 26 6 = 0x0a) : decode w = decMulDiv (w.extractLsb' 21 5) (w.extractLsb' 16 5) (w.extractLsb' 11 5) (w.extractLsb' 0 11) := by
  unfold decode; rw [h]; rfl
theorem major0b {w : IWord} (h : w.extractLsb' 26 6 = 0x0b) : decode w = .ok (.beq (w.extractLsb' 21 5) (w.extractLsb' 16 5) (w.extractLsb' 0 16)) := by
  unfold decode; rw [h]; rfl
theorem major0c {w : IWord} (h : w.extractLsb' 26 6 = 0x0c) : decode w = .ok (.bne (w.extractLsb' 21 5) (w.extractLsb' 16 5) (w.extractLsb' 0 16)) := by
  unfold decode; rw [h]; rfl
theorem major0d {w : IWord} (h : w.extractLsb' 26 6 = 0x0d) : decode w = .ok (.blt (w.extractLsb' 21 5) (w.extractLsb' 16 5) (w.extractLsb' 0 16)) := by
  unfold decode; rw [h]; rfl
theorem major0e {w : IWord} (h : w.extractLsb' 26 6 = 0x0e) : decode w = .ok (.bge (w.extractLsb' 21 5) (w.extractLsb' 16 5) (w.extractLsb' 0 16)) := by
  unfold decode; rw [h]; rfl
theorem major0f {w : IWord} (h : w.extractLsb' 26 6 = 0x0f) : decode w = .ok (.bltu (w.extractLsb' 21 5) (w.extractLsb' 16 5) (w.extractLsb' 0 16)) := by
  unfold decode; rw [h]; rfl
theorem major10 {w : IWord} (h : w.extractLsb' 26 6 = 0x10) : decode w = .ok (.bgeu (w.extractLsb' 21 5) (w.extractLsb' 16 5) (w.extractLsb' 0 16)) := by
  unfold decode; rw [h]; rfl
theorem major11 {w : IWord} (h : w.extractLsb' 26 6 = 0x11) : decode w = .ok (.jal (w.extractLsb' 0 26)) := by
  unfold decode; rw [h]; rfl
theorem major12 {w : IWord} (h : w.extractLsb' 26 6 = 0x12) : decode w = .ok (.jalr (w.extractLsb' 21 5) (w.extractLsb' 16 5) (w.extractLsb' 0 16)) := by
  unfold decode; rw [h]; rfl
theorem major13 {w : IWord} (h : w.extractLsb' 26 6 = 0x13) : decode w = .ok (.ld ⟨(w.extractLsb' 21 5), (w.extractLsb' 16 5), Req.ofBits (w.extractLsb' 14 2), isSet (w.extractLsb' 13 1), Size.ofBits (w.extractLsb' 11 2), (w.extractLsb' 0 11)⟩) := by
  unfold decode; rw [h]; rfl
theorem major14 {w : IWord} (h : w.extractLsb' 26 6 = 0x14) : decode w = .ok (.st ⟨(w.extractLsb' 21 5), (w.extractLsb' 16 5), Req.ofBits (w.extractLsb' 14 2), isSet (w.extractLsb' 13 1), Size.ofBits (w.extractLsb' 11 2), (w.extractLsb' 0 11)⟩) := by
  unfold decode; rw [h]; rfl
theorem major15 {w : IWord} (h : w.extractLsb' 26 6 = 0x15) : decode w = decAtomic (w.extractLsb' 21 5) (w.extractLsb' 16 5) (w.extractLsb' 11 5) (w.extractLsb' 0 11) := by
  unfold decode; rw [h]; rfl
theorem major16 {w : IWord} (h : w.extractLsb' 26 6 = 0x16) : decode w = decFullEmpty (w.extractLsb' 21 5) (w.extractLsb' 16 5) (w.extractLsb' 13 3) (w.extractLsb' 11 2) (w.extractLsb' 0 11) := by
  unfold decode; rw [h]; rfl
theorem major17 {w : IWord} (h : w.extractLsb' 26 6 = 0x17) : decode w = decFence (w.extractLsb' 21 5) (w.extractLsb' 16 5) (w.extractLsb' 11 5) (w.extractLsb' 0 11) := by
  unfold decode; rw [h]; rfl
theorem major18 {w : IWord} (h : w.extractLsb' 26 6 = 0x18) : decode w = decCsr (w.extractLsb' 21 5) (w.extractLsb' 16 5) (w.extractLsb' 0 16) := by
  unfold decode; rw [h]; rfl
theorem major19 {w : IWord} (h : w.extractLsb' 26 6 = 0x19) : decode w = decTrap (w.extractLsb' 21 5) (w.extractLsb' 16 5) (w.extractLsb' 11 5) (w.extractLsb' 0 11) := by
  unfold decode; rw [h]; rfl
theorem major1a {w : IWord} (h : w.extractLsb' 26 6 = 0x1a) : decode w = decNet (w.extractLsb' 21 5) (w.extractLsb' 16 5) (w.extractLsb' 11 5) (w.extractLsb' 0 11) := by
  unfold decode; rw [h]; rfl
theorem major1b {w : IWord} (h : w.extractLsb' 26 6 = 0x1b) : decode w = decCopy (w.extractLsb' 21 5) (w.extractLsb' 16 5) (w.extractLsb' 11 5) (w.extractLsb' 0 11) := by
  unfold decode; rw [h]; rfl
theorem major1c {w : IWord} (h : w.extractLsb' 26 6 = 0x1c) : decode w = decObject (w.extractLsb' 21 5) (w.extractLsb' 16 5) (w.extractLsb' 11 5) (w.extractLsb' 0 11) := by
  unfold decode; rw [h]; rfl
theorem major20 {w : IWord} (h : w.extractLsb' 26 6 = 0x20) : decode w = decConfig (w.extractLsb' 21 5) (w.extractLsb' 16 5) (w.extractLsb' 11 5) (w.extractLsb' 0 11) := by
  unfold decode; rw [h]; rfl
theorem major21 {w : IWord} (h : w.extractLsb' 26 6 = 0x21) : decode w = decVInt (w.extractLsb' 21 5) (w.extractLsb' 16 5) (w.extractLsb' 11 5) (w.extractLsb' 8 3) (w.extractLsb' 6 2) (w.extractLsb' 0 6) := by
  unfold decode; rw [h]; rfl
theorem major22 {w : IWord} (h : w.extractLsb' 26 6 = 0x22) : decode w = decVLogic (w.extractLsb' 21 5) (w.extractLsb' 16 5) (w.extractLsb' 11 5) (w.extractLsb' 8 3) (w.extractLsb' 6 2) (w.extractLsb' 0 6) := by
  unfold decode; rw [h]; rfl
theorem major23 {w : IWord} (h : w.extractLsb' 26 6 = 0x23) : decode w = decVMask (w.extractLsb' 21 5) (w.extractLsb' 16 5) (w.extractLsb' 11 5) (w.extractLsb' 8 3) (w.extractLsb' 6 2) (w.extractLsb' 0 6) := by
  unfold decode; rw [h]; rfl
theorem major24 {w : IWord} (h : w.extractLsb' 26 6 = 0x24) : decode w = decVAssoc (w.extractLsb' 21 5) (w.extractLsb' 16 5) (w.extractLsb' 11 5) (w.extractLsb' 8 3) (w.extractLsb' 6 2) (w.extractLsb' 0 6) := by
  unfold decode; rw [h]; rfl
theorem major25 {w : IWord} (h : w.extractLsb' 26 6 = 0x25) : decode w = decVFp (w.extractLsb' 21 5) (w.extractLsb' 16 5) (w.extractLsb' 11 5) (w.extractLsb' 8 3) (w.extractLsb' 6 2) (w.extractLsb' 0 6) := by
  unfold decode; rw [h]; rfl
theorem major26 {w : IWord} (h : w.extractLsb' 26 6 = 0x26) : decode w = decVCvt (w.extractLsb' 21 5) (w.extractLsb' 16 5) (w.extractLsb' 11 5) (w.extractLsb' 8 3) (w.extractLsb' 6 2) (w.extractLsb' 0 6) := by
  unfold decode; rw [h]; rfl
theorem major27 {w : IWord} (h : w.extractLsb' 26 6 = 0x27) : decode w = decVRed (w.extractLsb' 21 5) (w.extractLsb' 16 5) (w.extractLsb' 11 5) (w.extractLsb' 8 3) (w.extractLsb' 6 2) (w.extractLsb' 0 6) := by
  unfold decode; rw [h]; rfl
theorem major28 {w : IWord} (h : w.extractLsb' 26 6 = 0x28) : decode w = decVPerm (w.extractLsb' 21 5) (w.extractLsb' 16 5) (w.extractLsb' 11 5) (w.extractLsb' 8 3) (w.extractLsb' 6 2) (w.extractLsb' 0 6) := by
  unfold decode; rw [h]; rfl
theorem major29 {w : IWord} (h : w.extractLsb' 26 6 = 0x29) : decode w = .ok (.vidx (w.extractLsb' 21 5) (w.extractLsb' 10 11) (w.extractLsb' 0 10)) := by
  unfold decode; rw [h]; rfl
theorem major2a {w : IWord} (h : w.extractLsb' 26 6 = 0x2a) : decode w = decVMem false (w.extractLsb' 21 5) (w.extractLsb' 16 5) (w.extractLsb' 11 5) (w.extractLsb' 8 3) (w.extractLsb' 6 2) (w.extractLsb' 4 2) (w.extractLsb' 3 1) (w.extractLsb' 0 3) := by
  unfold decode; rw [h]; rfl
theorem major2b {w : IWord} (h : w.extractLsb' 26 6 = 0x2b) : decode w = decVMem true (w.extractLsb' 21 5) (w.extractLsb' 16 5) (w.extractLsb' 11 5) (w.extractLsb' 8 3) (w.extractLsb' 6 2) (w.extractLsb' 4 2) (w.extractLsb' 3 1) (w.extractLsb' 0 3) := by
  unfold decode; rw [h]; rfl
theorem major2c {w : IWord} (h : w.extractLsb' 26 6 = 0x2c) : decode w = decVAmo (w.extractLsb' 21 5) (w.extractLsb' 16 5) (w.extractLsb' 11 5) (w.extractLsb' 8 3) (w.extractLsb' 6 2) (w.extractLsb' 0 6) := by
  unfold decode; rw [h]; rfl
theorem major2d {w : IWord} (h : w.extractLsb' 26 6 = 0x2d) : decode w = decVSync (w.extractLsb' 21 5) (w.extractLsb' 16 5) (w.extractLsb' 11 5) (w.extractLsb' 8 3) (w.extractLsb' 6 2) (w.extractLsb' 0 6) := by
  unfold decode; rw [h]; rfl
theorem major2e {w : IWord} (h : w.extractLsb' 26 6 = 0x2e) : decode w = decVMatrix (w.extractLsb' 21 5) (w.extractLsb' 16 5) (w.extractLsb' 11 5) (w.extractLsb' 8 3) (w.extractLsb' 6 2) (w.extractLsb' 0 6) := by
  unfold decode; rw [h]; rfl
theorem major2f {w : IWord} (h : w.extractLsb' 26 6 = 0x2f) : decode w = decTile (w.extractLsb' 23 3) (w.extractLsb' 18 5) (w.extractLsb' 13 5) (w.extractLsb' 8 5) (w.extractLsb' 0 8) := by
  unfold decode; rw [h]; rfl
theorem major3c {w : IWord} (h : w.extractLsb' 26 6 = 0x3c) : decode w = .ok (decHint .h3c (w.extractLsb' 0 26)) := by
  unfold decode; rw [h]; rfl
theorem major3d {w : IWord} (h : w.extractLsb' 26 6 = 0x3d) : decode w = .ok (decHint .h3d (w.extractLsb' 0 26)) := by
  unfold decode; rw [h]; rfl
theorem major3e {w : IWord} (h : w.extractLsb' 26 6 = 0x3e) : decode w = .ok (decHint .h3e (w.extractLsb' 0 26)) := by
  unfold decode; rw [h]; rfl

/-! ### What each field of a word reads as -/

theorem encR_op (op : BitVec 6) (rd : BitVec 5) (rs1 : BitVec 5) (rs2 : BitVec 5) (fn : BitVec 11) : (encR op rd rs1 rs2 fn).extractLsb' 26 6 = op := by
  simp (disch := omega) only [encR, BitVec.extractLsb'_append_eq_of_add_le, BitVec.extractLsb'_append_eq_of_le,
    Nat.reduceSub, BitVec.extractLsb'_eq_self]
theorem encR_rd (op : BitVec 6) (rd : BitVec 5) (rs1 : BitVec 5) (rs2 : BitVec 5) (fn : BitVec 11) : (encR op rd rs1 rs2 fn).extractLsb' 21 5 = rd := by
  simp (disch := omega) only [encR, BitVec.extractLsb'_append_eq_of_add_le, BitVec.extractLsb'_append_eq_of_le,
    Nat.reduceSub, BitVec.extractLsb'_eq_self]
theorem encR_rs1 (op : BitVec 6) (rd : BitVec 5) (rs1 : BitVec 5) (rs2 : BitVec 5) (fn : BitVec 11) : (encR op rd rs1 rs2 fn).extractLsb' 16 5 = rs1 := by
  simp (disch := omega) only [encR, BitVec.extractLsb'_append_eq_of_add_le, BitVec.extractLsb'_append_eq_of_le,
    Nat.reduceSub, BitVec.extractLsb'_eq_self]
theorem encR_rs2 (op : BitVec 6) (rd : BitVec 5) (rs1 : BitVec 5) (rs2 : BitVec 5) (fn : BitVec 11) : (encR op rd rs1 rs2 fn).extractLsb' 11 5 = rs2 := by
  simp (disch := omega) only [encR, BitVec.extractLsb'_append_eq_of_add_le, BitVec.extractLsb'_append_eq_of_le,
    Nat.reduceSub, BitVec.extractLsb'_eq_self]
theorem encR_fn (op : BitVec 6) (rd : BitVec 5) (rs1 : BitVec 5) (rs2 : BitVec 5) (fn : BitVec 11) : (encR op rd rs1 rs2 fn).extractLsb' 0 11 = fn := by
  simp (disch := omega) only [encR, BitVec.extractLsb'_append_eq_of_add_le, BitVec.extractLsb'_append_eq_of_le,
    Nat.reduceSub, BitVec.extractLsb'_eq_self]
theorem encI_op (op : BitVec 6) (rd : BitVec 5) (rs1 : BitVec 5) (imm : BitVec 16) : (encI op rd rs1 imm).extractLsb' 26 6 = op := by
  simp (disch := omega) only [encI, BitVec.extractLsb'_append_eq_of_add_le, BitVec.extractLsb'_append_eq_of_le,
    Nat.reduceSub, BitVec.extractLsb'_eq_self]
theorem encI_rd (op : BitVec 6) (rd : BitVec 5) (rs1 : BitVec 5) (imm : BitVec 16) : (encI op rd rs1 imm).extractLsb' 21 5 = rd := by
  simp (disch := omega) only [encI, BitVec.extractLsb'_append_eq_of_add_le, BitVec.extractLsb'_append_eq_of_le,
    Nat.reduceSub, BitVec.extractLsb'_eq_self]
theorem encI_rs1 (op : BitVec 6) (rd : BitVec 5) (rs1 : BitVec 5) (imm : BitVec 16) : (encI op rd rs1 imm).extractLsb' 16 5 = rs1 := by
  simp (disch := omega) only [encI, BitVec.extractLsb'_append_eq_of_add_le, BitVec.extractLsb'_append_eq_of_le,
    Nat.reduceSub, BitVec.extractLsb'_eq_self]
theorem encI_imm (op : BitVec 6) (rd : BitVec 5) (rs1 : BitVec 5) (imm : BitVec 16) : (encI op rd rs1 imm).extractLsb' 0 16 = imm := by
  simp (disch := omega) only [encI, BitVec.extractLsb'_append_eq_of_add_le, BitVec.extractLsb'_append_eq_of_le,
    Nat.reduceSub, BitVec.extractLsb'_eq_self]
theorem encM_op (op : BitVec 6) (r : BitVec 5) (xs1 : BitVec 5) (req : BitVec 2) (rx : BitVec 1) (size : BitVec 2) (imm : BitVec 11) : (encM op r xs1 req rx size imm).extractLsb' 26 6 = op := by
  simp (disch := omega) only [encM, BitVec.extractLsb'_append_eq_of_add_le, BitVec.extractLsb'_append_eq_of_le,
    Nat.reduceSub, BitVec.extractLsb'_eq_self]
theorem encM_r (op : BitVec 6) (r : BitVec 5) (xs1 : BitVec 5) (req : BitVec 2) (rx : BitVec 1) (size : BitVec 2) (imm : BitVec 11) : (encM op r xs1 req rx size imm).extractLsb' 21 5 = r := by
  simp (disch := omega) only [encM, BitVec.extractLsb'_append_eq_of_add_le, BitVec.extractLsb'_append_eq_of_le,
    Nat.reduceSub, BitVec.extractLsb'_eq_self]
theorem encM_xs1 (op : BitVec 6) (r : BitVec 5) (xs1 : BitVec 5) (req : BitVec 2) (rx : BitVec 1) (size : BitVec 2) (imm : BitVec 11) : (encM op r xs1 req rx size imm).extractLsb' 16 5 = xs1 := by
  simp (disch := omega) only [encM, BitVec.extractLsb'_append_eq_of_add_le, BitVec.extractLsb'_append_eq_of_le,
    Nat.reduceSub, BitVec.extractLsb'_eq_self]
theorem encM_req (op : BitVec 6) (r : BitVec 5) (xs1 : BitVec 5) (req : BitVec 2) (rx : BitVec 1) (size : BitVec 2) (imm : BitVec 11) : (encM op r xs1 req rx size imm).extractLsb' 14 2 = req := by
  simp (disch := omega) only [encM, BitVec.extractLsb'_append_eq_of_add_le, BitVec.extractLsb'_append_eq_of_le,
    Nat.reduceSub, BitVec.extractLsb'_eq_self]
theorem encM_rx (op : BitVec 6) (r : BitVec 5) (xs1 : BitVec 5) (req : BitVec 2) (rx : BitVec 1) (size : BitVec 2) (imm : BitVec 11) : (encM op r xs1 req rx size imm).extractLsb' 13 1 = rx := by
  simp (disch := omega) only [encM, BitVec.extractLsb'_append_eq_of_add_le, BitVec.extractLsb'_append_eq_of_le,
    Nat.reduceSub, BitVec.extractLsb'_eq_self]
theorem encM_size (op : BitVec 6) (r : BitVec 5) (xs1 : BitVec 5) (req : BitVec 2) (rx : BitVec 1) (size : BitVec 2) (imm : BitVec 11) : (encM op r xs1 req rx size imm).extractLsb' 11 2 = size := by
  simp (disch := omega) only [encM, BitVec.extractLsb'_append_eq_of_add_le, BitVec.extractLsb'_append_eq_of_le,
    Nat.reduceSub, BitVec.extractLsb'_eq_self]
theorem encM_imm (op : BitVec 6) (r : BitVec 5) (xs1 : BitVec 5) (req : BitVec 2) (rx : BitVec 1) (size : BitVec 2) (imm : BitVec 11) : (encM op r xs1 req rx size imm).extractLsb' 0 11 = imm := by
  simp (disch := omega) only [encM, BitVec.extractLsb'_append_eq_of_add_le, BitVec.extractLsb'_append_eq_of_le,
    Nat.reduceSub, BitVec.extractLsb'_eq_self]
theorem encJ_op (op : BitVec 6) (off : BitVec 26) : (encJ op off).extractLsb' 26 6 = op := by
  simp (disch := omega) only [encJ, BitVec.extractLsb'_append_eq_of_add_le, BitVec.extractLsb'_append_eq_of_le,
    Nat.reduceSub, BitVec.extractLsb'_eq_self]
theorem encJ_off (op : BitVec 6) (off : BitVec 26) : (encJ op off).extractLsb' 0 26 = off := by
  simp (disch := omega) only [encJ, BitVec.extractLsb'_append_eq_of_add_le, BitVec.extractLsb'_append_eq_of_le,
    Nat.reduceSub, BitVec.extractLsb'_eq_self]
theorem encV_op (op : BitVec 6) (vd : BitVec 5) (vs1 : BitVec 5) (op2 : BitVec 5) (vm : BitVec 3) (kind : BitVec 2) (fn6 : BitVec 6) : (encV op vd vs1 op2 vm kind fn6).extractLsb' 26 6 = op := by
  simp (disch := omega) only [encV, BitVec.extractLsb'_append_eq_of_add_le, BitVec.extractLsb'_append_eq_of_le,
    Nat.reduceSub, BitVec.extractLsb'_eq_self]
theorem encV_vd (op : BitVec 6) (vd : BitVec 5) (vs1 : BitVec 5) (op2 : BitVec 5) (vm : BitVec 3) (kind : BitVec 2) (fn6 : BitVec 6) : (encV op vd vs1 op2 vm kind fn6).extractLsb' 21 5 = vd := by
  simp (disch := omega) only [encV, BitVec.extractLsb'_append_eq_of_add_le, BitVec.extractLsb'_append_eq_of_le,
    Nat.reduceSub, BitVec.extractLsb'_eq_self]
theorem encV_vs1 (op : BitVec 6) (vd : BitVec 5) (vs1 : BitVec 5) (op2 : BitVec 5) (vm : BitVec 3) (kind : BitVec 2) (fn6 : BitVec 6) : (encV op vd vs1 op2 vm kind fn6).extractLsb' 16 5 = vs1 := by
  simp (disch := omega) only [encV, BitVec.extractLsb'_append_eq_of_add_le, BitVec.extractLsb'_append_eq_of_le,
    Nat.reduceSub, BitVec.extractLsb'_eq_self]
theorem encV_op2 (op : BitVec 6) (vd : BitVec 5) (vs1 : BitVec 5) (op2 : BitVec 5) (vm : BitVec 3) (kind : BitVec 2) (fn6 : BitVec 6) : (encV op vd vs1 op2 vm kind fn6).extractLsb' 11 5 = op2 := by
  simp (disch := omega) only [encV, BitVec.extractLsb'_append_eq_of_add_le, BitVec.extractLsb'_append_eq_of_le,
    Nat.reduceSub, BitVec.extractLsb'_eq_self]
theorem encV_vm (op : BitVec 6) (vd : BitVec 5) (vs1 : BitVec 5) (op2 : BitVec 5) (vm : BitVec 3) (kind : BitVec 2) (fn6 : BitVec 6) : (encV op vd vs1 op2 vm kind fn6).extractLsb' 8 3 = vm := by
  simp (disch := omega) only [encV, BitVec.extractLsb'_append_eq_of_add_le, BitVec.extractLsb'_append_eq_of_le,
    Nat.reduceSub, BitVec.extractLsb'_eq_self]
theorem encV_kind (op : BitVec 6) (vd : BitVec 5) (vs1 : BitVec 5) (op2 : BitVec 5) (vm : BitVec 3) (kind : BitVec 2) (fn6 : BitVec 6) : (encV op vd vs1 op2 vm kind fn6).extractLsb' 6 2 = kind := by
  simp (disch := omega) only [encV, BitVec.extractLsb'_append_eq_of_add_le, BitVec.extractLsb'_append_eq_of_le,
    Nat.reduceSub, BitVec.extractLsb'_eq_self]
theorem encV_fn6 (op : BitVec 6) (vd : BitVec 5) (vs1 : BitVec 5) (op2 : BitVec 5) (vm : BitVec 3) (kind : BitVec 2) (fn6 : BitVec 6) : (encV op vd vs1 op2 vm kind fn6).extractLsb' 0 6 = fn6 := by
  simp (disch := omega) only [encV, BitVec.extractLsb'_append_eq_of_add_le, BitVec.extractLsb'_append_eq_of_le,
    Nat.reduceSub, BitVec.extractLsb'_eq_self]
theorem encVI_op (op : BitVec 6) (vd : BitVec 5) (start : BitVec 11) (inc : BitVec 10) : (encVI op vd start inc).extractLsb' 26 6 = op := by
  simp (disch := omega) only [encVI, BitVec.extractLsb'_append_eq_of_add_le, BitVec.extractLsb'_append_eq_of_le,
    Nat.reduceSub, BitVec.extractLsb'_eq_self]
theorem encVI_vd (op : BitVec 6) (vd : BitVec 5) (start : BitVec 11) (inc : BitVec 10) : (encVI op vd start inc).extractLsb' 21 5 = vd := by
  simp (disch := omega) only [encVI, BitVec.extractLsb'_append_eq_of_add_le, BitVec.extractLsb'_append_eq_of_le,
    Nat.reduceSub, BitVec.extractLsb'_eq_self]
theorem encVI_start (op : BitVec 6) (vd : BitVec 5) (start : BitVec 11) (inc : BitVec 10) : (encVI op vd start inc).extractLsb' 10 11 = start := by
  simp (disch := omega) only [encVI, BitVec.extractLsb'_append_eq_of_add_le, BitVec.extractLsb'_append_eq_of_le,
    Nat.reduceSub, BitVec.extractLsb'_eq_self]
theorem encVI_inc (op : BitVec 6) (vd : BitVec 5) (start : BitVec 11) (inc : BitVec 10) : (encVI op vd start inc).extractLsb' 0 10 = inc := by
  simp (disch := omega) only [encVI, BitVec.extractLsb'_append_eq_of_add_le, BitVec.extractLsb'_append_eq_of_le,
    Nat.reduceSub, BitVec.extractLsb'_eq_self]
theorem encVM_op (op : BitVec 6) (v : BitVec 5) (xs1 : BitVec 5) (r2 : BitVec 5) (vm : BitVec 3) (req : BitVec 2) (mode : BitVec 2) (rx : BitVec 1) (fn3 : BitVec 3) : (encVM op v xs1 r2 vm req mode rx fn3).extractLsb' 26 6 = op := by
  simp (disch := omega) only [encVM, BitVec.extractLsb'_append_eq_of_add_le, BitVec.extractLsb'_append_eq_of_le,
    Nat.reduceSub, BitVec.extractLsb'_eq_self]
theorem encVM_v (op : BitVec 6) (v : BitVec 5) (xs1 : BitVec 5) (r2 : BitVec 5) (vm : BitVec 3) (req : BitVec 2) (mode : BitVec 2) (rx : BitVec 1) (fn3 : BitVec 3) : (encVM op v xs1 r2 vm req mode rx fn3).extractLsb' 21 5 = v := by
  simp (disch := omega) only [encVM, BitVec.extractLsb'_append_eq_of_add_le, BitVec.extractLsb'_append_eq_of_le,
    Nat.reduceSub, BitVec.extractLsb'_eq_self]
theorem encVM_xs1 (op : BitVec 6) (v : BitVec 5) (xs1 : BitVec 5) (r2 : BitVec 5) (vm : BitVec 3) (req : BitVec 2) (mode : BitVec 2) (rx : BitVec 1) (fn3 : BitVec 3) : (encVM op v xs1 r2 vm req mode rx fn3).extractLsb' 16 5 = xs1 := by
  simp (disch := omega) only [encVM, BitVec.extractLsb'_append_eq_of_add_le, BitVec.extractLsb'_append_eq_of_le,
    Nat.reduceSub, BitVec.extractLsb'_eq_self]
theorem encVM_r2 (op : BitVec 6) (v : BitVec 5) (xs1 : BitVec 5) (r2 : BitVec 5) (vm : BitVec 3) (req : BitVec 2) (mode : BitVec 2) (rx : BitVec 1) (fn3 : BitVec 3) : (encVM op v xs1 r2 vm req mode rx fn3).extractLsb' 11 5 = r2 := by
  simp (disch := omega) only [encVM, BitVec.extractLsb'_append_eq_of_add_le, BitVec.extractLsb'_append_eq_of_le,
    Nat.reduceSub, BitVec.extractLsb'_eq_self]
theorem encVM_vm (op : BitVec 6) (v : BitVec 5) (xs1 : BitVec 5) (r2 : BitVec 5) (vm : BitVec 3) (req : BitVec 2) (mode : BitVec 2) (rx : BitVec 1) (fn3 : BitVec 3) : (encVM op v xs1 r2 vm req mode rx fn3).extractLsb' 8 3 = vm := by
  simp (disch := omega) only [encVM, BitVec.extractLsb'_append_eq_of_add_le, BitVec.extractLsb'_append_eq_of_le,
    Nat.reduceSub, BitVec.extractLsb'_eq_self]
theorem encVM_req (op : BitVec 6) (v : BitVec 5) (xs1 : BitVec 5) (r2 : BitVec 5) (vm : BitVec 3) (req : BitVec 2) (mode : BitVec 2) (rx : BitVec 1) (fn3 : BitVec 3) : (encVM op v xs1 r2 vm req mode rx fn3).extractLsb' 6 2 = req := by
  simp (disch := omega) only [encVM, BitVec.extractLsb'_append_eq_of_add_le, BitVec.extractLsb'_append_eq_of_le,
    Nat.reduceSub, BitVec.extractLsb'_eq_self]
theorem encVM_mode (op : BitVec 6) (v : BitVec 5) (xs1 : BitVec 5) (r2 : BitVec 5) (vm : BitVec 3) (req : BitVec 2) (mode : BitVec 2) (rx : BitVec 1) (fn3 : BitVec 3) : (encVM op v xs1 r2 vm req mode rx fn3).extractLsb' 4 2 = mode := by
  simp (disch := omega) only [encVM, BitVec.extractLsb'_append_eq_of_add_le, BitVec.extractLsb'_append_eq_of_le,
    Nat.reduceSub, BitVec.extractLsb'_eq_self]
theorem encVM_rx (op : BitVec 6) (v : BitVec 5) (xs1 : BitVec 5) (r2 : BitVec 5) (vm : BitVec 3) (req : BitVec 2) (mode : BitVec 2) (rx : BitVec 1) (fn3 : BitVec 3) : (encVM op v xs1 r2 vm req mode rx fn3).extractLsb' 3 1 = rx := by
  simp (disch := omega) only [encVM, BitVec.extractLsb'_append_eq_of_add_le, BitVec.extractLsb'_append_eq_of_le,
    Nat.reduceSub, BitVec.extractLsb'_eq_self]
theorem encVM_fn3 (op : BitVec 6) (v : BitVec 5) (xs1 : BitVec 5) (r2 : BitVec 5) (vm : BitVec 3) (req : BitVec 2) (mode : BitVec 2) (rx : BitVec 1) (fn3 : BitVec 3) : (encVM op v xs1 r2 vm req mode rx fn3).extractLsb' 0 3 = fn3 := by
  simp (disch := omega) only [encVM, BitVec.extractLsb'_append_eq_of_add_le, BitVec.extractLsb'_append_eq_of_le,
    Nat.reduceSub, BitVec.extractLsb'_eq_self]
theorem encT_op (op : BitVec 6) (acc : BitVec 3) (vA : BitVec 5) (vB : BitVec 5) (count : BitVec 5) (fn8 : BitVec 8) : (encT op acc vA vB count fn8).extractLsb' 26 6 = op := by
  simp (disch := omega) only [encT, BitVec.extractLsb'_append_eq_of_add_le, BitVec.extractLsb'_append_eq_of_le,
    Nat.reduceSub, BitVec.extractLsb'_eq_self]
theorem encT_acc (op : BitVec 6) (acc : BitVec 3) (vA : BitVec 5) (vB : BitVec 5) (count : BitVec 5) (fn8 : BitVec 8) : (encT op acc vA vB count fn8).extractLsb' 23 3 = acc := by
  simp (disch := omega) only [encT, BitVec.extractLsb'_append_eq_of_add_le, BitVec.extractLsb'_append_eq_of_le,
    Nat.reduceSub, BitVec.extractLsb'_eq_self]
theorem encT_vA (op : BitVec 6) (acc : BitVec 3) (vA : BitVec 5) (vB : BitVec 5) (count : BitVec 5) (fn8 : BitVec 8) : (encT op acc vA vB count fn8).extractLsb' 18 5 = vA := by
  simp (disch := omega) only [encT, BitVec.extractLsb'_append_eq_of_add_le, BitVec.extractLsb'_append_eq_of_le,
    Nat.reduceSub, BitVec.extractLsb'_eq_self]
theorem encT_vB (op : BitVec 6) (acc : BitVec 3) (vA : BitVec 5) (vB : BitVec 5) (count : BitVec 5) (fn8 : BitVec 8) : (encT op acc vA vB count fn8).extractLsb' 13 5 = vB := by
  simp (disch := omega) only [encT, BitVec.extractLsb'_append_eq_of_add_le, BitVec.extractLsb'_append_eq_of_le,
    Nat.reduceSub, BitVec.extractLsb'_eq_self]
theorem encT_count (op : BitVec 6) (acc : BitVec 3) (vA : BitVec 5) (vB : BitVec 5) (count : BitVec 5) (fn8 : BitVec 8) : (encT op acc vA vB count fn8).extractLsb' 8 5 = count := by
  simp (disch := omega) only [encT, BitVec.extractLsb'_append_eq_of_add_le, BitVec.extractLsb'_append_eq_of_le,
    Nat.reduceSub, BitVec.extractLsb'_eq_self]
theorem encT_fn8 (op : BitVec 6) (acc : BitVec 3) (vA : BitVec 5) (vB : BitVec 5) (count : BitVec 5) (fn8 : BitVec 8) : (encT op acc vA vB count fn8).extractLsb' 0 8 = fn8 := by
  simp (disch := omega) only [encT, BitVec.extractLsb'_append_eq_of_add_le, BitVec.extractLsb'_append_eq_of_le,
    Nat.reduceSub, BitVec.extractLsb'_eq_self]
theorem encM_op3 (op : BitVec 6) (r xs1 : BitVec 5) (req : BitVec 2) (rx : BitVec 1) (size : BitVec 2) (imm : BitVec 11) :
    (encM op r xs1 req rx size imm).extractLsb' 13 3 = req ++ rx := by
  have : encM op r xs1 req rx size imm = (op ++ r ++ xs1 ++ (req ++ rx)) ++ size ++ imm := by
    unfold encM; rw [BitVec.append_assoc' (x₁ := op ++ r ++ xs1)]; rfl
  rw [this]
  simp (disch := omega) only [BitVec.extractLsb'_append_eq_of_add_le, BitVec.extractLsb'_append_eq_of_le, Nat.reduceSub]
  exact BitVec.extractLsb'_eq_self
/-- A field of a field. -/
theorem nested {n : Nat} (w : BitVec n) (s l a b : Nat) (h : s + l ≤ b) :
    (w.extractLsb' a b).extractLsb' s l = w.extractLsb' (a + s) l := by
  ext i hi
  have : s + i < b := by omega
  simp [this, Nat.add_assoc]

theorem imm_pieces (imm : BitVec 16) : imm.extractLsb' 11 5 ++ imm.extractLsb' 6 5 ++ imm.extractLsb' 0 6 = imm := by
  ext i hi
  simp only [BitVec.getElem_append, BitVec.getElem_extractLsb']
  split
  · simp [BitVec.getLsbD_eq_getElem, hi]
  · split
    · rw [BitVec.getLsbD_eq_getElem (by omega)]; congr 1; omega
    · rw [BitVec.getLsbD_eq_getElem (by omega)]; congr 1; omega

/-! ### One lemma for each constructor -/

theorem RoundTrip.add (rd rs1 rs2 : BitVec 5) : RoundTrip.Statement (.add rd rs1 rs2) := by
  intro w g e
  obtain rfl := Option.some.inj e
  rw [major01 (encR_op ..)]
  simp only [encR_op, encR_rd, encR_rs1, encR_rs2, encR_fn] <;> rfl
theorem RoundTrip.sub (rd rs1 rs2 : BitVec 5) : RoundTrip.Statement (.sub rd rs1 rs2) := by
  intro w g e
  obtain rfl := Option.some.inj e
  rw [major01 (encR_op ..)]
  simp only [encR_op, encR_rd, encR_rs1, encR_rs2, encR_fn] <;> rfl
theorem RoundTrip.and (rd rs1 rs2 : BitVec 5) : RoundTrip.Statement (.and rd rs1 rs2) := by
  intro w g e
  obtain rfl := Option.some.inj e
  rw [major01 (encR_op ..)]
  simp only [encR_op, encR_rd, encR_rs1, encR_rs2, encR_fn] <;> rfl
theorem RoundTrip.or (rd rs1 rs2 : BitVec 5) : RoundTrip.Statement (.or rd rs1 rs2) := by
  intro w g e
  obtain rfl := Option.some.inj e
  rw [major01 (encR_op ..)]
  simp only [encR_op, encR_rd, encR_rs1, encR_rs2, encR_fn] <;> rfl
theorem RoundTrip.xor (rd rs1 rs2 : BitVec 5) : RoundTrip.Statement (.xor rd rs1 rs2) := by
  intro w g e
  obtain rfl := Option.some.inj e
  rw [major01 (encR_op ..)]
  simp only [encR_op, encR_rd, encR_rs1, encR_rs2, encR_fn] <;> rfl
theorem RoundTrip.andn (rd rs1 rs2 : BitVec 5) : RoundTrip.Statement (.andn rd rs1 rs2) := by
  intro w g e
  obtain rfl := Option.some.inj e
  rw [major01 (encR_op ..)]
  simp only [encR_op, encR_rd, encR_rs1, encR_rs2, encR_fn] <;> rfl
theorem RoundTrip.sll (rd rs1 rs2 : BitVec 5) : RoundTrip.Statement (.sll rd rs1 rs2) := by
  intro w g e
  obtain rfl := Option.some.inj e
  rw [major01 (encR_op ..)]
  simp only [encR_op, encR_rd, encR_rs1, encR_rs2, encR_fn] <;> rfl
theorem RoundTrip.srl (rd rs1 rs2 : BitVec 5) : RoundTrip.Statement (.srl rd rs1 rs2) := by
  intro w g e
  obtain rfl := Option.some.inj e
  rw [major01 (encR_op ..)]
  simp only [encR_op, encR_rd, encR_rs1, encR_rs2, encR_fn] <;> rfl
theorem RoundTrip.sra (rd rs1 rs2 : BitVec 5) : RoundTrip.Statement (.sra rd rs1 rs2) := by
  intro w g e
  obtain rfl := Option.some.inj e
  rw [major01 (encR_op ..)]
  simp only [encR_op, encR_rd, encR_rs1, encR_rs2, encR_fn] <;> rfl
theorem RoundTrip.rol (rd rs1 rs2 : BitVec 5) : RoundTrip.Statement (.rol rd rs1 rs2) := by
  intro w g e
  obtain rfl := Option.some.inj e
  rw [major01 (encR_op ..)]
  simp only [encR_op, encR_rd, encR_rs1, encR_rs2, encR_fn] <;> rfl
theorem RoundTrip.slt (rd rs1 rs2 : BitVec 5) : RoundTrip.Statement (.slt rd rs1 rs2) := by
  intro w g e
  obtain rfl := Option.some.inj e
  rw [major01 (encR_op ..)]
  simp only [encR_op, encR_rd, encR_rs1, encR_rs2, encR_fn] <;> rfl
theorem RoundTrip.sltu (rd rs1 rs2 : BitVec 5) : RoundTrip.Statement (.sltu rd rs1 rs2) := by
  intro w g e
  obtain rfl := Option.some.inj e
  rw [major01 (encR_op ..)]
  simp only [encR_op, encR_rd, encR_rs1, encR_rs2, encR_fn] <;> rfl
theorem RoundTrip.min (rd rs1 rs2 : BitVec 5) : RoundTrip.Statement (.min rd rs1 rs2) := by
  intro w g e
  obtain rfl := Option.some.inj e
  rw [major01 (encR_op ..)]
  simp only [encR_op, encR_rd, encR_rs1, encR_rs2, encR_fn] <;> rfl
theorem RoundTrip.max (rd rs1 rs2 : BitVec 5) : RoundTrip.Statement (.max rd rs1 rs2) := by
  intro w g e
  obtain rfl := Option.some.inj e
  rw [major01 (encR_op ..)]
  simp only [encR_op, encR_rd, encR_rs1, encR_rs2, encR_fn] <;> rfl
theorem RoundTrip.minu (rd rs1 rs2 : BitVec 5) : RoundTrip.Statement (.minu rd rs1 rs2) := by
  intro w g e
  obtain rfl := Option.some.inj e
  rw [major01 (encR_op ..)]
  simp only [encR_op, encR_rd, encR_rs1, encR_rs2, encR_fn] <;> rfl
theorem RoundTrip.maxu (rd rs1 rs2 : BitVec 5) : RoundTrip.Statement (.maxu rd rs1 rs2) := by
  intro w g e
  obtain rfl := Option.some.inj e
  rw [major01 (encR_op ..)]
  simp only [encR_op, encR_rd, encR_rs1, encR_rs2, encR_fn] <;> rfl
theorem RoundTrip.clz (rd rs1 : BitVec 5) : RoundTrip.Statement (.clz rd rs1) := by
  intro w g e
  obtain rfl := Option.some.inj e
  rw [major01 (encR_op ..)]
  simp only [encR_op, encR_rd, encR_rs1, encR_rs2, encR_fn] <;> rfl
theorem RoundTrip.ctz (rd rs1 : BitVec 5) : RoundTrip.Statement (.ctz rd rs1) := by
  intro w g e
  obtain rfl := Option.some.inj e
  rw [major01 (encR_op ..)]
  simp only [encR_op, encR_rd, encR_rs1, encR_rs2, encR_fn] <;> rfl
theorem RoundTrip.popc (rd rs1 : BitVec 5) : RoundTrip.Statement (.popc rd rs1) := by
  intro w g e
  obtain rfl := Option.some.inj e
  rw [major01 (encR_op ..)]
  simp only [encR_op, encR_rd, encR_rs1, encR_rs2, encR_fn] <;> rfl
theorem RoundTrip.sext (size : Size) (rd rs1 : BitVec 5) : RoundTrip.Statement (.sext size rd rs1) := by
  intro w g e
  obtain rfl := Option.some.inj e
  rw [major01 (encR_op ..)]
  simp only [encR_rd, encR_rs1, encR_rs2, encR_fn]
  cases size <;> first | rfl | simp [wellFormed] at g
theorem RoundTrip.zext (size : Size) (rd rs1 : BitVec 5) : RoundTrip.Statement (.zext size rd rs1) := by
  intro w g e
  obtain rfl := Option.some.inj e
  rw [major01 (encR_op ..)]
  simp only [encR_rd, encR_rs1, encR_rs2, encR_fn]
  cases size <;> first | rfl | simp [wellFormed] at g
theorem RoundTrip.addi (rd rs1 : BitVec 5) (imm : BitVec 16) : RoundTrip.Statement (.addi rd rs1 imm) := by
  intro w g e
  obtain rfl := Option.some.inj e
  rw [major02 (encI_op ..)]
  simp only [encI_op, encI_rd, encI_rs1, encI_imm]
theorem RoundTrip.andi (rd rs1 : BitVec 5) (imm : BitVec 16) : RoundTrip.Statement (.andi rd rs1 imm) := by
  intro w g e
  obtain rfl := Option.some.inj e
  rw [major03 (encI_op ..)]
  simp only [encI_op, encI_rd, encI_rs1, encI_imm]
theorem RoundTrip.ori (rd rs1 : BitVec 5) (imm : BitVec 16) : RoundTrip.Statement (.ori rd rs1 imm) := by
  intro w g e
  obtain rfl := Option.some.inj e
  rw [major04 (encI_op ..)]
  simp only [encI_op, encI_rd, encI_rs1, encI_imm]
theorem RoundTrip.xori (rd rs1 : BitVec 5) (imm : BitVec 16) : RoundTrip.Statement (.xori rd rs1 imm) := by
  intro w g e
  obtain rfl := Option.some.inj e
  rw [major05 (encI_op ..)]
  simp only [encI_op, encI_rd, encI_rs1, encI_imm]
theorem RoundTrip.slti (rd rs1 : BitVec 5) (imm : BitVec 16) : RoundTrip.Statement (.slti rd rs1 imm) := by
  intro w g e
  obtain rfl := Option.some.inj e
  rw [major06 (encI_op ..)]
  simp only [encI_op, encI_rd, encI_rs1, encI_imm]
theorem RoundTrip.sltiu (rd rs1 : BitVec 5) (imm : BitVec 16) : RoundTrip.Statement (.sltiu rd rs1 imm) := by
  intro w g e
  obtain rfl := Option.some.inj e
  rw [major07 (encI_op ..)]
  simp only [encI_op, encI_rd, encI_rs1, encI_imm]
theorem RoundTrip.slli (rd rs1 : BitVec 5) (sh : BitVec 6) : RoundTrip.Statement (.slli rd rs1 sh) := by
  intro w g e
  obtain rfl := Option.some.inj e
  rw [major08 (encI_op ..)]
  simp only [encI_op, encI_rd, encI_rs1, encI_imm] <;>
    simp (disch := omega) only [decShift, accept, acceptKind, low3, low2, hi2z, hi3z, withRm, onlyIf, BitVec.extractLsb'_append_eq_of_add_le,
      BitVec.extractLsb'_append_eq_of_le, BitVec.extractLsb'_eq_self, Nat.reduceSub] <;>
    simp_all [wellFormed, kindOk, stcOk, VKind.ofBits, VKind.bits, Rm.ofBits, Rm.bits, Req.ofBits, Req.bits, isSet, bit,
      FCond.ofBits, FCond.bits, WCond.bits]
theorem RoundTrip.srli (rd rs1 : BitVec 5) (sh : BitVec 6) : RoundTrip.Statement (.srli rd rs1 sh) := by
  intro w g e
  obtain rfl := Option.some.inj e
  rw [major08 (encI_op ..)]
  simp only [encI_op, encI_rd, encI_rs1, encI_imm] <;>
    simp (disch := omega) only [decShift, accept, acceptKind, low3, low2, hi2z, hi3z, withRm, onlyIf, BitVec.extractLsb'_append_eq_of_add_le,
      BitVec.extractLsb'_append_eq_of_le, BitVec.extractLsb'_eq_self, Nat.reduceSub] <;>
    simp_all [wellFormed, kindOk, stcOk, VKind.ofBits, VKind.bits, Rm.ofBits, Rm.bits, Req.ofBits, Req.bits, isSet, bit,
      FCond.ofBits, FCond.bits, WCond.bits]
theorem RoundTrip.srai (rd rs1 : BitVec 5) (sh : BitVec 6) : RoundTrip.Statement (.srai rd rs1 sh) := by
  intro w g e
  obtain rfl := Option.some.inj e
  rw [major08 (encI_op ..)]
  simp only [encI_op, encI_rd, encI_rs1, encI_imm] <;>
    simp (disch := omega) only [decShift, accept, acceptKind, low3, low2, hi2z, hi3z, withRm, onlyIf, BitVec.extractLsb'_append_eq_of_add_le,
      BitVec.extractLsb'_append_eq_of_le, BitVec.extractLsb'_eq_self, Nat.reduceSub] <;>
    simp_all [wellFormed, kindOk, stcOk, VKind.ofBits, VKind.bits, Rm.ofBits, Rm.bits, Req.ofBits, Req.bits, isSet, bit,
      FCond.ofBits, FCond.bits, WCond.bits]
theorem RoundTrip.roli (rd rs1 : BitVec 5) (sh : BitVec 6) : RoundTrip.Statement (.roli rd rs1 sh) := by
  intro w g e
  obtain rfl := Option.some.inj e
  rw [major08 (encI_op ..)]
  simp only [encI_op, encI_rd, encI_rs1, encI_imm] <;>
    simp (disch := omega) only [decShift, accept, acceptKind, low3, low2, hi2z, hi3z, withRm, onlyIf, BitVec.extractLsb'_append_eq_of_add_le,
      BitVec.extractLsb'_append_eq_of_le, BitVec.extractLsb'_eq_self, Nat.reduceSub] <;>
    simp_all [wellFormed, kindOk, stcOk, VKind.ofBits, VKind.bits, Rm.ofBits, Rm.bits, Req.ofBits, Req.bits, isSet, bit,
      FCond.ofBits, FCond.bits, WCond.bits]
theorem RoundTrip.lui (rd : BitVec 5) (imm : BitVec 16) : RoundTrip.Statement (.lui rd imm) := by
  intro w g e
  obtain rfl := Option.some.inj e
  rw [major09 (encI_op ..)]
  simp only [encI_op, encI_rd, encI_rs1, encI_imm]
  rfl
theorem RoundTrip.mul (rd rs1 rs2 : BitVec 5) : RoundTrip.Statement (.mul rd rs1 rs2) := by
  intro w g e
  obtain rfl := Option.some.inj e
  rw [major0a (encR_op ..)]
  simp only [encR_op, encR_rd, encR_rs1, encR_rs2, encR_fn] <;> rfl
theorem RoundTrip.mulh (rd rs1 rs2 : BitVec 5) : RoundTrip.Statement (.mulh rd rs1 rs2) := by
  intro w g e
  obtain rfl := Option.some.inj e
  rw [major0a (encR_op ..)]
  simp only [encR_op, encR_rd, encR_rs1, encR_rs2, encR_fn] <;> rfl
theorem RoundTrip.mulhu (rd rs1 rs2 : BitVec 5) : RoundTrip.Statement (.mulhu rd rs1 rs2) := by
  intro w g e
  obtain rfl := Option.some.inj e
  rw [major0a (encR_op ..)]
  simp only [encR_op, encR_rd, encR_rs1, encR_rs2, encR_fn] <;> rfl
theorem RoundTrip.div (rd rs1 rs2 : BitVec 5) : RoundTrip.Statement (.div rd rs1 rs2) := by
  intro w g e
  obtain rfl := Option.some.inj e
  rw [major0a (encR_op ..)]
  simp only [encR_op, encR_rd, encR_rs1, encR_rs2, encR_fn] <;> rfl
theorem RoundTrip.divu (rd rs1 rs2 : BitVec 5) : RoundTrip.Statement (.divu rd rs1 rs2) := by
  intro w g e
  obtain rfl := Option.some.inj e
  rw [major0a (encR_op ..)]
  simp only [encR_op, encR_rd, encR_rs1, encR_rs2, encR_fn] <;> rfl
theorem RoundTrip.rem (rd rs1 rs2 : BitVec 5) : RoundTrip.Statement (.rem rd rs1 rs2) := by
  intro w g e
  obtain rfl := Option.some.inj e
  rw [major0a (encR_op ..)]
  simp only [encR_op, encR_rd, encR_rs1, encR_rs2, encR_fn] <;> rfl
theorem RoundTrip.remu (rd rs1 rs2 : BitVec 5) : RoundTrip.Statement (.remu rd rs1 rs2) := by
  intro w g e
  obtain rfl := Option.some.inj e
  rw [major0a (encR_op ..)]
  simp only [encR_op, encR_rd, encR_rs1, encR_rs2, encR_fn] <;> rfl
theorem RoundTrip.beq (rs1 rs2 : BitVec 5) (off : BitVec 16) : RoundTrip.Statement (.beq rs1 rs2 off) := by
  intro w g e
  obtain rfl := Option.some.inj e
  rw [major0b (encI_op ..)]
  simp only [encI_op, encI_rd, encI_rs1, encI_imm]
theorem RoundTrip.bne (rs1 rs2 : BitVec 5) (off : BitVec 16) : RoundTrip.Statement (.bne rs1 rs2 off) := by
  intro w g e
  obtain rfl := Option.some.inj e
  rw [major0c (encI_op ..)]
  simp only [encI_op, encI_rd, encI_rs1, encI_imm]
theorem RoundTrip.blt (rs1 rs2 : BitVec 5) (off : BitVec 16) : RoundTrip.Statement (.blt rs1 rs2 off) := by
  intro w g e
  obtain rfl := Option.some.inj e
  rw [major0d (encI_op ..)]
  simp only [encI_op, encI_rd, encI_rs1, encI_imm]
theorem RoundTrip.bge (rs1 rs2 : BitVec 5) (off : BitVec 16) : RoundTrip.Statement (.bge rs1 rs2 off) := by
  intro w g e
  obtain rfl := Option.some.inj e
  rw [major0e (encI_op ..)]
  simp only [encI_op, encI_rd, encI_rs1, encI_imm]
theorem RoundTrip.bltu (rs1 rs2 : BitVec 5) (off : BitVec 16) : RoundTrip.Statement (.bltu rs1 rs2 off) := by
  intro w g e
  obtain rfl := Option.some.inj e
  rw [major0f (encI_op ..)]
  simp only [encI_op, encI_rd, encI_rs1, encI_imm]
theorem RoundTrip.bgeu (rs1 rs2 : BitVec 5) (off : BitVec 16) : RoundTrip.Statement (.bgeu rs1 rs2 off) := by
  intro w g e
  obtain rfl := Option.some.inj e
  rw [major10 (encI_op ..)]
  simp only [encI_op, encI_rd, encI_rs1, encI_imm]
theorem RoundTrip.jal (off : BitVec 26) : RoundTrip.Statement (.jal off) := by
  intro w g e
  obtain rfl := Option.some.inj e
  rw [major11 (encJ_op ..)]
  simp only [encJ_op, encJ_off]
theorem RoundTrip.jalr (rd rs1 : BitVec 5) (imm : BitVec 16) : RoundTrip.Statement (.jalr rd rs1 imm) := by
  intro w g e
  obtain rfl := Option.some.inj e
  rw [major12 (encI_op ..)]
  simp only [encI_op, encI_rd, encI_rs1, encI_imm]
theorem RoundTrip.ld (a : MArgs) : RoundTrip.Statement (.ld a) := by
  obtain ⟨r, xs1, req, rx, size, imm⟩ := a
  intro w g e
  obtain rfl := Option.some.inj e
  rw [major13 (encM_op ..)]
  simp only [encM_op, encM_r, encM_xs1, encM_req, encM_rx, encM_size, encM_imm, encM_op3] <;> cases req <;> cases rx <;> cases size <;> rfl
theorem RoundTrip.st (a : MArgs) : RoundTrip.Statement (.st a) := by
  obtain ⟨r, xs1, req, rx, size, imm⟩ := a
  intro w g e
  obtain rfl := Option.some.inj e
  rw [major14 (encM_op ..)]
  simp only [encM_op, encM_r, encM_xs1, encM_req, encM_rx, encM_size, encM_imm, encM_op3] <;> cases req <;> cases rx <;> cases size <;> rfl
theorem RoundTrip.aadd (a : AArgs) : RoundTrip.Statement (.aadd a) := by
  obtain ⟨rd, xs1, xs2, size, acq, rel, scope⟩ := a
  intro w g e
  obtain rfl := Option.some.inj e
  rw [major15 (encR_op ..)]
  simp only [encR_op, encR_rd, encR_rs1, encR_rs2, encR_fn] <;> cases size <;> cases acq <;> cases rel <;> cases scope <;> rfl
theorem RoundTrip.aand (a : AArgs) : RoundTrip.Statement (.aand a) := by
  obtain ⟨rd, xs1, xs2, size, acq, rel, scope⟩ := a
  intro w g e
  obtain rfl := Option.some.inj e
  rw [major15 (encR_op ..)]
  simp only [encR_op, encR_rd, encR_rs1, encR_rs2, encR_fn] <;> cases size <;> cases acq <;> cases rel <;> cases scope <;> rfl
theorem RoundTrip.aor (a : AArgs) : RoundTrip.Statement (.aor a) := by
  obtain ⟨rd, xs1, xs2, size, acq, rel, scope⟩ := a
  intro w g e
  obtain rfl := Option.some.inj e
  rw [major15 (encR_op ..)]
  simp only [encR_op, encR_rd, encR_rs1, encR_rs2, encR_fn] <;> cases size <;> cases acq <;> cases rel <;> cases scope <;> rfl
theorem RoundTrip.axor (a : AArgs) : RoundTrip.Statement (.axor a) := by
  obtain ⟨rd, xs1, xs2, size, acq, rel, scope⟩ := a
  intro w g e
  obtain rfl := Option.some.inj e
  rw [major15 (encR_op ..)]
  simp only [encR_op, encR_rd, encR_rs1, encR_rs2, encR_fn] <;> cases size <;> cases acq <;> cases rel <;> cases scope <;> rfl
theorem RoundTrip.amin (a : AArgs) : RoundTrip.Statement (.amin a) := by
  obtain ⟨rd, xs1, xs2, size, acq, rel, scope⟩ := a
  intro w g e
  obtain rfl := Option.some.inj e
  rw [major15 (encR_op ..)]
  simp only [encR_op, encR_rd, encR_rs1, encR_rs2, encR_fn] <;> cases size <;> cases acq <;> cases rel <;> cases scope <;> rfl
theorem RoundTrip.amax (a : AArgs) : RoundTrip.Statement (.amax a) := by
  obtain ⟨rd, xs1, xs2, size, acq, rel, scope⟩ := a
  intro w g e
  obtain rfl := Option.some.inj e
  rw [major15 (encR_op ..)]
  simp only [encR_op, encR_rd, encR_rs1, encR_rs2, encR_fn] <;> cases size <;> cases acq <;> cases rel <;> cases scope <;> rfl
theorem RoundTrip.aswap (a : AArgs) : RoundTrip.Statement (.aswap a) := by
  obtain ⟨rd, xs1, xs2, size, acq, rel, scope⟩ := a
  intro w g e
  obtain rfl := Option.some.inj e
  rw [major15 (encR_op ..)]
  simp only [encR_op, encR_rd, encR_rs1, encR_rs2, encR_fn] <;> cases size <;> cases acq <;> cases rel <;> cases scope <;> rfl
theorem RoundTrip.acas (a : AArgs) : RoundTrip.Statement (.acas a) := by
  obtain ⟨rd, xs1, xs2, size, acq, rel, scope⟩ := a
  intro w g e
  obtain rfl := Option.some.inj e
  rw [major15 (encR_op ..)]
  simp only [encR_op, encR_rd, encR_rs1, encR_rs2, encR_fn] <;> cases size <;> cases acq <;> cases rel <;> cases scope <;> rfl
theorem RoundTrip.ldfK (rd rs1 : BitVec 5) (imm : BitVec 11) : RoundTrip.Statement (.ldfK rd rs1 imm) := by
  intro w g e
  obtain rfl := Option.some.inj e
  rw [major16 (encM_op ..)]
  simp only [encM_op, encM_r, encM_xs1, encM_req, encM_rx, encM_size, encM_imm, encM_op3] <;> rfl
theorem RoundTrip.ldfT (rd rs1 : BitVec 5) (imm : BitVec 11) : RoundTrip.Statement (.ldfT rd rs1 imm) := by
  intro w g e
  obtain rfl := Option.some.inj e
  rw [major16 (encM_op ..)]
  simp only [encM_op, encM_r, encM_xs1, encM_req, encM_rx, encM_size, encM_imm, encM_op3] <;> rfl
theorem RoundTrip.stf (rs2 rs1 : BitVec 5) (imm : BitVec 11) : RoundTrip.Statement (.stf rs2 rs1 imm) := by
  intro w g e
  obtain rfl := Option.some.inj e
  rw [major16 (encM_op ..)]
  simp only [encM_op, encM_r, encM_xs1, encM_req, encM_rx, encM_size, encM_imm, encM_op3] <;> rfl
theorem RoundTrip.stfW (rs2 rs1 : BitVec 5) (imm : BitVec 11) : RoundTrip.Statement (.stfW rs2 rs1 imm) := by
  intro w g e
  obtain rfl := Option.some.inj e
  rw [major16 (encM_op ..)]
  simp only [encM_op, encM_r, encM_xs1, encM_req, encM_rx, encM_size, encM_imm, encM_op3] <;> rfl
theorem RoundTrip.sete (rs1 : BitVec 5) (imm : BitVec 11) : RoundTrip.Statement (.sete rs1 imm) := by
  intro w g e
  obtain rfl := Option.some.inj e
  rw [major16 (encM_op ..)]
  simp only [encM_op, encM_r, encM_xs1, encM_req, encM_rx, encM_size, encM_imm, encM_op3] <;> rfl
theorem RoundTrip.probef (rd rs1 : BitVec 5) (imm : BitVec 11) : RoundTrip.Statement (.probef rd rs1 imm) := by
  intro w g e
  obtain rfl := Option.some.inj e
  rw [major16 (encM_op ..)]
  simp only [encM_op, encM_r, encM_xs1, encM_req, encM_rx, encM_size, encM_imm, encM_op3] <;> rfl
theorem RoundTrip.fence (scope : Scope) : RoundTrip.Statement (.fence scope) := by
  intro w g e
  obtain rfl := Option.some.inj e
  rw [major17 (encR_op ..)]
  simp only [encR_op, encR_rd, encR_rs1, encR_rs2, encR_fn] <;> cases scope <;> rfl
theorem RoundTrip.vsync : RoundTrip.Statement .vsync := by
  intro w g e
  obtain rfl := Option.some.inj e
  rw [major17 (encR_op ..)]
  simp only [encR_op, encR_rd, encR_rs1, encR_rs2, encR_fn] <;> rfl
theorem RoundTrip.cflush (rs1 rs2 : BitVec 5) : RoundTrip.Statement (.cflush rs1 rs2) := by
  intro w g e
  obtain rfl := Option.some.inj e
  rw [major17 (encR_op ..)]
  simp only [encR_op, encR_rd, encR_rs1, encR_rs2, encR_fn] <;> rfl
theorem RoundTrip.cinv (rs1 rs2 : BitVec 5) : RoundTrip.Statement (.cinv rs1 rs2) := by
  intro w g e
  obtain rfl := Option.some.inj e
  rw [major17 (encR_op ..)]
  simp only [encR_op, encR_rd, encR_rs1, encR_rs2, encR_fn] <;> rfl
theorem RoundTrip.seal (rs1 rs2 : BitVec 5) : RoundTrip.Statement (.seal rs1 rs2) := by
  intro w g e
  obtain rfl := Option.some.inj e
  rw [major17 (encR_op ..)]
  simp only [encR_op, encR_rd, encR_rs1, encR_rs2, encR_fn] <;> rfl
theorem RoundTrip.unseal (rs1 rs2 : BitVec 5) : RoundTrip.Statement (.unseal rs1 rs2) := by
  intro w g e
  obtain rfl := Option.some.inj e
  rw [major17 (encR_op ..)]
  simp only [encR_op, encR_rd, encR_rs1, encR_rs2, encR_fn] <;> rfl
theorem RoundTrip.csrr (rd : BitVec 5) (csr : BitVec 12) : RoundTrip.Statement (.csrr rd csr) := by
  intro w g e
  obtain rfl := Option.some.inj e
  rw [major18 (encI_op ..)]
  simp only [encI_op, encI_rd, encI_rs1, encI_imm] <;>
    simp (disch := omega) only [decCsr, accept, acceptKind, low3, low2, hi2z, hi3z, withRm, onlyIf, BitVec.extractLsb'_append_eq_of_add_le,
      BitVec.extractLsb'_append_eq_of_le, BitVec.extractLsb'_eq_self, Nat.reduceSub] <;>
    simp_all [wellFormed, kindOk, stcOk, VKind.ofBits, VKind.bits, Rm.ofBits, Rm.bits, Req.ofBits, Req.bits, isSet, bit,
      FCond.ofBits, FCond.bits, WCond.bits]
theorem RoundTrip.csrw (rs1 : BitVec 5) (csr : BitVec 12) : RoundTrip.Statement (.csrw rs1 csr) := by
  intro w g e
  obtain rfl := Option.some.inj e
  rw [major18 (encI_op ..)]
  simp only [encI_op, encI_rd, encI_rs1, encI_imm] <;>
    simp (disch := omega) only [decCsr, accept, acceptKind, low3, low2, hi2z, hi3z, withRm, onlyIf, BitVec.extractLsb'_append_eq_of_add_le,
      BitVec.extractLsb'_append_eq_of_le, BitVec.extractLsb'_eq_self, Nat.reduceSub] <;>
    simp_all [wellFormed, kindOk, stcOk, VKind.ofBits, VKind.bits, Rm.ofBits, Rm.bits, Req.ofBits, Req.bits, isSet, bit,
      FCond.ofBits, FCond.bits, WCond.bits]
theorem RoundTrip.csrs (rs1 : BitVec 5) (csr : BitVec 12) : RoundTrip.Statement (.csrs rs1 csr) := by
  intro w g e
  obtain rfl := Option.some.inj e
  rw [major18 (encI_op ..)]
  simp only [encI_op, encI_rd, encI_rs1, encI_imm] <;>
    simp (disch := omega) only [decCsr, accept, acceptKind, low3, low2, hi2z, hi3z, withRm, onlyIf, BitVec.extractLsb'_append_eq_of_add_le,
      BitVec.extractLsb'_append_eq_of_le, BitVec.extractLsb'_eq_self, Nat.reduceSub] <;>
    simp_all [wellFormed, kindOk, stcOk, VKind.ofBits, VKind.bits, Rm.ofBits, Rm.bits, Req.ofBits, Req.bits, isSet, bit,
      FCond.ofBits, FCond.bits, WCond.bits]
theorem RoundTrip.csrc (rs1 : BitVec 5) (csr : BitVec 12) : RoundTrip.Statement (.csrc rs1 csr) := by
  intro w g e
  obtain rfl := Option.some.inj e
  rw [major18 (encI_op ..)]
  simp only [encI_op, encI_rd, encI_rs1, encI_imm] <;>
    simp (disch := omega) only [decCsr, accept, acceptKind, low3, low2, hi2z, hi3z, withRm, onlyIf, BitVec.extractLsb'_append_eq_of_add_le,
      BitVec.extractLsb'_append_eq_of_le, BitVec.extractLsb'_eq_self, Nat.reduceSub] <;>
    simp_all [wellFormed, kindOk, stcOk, VKind.ofBits, VKind.bits, Rm.ofBits, Rm.bits, Req.ofBits, Req.bits, isSet, bit,
      FCond.ofBits, FCond.bits, WCond.bits]
theorem RoundTrip.trap (rs1 : BitVec 5) : RoundTrip.Statement (.trap rs1) := by
  intro w g e
  obtain rfl := Option.some.inj e
  rw [major19 (encR_op ..)]
  simp only [encR_op, encR_rd, encR_rs1, encR_rs2, encR_fn] <;> rfl
theorem RoundTrip.tret : RoundTrip.Statement .tret := by
  intro w g e
  obtain rfl := Option.some.inj e
  rw [major19 (encR_op ..)]
  simp only [encR_op, encR_rd, encR_rs1, encR_rs2, encR_fn] <;> rfl
theorem RoundTrip.brk : RoundTrip.Statement .brk := by
  intro w g e
  obtain rfl := Option.some.inj e
  rw [major19 (encR_op ..)]
  simp only [encR_op, encR_rd, encR_rs1, encR_rs2, encR_fn] <;> rfl
theorem RoundTrip.wfe : RoundTrip.Statement .wfe := by
  intro w g e
  obtain rfl := Option.some.inj e
  rw [major19 (encR_op ..)]
  simp only [encR_op, encR_rd, encR_rs1, encR_rs2, encR_fn] <;> rfl
theorem RoundTrip.haltc : RoundTrip.Statement .haltc := by
  intro w g e
  obtain rfl := Option.some.inj e
  rw [major19 (encR_op ..)]
  simp only [encR_op, encR_rd, encR_rs1, encR_rs2, encR_fn] <;> rfl
theorem RoundTrip.fmtset (n : BitVec 2) (rs1 : BitVec 5) : RoundTrip.Statement (.fmtset n rs1) := by
  intro w g e
  obtain rfl := Option.some.inj e
  rw [major19 (encR_op ..)]
  simp only [encR_rd, encR_rs1, encR_rs2, encR_fn]
  have f : ∀ m : BitVec 2, (0#3 ++ m).toNat < 4 ∧ (0#3 ++ m).extractLsb' 0 2 = m := by decide
  have t : decTrap 0 rs1 (0#3 ++ n) 5 = if (0#3 ++ n).toNat < 4 then
      accept true (.fmtset ((0#3 ++ n).extractLsb' 0 2) rs1) else .error .unallocated := rfl
  rw [t, if_pos (f n).1, (f n).2]
  rfl
theorem RoundTrip.ovtset (rs1 : BitVec 5) : RoundTrip.Statement (.ovtset rs1) := by
  intro w g e
  obtain rfl := Option.some.inj e
  rw [major19 (encR_op ..)]
  simp only [encR_op, encR_rd, encR_rs1, encR_rs2, encR_fn] <;> rfl
theorem RoundTrip.rndset (rs1 : BitVec 5) : RoundTrip.Statement (.rndset rs1) := by
  intro w g e
  obtain rfl := Option.some.inj e
  rw [major19 (encR_op ..)]
  simp only [encR_op, encR_rd, encR_rs1, encR_rs2, encR_fn] <;> rfl
theorem RoundTrip.send (rs1 rs2 : BitVec 5) : RoundTrip.Statement (.send rs1 rs2) := by
  intro w g e
  obtain rfl := Option.some.inj e
  rw [major19 (encR_op ..)]
  simp only [encR_op, encR_rd, encR_rs1, encR_rs2, encR_fn] <;> rfl
theorem RoundTrip.rserve (rs1 : BitVec 5) : RoundTrip.Statement (.rserve rs1) := by
  intro w g e
  obtain rfl := Option.some.inj e
  rw [major19 (encR_op ..)]
  simp only [encR_op, encR_rd, encR_rs1, encR_rs2, encR_fn] <;> rfl
theorem RoundTrip.next : RoundTrip.Statement .next := by
  intro w g e
  obtain rfl := Option.some.inj e
  rw [major1a (encR_op ..)]
  simp only [encR_op, encR_rd, encR_rs1, encR_rs2, encR_fn] <;> rfl
theorem RoundTrip.nalloc (rd : BitVec 5) : RoundTrip.Statement (.nalloc rd) := by
  intro w g e
  obtain rfl := Option.some.inj e
  rw [major1a (encR_op ..)]
  simp only [encR_op, encR_rd, encR_rs1, encR_rs2, encR_fn] <;> rfl
theorem RoundTrip.nfree (rs1 : BitVec 5) : RoundTrip.Statement (.nfree rs1) := by
  intro w g e
  obtain rfl := Option.some.inj e
  rw [major1a (encR_op ..)]
  simp only [encR_op, encR_rd, encR_rs1, encR_rs2, encR_fn] <;> rfl
theorem RoundTrip.ntake (rd rs1 : BitVec 5) : RoundTrip.Statement (.ntake rd rs1) := by
  intro w g e
  obtain rfl := Option.some.inj e
  rw [major1a (encR_op ..)]
  simp only [encR_op, encR_rd, encR_rs1, encR_rs2, encR_fn] <;> rfl
theorem RoundTrip.nlink (rs1 rs2 : BitVec 5) : RoundTrip.Statement (.nlink rs1 rs2) := by
  intro w g e
  obtain rfl := Option.some.inj e
  rw [major1a (encR_op ..)]
  simp only [encR_op, encR_rd, encR_rs1, encR_rs2, encR_fn] <;> rfl
theorem RoundTrip.npush (rs1 rs2 : BitVec 5) : RoundTrip.Statement (.npush rs1 rs2) := by
  intro w g e
  obtain rfl := Option.some.inj e
  rw [major1a (encR_op ..)]
  simp only [encR_op, encR_rd, encR_rs1, encR_rs2, encR_fn] <;> rfl
theorem RoundTrip.nhdr (rd rs1 : BitVec 5) : RoundTrip.Statement (.nhdr rd rs1) := by
  intro w g e
  obtain rfl := Option.some.inj e
  rw [major1a (encR_op ..)]
  simp only [encR_op, encR_rd, encR_rs1, encR_rs2, encR_fn] <;> rfl
theorem RoundTrip.nseth (rs1 rs2 : BitVec 5) : RoundTrip.Statement (.nseth rs1 rs2) := by
  intro w g e
  obtain rfl := Option.some.inj e
  rw [major1a (encR_op ..)]
  simp only [encR_op, encR_rd, encR_rs1, encR_rs2, encR_fn] <;> rfl
theorem RoundTrip.nfwd (rs1 : BitVec 5) : RoundTrip.Statement (.nfwd rs1) := by
  intro w g e
  obtain rfl := Option.some.inj e
  rw [major1a (encR_op ..)]
  simp only [encR_op, encR_rd, encR_rs1, encR_rs2, encR_fn] <;> rfl
theorem RoundTrip.ndone : RoundTrip.Statement .ndone := by
  intro w g e
  obtain rfl := Option.some.inj e
  rw [major1a (encR_op ..)]
  simp only [encR_op, encR_rd, encR_rs1, encR_rs2, encR_fn] <;> rfl
theorem RoundTrip.yield : RoundTrip.Statement .yield := by
  intro w g e
  obtain rfl := Option.some.inj e
  rw [major1a (encR_op ..)]
  simp only [encR_op, encR_rd, encR_rs1, encR_rs2, encR_fn] <;> rfl
theorem RoundTrip.resume (rs1 : BitVec 5) : RoundTrip.Statement (.resume rs1) := by
  intro w g e
  obtain rfl := Option.some.inj e
  rw [major1a (encR_op ..)]
  simp only [encR_op, encR_rd, encR_rs1, encR_rs2, encR_fn] <;> rfl
theorem RoundTrip.cpy (rs1 : BitVec 5) : RoundTrip.Statement (.cpy rs1) := by
  intro w g e
  obtain rfl := Option.some.inj e
  rw [major1b (encR_op ..)]
  simp only [encR_op, encR_rd, encR_rs1, encR_rs2, encR_fn] <;> rfl
theorem RoundTrip.cpy2d (rs1 : BitVec 5) : RoundTrip.Statement (.cpy2d rs1) := by
  intro w g e
  obtain rfl := Option.some.inj e
  rw [major1b (encR_op ..)]
  simp only [encR_op, encR_rd, encR_rs1, encR_rs2, encR_fn] <;> rfl
theorem RoundTrip.cpyw (rd rs1 : BitVec 5) : RoundTrip.Statement (.cpyw rd rs1) := by
  intro w g e
  obtain rfl := Option.some.inj e
  rw [major1b (encR_op ..)]
  simp only [encR_op, encR_rd, encR_rs1, encR_rs2, encR_fn] <;> rfl
theorem RoundTrip.sbinit (rs1 rs2 : BitVec 5) : RoundTrip.Statement (.sbinit rs1 rs2) := by
  intro w g e
  obtain rfl := Option.some.inj e
  rw [major1b (encR_op ..)]
  simp only [encR_op, encR_rd, encR_rs1, encR_rs2, encR_fn] <;> rfl
theorem RoundTrip.sbwait (rs1 : BitVec 5) : RoundTrip.Statement (.sbwait rs1) := by
  intro w g e
  obtain rfl := Option.some.inj e
  rw [major1b (encR_op ..)]
  simp only [encR_op, encR_rd, encR_rs1, encR_rs2, encR_fn] <;> rfl
theorem RoundTrip.sbadv (rs1 rs2 : BitVec 5) : RoundTrip.Statement (.sbadv rs1 rs2) := by
  intro w g e
  obtain rfl := Option.some.inj e
  rw [major1b (encR_op ..)]
  simp only [encR_op, encR_rd, encR_rs1, encR_rs2, encR_fn] <;> rfl
theorem RoundTrip.snap (rd rs1 : BitVec 5) : RoundTrip.Statement (.snap rd rs1) := by
  intro w g e
  obtain rfl := Option.some.inj e
  rw [major1b (encR_op ..)]
  simp only [encR_op, encR_rd, encR_rs1, encR_rs2, encR_fn] <;> rfl
theorem RoundTrip.publish (rd rs1 : BitVec 5) : RoundTrip.Statement (.publish rd rs1) := by
  intro w g e
  obtain rfl := Option.some.inj e
  rw [major1c (encR_op ..)]
  simp only [encR_op, encR_rd, encR_rs1, encR_rs2, encR_fn] <;> rfl
theorem RoundTrip.objfree (rd rs1 : BitVec 5) : RoundTrip.Statement (.objfree rd rs1) := by
  intro w g e
  obtain rfl := Option.some.inj e
  rw [major1c (encR_op ..)]
  simp only [encR_op, encR_rd, encR_rs1, encR_rs2, encR_fn] <;> rfl
theorem RoundTrip.setlen (rd rs1 : BitVec 5) : RoundTrip.Statement (.setlen rd rs1) := by
  intro w g e
  obtain rfl := Option.some.inj e
  rw [major20 (encR_op ..)]
  simp only [encR_op, encR_rd, encR_rs1, encR_rs2, encR_fn] <;> rfl
theorem RoundTrip.setvt (rs1 : BitVec 5) : RoundTrip.Statement (.setvt rs1) := by
  intro w g e
  obtain rfl := Option.some.inj e
  rw [major20 (encR_op ..)]
  simp only [encR_op, encR_rd, encR_rs1, encR_rs2, encR_fn] <;> rfl
theorem RoundTrip.lanerel : RoundTrip.Statement .lanerel := by
  intro w g e
  obtain rfl := Option.some.inj e
  rw [major20 (encR_op ..)]
  simp only [encR_op, encR_rd, encR_rs1, encR_rs2, encR_fn] <;> rfl
theorem RoundTrip.setvti (imm : BitVec 16) : RoundTrip.Statement (.setvti imm) := by
  intro w g e
  obtain rfl := Option.some.inj e
  rw [major20 (by simp (disch := omega) only [BitVec.extractLsb'_append_eq_of_add_le,
    BitVec.extractLsb'_append_eq_of_le, Nat.reduceSub, BitVec.extractLsb'_eq_self]; rfl)]
  simp (disch := omega) only [decConfig, nested, Nat.zero_add, BitVec.extractLsb'_append_eq_of_add_le,
    BitVec.extractLsb'_append_eq_of_le, Nat.reduceSub, BitVec.extractLsb'_eq_self, imm_pieces]
  rfl
theorem RoundTrip.vadd (o : VArgs) : RoundTrip.Statement (.vadd o) := by
  obtain ⟨vd, vs1, op2, vm, kind⟩ := o
  intro w g e
  obtain rfl := Option.some.inj e
  rw [major21 (encV_op ..)]
  simp only [encV_op, encV_vd, encV_vs1, encV_op2, encV_vm, encV_kind, encV_fn6] <;> cases kind <;>
    simp (disch := omega) only [decVInt, accept, acceptKind, low3, low2, hi2z, hi3z, withRm, onlyIf, BitVec.extractLsb'_append_eq_of_add_le,
      BitVec.extractLsb'_append_eq_of_le, BitVec.extractLsb'_eq_self, Nat.reduceSub] <;>
    simp_all [wellFormed, kindOk, stcOk, VKind.ofBits, VKind.bits, Rm.ofBits, Rm.bits, Req.ofBits, Req.bits, isSet, bit,
      FCond.ofBits, FCond.bits, WCond.bits]
theorem RoundTrip.vsub (o : VArgs) : RoundTrip.Statement (.vsub o) := by
  obtain ⟨vd, vs1, op2, vm, kind⟩ := o
  intro w g e
  obtain rfl := Option.some.inj e
  rw [major21 (encV_op ..)]
  simp only [encV_op, encV_vd, encV_vs1, encV_op2, encV_vm, encV_kind, encV_fn6] <;> cases kind <;>
    simp (disch := omega) only [decVInt, accept, acceptKind, low3, low2, hi2z, hi3z, withRm, onlyIf, BitVec.extractLsb'_append_eq_of_add_le,
      BitVec.extractLsb'_append_eq_of_le, BitVec.extractLsb'_eq_self, Nat.reduceSub] <;>
    simp_all [wellFormed, kindOk, stcOk, VKind.ofBits, VKind.bits, Rm.ofBits, Rm.bits, Req.ofBits, Req.bits, isSet, bit,
      FCond.ofBits, FCond.bits, WCond.bits]
theorem RoundTrip.vrsub (o : VArgs) : RoundTrip.Statement (.vrsub o) := by
  obtain ⟨vd, vs1, op2, vm, kind⟩ := o
  intro w g e
  obtain rfl := Option.some.inj e
  rw [major21 (encV_op ..)]
  simp only [encV_op, encV_vd, encV_vs1, encV_op2, encV_vm, encV_kind, encV_fn6] <;> cases kind <;>
    simp (disch := omega) only [decVInt, accept, acceptKind, low3, low2, hi2z, hi3z, withRm, onlyIf, BitVec.extractLsb'_append_eq_of_add_le,
      BitVec.extractLsb'_append_eq_of_le, BitVec.extractLsb'_eq_self, Nat.reduceSub] <;>
    simp_all [wellFormed, kindOk, stcOk, VKind.ofBits, VKind.bits, Rm.ofBits, Rm.bits, Req.ofBits, Req.bits, isSet, bit,
      FCond.ofBits, FCond.bits, WCond.bits]
theorem RoundTrip.vmul (o : VArgs) : RoundTrip.Statement (.vmul o) := by
  obtain ⟨vd, vs1, op2, vm, kind⟩ := o
  intro w g e
  obtain rfl := Option.some.inj e
  rw [major21 (encV_op ..)]
  simp only [encV_op, encV_vd, encV_vs1, encV_op2, encV_vm, encV_kind, encV_fn6] <;> cases kind <;>
    simp (disch := omega) only [decVInt, accept, acceptKind, low3, low2, hi2z, hi3z, withRm, onlyIf, BitVec.extractLsb'_append_eq_of_add_le,
      BitVec.extractLsb'_append_eq_of_le, BitVec.extractLsb'_eq_self, Nat.reduceSub] <;>
    simp_all [wellFormed, kindOk, stcOk, VKind.ofBits, VKind.bits, Rm.ofBits, Rm.bits, Req.ofBits, Req.bits, isSet, bit,
      FCond.ofBits, FCond.bits, WCond.bits]
theorem RoundTrip.vmulh (o : VArgs) : RoundTrip.Statement (.vmulh o) := by
  obtain ⟨vd, vs1, op2, vm, kind⟩ := o
  intro w g e
  obtain rfl := Option.some.inj e
  rw [major21 (encV_op ..)]
  simp only [encV_op, encV_vd, encV_vs1, encV_op2, encV_vm, encV_kind, encV_fn6] <;> cases kind <;>
    simp (disch := omega) only [decVInt, accept, acceptKind, low3, low2, hi2z, hi3z, withRm, onlyIf, BitVec.extractLsb'_append_eq_of_add_le,
      BitVec.extractLsb'_append_eq_of_le, BitVec.extractLsb'_eq_self, Nat.reduceSub] <;>
    simp_all [wellFormed, kindOk, stcOk, VKind.ofBits, VKind.bits, Rm.ofBits, Rm.bits, Req.ofBits, Req.bits, isSet, bit,
      FCond.ofBits, FCond.bits, WCond.bits]
theorem RoundTrip.vmac (o : VArgs) : RoundTrip.Statement (.vmac o) := by
  obtain ⟨vd, vs1, op2, vm, kind⟩ := o
  intro w g e
  obtain rfl := Option.some.inj e
  rw [major21 (encV_op ..)]
  simp only [encV_op, encV_vd, encV_vs1, encV_op2, encV_vm, encV_kind, encV_fn6] <;> cases kind <;>
    simp (disch := omega) only [decVInt, accept, acceptKind, low3, low2, hi2z, hi3z, withRm, onlyIf, BitVec.extractLsb'_append_eq_of_add_le,
      BitVec.extractLsb'_append_eq_of_le, BitVec.extractLsb'_eq_self, Nat.reduceSub] <;>
    simp_all [wellFormed, kindOk, stcOk, VKind.ofBits, VKind.bits, Rm.ofBits, Rm.bits, Req.ofBits, Req.bits, isSet, bit,
      FCond.ofBits, FCond.bits, WCond.bits]
theorem RoundTrip.vdiv (o : VArgs) : RoundTrip.Statement (.vdiv o) := by
  obtain ⟨vd, vs1, op2, vm, kind⟩ := o
  intro w g e
  obtain rfl := Option.some.inj e
  rw [major21 (encV_op ..)]
  simp only [encV_op, encV_vd, encV_vs1, encV_op2, encV_vm, encV_kind, encV_fn6] <;> cases kind <;>
    simp (disch := omega) only [decVInt, accept, acceptKind, low3, low2, hi2z, hi3z, withRm, onlyIf, BitVec.extractLsb'_append_eq_of_add_le,
      BitVec.extractLsb'_append_eq_of_le, BitVec.extractLsb'_eq_self, Nat.reduceSub] <;>
    simp_all [wellFormed, kindOk, stcOk, VKind.ofBits, VKind.bits, Rm.ofBits, Rm.bits, Req.ofBits, Req.bits, isSet, bit,
      FCond.ofBits, FCond.bits, WCond.bits]
theorem RoundTrip.vrem (o : VArgs) : RoundTrip.Statement (.vrem o) := by
  obtain ⟨vd, vs1, op2, vm, kind⟩ := o
  intro w g e
  obtain rfl := Option.some.inj e
  rw [major21 (encV_op ..)]
  simp only [encV_op, encV_vd, encV_vs1, encV_op2, encV_vm, encV_kind, encV_fn6] <;> cases kind <;>
    simp (disch := omega) only [decVInt, accept, acceptKind, low3, low2, hi2z, hi3z, withRm, onlyIf, BitVec.extractLsb'_append_eq_of_add_le,
      BitVec.extractLsb'_append_eq_of_le, BitVec.extractLsb'_eq_self, Nat.reduceSub] <;>
    simp_all [wellFormed, kindOk, stcOk, VKind.ofBits, VKind.bits, Rm.ofBits, Rm.bits, Req.ofBits, Req.bits, isSet, bit,
      FCond.ofBits, FCond.bits, WCond.bits]
theorem RoundTrip.vmin (o : VArgs) : RoundTrip.Statement (.vmin o) := by
  obtain ⟨vd, vs1, op2, vm, kind⟩ := o
  intro w g e
  obtain rfl := Option.some.inj e
  rw [major21 (encV_op ..)]
  simp only [encV_op, encV_vd, encV_vs1, encV_op2, encV_vm, encV_kind, encV_fn6] <;> cases kind <;>
    simp (disch := omega) only [decVInt, accept, acceptKind, low3, low2, hi2z, hi3z, withRm, onlyIf, BitVec.extractLsb'_append_eq_of_add_le,
      BitVec.extractLsb'_append_eq_of_le, BitVec.extractLsb'_eq_self, Nat.reduceSub] <;>
    simp_all [wellFormed, kindOk, stcOk, VKind.ofBits, VKind.bits, Rm.ofBits, Rm.bits, Req.ofBits, Req.bits, isSet, bit,
      FCond.ofBits, FCond.bits, WCond.bits]
theorem RoundTrip.vmax (o : VArgs) : RoundTrip.Statement (.vmax o) := by
  obtain ⟨vd, vs1, op2, vm, kind⟩ := o
  intro w g e
  obtain rfl := Option.some.inj e
  rw [major21 (encV_op ..)]
  simp only [encV_op, encV_vd, encV_vs1, encV_op2, encV_vm, encV_kind, encV_fn6] <;> cases kind <;>
    simp (disch := omega) only [decVInt, accept, acceptKind, low3, low2, hi2z, hi3z, withRm, onlyIf, BitVec.extractLsb'_append_eq_of_add_le,
      BitVec.extractLsb'_append_eq_of_le, BitVec.extractLsb'_eq_self, Nat.reduceSub] <;>
    simp_all [wellFormed, kindOk, stcOk, VKind.ofBits, VKind.bits, Rm.ofBits, Rm.bits, Req.ofBits, Req.bits, isSet, bit,
      FCond.ofBits, FCond.bits, WCond.bits]
theorem RoundTrip.vsadd (o : VArgs) : RoundTrip.Statement (.vsadd o) := by
  obtain ⟨vd, vs1, op2, vm, kind⟩ := o
  intro w g e
  obtain rfl := Option.some.inj e
  rw [major21 (encV_op ..)]
  simp only [encV_op, encV_vd, encV_vs1, encV_op2, encV_vm, encV_kind, encV_fn6] <;> cases kind <;>
    simp (disch := omega) only [decVInt, accept, acceptKind, low3, low2, hi2z, hi3z, withRm, onlyIf, BitVec.extractLsb'_append_eq_of_add_le,
      BitVec.extractLsb'_append_eq_of_le, BitVec.extractLsb'_eq_self, Nat.reduceSub] <;>
    simp_all [wellFormed, kindOk, stcOk, VKind.ofBits, VKind.bits, Rm.ofBits, Rm.bits, Req.ofBits, Req.bits, isSet, bit,
      FCond.ofBits, FCond.bits, WCond.bits]
theorem RoundTrip.vssub (o : VArgs) : RoundTrip.Statement (.vssub o) := by
  obtain ⟨vd, vs1, op2, vm, kind⟩ := o
  intro w g e
  obtain rfl := Option.some.inj e
  rw [major21 (encV_op ..)]
  simp only [encV_op, encV_vd, encV_vs1, encV_op2, encV_vm, encV_kind, encV_fn6] <;> cases kind <;>
    simp (disch := omega) only [decVInt, accept, acceptKind, low3, low2, hi2z, hi3z, withRm, onlyIf, BitVec.extractLsb'_append_eq_of_add_le,
      BitVec.extractLsb'_append_eq_of_le, BitVec.extractLsb'_eq_self, Nat.reduceSub] <;>
    simp_all [wellFormed, kindOk, stcOk, VKind.ofBits, VKind.bits, Rm.ofBits, Rm.bits, Req.ofBits, Req.bits, isSet, bit,
      FCond.ofBits, FCond.bits, WCond.bits]
theorem RoundTrip.vavg (o : VArgs) : RoundTrip.Statement (.vavg o) := by
  obtain ⟨vd, vs1, op2, vm, kind⟩ := o
  intro w g e
  obtain rfl := Option.some.inj e
  rw [major21 (encV_op ..)]
  simp only [encV_op, encV_vd, encV_vs1, encV_op2, encV_vm, encV_kind, encV_fn6] <;> cases kind <;>
    simp (disch := omega) only [decVInt, accept, acceptKind, low3, low2, hi2z, hi3z, withRm, onlyIf, BitVec.extractLsb'_append_eq_of_add_le,
      BitVec.extractLsb'_append_eq_of_le, BitVec.extractLsb'_eq_self, Nat.reduceSub] <;>
    simp_all [wellFormed, kindOk, stcOk, VKind.ofBits, VKind.bits, Rm.ofBits, Rm.bits, Req.ofBits, Req.bits, isSet, bit,
      FCond.ofBits, FCond.bits, WCond.bits]
theorem RoundTrip.vabs (o : VUnary) : RoundTrip.Statement (.vabs o) := by
  obtain ⟨vd, vs1, vm⟩ := o
  intro w g e
  obtain rfl := Option.some.inj e
  rw [major21 (encV_op ..)]
  simp only [encV_op, encV_vd, encV_vs1, encV_op2, encV_vm, encV_kind, encV_fn6] <;> rfl
theorem RoundTrip.vneg (o : VUnary) : RoundTrip.Statement (.vneg o) := by
  obtain ⟨vd, vs1, vm⟩ := o
  intro w g e
  obtain rfl := Option.some.inj e
  rw [major21 (encV_op ..)]
  simp only [encV_op, encV_vd, encV_vs1, encV_op2, encV_vm, encV_kind, encV_fn6] <;> rfl
theorem RoundTrip.vpopc (o : VUnary) : RoundTrip.Statement (.vpopc o) := by
  obtain ⟨vd, vs1, vm⟩ := o
  intro w g e
  obtain rfl := Option.some.inj e
  rw [major21 (encV_op ..)]
  simp only [encV_op, encV_vd, encV_vs1, encV_op2, encV_vm, encV_kind, encV_fn6] <;> rfl
theorem RoundTrip.vclz (o : VUnary) : RoundTrip.Statement (.vclz o) := by
  obtain ⟨vd, vs1, vm⟩ := o
  intro w g e
  obtain rfl := Option.some.inj e
  rw [major21 (encV_op ..)]
  simp only [encV_op, encV_vd, encV_vs1, encV_op2, encV_vm, encV_kind, encV_fn6] <;> rfl
theorem RoundTrip.vand (o : VArgs) : RoundTrip.Statement (.vand o) := by
  obtain ⟨vd, vs1, op2, vm, kind⟩ := o
  intro w g e
  obtain rfl := Option.some.inj e
  rw [major22 (encV_op ..)]
  simp only [encV_op, encV_vd, encV_vs1, encV_op2, encV_vm, encV_kind, encV_fn6] <;> cases kind <;>
    simp (disch := omega) only [decVLogic, accept, acceptKind, low3, low2, hi2z, hi3z, withRm, onlyIf, BitVec.extractLsb'_append_eq_of_add_le,
      BitVec.extractLsb'_append_eq_of_le, BitVec.extractLsb'_eq_self, Nat.reduceSub] <;>
    simp_all [wellFormed, kindOk, stcOk, VKind.ofBits, VKind.bits, Rm.ofBits, Rm.bits, Req.ofBits, Req.bits, isSet, bit,
      FCond.ofBits, FCond.bits, WCond.bits]
theorem RoundTrip.vor (o : VArgs) : RoundTrip.Statement (.vor o) := by
  obtain ⟨vd, vs1, op2, vm, kind⟩ := o
  intro w g e
  obtain rfl := Option.some.inj e
  rw [major22 (encV_op ..)]
  simp only [encV_op, encV_vd, encV_vs1, encV_op2, encV_vm, encV_kind, encV_fn6] <;> cases kind <;>
    simp (disch := omega) only [decVLogic, accept, acceptKind, low3, low2, hi2z, hi3z, withRm, onlyIf, BitVec.extractLsb'_append_eq_of_add_le,
      BitVec.extractLsb'_append_eq_of_le, BitVec.extractLsb'_eq_self, Nat.reduceSub] <;>
    simp_all [wellFormed, kindOk, stcOk, VKind.ofBits, VKind.bits, Rm.ofBits, Rm.bits, Req.ofBits, Req.bits, isSet, bit,
      FCond.ofBits, FCond.bits, WCond.bits]
theorem RoundTrip.vxor (o : VArgs) : RoundTrip.Statement (.vxor o) := by
  obtain ⟨vd, vs1, op2, vm, kind⟩ := o
  intro w g e
  obtain rfl := Option.some.inj e
  rw [major22 (encV_op ..)]
  simp only [encV_op, encV_vd, encV_vs1, encV_op2, encV_vm, encV_kind, encV_fn6] <;> cases kind <;>
    simp (disch := omega) only [decVLogic, accept, acceptKind, low3, low2, hi2z, hi3z, withRm, onlyIf, BitVec.extractLsb'_append_eq_of_add_le,
      BitVec.extractLsb'_append_eq_of_le, BitVec.extractLsb'_eq_self, Nat.reduceSub] <;>
    simp_all [wellFormed, kindOk, stcOk, VKind.ofBits, VKind.bits, Rm.ofBits, Rm.bits, Req.ofBits, Req.bits, isSet, bit,
      FCond.ofBits, FCond.bits, WCond.bits]
theorem RoundTrip.vnot (o : VUnary) : RoundTrip.Statement (.vnot o) := by
  obtain ⟨vd, vs1, vm⟩ := o
  intro w g e
  obtain rfl := Option.some.inj e
  rw [major22 (encV_op ..)]
  simp only [encV_op, encV_vd, encV_vs1, encV_op2, encV_vm, encV_kind, encV_fn6] <;> rfl
theorem RoundTrip.vsll (o : VArgs) : RoundTrip.Statement (.vsll o) := by
  obtain ⟨vd, vs1, op2, vm, kind⟩ := o
  intro w g e
  obtain rfl := Option.some.inj e
  rw [major22 (encV_op ..)]
  simp only [encV_op, encV_vd, encV_vs1, encV_op2, encV_vm, encV_kind, encV_fn6] <;> cases kind <;>
    simp (disch := omega) only [decVLogic, accept, acceptKind, low3, low2, hi2z, hi3z, withRm, onlyIf, BitVec.extractLsb'_append_eq_of_add_le,
      BitVec.extractLsb'_append_eq_of_le, BitVec.extractLsb'_eq_self, Nat.reduceSub] <;>
    simp_all [wellFormed, kindOk, stcOk, VKind.ofBits, VKind.bits, Rm.ofBits, Rm.bits, Req.ofBits, Req.bits, isSet, bit,
      FCond.ofBits, FCond.bits, WCond.bits]
theorem RoundTrip.vsrl (o : VArgs) : RoundTrip.Statement (.vsrl o) := by
  obtain ⟨vd, vs1, op2, vm, kind⟩ := o
  intro w g e
  obtain rfl := Option.some.inj e
  rw [major22 (encV_op ..)]
  simp only [encV_op, encV_vd, encV_vs1, encV_op2, encV_vm, encV_kind, encV_fn6] <;> cases kind <;>
    simp (disch := omega) only [decVLogic, accept, acceptKind, low3, low2, hi2z, hi3z, withRm, onlyIf, BitVec.extractLsb'_append_eq_of_add_le,
      BitVec.extractLsb'_append_eq_of_le, BitVec.extractLsb'_eq_self, Nat.reduceSub] <;>
    simp_all [wellFormed, kindOk, stcOk, VKind.ofBits, VKind.bits, Rm.ofBits, Rm.bits, Req.ofBits, Req.bits, isSet, bit,
      FCond.ofBits, FCond.bits, WCond.bits]
theorem RoundTrip.vsra (o : VArgs) : RoundTrip.Statement (.vsra o) := by
  obtain ⟨vd, vs1, op2, vm, kind⟩ := o
  intro w g e
  obtain rfl := Option.some.inj e
  rw [major22 (encV_op ..)]
  simp only [encV_op, encV_vd, encV_vs1, encV_op2, encV_vm, encV_kind, encV_fn6] <;> cases kind <;>
    simp (disch := omega) only [decVLogic, accept, acceptKind, low3, low2, hi2z, hi3z, withRm, onlyIf, BitVec.extractLsb'_append_eq_of_add_le,
      BitVec.extractLsb'_append_eq_of_le, BitVec.extractLsb'_eq_self, Nat.reduceSub] <;>
    simp_all [wellFormed, kindOk, stcOk, VKind.ofBits, VKind.bits, Rm.ofBits, Rm.bits, Req.ofBits, Req.bits, isSet, bit,
      FCond.ofBits, FCond.bits, WCond.bits]
theorem RoundTrip.vmv (o : VUnary) : RoundTrip.Statement (.vmv o) := by
  obtain ⟨vd, vs1, vm⟩ := o
  intro w g e
  obtain rfl := Option.some.inj e
  rw [major22 (encV_op ..)]
  simp only [encV_op, encV_vd, encV_vs1, encV_op2, encV_vm, encV_kind, encV_fn6] <;> rfl
theorem RoundTrip.vmerge (o : VArgs) : RoundTrip.Statement (.vmerge o) := by
  obtain ⟨vd, vs1, op2, vm, kind⟩ := o
  intro w g e
  obtain rfl := Option.some.inj e
  rw [major22 (encV_op ..)]
  simp only [encV_op, encV_vd, encV_vs1, encV_op2, encV_vm, encV_kind, encV_fn6] <;> cases kind <;>
    simp (disch := omega) only [decVLogic, accept, acceptKind, low3, low2, hi2z, hi3z, withRm, onlyIf, BitVec.extractLsb'_append_eq_of_add_le,
      BitVec.extractLsb'_append_eq_of_le, BitVec.extractLsb'_eq_self, Nat.reduceSub] <;>
    simp_all [wellFormed, kindOk, stcOk, VKind.ofBits, VKind.bits, Rm.ofBits, Rm.bits, Req.ofBits, Req.bits, isSet, bit,
      FCond.ofBits, FCond.bits, WCond.bits]
theorem RoundTrip.vsplat (vd op2 : BitVec 5) (vm : BitVec 3) (kind : VKind) : RoundTrip.Statement (.vsplat vd op2 vm kind) := by
  intro w g e
  obtain rfl := Option.some.inj e
  rw [major22 (encV_op ..)]
  simp only [encV_op, encV_vd, encV_vs1, encV_op2, encV_vm, encV_kind, encV_fn6] <;> cases kind <;>
    simp (disch := omega) only [decVLogic, accept, acceptKind, low3, low2, hi2z, hi3z, withRm, onlyIf, BitVec.extractLsb'_append_eq_of_add_le,
      BitVec.extractLsb'_append_eq_of_le, BitVec.extractLsb'_eq_self, Nat.reduceSub] <;>
    simp_all [wellFormed, kindOk, stcOk, VKind.ofBits, VKind.bits, Rm.ofBits, Rm.bits, Req.ofBits, Req.bits, isSet, bit,
      FCond.ofBits, FCond.bits, WCond.bits]
theorem RoundTrip.vcmpeq (o : VCmpArgs) : RoundTrip.Statement (.vcmpeq o) := by
  obtain ⟨md, vs1, op2, vm, kind⟩ := o
  intro w g e
  obtain rfl := Option.some.inj e
  rw [major23 (encV_op ..)]
  simp only [encV_op, encV_vd, encV_vs1, encV_op2, encV_vm, encV_kind, encV_fn6] <;> cases kind <;>
    simp (disch := omega) only [decVMask, accept, acceptKind, low3, low2, hi2z, hi3z, withRm, onlyIf, BitVec.extractLsb'_append_eq_of_add_le,
      BitVec.extractLsb'_append_eq_of_le, BitVec.extractLsb'_eq_self, Nat.reduceSub] <;>
    simp_all [wellFormed, kindOk, stcOk, VKind.ofBits, VKind.bits, Rm.ofBits, Rm.bits, Req.ofBits, Req.bits, isSet, bit,
      FCond.ofBits, FCond.bits, WCond.bits]
theorem RoundTrip.vcmpne (o : VCmpArgs) : RoundTrip.Statement (.vcmpne o) := by
  obtain ⟨md, vs1, op2, vm, kind⟩ := o
  intro w g e
  obtain rfl := Option.some.inj e
  rw [major23 (encV_op ..)]
  simp only [encV_op, encV_vd, encV_vs1, encV_op2, encV_vm, encV_kind, encV_fn6] <;> cases kind <;>
    simp (disch := omega) only [decVMask, accept, acceptKind, low3, low2, hi2z, hi3z, withRm, onlyIf, BitVec.extractLsb'_append_eq_of_add_le,
      BitVec.extractLsb'_append_eq_of_le, BitVec.extractLsb'_eq_self, Nat.reduceSub] <;>
    simp_all [wellFormed, kindOk, stcOk, VKind.ofBits, VKind.bits, Rm.ofBits, Rm.bits, Req.ofBits, Req.bits, isSet, bit,
      FCond.ofBits, FCond.bits, WCond.bits]
theorem RoundTrip.vcmplt (o : VCmpArgs) : RoundTrip.Statement (.vcmplt o) := by
  obtain ⟨md, vs1, op2, vm, kind⟩ := o
  intro w g e
  obtain rfl := Option.some.inj e
  rw [major23 (encV_op ..)]
  simp only [encV_op, encV_vd, encV_vs1, encV_op2, encV_vm, encV_kind, encV_fn6] <;> cases kind <;>
    simp (disch := omega) only [decVMask, accept, acceptKind, low3, low2, hi2z, hi3z, withRm, onlyIf, BitVec.extractLsb'_append_eq_of_add_le,
      BitVec.extractLsb'_append_eq_of_le, BitVec.extractLsb'_eq_self, Nat.reduceSub] <;>
    simp_all [wellFormed, kindOk, stcOk, VKind.ofBits, VKind.bits, Rm.ofBits, Rm.bits, Req.ofBits, Req.bits, isSet, bit,
      FCond.ofBits, FCond.bits, WCond.bits]
theorem RoundTrip.vcmple (o : VCmpArgs) : RoundTrip.Statement (.vcmple o) := by
  obtain ⟨md, vs1, op2, vm, kind⟩ := o
  intro w g e
  obtain rfl := Option.some.inj e
  rw [major23 (encV_op ..)]
  simp only [encV_op, encV_vd, encV_vs1, encV_op2, encV_vm, encV_kind, encV_fn6] <;> cases kind <;>
    simp (disch := omega) only [decVMask, accept, acceptKind, low3, low2, hi2z, hi3z, withRm, onlyIf, BitVec.extractLsb'_append_eq_of_add_le,
      BitVec.extractLsb'_append_eq_of_le, BitVec.extractLsb'_eq_self, Nat.reduceSub] <;>
    simp_all [wellFormed, kindOk, stcOk, VKind.ofBits, VKind.bits, Rm.ofBits, Rm.bits, Req.ofBits, Req.bits, isSet, bit,
      FCond.ofBits, FCond.bits, WCond.bits]
theorem RoundTrip.vcmpgt (o : VCmpArgs) : RoundTrip.Statement (.vcmpgt o) := by
  obtain ⟨md, vs1, op2, vm, kind⟩ := o
  intro w g e
  obtain rfl := Option.some.inj e
  rw [major23 (encV_op ..)]
  simp only [encV_op, encV_vd, encV_vs1, encV_op2, encV_vm, encV_kind, encV_fn6] <;> cases kind <;>
    simp (disch := omega) only [decVMask, accept, acceptKind, low3, low2, hi2z, hi3z, withRm, onlyIf, BitVec.extractLsb'_append_eq_of_add_le,
      BitVec.extractLsb'_append_eq_of_le, BitVec.extractLsb'_eq_self, Nat.reduceSub] <;>
    simp_all [wellFormed, kindOk, stcOk, VKind.ofBits, VKind.bits, Rm.ofBits, Rm.bits, Req.ofBits, Req.bits, isSet, bit,
      FCond.ofBits, FCond.bits, WCond.bits]
theorem RoundTrip.vcmpge (o : VCmpArgs) : RoundTrip.Statement (.vcmpge o) := by
  obtain ⟨md, vs1, op2, vm, kind⟩ := o
  intro w g e
  obtain rfl := Option.some.inj e
  rw [major23 (encV_op ..)]
  simp only [encV_op, encV_vd, encV_vs1, encV_op2, encV_vm, encV_kind, encV_fn6] <;> cases kind <;>
    simp (disch := omega) only [decVMask, accept, acceptKind, low3, low2, hi2z, hi3z, withRm, onlyIf, BitVec.extractLsb'_append_eq_of_add_le,
      BitVec.extractLsb'_append_eq_of_le, BitVec.extractLsb'_eq_self, Nat.reduceSub] <;>
    simp_all [wellFormed, kindOk, stcOk, VKind.ofBits, VKind.bits, Rm.ofBits, Rm.bits, Req.ofBits, Req.bits, isSet, bit,
      FCond.ofBits, FCond.bits, WCond.bits]
theorem RoundTrip.mand (md ms1 ms2 : BitVec 3) : RoundTrip.Statement (.mand md ms1 ms2) := by
  intro w g e
  obtain rfl := Option.some.inj e
  rw [major23 (encV_op ..)]
  simp only [encV_op, encV_vd, encV_vs1, encV_op2, encV_vm, encV_kind, encV_fn6] <;>
    simp (disch := omega) only [decVMask, accept, acceptKind, low3, low2, hi2z, hi3z, withRm, onlyIf, BitVec.extractLsb'_append_eq_of_add_le,
      BitVec.extractLsb'_append_eq_of_le, BitVec.extractLsb'_eq_self, Nat.reduceSub] <;>
    simp_all [wellFormed, kindOk, stcOk, VKind.ofBits, VKind.bits, Rm.ofBits, Rm.bits, Req.ofBits, Req.bits, isSet, bit,
      FCond.ofBits, FCond.bits, WCond.bits]
theorem RoundTrip.mor (md ms1 ms2 : BitVec 3) : RoundTrip.Statement (.mor md ms1 ms2) := by
  intro w g e
  obtain rfl := Option.some.inj e
  rw [major23 (encV_op ..)]
  simp only [encV_op, encV_vd, encV_vs1, encV_op2, encV_vm, encV_kind, encV_fn6] <;>
    simp (disch := omega) only [decVMask, accept, acceptKind, low3, low2, hi2z, hi3z, withRm, onlyIf, BitVec.extractLsb'_append_eq_of_add_le,
      BitVec.extractLsb'_append_eq_of_le, BitVec.extractLsb'_eq_self, Nat.reduceSub] <;>
    simp_all [wellFormed, kindOk, stcOk, VKind.ofBits, VKind.bits, Rm.ofBits, Rm.bits, Req.ofBits, Req.bits, isSet, bit,
      FCond.ofBits, FCond.bits, WCond.bits]
theorem RoundTrip.mxor (md ms1 ms2 : BitVec 3) : RoundTrip.Statement (.mxor md ms1 ms2) := by
  intro w g e
  obtain rfl := Option.some.inj e
  rw [major23 (encV_op ..)]
  simp only [encV_op, encV_vd, encV_vs1, encV_op2, encV_vm, encV_kind, encV_fn6] <;>
    simp (disch := omega) only [decVMask, accept, acceptKind, low3, low2, hi2z, hi3z, withRm, onlyIf, BitVec.extractLsb'_append_eq_of_add_le,
      BitVec.extractLsb'_append_eq_of_le, BitVec.extractLsb'_eq_self, Nat.reduceSub] <;>
    simp_all [wellFormed, kindOk, stcOk, VKind.ofBits, VKind.bits, Rm.ofBits, Rm.bits, Req.ofBits, Req.bits, isSet, bit,
      FCond.ofBits, FCond.bits, WCond.bits]
theorem RoundTrip.mnot (md ms1 : BitVec 3) : RoundTrip.Statement (.mnot md ms1) := by
  intro w g e
  obtain rfl := Option.some.inj e
  rw [major23 (encV_op ..)]
  simp only [encV_op, encV_vd, encV_vs1, encV_op2, encV_vm, encV_kind, encV_fn6] <;>
    simp (disch := omega) only [decVMask, accept, acceptKind, low3, low2, hi2z, hi3z, withRm, onlyIf, BitVec.extractLsb'_append_eq_of_add_le,
      BitVec.extractLsb'_append_eq_of_le, BitVec.extractLsb'_eq_self, Nat.reduceSub] <;>
    simp_all [wellFormed, kindOk, stcOk, VKind.ofBits, VKind.bits, Rm.ofBits, Rm.bits, Req.ofBits, Req.bits, isSet, bit,
      FCond.ofBits, FCond.bits, WCond.bits]
theorem RoundTrip.mpopc (rd : BitVec 5) (ms1 vm : BitVec 3) : RoundTrip.Statement (.mpopc rd ms1 vm) := by
  intro w g e
  obtain rfl := Option.some.inj e
  rw [major23 (encV_op ..)]
  simp only [encV_op, encV_vd, encV_vs1, encV_op2, encV_vm, encV_kind, encV_fn6] <;>
    simp (disch := omega) only [decVMask, accept, acceptKind, low3, low2, hi2z, hi3z, withRm, onlyIf, BitVec.extractLsb'_append_eq_of_add_le,
      BitVec.extractLsb'_append_eq_of_le, BitVec.extractLsb'_eq_self, Nat.reduceSub] <;>
    simp_all [wellFormed, kindOk, stcOk, VKind.ofBits, VKind.bits, Rm.ofBits, Rm.bits, Req.ofBits, Req.bits, isSet, bit,
      FCond.ofBits, FCond.bits, WCond.bits]
theorem RoundTrip.mfirst (rd : BitVec 5) (ms1 vm : BitVec 3) : RoundTrip.Statement (.mfirst rd ms1 vm) := by
  intro w g e
  obtain rfl := Option.some.inj e
  rw [major23 (encV_op ..)]
  simp only [encV_op, encV_vd, encV_vs1, encV_op2, encV_vm, encV_kind, encV_fn6] <;>
    simp (disch := omega) only [decVMask, accept, acceptKind, low3, low2, hi2z, hi3z, withRm, onlyIf, BitVec.extractLsb'_append_eq_of_add_le,
      BitVec.extractLsb'_append_eq_of_le, BitVec.extractLsb'_eq_self, Nat.reduceSub] <;>
    simp_all [wellFormed, kindOk, stcOk, VKind.ofBits, VKind.bits, Rm.ofBits, Rm.bits, Req.ofBits, Req.bits, isSet, bit,
      FCond.ofBits, FCond.bits, WCond.bits]
theorem RoundTrip.mset (md : BitVec 3) : RoundTrip.Statement (.mset md) := by
  intro w g e
  obtain rfl := Option.some.inj e
  rw [major23 (encV_op ..)]
  simp only [encV_op, encV_vd, encV_vs1, encV_op2, encV_vm, encV_kind, encV_fn6] <;>
    simp (disch := omega) only [decVMask, accept, acceptKind, low3, low2, hi2z, hi3z, withRm, onlyIf, BitVec.extractLsb'_append_eq_of_add_le,
      BitVec.extractLsb'_append_eq_of_le, BitVec.extractLsb'_eq_self, Nat.reduceSub] <;>
    simp_all [wellFormed, kindOk, stcOk, VKind.ofBits, VKind.bits, Rm.ofBits, Rm.bits, Req.ofBits, Req.bits, isSet, bit,
      FCond.ofBits, FCond.bits, WCond.bits]
theorem RoundTrip.vmatch (tgd : BitVec 2) (vs1 xs2 : BitVec 5) (vm : BitVec 3) : RoundTrip.Statement (.vmatch tgd vs1 xs2 vm) := by
  intro w g e
  obtain rfl := Option.some.inj e
  rw [major24 (encV_op ..)]
  simp only [encV_op, encV_vd, encV_vs1, encV_op2, encV_vm, encV_kind, encV_fn6] <;>
    simp (disch := omega) only [decVAssoc, accept, acceptKind, low3, low2, hi2z, hi3z, withRm, onlyIf, BitVec.extractLsb'_append_eq_of_add_le,
      BitVec.extractLsb'_append_eq_of_le, BitVec.extractLsb'_eq_self, Nat.reduceSub] <;>
    simp_all [wellFormed, kindOk, stcOk, VKind.ofBits, VKind.bits, Rm.ofBits, Rm.bits, Req.ofBits, Req.bits, isSet, bit,
      FCond.ofBits, FCond.bits, WCond.bits]
theorem RoundTrip.vwrite (vd xs2 : BitVec 5) (tgs : BitVec 2) (vm : BitVec 3) : RoundTrip.Statement (.vwrite vd xs2 tgs vm) := by
  intro w g e
  obtain rfl := Option.some.inj e
  rw [major24 (encV_op ..)]
  simp only [encV_op, encV_vd, encV_vs1, encV_op2, encV_vm, encV_kind, encV_fn6] <;>
    simp (disch := omega) only [decVAssoc, accept, acceptKind, low3, low2, hi2z, hi3z, withRm, onlyIf, BitVec.extractLsb'_append_eq_of_add_le,
      BitVec.extractLsb'_append_eq_of_le, BitVec.extractLsb'_eq_self, Nat.reduceSub] <;>
    simp_all [wellFormed, kindOk, stcOk, VKind.ofBits, VKind.bits, Rm.ofBits, Rm.bits, Req.ofBits, Req.bits, isSet, bit,
      FCond.ofBits, FCond.bits, WCond.bits]
theorem RoundTrip.tgmovToMask (md : BitVec 3) (tgs : BitVec 2) : RoundTrip.Statement (.tgmovToMask md tgs) := by
  intro w g e
  obtain rfl := Option.some.inj e
  rw [major24 (encV_op ..)]
  simp only [encV_op, encV_vd, encV_vs1, encV_op2, encV_vm, encV_kind, encV_fn6] <;>
    simp (disch := omega) only [decVAssoc, accept, acceptKind, low3, low2, hi2z, hi3z, withRm, onlyIf, BitVec.extractLsb'_append_eq_of_add_le,
      BitVec.extractLsb'_append_eq_of_le, BitVec.extractLsb'_eq_self, Nat.reduceSub] <;>
    simp_all [wellFormed, kindOk, stcOk, VKind.ofBits, VKind.bits, Rm.ofBits, Rm.bits, Req.ofBits, Req.bits, isSet, bit,
      FCond.ofBits, FCond.bits, WCond.bits]
theorem RoundTrip.tgmovToTag (tgd : BitVec 2) (ms1 : BitVec 3) : RoundTrip.Statement (.tgmovToTag tgd ms1) := by
  intro w g e
  obtain rfl := Option.some.inj e
  rw [major24 (encV_op ..)]
  simp only [encV_op, encV_vd, encV_vs1, encV_op2, encV_vm, encV_kind, encV_fn6] <;>
    simp (disch := omega) only [decVAssoc, accept, acceptKind, low3, low2, hi2z, hi3z, withRm, onlyIf, BitVec.extractLsb'_append_eq_of_add_le,
      BitVec.extractLsb'_append_eq_of_le, BitVec.extractLsb'_eq_self, Nat.reduceSub] <;>
    simp_all [wellFormed, kindOk, stcOk, VKind.ofBits, VKind.bits, Rm.ofBits, Rm.bits, Req.ofBits, Req.bits, isSet, bit,
      FCond.ofBits, FCond.bits, WCond.bits]
theorem RoundTrip.ttload (slot : BitVec 4) (xs1 : BitVec 5) : RoundTrip.Statement (.ttload slot xs1) := by
  intro w g e
  obtain rfl := Option.some.inj e
  rw [major24 (encV_op ..)]
  simp only [encV_op, encV_vd, encV_vs1, encV_op2, encV_vm, encV_kind, encV_fn6] <;>
    simp (disch := omega) only [decVAssoc, accept, acceptKind, low3, low2, hi2z, hi3z, withRm, onlyIf, BitVec.extractLsb'_append_eq_of_add_le,
      BitVec.extractLsb'_append_eq_of_le, BitVec.extractLsb'_eq_self, Nat.reduceSub] <;>
    simp_all [wellFormed, kindOk, stcOk, VKind.ofBits, VKind.bits, Rm.ofBits, Rm.bits, Req.ofBits, Req.bits, isSet, bit,
      FCond.ofBits, FCond.bits, WCond.bits]
theorem RoundTrip.vtt (o : VttArgs) : RoundTrip.Statement (.vtt o) := by
  obtain ⟨vd, vs1, vs2, vm, slot⟩ := o
  intro w g e
  obtain rfl := Option.some.inj e
  rw [major24 (encV_op ..)]
  simp only [encV_op, encV_vd, encV_vs1, encV_op2, encV_vm, encV_kind, encV_fn6] <;>
    simp (disch := omega) only [decVAssoc, accept, acceptKind, low3, low2, hi2z, hi3z, withRm, onlyIf, BitVec.extractLsb'_append_eq_of_add_le,
      BitVec.extractLsb'_append_eq_of_le, BitVec.extractLsb'_eq_self, Nat.reduceSub] <;>
    simp_all [wellFormed, kindOk, stcOk, VKind.ofBits, VKind.bits, Rm.ofBits, Rm.bits, Req.ofBits, Req.bits, isSet, bit,
      FCond.ofBits, FCond.bits, WCond.bits]
theorem RoundTrip.vfadd (o : VFArgs) : RoundTrip.Statement (.vfadd o) := by
  obtain ⟨vd, vs1, op2, vm, vx, rm⟩ := o
  intro w g e
  obtain rfl := Option.some.inj e
  rw [major25 (encV_op ..)]
  simp only [encV_op, encV_vd, encV_vs1, encV_op2, encV_vm, encV_kind, encV_fn6] <;> cases vx <;> cases rm <;> rfl
theorem RoundTrip.vfsub (o : VFArgs) : RoundTrip.Statement (.vfsub o) := by
  obtain ⟨vd, vs1, op2, vm, vx, rm⟩ := o
  intro w g e
  obtain rfl := Option.some.inj e
  rw [major25 (encV_op ..)]
  simp only [encV_op, encV_vd, encV_vs1, encV_op2, encV_vm, encV_kind, encV_fn6] <;> cases vx <;> cases rm <;> rfl
theorem RoundTrip.vfmul (o : VFArgs) : RoundTrip.Statement (.vfmul o) := by
  obtain ⟨vd, vs1, op2, vm, vx, rm⟩ := o
  intro w g e
  obtain rfl := Option.some.inj e
  rw [major25 (encV_op ..)]
  simp only [encV_op, encV_vd, encV_vs1, encV_op2, encV_vm, encV_kind, encV_fn6] <;> cases vx <;> cases rm <;> rfl
theorem RoundTrip.vfma (o : VFArgs) : RoundTrip.Statement (.vfma o) := by
  obtain ⟨vd, vs1, op2, vm, vx, rm⟩ := o
  intro w g e
  obtain rfl := Option.some.inj e
  rw [major25 (encV_op ..)]
  simp only [encV_op, encV_vd, encV_vs1, encV_op2, encV_vm, encV_kind, encV_fn6] <;> cases vx <;> cases rm <;> rfl
theorem RoundTrip.vfnma (o : VFArgs) : RoundTrip.Statement (.vfnma o) := by
  obtain ⟨vd, vs1, op2, vm, vx, rm⟩ := o
  intro w g e
  obtain rfl := Option.some.inj e
  rw [major25 (encV_op ..)]
  simp only [encV_op, encV_vd, encV_vs1, encV_op2, encV_vm, encV_kind, encV_fn6] <;> cases vx <;> cases rm <;> rfl
theorem RoundTrip.vfmin (vd vs1 op2 : BitVec 5) (vm : BitVec 3) (vx : Bool) : RoundTrip.Statement (.vfmin vd vs1 op2 vm vx) := by
  intro w g e
  obtain rfl := Option.some.inj e
  rw [major25 (encV_op ..)]
  simp only [encV_op, encV_vd, encV_vs1, encV_op2, encV_vm, encV_kind, encV_fn6] <;> cases vx <;> rfl
theorem RoundTrip.vfmax (vd vs1 op2 : BitVec 5) (vm : BitVec 3) (vx : Bool) : RoundTrip.Statement (.vfmax vd vs1 op2 vm vx) := by
  intro w g e
  obtain rfl := Option.some.inj e
  rw [major25 (encV_op ..)]
  simp only [encV_op, encV_vd, encV_vs1, encV_op2, encV_vm, encV_kind, encV_fn6] <;> cases vx <;> rfl
theorem RoundTrip.vfdiv (o : VFArgs) : RoundTrip.Statement (.vfdiv o) := by
  obtain ⟨vd, vs1, op2, vm, vx, rm⟩ := o
  intro w g e
  obtain rfl := Option.some.inj e
  rw [major25 (encV_op ..)]
  simp only [encV_op, encV_vd, encV_vs1, encV_op2, encV_vm, encV_kind, encV_fn6] <;> cases vx <;> cases rm <;> rfl
theorem RoundTrip.vfsqrt (o : VFUnary) : RoundTrip.Statement (.vfsqrt o) := by
  obtain ⟨vd, vs1, vm, rm⟩ := o
  intro w g e
  obtain rfl := Option.some.inj e
  rw [major25 (encV_op ..)]
  simp only [encV_op, encV_vd, encV_vs1, encV_op2, encV_vm, encV_kind, encV_fn6] <;> cases rm <;> rfl
theorem RoundTrip.vfrsq (o : VFUnary) : RoundTrip.Statement (.vfrsq o) := by
  obtain ⟨vd, vs1, vm, rm⟩ := o
  intro w g e
  obtain rfl := Option.some.inj e
  rw [major25 (encV_op ..)]
  simp only [encV_op, encV_vd, encV_vs1, encV_op2, encV_vm, encV_kind, encV_fn6] <;> cases rm <;> rfl
theorem RoundTrip.vfexp2 (o : VFUnary) : RoundTrip.Statement (.vfexp2 o) := by
  obtain ⟨vd, vs1, vm, rm⟩ := o
  intro w g e
  obtain rfl := Option.some.inj e
  rw [major25 (encV_op ..)]
  simp only [encV_op, encV_vd, encV_vs1, encV_op2, encV_vm, encV_kind, encV_fn6] <;> cases rm <;> rfl
theorem RoundTrip.vflog2 (o : VFUnary) : RoundTrip.Statement (.vflog2 o) := by
  obtain ⟨vd, vs1, vm, rm⟩ := o
  intro w g e
  obtain rfl := Option.some.inj e
  rw [major25 (encV_op ..)]
  simp only [encV_op, encV_vd, encV_vs1, encV_op2, encV_vm, encV_kind, encV_fn6] <;> cases rm <;> rfl
theorem RoundTrip.vfabs (o : VUnary) : RoundTrip.Statement (.vfabs o) := by
  obtain ⟨vd, vs1, vm⟩ := o
  intro w g e
  obtain rfl := Option.some.inj e
  rw [major25 (encV_op ..)]
  simp only [encV_op, encV_vd, encV_vs1, encV_op2, encV_vm, encV_kind, encV_fn6] <;> rfl
theorem RoundTrip.vfneg (o : VUnary) : RoundTrip.Statement (.vfneg o) := by
  obtain ⟨vd, vs1, vm⟩ := o
  intro w g e
  obtain rfl := Option.some.inj e
  rw [major25 (encV_op ..)]
  simp only [encV_op, encV_vd, encV_vs1, encV_op2, encV_vm, encV_kind, encV_fn6] <;> rfl
theorem RoundTrip.vfclass (o : VUnary) : RoundTrip.Statement (.vfclass o) := by
  obtain ⟨vd, vs1, vm⟩ := o
  intro w g e
  obtain rfl := Option.some.inj e
  rw [major25 (encV_op ..)]
  simp only [encV_op, encV_vd, encV_vs1, encV_op2, encV_vm, encV_kind, encV_fn6] <;> rfl
theorem RoundTrip.vfcmp (cond : FCond) (md : BitVec 3) (vs1 op2 : BitVec 5) (vm : BitVec 3) (vx : Bool) : RoundTrip.Statement (.vfcmp cond md vs1 op2 vm vx) := by
  intro w g e
  obtain rfl := Option.some.inj e
  rw [major25 (encV_op ..)]
  simp only [encV_op, encV_vd, encV_vs1, encV_op2, encV_vm, encV_kind, encV_fn6] <;> cases cond <;> cases vx <;>
    simp (disch := omega) only [decVFp, accept, acceptKind, low3, low2, hi2z, hi3z, withRm, onlyIf, BitVec.extractLsb'_append_eq_of_add_le,
      BitVec.extractLsb'_append_eq_of_le, BitVec.extractLsb'_eq_self, Nat.reduceSub] <;>
    simp_all [wellFormed, kindOk, stcOk, VKind.ofBits, VKind.bits, Rm.ofBits, Rm.bits, Req.ofBits, Req.bits, isSet, bit,
      FCond.ofBits, FCond.bits, WCond.bits]
theorem RoundTrip.vcvt (o : CvtArgs) : RoundTrip.Statement (.vcvt o) := by
  obtain ⟨vd, vs1, src, vm, rm⟩ := o
  intro w g e
  obtain rfl := Option.some.inj e
  rw [major26 (encV_op ..)]
  simp only [encV_op, encV_vd, encV_vs1, encV_op2, encV_vm, encV_kind, encV_fn6] <;> cases rm <;>
    simp (disch := omega) only [decVCvt, accept, acceptKind, low3, low2, hi2z, hi3z, withRm, onlyIf, BitVec.extractLsb'_append_eq_of_add_le,
      BitVec.extractLsb'_append_eq_of_le, BitVec.extractLsb'_eq_self, Nat.reduceSub] <;>
    simp_all [wellFormed, kindOk, stcOk, VKind.ofBits, VKind.bits, Rm.ofBits, Rm.bits, Req.ofBits, Req.bits, isSet, bit,
      FCond.ofBits, FCond.bits, WCond.bits]
theorem RoundTrip.vnarrow (o : CvtArgs) : RoundTrip.Statement (.vnarrow o) := by
  obtain ⟨vd, vs1, src, vm, rm⟩ := o
  intro w g e
  obtain rfl := Option.some.inj e
  rw [major26 (encV_op ..)]
  simp only [encV_op, encV_vd, encV_vs1, encV_op2, encV_vm, encV_kind, encV_fn6] <;> cases rm <;>
    simp (disch := omega) only [decVCvt, accept, acceptKind, low3, low2, hi2z, hi3z, withRm, onlyIf, BitVec.extractLsb'_append_eq_of_add_le,
      BitVec.extractLsb'_append_eq_of_le, BitVec.extractLsb'_eq_self, Nat.reduceSub] <;>
    simp_all [wellFormed, kindOk, stcOk, VKind.ofBits, VKind.bits, Rm.ofBits, Rm.bits, Req.ofBits, Req.bits, isSet, bit,
      FCond.ofBits, FCond.bits, WCond.bits]
theorem RoundTrip.vwiden (o : CvtArgs) : RoundTrip.Statement (.vwiden o) := by
  obtain ⟨vd, vs1, src, vm, rm⟩ := o
  intro w g e
  obtain rfl := Option.some.inj e
  rw [major26 (encV_op ..)]
  simp only [encV_op, encV_vd, encV_vs1, encV_op2, encV_vm, encV_kind, encV_fn6] <;> cases rm <;>
    simp (disch := omega) only [decVCvt, accept, acceptKind, low3, low2, hi2z, hi3z, withRm, onlyIf, BitVec.extractLsb'_append_eq_of_add_le,
      BitVec.extractLsb'_append_eq_of_le, BitVec.extractLsb'_eq_self, Nat.reduceSub] <;>
    simp_all [wellFormed, kindOk, stcOk, VKind.ofBits, VKind.bits, Rm.ofBits, Rm.bits, Req.ofBits, Req.bits, isSet, bit,
      FCond.ofBits, FCond.bits, WCond.bits]
theorem RoundTrip.vbscale (o : CvtArgs) : RoundTrip.Statement (.vbscale o) := by
  obtain ⟨vd, vs1, src, vm, rm⟩ := o
  intro w g e
  obtain rfl := Option.some.inj e
  rw [major26 (encV_op ..)]
  simp only [encV_op, encV_vd, encV_vs1, encV_op2, encV_vm, encV_kind, encV_fn6] <;> cases rm <;> rfl
theorem RoundTrip.vbquant (o : CvtArgs) : RoundTrip.Statement (.vbquant o) := by
  obtain ⟨vd, vs1, src, vm, rm⟩ := o
  intro w g e
  obtain rfl := Option.some.inj e
  rw [major26 (encV_op ..)]
  simp only [encV_op, encV_vd, encV_vs1, encV_op2, encV_vm, encV_kind, encV_fn6] <;> cases rm <;>
    simp (disch := omega) only [decVCvt, accept, acceptKind, low3, low2, hi2z, hi3z, withRm, onlyIf, BitVec.extractLsb'_append_eq_of_add_le,
      BitVec.extractLsb'_append_eq_of_le, BitVec.extractLsb'_eq_self, Nat.reduceSub] <;>
    simp_all [wellFormed, kindOk, stcOk, VKind.ofBits, VKind.bits, Rm.ofBits, Rm.bits, Req.ofBits, Req.bits, isSet, bit,
      FCond.ofBits, FCond.bits, WCond.bits]
theorem RoundTrip.vbdeq (o : CvtArgs) : RoundTrip.Statement (.vbdeq o) := by
  obtain ⟨vd, vs1, src, vm, rm⟩ := o
  intro w g e
  obtain rfl := Option.some.inj e
  rw [major26 (encV_op ..)]
  simp only [encV_op, encV_vd, encV_vs1, encV_op2, encV_vm, encV_kind, encV_fn6] <;> cases rm <;>
    simp (disch := omega) only [decVCvt, accept, acceptKind, low3, low2, hi2z, hi3z, withRm, onlyIf, BitVec.extractLsb'_append_eq_of_add_le,
      BitVec.extractLsb'_append_eq_of_le, BitVec.extractLsb'_eq_self, Nat.reduceSub] <;>
    simp_all [wellFormed, kindOk, stcOk, VKind.ofBits, VKind.bits, Rm.ofBits, Rm.bits, Req.ofBits, Req.bits, isSet, bit,
      FCond.ofBits, FCond.bits, WCond.bits]
theorem RoundTrip.vredsum (o : RedArgs) : RoundTrip.Statement (.vredsum o) := by
  obtain ⟨d, vs1, vm, toX, rm⟩ := o
  intro w g e
  obtain rfl := Option.some.inj e
  rw [major27 (encV_op ..)]
  simp only [encV_op, encV_vd, encV_vs1, encV_op2, encV_vm, encV_kind, encV_fn6] <;> cases toX <;> cases rm <;> rfl
theorem RoundTrip.vredsumo (o : RedArgs) : RoundTrip.Statement (.vredsumo o) := by
  obtain ⟨d, vs1, vm, toX, rm⟩ := o
  intro w g e
  obtain rfl := Option.some.inj e
  rw [major27 (encV_op ..)]
  simp only [encV_op, encV_vd, encV_vs1, encV_op2, encV_vm, encV_kind, encV_fn6] <;> cases toX <;> cases rm <;> rfl
theorem RoundTrip.vredmin (d vs1 : BitVec 5) (vm : BitVec 3) (toX : Bool) : RoundTrip.Statement (.vredmin d vs1 vm toX) := by
  intro w g e
  obtain rfl := Option.some.inj e
  rw [major27 (encV_op ..)]
  simp only [encV_op, encV_vd, encV_vs1, encV_op2, encV_vm, encV_kind, encV_fn6] <;> cases toX <;> rfl
theorem RoundTrip.vredmax (d vs1 : BitVec 5) (vm : BitVec 3) (toX : Bool) : RoundTrip.Statement (.vredmax d vs1 vm toX) := by
  intro w g e
  obtain rfl := Option.some.inj e
  rw [major27 (encV_op ..)]
  simp only [encV_op, encV_vd, encV_vs1, encV_op2, encV_vm, encV_kind, encV_fn6] <;> cases toX <;> rfl
theorem RoundTrip.vredand (d vs1 : BitVec 5) (vm : BitVec 3) (toX : Bool) : RoundTrip.Statement (.vredand d vs1 vm toX) := by
  intro w g e
  obtain rfl := Option.some.inj e
  rw [major27 (encV_op ..)]
  simp only [encV_op, encV_vd, encV_vs1, encV_op2, encV_vm, encV_kind, encV_fn6] <;> cases toX <;> rfl
theorem RoundTrip.vredor (d vs1 : BitVec 5) (vm : BitVec 3) (toX : Bool) : RoundTrip.Statement (.vredor d vs1 vm toX) := by
  intro w g e
  obtain rfl := Option.some.inj e
  rw [major27 (encV_op ..)]
  simp only [encV_op, encV_vd, encV_vs1, encV_op2, encV_vm, encV_kind, encV_fn6] <;> cases toX <;> rfl
theorem RoundTrip.vredxor (d vs1 : BitVec 5) (vm : BitVec 3) (toX : Bool) : RoundTrip.Statement (.vredxor d vs1 vm toX) := by
  intro w g e
  obtain rfl := Option.some.inj e
  rw [major27 (encV_op ..)]
  simp only [encV_op, encV_vd, encV_vs1, encV_op2, encV_vm, encV_kind, encV_fn6] <;> cases toX <;> rfl
theorem RoundTrip.vscansum (o : VFUnary) : RoundTrip.Statement (.vscansum o) := by
  obtain ⟨vd, vs1, vm, rm⟩ := o
  intro w g e
  obtain rfl := Option.some.inj e
  rw [major27 (encV_op ..)]
  simp only [encV_op, encV_vd, encV_vs1, encV_op2, encV_vm, encV_kind, encV_fn6] <;> cases rm <;> rfl
theorem RoundTrip.vscanmin (o : VUnary) : RoundTrip.Statement (.vscanmin o) := by
  obtain ⟨vd, vs1, vm⟩ := o
  intro w g e
  obtain rfl := Option.some.inj e
  rw [major27 (encV_op ..)]
  simp only [encV_op, encV_vd, encV_vs1, encV_op2, encV_vm, encV_kind, encV_fn6] <;> rfl
theorem RoundTrip.vscanmax (o : VUnary) : RoundTrip.Statement (.vscanmax o) := by
  obtain ⟨vd, vs1, vm⟩ := o
  intro w g e
  obtain rfl := Option.some.inj e
  rw [major27 (encV_op ..)]
  simp only [encV_op, encV_vd, encV_vs1, encV_op2, encV_vm, encV_kind, encV_fn6] <;> rfl
theorem RoundTrip.vslideup (o : VArgs) : RoundTrip.Statement (.vslideup o) := by
  obtain ⟨vd, vs1, op2, vm, kind⟩ := o
  intro w g e
  obtain rfl := Option.some.inj e
  rw [major28 (encV_op ..)]
  simp only [encV_op, encV_vd, encV_vs1, encV_op2, encV_vm, encV_kind, encV_fn6] <;> cases kind <;>
    simp (disch := omega) only [decVPerm, accept, acceptKind, low3, low2, hi2z, hi3z, withRm, onlyIf, BitVec.extractLsb'_append_eq_of_add_le,
      BitVec.extractLsb'_append_eq_of_le, BitVec.extractLsb'_eq_self, Nat.reduceSub] <;>
    simp_all [wellFormed, kindOk, stcOk, VKind.ofBits, VKind.bits, Rm.ofBits, Rm.bits, Req.ofBits, Req.bits, isSet, bit,
      FCond.ofBits, FCond.bits, WCond.bits]
theorem RoundTrip.vslidedn (o : VArgs) : RoundTrip.Statement (.vslidedn o) := by
  obtain ⟨vd, vs1, op2, vm, kind⟩ := o
  intro w g e
  obtain rfl := Option.some.inj e
  rw [major28 (encV_op ..)]
  simp only [encV_op, encV_vd, encV_vs1, encV_op2, encV_vm, encV_kind, encV_fn6] <;> cases kind <;>
    simp (disch := omega) only [decVPerm, accept, acceptKind, low3, low2, hi2z, hi3z, withRm, onlyIf, BitVec.extractLsb'_append_eq_of_add_le,
      BitVec.extractLsb'_append_eq_of_le, BitVec.extractLsb'_eq_self, Nat.reduceSub] <;>
    simp_all [wellFormed, kindOk, stcOk, VKind.ofBits, VKind.bits, Rm.ofBits, Rm.bits, Req.ofBits, Req.bits, isSet, bit,
      FCond.ofBits, FCond.bits, WCond.bits]
theorem RoundTrip.vgather (vd vs1 vs2 : BitVec 5) (vm : BitVec 3) : RoundTrip.Statement (.vgather vd vs1 vs2 vm) := by
  intro w g e
  obtain rfl := Option.some.inj e
  rw [major28 (encV_op ..)]
  simp only [encV_op, encV_vd, encV_vs1, encV_op2, encV_vm, encV_kind, encV_fn6] <;> rfl
theorem RoundTrip.vcompress (o : VUnary) : RoundTrip.Statement (.vcompress o) := by
  obtain ⟨vd, vs1, vm⟩ := o
  intro w g e
  obtain rfl := Option.some.inj e
  rw [major28 (encV_op ..)]
  simp only [encV_op, encV_vd, encV_vs1, encV_op2, encV_vm, encV_kind, encV_fn6] <;> rfl
theorem RoundTrip.vexpand (o : VUnary) : RoundTrip.Statement (.vexpand o) := by
  obtain ⟨vd, vs1, vm⟩ := o
  intro w g e
  obtain rfl := Option.some.inj e
  rw [major28 (encV_op ..)]
  simp only [encV_op, encV_vd, encV_vs1, encV_op2, encV_vm, encV_kind, encV_fn6] <;> rfl
theorem RoundTrip.vbcast (o : VArgs) : RoundTrip.Statement (.vbcast o) := by
  obtain ⟨vd, vs1, op2, vm, kind⟩ := o
  intro w g e
  obtain rfl := Option.some.inj e
  rw [major28 (encV_op ..)]
  simp only [encV_op, encV_vd, encV_vs1, encV_op2, encV_vm, encV_kind, encV_fn6] <;> cases kind <;>
    simp (disch := omega) only [decVPerm, accept, acceptKind, low3, low2, hi2z, hi3z, withRm, onlyIf, BitVec.extractLsb'_append_eq_of_add_le,
      BitVec.extractLsb'_append_eq_of_le, BitVec.extractLsb'_eq_self, Nat.reduceSub] <;>
    simp_all [wellFormed, kindOk, stcOk, VKind.ofBits, VKind.bits, Rm.ofBits, Rm.bits, Req.ofBits, Req.bits, isSet, bit,
      FCond.ofBits, FCond.bits, WCond.bits]
theorem RoundTrip.vextr (o : VArgs) : RoundTrip.Statement (.vextr o) := by
  obtain ⟨vd, vs1, op2, vm, kind⟩ := o
  intro w g e
  obtain rfl := Option.some.inj e
  rw [major28 (encV_op ..)]
  simp only [encV_op, encV_vd, encV_vs1, encV_op2, encV_vm, encV_kind, encV_fn6] <;> cases kind <;>
    simp (disch := omega) only [decVPerm, accept, acceptKind, low3, low2, hi2z, hi3z, withRm, onlyIf, BitVec.extractLsb'_append_eq_of_add_le,
      BitVec.extractLsb'_append_eq_of_le, BitVec.extractLsb'_eq_self, Nat.reduceSub] <;>
    simp_all [wellFormed, kindOk, stcOk, VKind.ofBits, VKind.bits, Rm.ofBits, Rm.bits, Req.ofBits, Req.bits, isSet, bit,
      FCond.ofBits, FCond.bits, WCond.bits]
theorem RoundTrip.vins (o : VArgs) : RoundTrip.Statement (.vins o) := by
  obtain ⟨vd, vs1, op2, vm, kind⟩ := o
  intro w g e
  obtain rfl := Option.some.inj e
  rw [major28 (encV_op ..)]
  simp only [encV_op, encV_vd, encV_vs1, encV_op2, encV_vm, encV_kind, encV_fn6] <;> cases kind <;>
    simp (disch := omega) only [decVPerm, accept, acceptKind, low3, low2, hi2z, hi3z, withRm, onlyIf, BitVec.extractLsb'_append_eq_of_add_le,
      BitVec.extractLsb'_append_eq_of_le, BitVec.extractLsb'_eq_self, Nat.reduceSub] <;>
    simp_all [wellFormed, kindOk, stcOk, VKind.ofBits, VKind.bits, Rm.ofBits, Rm.bits, Req.ofBits, Req.bits, isSet, bit,
      FCond.ofBits, FCond.bits, WCond.bits]
theorem RoundTrip.vbshuf (vd vs1 vs2 : BitVec 5) (vm : BitVec 3) : RoundTrip.Statement (.vbshuf vd vs1 vs2 vm) := by
  intro w g e
  obtain rfl := Option.some.inj e
  rw [major28 (encV_op ..)]
  simp only [encV_op, encV_vd, encV_vs1, encV_op2, encV_vm, encV_kind, encV_fn6] <;> rfl
theorem RoundTrip.vidx (vd : BitVec 5) (start : BitVec 11) (inc : BitVec 10) : RoundTrip.Statement (.vidx vd start inc) := by
  intro w g e
  obtain rfl := Option.some.inj e
  rw [major29 (encVI_op ..)]
  simp only [encVI_op, encVI_vd, encVI_start, encVI_inc]
theorem RoundTrip.vld (a : VMemArgs) : RoundTrip.Statement (.vld a) := by
  obtain ⟨v, xs1, r2, vm, req, rx⟩ := a
  intro w g e
  obtain rfl := Option.some.inj e
  rw [major2a (encVM_op ..)]
  simp only [encVM_op, encVM_v, encVM_xs1, encVM_r2, encVM_vm, encVM_req, encVM_mode, encVM_rx, encVM_fn3] <;> cases req <;> cases rx <;>
    simp (disch := omega) only [decVMem, accept, acceptKind, low3, low2, hi2z, hi3z, withRm, onlyIf, BitVec.extractLsb'_append_eq_of_add_le,
      BitVec.extractLsb'_append_eq_of_le, BitVec.extractLsb'_eq_self, Nat.reduceSub] <;>
    simp_all [wellFormed, kindOk, stcOk, VKind.ofBits, VKind.bits, Rm.ofBits, Rm.bits, Req.ofBits, Req.bits, isSet, bit,
      FCond.ofBits, FCond.bits, WCond.bits]
theorem RoundTrip.vlds (a : VMemArgs) : RoundTrip.Statement (.vlds a) := by
  obtain ⟨v, xs1, r2, vm, req, rx⟩ := a
  intro w g e
  obtain rfl := Option.some.inj e
  rw [major2a (encVM_op ..)]
  simp only [encVM_op, encVM_v, encVM_xs1, encVM_r2, encVM_vm, encVM_req, encVM_mode, encVM_rx, encVM_fn3] <;> cases req <;> cases rx <;> rfl
theorem RoundTrip.vldx (a : VMemArgs) : RoundTrip.Statement (.vldx a) := by
  obtain ⟨v, xs1, r2, vm, req, rx⟩ := a
  intro w g e
  obtain rfl := Option.some.inj e
  rw [major2a (encVM_op ..)]
  simp only [encVM_op, encVM_v, encVM_xs1, encVM_r2, encVM_vm, encVM_req, encVM_mode, encVM_rx, encVM_fn3] <;> cases req <;> cases rx <;> rfl
theorem RoundTrip.vldt (a : VMemArgs) : RoundTrip.Statement (.vldt a) := by
  obtain ⟨v, xs1, r2, vm, req, rx⟩ := a
  intro w g e
  obtain rfl := Option.some.inj e
  rw [major2a (encVM_op ..)]
  simp only [encVM_op, encVM_v, encVM_xs1, encVM_r2, encVM_vm, encVM_req, encVM_mode, encVM_rx, encVM_fn3] <;> cases req <;> cases rx <;> rfl
theorem RoundTrip.vldb (a : VMemArgs) : RoundTrip.Statement (.vldb a) := by
  obtain ⟨v, xs1, r2, vm, req, rx⟩ := a
  intro w g e
  obtain rfl := Option.some.inj e
  rw [major2a (encVM_op ..)]
  simp only [encVM_op, encVM_v, encVM_xs1, encVM_r2, encVM_vm, encVM_req, encVM_mode, encVM_rx, encVM_fn3] <;> cases req <;> cases rx <;>
    simp (disch := omega) only [decVMem, accept, acceptKind, low3, low2, hi2z, hi3z, withRm, onlyIf, BitVec.extractLsb'_append_eq_of_add_le,
      BitVec.extractLsb'_append_eq_of_le, BitVec.extractLsb'_eq_self, Nat.reduceSub] <;>
    simp_all [wellFormed, kindOk, stcOk, VKind.ofBits, VKind.bits, Rm.ofBits, Rm.bits, Req.ofBits, Req.bits, isSet, bit,
      FCond.ofBits, FCond.bits, WCond.bits]
theorem RoundTrip.vldsb (vd xs1 : BitVec 5) (vm : BitVec 3) (rx : Bool) : RoundTrip.Statement (.vldsb vd xs1 vm rx) := by
  intro w g e
  obtain rfl := Option.some.inj e
  rw [major2a (encVM_op ..)]
  simp only [encVM_op, encVM_v, encVM_xs1, encVM_r2, encVM_vm, encVM_req, encVM_mode, encVM_rx, encVM_fn3] <;> cases rx <;> rfl
theorem RoundTrip.vst (a : VMemArgs) : RoundTrip.Statement (.vst a) := by
  obtain ⟨v, xs1, r2, vm, req, rx⟩ := a
  intro w g e
  obtain rfl := Option.some.inj e
  rw [major2b (encVM_op ..)]
  simp only [encVM_op, encVM_v, encVM_xs1, encVM_r2, encVM_vm, encVM_req, encVM_mode, encVM_rx, encVM_fn3] <;> cases req <;> cases rx <;>
    simp (disch := omega) only [decVMem, accept, acceptKind, low3, low2, hi2z, hi3z, withRm, onlyIf, BitVec.extractLsb'_append_eq_of_add_le,
      BitVec.extractLsb'_append_eq_of_le, BitVec.extractLsb'_eq_self, Nat.reduceSub] <;>
    simp_all [wellFormed, kindOk, stcOk, VKind.ofBits, VKind.bits, Rm.ofBits, Rm.bits, Req.ofBits, Req.bits, isSet, bit,
      FCond.ofBits, FCond.bits, WCond.bits]
theorem RoundTrip.vsts (a : VMemArgs) : RoundTrip.Statement (.vsts a) := by
  obtain ⟨v, xs1, r2, vm, req, rx⟩ := a
  intro w g e
  obtain rfl := Option.some.inj e
  rw [major2b (encVM_op ..)]
  simp only [encVM_op, encVM_v, encVM_xs1, encVM_r2, encVM_vm, encVM_req, encVM_mode, encVM_rx, encVM_fn3] <;> cases req <;> cases rx <;> rfl
theorem RoundTrip.vstx (a : VMemArgs) : RoundTrip.Statement (.vstx a) := by
  obtain ⟨v, xs1, r2, vm, req, rx⟩ := a
  intro w g e
  obtain rfl := Option.some.inj e
  rw [major2b (encVM_op ..)]
  simp only [encVM_op, encVM_v, encVM_xs1, encVM_r2, encVM_vm, encVM_req, encVM_mode, encVM_rx, encVM_fn3] <;> cases req <;> cases rx <;> rfl
theorem RoundTrip.vstt (a : VMemArgs) : RoundTrip.Statement (.vstt a) := by
  obtain ⟨v, xs1, r2, vm, req, rx⟩ := a
  intro w g e
  obtain rfl := Option.some.inj e
  rw [major2b (encVM_op ..)]
  simp only [encVM_op, encVM_v, encVM_xs1, encVM_r2, encVM_vm, encVM_req, encVM_mode, encVM_rx, encVM_fn3] <;> cases req <;> cases rx <;> rfl
theorem RoundTrip.vamoadd (a : VAmoArgs) : RoundTrip.Statement (.vamoadd a) := by
  obtain ⟨vs3, xs1, vs2, vm, scope, acq, rel⟩ := a
  intro w g e
  obtain rfl := Option.some.inj e
  rw [major2c (encV_op ..)]
  simp only [encV_op, encV_vd, encV_vs1, encV_op2, encV_vm, encV_kind, encV_fn6] <;> cases scope <;> cases acq <;> cases rel <;> rfl
theorem RoundTrip.vamomin (a : VAmoArgs) : RoundTrip.Statement (.vamomin a) := by
  obtain ⟨vs3, xs1, vs2, vm, scope, acq, rel⟩ := a
  intro w g e
  obtain rfl := Option.some.inj e
  rw [major2c (encV_op ..)]
  simp only [encV_op, encV_vd, encV_vs1, encV_op2, encV_vm, encV_kind, encV_fn6] <;> cases scope <;> cases acq <;> cases rel <;> rfl
theorem RoundTrip.vamomax (a : VAmoArgs) : RoundTrip.Statement (.vamomax a) := by
  obtain ⟨vs3, xs1, vs2, vm, scope, acq, rel⟩ := a
  intro w g e
  obtain rfl := Option.some.inj e
  rw [major2c (encV_op ..)]
  simp only [encV_op, encV_vd, encV_vs1, encV_op2, encV_vm, encV_kind, encV_fn6] <;> cases scope <;> cases acq <;> cases rel <;> rfl
theorem RoundTrip.vamoand (a : VAmoArgs) : RoundTrip.Statement (.vamoand a) := by
  obtain ⟨vs3, xs1, vs2, vm, scope, acq, rel⟩ := a
  intro w g e
  obtain rfl := Option.some.inj e
  rw [major2c (encV_op ..)]
  simp only [encV_op, encV_vd, encV_vs1, encV_op2, encV_vm, encV_kind, encV_fn6] <;> cases scope <;> cases acq <;> cases rel <;> rfl
theorem RoundTrip.vamoor (a : VAmoArgs) : RoundTrip.Statement (.vamoor a) := by
  obtain ⟨vs3, xs1, vs2, vm, scope, acq, rel⟩ := a
  intro w g e
  obtain rfl := Option.some.inj e
  rw [major2c (encV_op ..)]
  simp only [encV_op, encV_vd, encV_vs1, encV_op2, encV_vm, encV_kind, encV_fn6] <;> cases scope <;> cases acq <;> cases rel <;> rfl
theorem RoundTrip.vamoxor (a : VAmoArgs) : RoundTrip.Statement (.vamoxor a) := by
  obtain ⟨vs3, xs1, vs2, vm, scope, acq, rel⟩ := a
  intro w g e
  obtain rfl := Option.some.inj e
  rw [major2c (encV_op ..)]
  simp only [encV_op, encV_vd, encV_vs1, encV_op2, encV_vm, encV_kind, encV_fn6] <;> cases scope <;> cases acq <;> cases rel <;> rfl
theorem RoundTrip.vamoswap (a : VAmoArgs) : RoundTrip.Statement (.vamoswap a) := by
  obtain ⟨vs3, xs1, vs2, vm, scope, acq, rel⟩ := a
  intro w g e
  obtain rfl := Option.some.inj e
  rw [major2c (encV_op ..)]
  simp only [encV_op, encV_vd, encV_vs1, encV_op2, encV_vm, encV_kind, encV_fn6] <;> cases scope <;> cases acq <;> cases rel <;> rfl
theorem RoundTrip.vamocas (a : VAmoArgs) : RoundTrip.Statement (.vamocas a) := by
  obtain ⟨vs3, xs1, vs2, vm, scope, acq, rel⟩ := a
  intro w g e
  obtain rfl := Option.some.inj e
  rw [major2c (encV_op ..)]
  simp only [encV_op, encV_vd, encV_vs1, encV_op2, encV_vm, encV_kind, encV_fn6] <;> cases scope <;> cases acq <;> cases rel <;> rfl
theorem RoundTrip.vwait (cond : WCond) (md : BitVec 3) (vs1 vs2 : BitVec 5) (vm : BitVec 3) : RoundTrip.Statement (.vwait cond md vs1 vs2 vm) := by
  intro w g e
  obtain rfl := Option.some.inj e
  rw [major2d (encV_op ..)]
  simp only [encV_op, encV_vd, encV_vs1, encV_op2, encV_vm, encV_kind, encV_fn6] <;> cases cond <;>
    simp (disch := omega) only [decVSync, accept, acceptKind, low3, low2, hi2z, hi3z, withRm, onlyIf, BitVec.extractLsb'_append_eq_of_add_le,
      BitVec.extractLsb'_append_eq_of_le, BitVec.extractLsb'_eq_self, Nat.reduceSub] <;>
    simp_all [wellFormed, kindOk, stcOk, VKind.ofBits, VKind.bits, Rm.ofBits, Rm.bits, Req.ofBits, Req.bits, isSet, bit,
      FCond.ofBits, FCond.bits, WCond.bits]
theorem RoundTrip.vsend (vs1 xs2 : BitVec 5) (vm : BitVec 3) : RoundTrip.Statement (.vsend vs1 xs2 vm) := by
  intro w g e
  obtain rfl := Option.some.inj e
  rw [major2d (encV_op ..)]
  simp only [encV_op, encV_vd, encV_vs1, encV_op2, encV_vm, encV_kind, encV_fn6] <;> rfl
theorem RoundTrip.xred (op : XOp) (vd xs2 : BitVec 5) (vm : BitVec 3) : RoundTrip.Statement (.xred op vd xs2 vm) := by
  intro w g e
  obtain rfl := Option.some.inj e
  rw [major2d (encV_op ..)]
  simp only [encV_op, encV_vd, encV_vs1, encV_op2, encV_vm, encV_kind, encV_fn6] <;> cases op <;> rfl
theorem RoundTrip.bsload (xs1 xs2 : BitVec 5) (vm : BitVec 3) : RoundTrip.Statement (.bsload xs1 xs2 vm) := by
  intro w g e
  obtain rfl := Option.some.inj e
  rw [major2e (encV_op ..)]
  simp only [encV_op, encV_vd, encV_vs1, encV_op2, encV_vm, encV_kind, encV_fn6] <;> rfl
theorem RoundTrip.bsmovToUpper (vs1 xs2 : BitVec 5) (vm : BitVec 3) : RoundTrip.Statement (.bsmovToUpper vs1 xs2 vm) := by
  intro w g e
  obtain rfl := Option.some.inj e
  rw [major2e (encV_op ..)]
  simp only [encV_op, encV_vd, encV_vs1, encV_op2, encV_vm, encV_kind, encV_fn6] <;> rfl
theorem RoundTrip.bsmovFromUpper (vd xs2 : BitVec 5) (vm : BitVec 3) : RoundTrip.Statement (.bsmovFromUpper vd xs2 vm) := by
  intro w g e
  obtain rfl := Option.some.inj e
  rw [major2e (encV_op ..)]
  simp only [encV_op, encV_vd, encV_vs1, encV_op2, encV_vm, encV_kind, encV_fn6] <;> rfl
theorem RoundTrip.imma (vd vs1 xs2 : BitVec 5) (vm : BitVec 3) : RoundTrip.Statement (.imma vd vs1 xs2 vm) := by
  intro w g e
  obtain rfl := Option.some.inj e
  rw [major2e (encV_op ..)]
  simp only [encV_op, encV_vd, encV_vs1, encV_op2, encV_vm, encV_kind, encV_fn6] <;> rfl
theorem RoundTrip.tmma (o : TArgs) : RoundTrip.Statement (.tmma o) := by
  obtain ⟨acc, vA, vB, count, rm⟩ := o
  intro w g e
  obtain rfl := Option.some.inj e
  rw [major2f (encT_op ..)]
  simp only [encT_op, encT_acc, encT_vA, encT_vB, encT_count, encT_fn8] <;> cases rm <;> rfl
theorem RoundTrip.tmmao (o : TArgs) : RoundTrip.Statement (.tmmao o) := by
  obtain ⟨acc, vA, vB, count, rm⟩ := o
  intro w g e
  obtain rfl := Option.some.inj e
  rw [major2f (encT_op ..)]
  simp only [encT_op, encT_acc, encT_vA, encT_vB, encT_count, encT_fn8] <;> cases rm <;> rfl
theorem RoundTrip.taccz (acc : BitVec 3) : RoundTrip.Statement (.taccz acc) := by
  intro w g e
  obtain rfl := Option.some.inj e
  rw [major2f (encT_op ..)]
  simp only [encT_op, encT_acc, encT_vA, encT_vB, encT_count, encT_fn8] <;> rfl
theorem RoundTrip.taccld (acc : BitVec 3) (vA : BitVec 5) : RoundTrip.Statement (.taccld acc vA) := by
  intro w g e
  obtain rfl := Option.some.inj e
  rw [major2f (encT_op ..)]
  simp only [encT_op, encT_acc, encT_vA, encT_vB, encT_count, encT_fn8] <;> rfl
theorem RoundTrip.taccst (acc : BitVec 3) (vA : BitVec 5) : RoundTrip.Statement (.taccst acc vA) := by
  intro w g e
  obtain rfl := Option.some.inj e
  rw [major2f (encT_op ..)]
  simp only [encT_op, encT_acc, encT_vA, encT_vB, encT_count, encT_fn8] <;> rfl
theorem RoundTrip.vpf (a : VMemArgs) : RoundTrip.Statement (.vpf a) := by
  obtain ⟨v, xs1, r2, vm, req, rx⟩ := a
  intro w g e
  obtain rfl := Option.some.inj e
  rw [major3c (encVM_op ..)]
  simp (disch := omega) only [nested, decHint, Nat.zero_add, encVM_v, encVM_xs1, encVM_r2, encVM_vm, encVM_req, encVM_mode,
    encVM_rx, encVM_fn3]
  cases req <;> cases rx <;> simp_all [wellFormed, Req.ofBits, Req.bits, isSet, bit]
theorem RoundTrip.hint (maj : HintMajor) (imm : BitVec 26) : RoundTrip.Statement (.hint maj imm) := by
  intro w g e
  obtain rfl := Option.some.inj e
  have f : ∀ op : BitVec 6, (op ++ imm : IWord).extractLsb' 26 6 = op ∧ (op ++ imm : IWord).extractLsb' 0 26 = imm := by
    intro op
    simp (disch := omega) only [BitVec.extractLsb'_append_eq_of_add_le,
      BitVec.extractLsb'_append_eq_of_le, Nat.reduceSub, BitVec.extractLsb'_eq_self, and_self]
  have g1 : decHint maj imm = .hint maj imm := by simpa [wellFormed] using g
  cases maj
  · rw [major3c (f HintMajor.h3c.bits).1, (f HintMajor.h3c.bits).2, g1]
  · rw [major3d (f HintMajor.h3d.bits).1, (f HintMajor.h3d.bits).2, g1]
  · rw [major3e (f HintMajor.h3e.bits).1, (f HintMajor.h3e.bits).2, g1]
theorem RoundTrip.illegalWordFetch (w : IWord) : RoundTrip.Statement (.illegalWordFetch w) := fun _ _ e => nomatch e
theorem RoundTrip.poolCsrWrite (r : PoolCsr) (op : CsrOp) (v : Word) : RoundTrip.Statement (.poolCsrWrite r op v) := fun _ _ e => nomatch e
theorem RoundTrip.launch (c : CtxId) (v : Word) : RoundTrip.Statement (.launch c v) := fun _ _ e => nomatch e
theorem RoundTrip.launchDistributionResume (c : CtxId) : RoundTrip.Statement (.launchDistributionResume c) := fun _ _ e => nomatch e
theorem RoundTrip.ctxrefresh (c : CtxId) : RoundTrip.Statement (.ctxrefresh c) := fun _ _ e => nomatch e
theorem RoundTrip.yreqWrite (p : CoreId) (v : Word) : RoundTrip.Statement (.yreqWrite p v) := fun _ _ e => nomatch e
theorem RoundTrip.tlbinvAll (c : CtxId) : RoundTrip.Statement (.tlbinvAll c) := fun _ _ e => nomatch e
theorem RoundTrip.tlbinvVpn (c : CtxId) (v : Word) : RoundTrip.Statement (.tlbinvVpn c v) := fun _ _ e => nomatch e
theorem RoundTrip.snapcmd (v : Word) : RoundTrip.Statement (.snapcmd v) := fun _ _ e => nomatch e
theorem RoundTrip.snapComplete : RoundTrip.Statement .snapComplete := fun _ _ e => nomatch e
theorem RoundTrip.xredgrpWrite (g : Fin 16) (v : Word) : RoundTrip.Statement (.xredgrpWrite g v) := fun _ _ e => nomatch e
theorem RoundTrip.preemptNotify (c : CtxId) (v : Word) : RoundTrip.Statement (.preemptNotify c v) := fun _ _ e => nomatch e
theorem RoundTrip.preemptSave (c : CtxId) (v : Word) : RoundTrip.Statement (.preemptSave c v) := fun _ _ e => nomatch e
theorem RoundTrip.ctxrun (c : CtxId) (v : Word) : RoundTrip.Statement (.ctxrun c v) := fun _ _ e => nomatch e
theorem RoundTrip.ctxrunResume (c : CtxId) (l : BitVec 10) : RoundTrip.Statement (.ctxrunResume c l) := fun _ _ e => nomatch e
theorem RoundTrip.dbgHalt (p : CoreId) (s : StrandId) : RoundTrip.Statement (.dbgHalt p s) := fun _ _ e => nomatch e
theorem RoundTrip.dbgRun (p : CoreId) (s : StrandId) : RoundTrip.Statement (.dbgRun p s) := fun _ _ e => nomatch e
theorem RoundTrip.dbgStep (p : CoreId) (s : StrandId) : RoundTrip.Statement (.dbgStep p s) := fun _ _ e => nomatch e
theorem RoundTrip.dregdataWrite (p : CoreId) (v : Word) : RoundTrip.Statement (.dregdataWrite p v) := fun _ _ e => nomatch e
theorem RoundTrip.qdataWrite (p : CoreId) (k : Fin 8) (v : Word) : RoundTrip.Statement (.qdataWrite p k v) := fun _ _ e => nomatch e
theorem RoundTrip.ctxretire (c : CtxId) (v : Word) : RoundTrip.Statement (.ctxretire c v) := fun _ _ e => nomatch e
theorem RoundTrip.retireFinish (c : CtxId) : RoundTrip.Statement (.retireFinish c) := fun _ _ e => nomatch e
theorem RoundTrip.devnumWrite (v : Word) : RoundTrip.Statement (.devnumWrite v) := fun _ _ e => nomatch e
theorem RoundTrip.registerWrite (off : BitVec 32) (v : Word) : RoundTrip.Statement (.registerWrite off v) := fun _ _ e => nomatch e
theorem RoundTrip.coreTakeUp (p : CoreId) (c : CtxId) : RoundTrip.Statement (.coreTakeUp p c) := fun _ _ e => nomatch e
theorem RoundTrip.steal (victim : CoreId) (c : CtxId) (thief : BitVec 10) (shortOk longOk : Bool) : RoundTrip.Statement (.steal victim c thief shortOk longOk) := fun _ _ e => nomatch e
theorem RoundTrip.give (thief : CoreId) (c : CtxId) (pairs : List Pair) : RoundTrip.Statement (.give thief c pairs) := fun _ _ e => nomatch e
theorem RoundTrip.fwd (target : CoreId) (c : CtxId) (pair : Pair) : RoundTrip.Statement (.fwd target c pair) := fun _ _ e => nomatch e
theorem RoundTrip.wake (p : CoreId) (c : CtxId) (pusher : BitVec 10) : RoundTrip.Statement (.wake p c pusher) := fun _ _ e => nomatch e
theorem RoundTrip.ifetchFill (p : CoreId) (s : StrandId) : RoundTrip.Statement (.ifetchFill p s) := fun _ _ e => nomatch e
theorem RoundTrip.muldivResult (p : CoreId) (s : StrandId) : RoundTrip.Statement (.muldivResult p s) := fun _ _ e => nomatch e
theorem RoundTrip.readQueueDelivery (p : CoreId) (s : StrandId) : RoundTrip.Statement (.readQueueDelivery p s) := fun _ _ e => nomatch e
theorem RoundTrip.scalarAccessPerform (p : CoreId) (s : StrandId) (n : Nat) : RoundTrip.Statement (.scalarAccessPerform p s n) := fun _ _ e => nomatch e
theorem RoundTrip.vqEntryExecute (p : CoreId) (s : StrandId) : RoundTrip.Statement (.vqEntryExecute p s) := fun _ _ e => nomatch e
theorem RoundTrip.vqEntryRetire (p : CoreId) (s : StrandId) : RoundTrip.Statement (.vqEntryRetire p s) := fun _ _ e => nomatch e
theorem RoundTrip.vectorFault (p : CoreId) (s : StrandId) : RoundTrip.Statement (.vectorFault p s) := fun _ _ e => nomatch e
theorem RoundTrip.laneGrant (p : CoreId) : RoundTrip.Statement (.laneGrant p) := fun _ _ e => nomatch e
theorem RoundTrip.channelDeposit (d : Deposit) : RoundTrip.Statement (.channelDeposit d) := fun _ _ e => nomatch e
theorem RoundTrip.redMessage (m : RedMsg) : RoundTrip.Statement (.redMessage m) := fun _ _ e => nomatch e
theorem RoundTrip.xredMessage (g : Fin 16) (m : XredMsg) : RoundTrip.Statement (.xredMessage g m) := fun _ _ e => nomatch e
theorem RoundTrip.atomicRequest (r : AtomicReq) : RoundTrip.Statement (.atomicRequest r) := fun _ _ e => nomatch e
theorem RoundTrip.combineFetchArrival (pa : Nat) : RoundTrip.Statement (.combineFetchArrival pa) := fun _ _ e => nomatch e
theorem RoundTrip.homeAccess (p : CoreId) (s : StrandId) (n : Nat) : RoundTrip.Statement (.homeAccess p s n) := fun _ _ e => nomatch e
theorem RoundTrip.feRetry (n : Nat) : RoundTrip.Statement (.feRetry n) := fun _ _ e => nomatch e
theorem RoundTrip.vwaitPoll (p : CoreId) (s : StrandId) : RoundTrip.Statement (.vwaitPoll p s) := fun _ _ e => nomatch e
theorem RoundTrip.vwaitTimeout (p : CoreId) (s : StrandId) : RoundTrip.Statement (.vwaitTimeout p s) := fun _ _ e => nomatch e
theorem RoundTrip.enginePiece (e : Fin 48) : RoundTrip.Statement (.enginePiece e) := fun _ _ e => nomatch e
theorem RoundTrip.copyComplete (desc : Nat) : RoundTrip.Statement (.copyComplete desc) := fun _ _ e => nomatch e
theorem RoundTrip.powerWindow (n : Vector Nat 384) : RoundTrip.Statement (.powerWindow n) := fun _ _ e => nomatch e
theorem RoundTrip.idleInsertion : RoundTrip.Statement .idleInsertion := fun _ _ e => nomatch e
theorem RoundTrip.vxArbitration (p : CoreId) (tileFull pipeFull : Bool) : RoundTrip.Statement (.vxArbitration p tileFull pipeFull) := fun _ _ e => nomatch e
theorem RoundTrip.sensorFail (p : CoreId) (w : Sensor) : RoundTrip.Statement (.sensorFail p w) := fun _ _ e => nomatch e
theorem RoundTrip.thermalThrottle : RoundTrip.Statement .thermalThrottle := fun _ _ e => nomatch e
theorem RoundTrip.thermalShutdown : RoundTrip.Statement .thermalShutdown := fun _ _ e => nomatch e
theorem RoundTrip.railFault (r : BootResult) : RoundTrip.Statement (.railFault r) := fun _ _ e => nomatch e
theorem RoundTrip.coldReset (r : BootResult) : RoundTrip.Statement (.coldReset r) := fun _ _ e => nomatch e
theorem RoundTrip.perst (r : BootResult) : RoundTrip.Statement (.perst r) := fun _ _ e => nomatch e
theorem RoundTrip.resetcmd (v : Word) (r : BootResult) : RoundTrip.Statement (.resetcmd v r) := fun _ _ e => nomatch e
theorem RoundTrip.selfTest (p : CoreId) (t : TestResult) : RoundTrip.Statement (.selfTest p t) := fun _ _ e => nomatch e
theorem RoundTrip.scrub (p : CoreId) (failing : BitVec 128) : RoundTrip.Statement (.scrub p failing) := fun _ _ e => nomatch e
theorem RoundTrip.mgmtCapmaskClear (p : CoreId) (clear : BitVec 128) : RoundTrip.Statement (.mgmtCapmaskClear p clear) := fun _ _ e => nomatch e
theorem RoundTrip.hostWrite (pa : Nat) (bytes : List Byte) : RoundTrip.Statement (.hostWrite pa bytes) := fun _ _ e => nomatch e
theorem RoundTrip.hostRead (pa : Nat) (len : Nat) : RoundTrip.Statement (.hostRead pa len) := fun _ _ e => nomatch e
theorem RoundTrip.hostAtomic (r : AtomicReq) : RoundTrip.Statement (.hostAtomic r) := fun _ _ e => nomatch e
theorem RoundTrip.hostCompletion (n : Nat) (st : BusStatus) (data : List Byte) : RoundTrip.Statement (.hostCompletion n st data) := fun _ _ e => nomatch e
theorem RoundTrip.hostCompletionTimeout (n : Nat) : RoundTrip.Statement (.hostCompletionTimeout n) := fun _ _ e => nomatch e
theorem RoundTrip.getVersion : RoundTrip.Statement .getVersion := fun _ _ e => nomatch e
theorem RoundTrip.getCapabilities : RoundTrip.Statement .getCapabilities := fun _ _ e => nomatch e
theorem RoundTrip.negotiateAlgorithms : RoundTrip.Statement .negotiateAlgorithms := fun _ _ e => nomatch e
theorem RoundTrip.getDigests : RoundTrip.Statement .getDigests := fun _ _ e => nomatch e
theorem RoundTrip.getCertificate : RoundTrip.Statement .getCertificate := fun _ _ e => nomatch e
theorem RoundTrip.challenge (nonce : BitVec 256) : RoundTrip.Statement (.challenge nonce) := fun _ _ e => nomatch e
theorem RoundTrip.getMeasurements (q : MeasureRequest) : RoundTrip.Statement (.getMeasurements q) := fun _ _ e => nomatch e
theorem RoundTrip.recoveryImage (x : NewImage) : RoundTrip.Statement (.recoveryImage x) := fun _ _ e => nomatch e
theorem RoundTrip.peerRequest (dev : BitVec 9) (c : CtxId) (op : BusOp) : RoundTrip.Statement (.peerRequest dev c op) := fun _ _ e => nomatch e
theorem RoundTrip.peerResponse (n : Nat) (st : BusStatus) (data : List Byte) : RoundTrip.Statement (.peerResponse n st data) := fun _ _ e => nomatch e
theorem RoundTrip.peerTimeout (n : Nat) : RoundTrip.Statement (.peerTimeout n) := fun _ _ e => nomatch e
theorem RoundTrip.flitCrcFail (j : Fin 16) : RoundTrip.Statement (.flitCrcFail j) := fun _ _ e => nomatch e
theorem RoundTrip.portDown (j : Fin 16) : RoundTrip.Statement (.portDown j) := fun _ _ e => nomatch e
theorem RoundTrip.portRetrained (j : Fin 16) : RoundTrip.Statement (.portRetrained j) := fun _ _ e => nomatch e
theorem RoundTrip.allowanceRestore (n : Vector Nat 384) : RoundTrip.Statement (.allowanceRestore n) := fun _ _ e => nomatch e
theorem RoundTrip.thermalThrottleExit (n : Vector Nat 384) : RoundTrip.Statement (.thermalThrottleExit n) := fun _ _ e => nomatch e
theorem RoundTrip.hostConfigurationRequest : RoundTrip.Statement .hostConfigurationRequest := fun _ _ e => nomatch e
theorem RoundTrip.elementGroupArrival (p : CoreId) (s : StrandId) (n : Nat) : RoundTrip.Statement (.elementGroupArrival p s n) := fun _ _ e => nomatch e

end Sys2Proof.Laws
end

