-- ==== Sys2Proof/Tests/Slice0.lean ====
section
/-! SUPPORT. The package's own tests: words of the opcode table and of the spec's examples, ill-formed terms, single
steps with values from the spec's worked examples or worked by hand, and a witness for the hypotheses of every
statement. -/

set_option Elab.async false
set_option linter.unusedVariables false

namespace Tests

open Sys2Proof Sys2Proof.Machine

/-- A strand awake at 0x30000, at runtime level. -/
def wStrand : Strand := { Strand.reset with pc := 0x30000, priv := 1, halted := false, trapvec := 0x9000 }

/-- A core that serves context 0, with one vector way, two scratchpad ways and two cache ways, and translations of low
HBM and of its scratchpad. -/
def wCore : Core := { Core.reset with
  strands := Core.reset.strands.set 0 wStrand
  serves := some 0
  capmask := BitVec.allOnes 128
  poolV := 1
  poolS := 3
  poolC := 5
  wayTag := ((Core.reset.wayTag.set 0 (some (0, true))).set 1 (some (0, false))).set 2 (some (0, false))
  tlb := [⟨none, 0, 0, 2 ^ 32, 0, 32, false, true, true⟩, ⟨none, 0, 2 ^ 40, 2 ^ 32, 2 ^ 40, 32, false, true, true⟩]
  icache := [(0x30000 / 64, 0xf0000000)] }

/-- A launched context of one core, with one object at 0x30000. -/
def wCtx : Ctx := { Ctx.reset with
  entry := { CtxEntry.zero with valid := true, arenaBase := 0x10000, arenaBound := 0x50000 }
  cores := [some 0]
  routes := [some 0]
  launched := true }

/-- The code directory's entry of the object at 0x30000, and a hint word in it. -/
def wMem : Memory := (Memory.write [] 0x10020 probeEntry).write 0x30000 (leBytes 4 0xf0000000)

/-- A READY device whose core 0 and context 0 are the given ones, with memory m. -/
def wState (k : Core) (c : Ctx) (m : Memory) : State := { State.reset with
  cores := State.reset.cores.set 0 k
  ctxs := State.reset.ctxs.set 0 c
  mem := m
  plat := { Platform.reset with ready := true } }

/-- A core with its strand 0 changed. -/
def wWith (f : Strand) : Core := { wCore with strands := wCore.strands.set 0 f }

/-- x registers with the given values in x1, x2 and so on. -/
def wRegs (l : List Word) : Vector Word 32 := Vector.ofFn fun (i : Fin 32) => (0 :: l).getD i.val 0

/-- An entry with a given word over array 0, for VLEN 4. -/
def wEntry (w : IWord) : QEntry :=
  ⟨w, 0x30000, 0, 0, 0, 4, Vector.replicate 4 0, 0, 0, 0, [0], 0, [], false, false, [], 0⟩

/-- A lane with a in v2 and b in v3, its masks, and tag latches that repeat them. -/
def wLane (a b : Nat) (m : BitVec 8) : Lane :=
  { ({ Lane.zero with masks := m, tags := m.extractLsb' 0 4 } : Lane).withRows 64 32 a with }.withRows 96 32 b

/-- Six lanes of array 0. -/
def wLanes : List (Nat × Lane) :=
  [(0, wLane 0x7fffffff 1 2), (1, wLane 0x80000000 0xffffffff 6), (2, wLane 5 0 1), (3, wLane 0xfffffff9 3 2),
    (4, wLane 0x12345678 0x87654321 4), (5, wLane 2 4 2)]

/-- Addresses of n nodes from 0x60000. -/
def wNodes (n : Nat) : List Nat := (List.range n).map fun j => 0x60000 + 32 * j

/-- Memory with words from an address above all that it lists. -/
def wWords (m : Memory) (a : Nat) (ws : List Word) : Memory :=
  m ++ ((ws.flatMap fun w => leBytes 8 w.toNat).zipIdx a).filterMap fun (x : Byte × Nat) =>
    if x.1 = 0 then none else some (x.2, x.1)

/-- Memory with the continuation of a strand in 17 nodes. -/
def wCont (st : Strand) : Memory :=
  wWords wMem 0x60000 ((contNodes st 0 1 (wNodes 17)).flatMap fun (x : Word × Word × Word × Word) => [x.1, x.2.1, x.2.2.1, x.2.2.2])

/-- Tables from 0x70000 that map low addresses onto themselves, after three words of data. -/
def wTables : Memory :=
  wWords (wWords (wWords (wWords wMem 0x60000 [0x1122334455667788, 5, 0x99]) 0x70000 [0x71001]) 0x71000 [0x72001]) 0x72000 [0xb47]

/-- A copy of 20 bytes from 0x60000 to 0x62010. -/
def wCopy : CopyDesc :=
  ⟨1, 0, 0, 0, 0, 0x70000, false, false, none, 0x60000, 0x62010, 20, 1, 0, 0, none, none, 0, false, false, none⟩

/-- An entry of the context table at 0x60000, and its core and route tables. -/
def wEntries : Memory :=
  wWords (wWords (wWords wMem 0x60000 [0x8000000000000000, 0, 0x10000, 0x50000, 0, 0x64000, 0x64000, 0x65000, 0x55, 0x050301,
    0, 0, 0x100000, 0x1140000]) 0x64000 [0x8000]) 0x68000 [0x80000002, 0, 0x60020, 0x60040, 0x60060, 0x60080]

theorem memOk_of (s : State) (k : Core) (h : s.cores = State.reset.cores.set 0 k) (hm : s.mem.wf = true)
    (hk : k.spad.wf = true) : s.memOk := by
  refine ⟨hm, fun p => ?_⟩
  show (s.cores[p]).spad.wf = true
  simp only [h, Fin.getElem_fin, Vector.getElem_set]
  split
  · exact hk
  · simp only [State.reset, Vector.getElem_replicate]; decide

theorem tlbOk_of (s : State) (k : Core) (h : s.cores = State.reset.cores.set 0 k)
    (hk : ∀ e ∈ k.tlb, e.base % 4096 = 0 ∧ e.frame % 4096 = 0 ∧ isGrain e.grain = true)
    (hg : s.grains = [] := by rfl) : s.tlbOk := by
  refine ⟨fun p => ?_, by simp [hg]⟩
  show ∀ e ∈ (s.cores[p]).tlb, _
  simp only [h, Fin.getElem_fin, Vector.getElem_set]
  split
  · exact hk
  · simp [State.reset, Core.reset]

theorem copies_none (s : State) (k : Core) (h : s.cores = State.reset.cores.set 0 k)
    (hk : k.copies = []) (p : CoreId) : (s.core p).copies = [] := by
    show (s.cores[p]).copies = []
    simp only [h, Fin.getElem_fin, Vector.getElem_set]
    split
    · exact hk
    · simp [State.reset, Core.reset]

theorem fold_seals (l : List CoreId) (s1 : State) (f : CoreId → State → State) (h1 : ∀ p, (s1.core p).copies = [])
      (hf : ∀ p (b : State), (∀ q, (b.core q).copies = []) → f p b = b) :
      (l.foldl (fun (a : State) p => f p a) s1).seals = s1.seals :=
    (foldl_keeps (fun (a : State) => (∀ p, (a.core p).copies = []) ∧ a.seals = s1.seals) _
      (fun b p hb => by rw [hf p b hb.1]; exact hb) l s1 ⟨h1, rfl⟩).2

theorem mapCopies_seals (a : State) (f : CoreId → List Copy → List Copy) : (a.mapCopies f).seals = a.seals := by cases a; rfl

theorem unsealRuns_seals (s : State) (c : CtxId) (runs : List (Nat × Nat))
    (hc : (s.seals.any fun (e : SealEntry) => runs.any fun r => e.meets c r) = true)
    (h0 : ∀ p, (s.core p).copies = []) :
    (s.unsealRuns c runs).seals = runs.foldl (fun (l : List SealEntry) (r : Nat × Nat) => l.flatMap fun (e : SealEntry) => e.cut c r) s.seals := by
  unfold State.unsealRuns
  rw [if_pos hc]
  refine (mapCopies_seals _ _).trans ?_
  generalize allCores = l
  exact fold_seals l { s with seals := runs.foldl (fun (l : List SealEntry) (r : Nat × Nat) => l.flatMap fun (e : SealEntry) => e.cut c r) s.seals }
    (fun p a => List.foldl (fun (b : State) x => b.writeBack p x) a (List.filter (fun x =>
      (decide (x.kind = CopyKind.untracked) && runs.any fun r => decide (r.1 ≤ x.sector * 32 ∧ x.sector * 32 < r.2)) &&
        decide (x.dirty ≠ [])) (a.core p).copies)) h0 (fun p b hb => by simp [hb p])

theorem seals_of (s : State) (k : Core) (c : CtxId) (runs : List (Nat × Nat)) (h : s.cores = State.reset.cores.set 0 k)
    (hk : k.copies = []) (hc : (s.seals.any fun (e : SealEntry) => runs.any fun r => e.meets c r) = true) (P : List SealEntry → Prop)
    (hp : P (runs.foldl (fun (l : List SealEntry) (r : Nat × Nat) => l.flatMap fun (e : SealEntry) => e.cut c r) s.seals)) :
    P (s.unsealRuns c runs).seals :=
  (congrArg P (unsealRuns_seals s c runs hc (copies_none s k h hk))).mpr hp

theorem hottest_of (s : State) (k : Core) (x : Int) (h : s.cores = State.reset.cores.set 0 k)
    (hk : k.thermal.temp = some x) (hx : 0 ≤ x) : s.hottest = some (0, x) := by
  have h0 : (s.core 0).thermal.temp = some x := by
    show (s.cores[(0 : CoreId)]).thermal.temp = _
    simp only [h]
    exact hk
  have hr : ∀ p : CoreId, p ≠ 0 → (s.core p).thermal.temp = some 0 := by
    intro p hp
    have : ¬ (0 : Nat) = p.val := fun e => hp (Fin.ext e.symm)
    show (s.cores[p]).thermal.temp = _
    simp only [h, Fin.getElem_fin, Vector.getElem_set, this, if_false, State.reset, Vector.getElem_replicate]
    decide
  have keep : ∀ l : List CoreId, (∀ p ∈ l, p ≠ 0) → l.foldl (fun (best : Option (CoreId × Int)) p =>
      match (s.core p).thermal.temp, best with
      | none, b => b
      | some t, none => some (p, t)
      | some t, some (q, u) => if u < t then some (p, t) else some (q, u)) (some (0, x)) = some (0, x) := by
    intro l
    induction l with
    | nil => intro _; rfl
    | cons p l ih =>
      intro hl
      simp only [List.foldl_cons, hr p (hl p (by simp)), if_neg (Int.not_lt.mpr hx)]
      exact ih fun q hq => hl q (by simp [hq])
  unfold State.hottest allCores
  rw [List.finRange_succ, List.foldl_cons, h0]
  refine keep _ fun p hp => ?_
  obtain ⟨q, -, rfl⟩ := List.mem_map.mp hp
  exact Fin.succ_ne_zero q

theorem nodeWord_same (s : State) (a : Nat) (k : Acc)
    (h : (s.mine.tlb.find? fun (e : TlbEntry) => decide (e.bank = none ∧ e.ctx = s.myCtx ∧ e.base ≤ (word a).toNat ∧
      (word a).toNat < e.base + e.size)).isSome = true) : (s.nodeWord a k).2 = s := by
  obtain ⟨e, he⟩ := Option.isSome_iff_exists.mp h
  have hl : ∀ root, (s.lookup s.cur s.myCtx root (word a)).2 = s := by
    intro root
    unfold State.lookup
    split
    · rfl
    · simp only [State.mine] at he
      rw [he]
  have hp : ∀ r v n, (s.place s.cur s.myCtx r v (word a) n k).2 = s := by
    intro r v n
    have := hl (s.core s.cur).ptroot
    unfold State.place
    revert this
    split
    · rename_i h1
      intro h2
      rw [h1] at h2
      exact h2
    · rename_i h1
      intro h2
      rw [h1] at h2
      dsimp only
      split_ifs <;> exact h2
  have := hp s.isRuntime false 8
  unfold State.nodeWord
  simp only
  split_ifs
  · rfl
  · revert this
    split
    · rename_i h1
      intro h2
      rw [h1] at h2
      exact h2
    · rename_i h1
      intro h2
      rw [h1] at h2
      exact h2

theorem nodes_of (s : State) (h : ∀ a ∈ wNodes 17, a % 32 = 0 ∧ ∀ j < 4, onDevice a = true ∧
      (s.nodeWord (a + 8 * j) .peek).1 = .ok ⟨a + 8 * j, false, 32⟩ ∧
      (s.nodeWord (a + 8 * j) .change).1 = .ok ⟨a + 8 * j, false, 32⟩ ∧
      (s.mine.tlb.find? fun (e : TlbEntry) => decide (e.bank = none ∧ e.ctx = s.myCtx ∧ e.base ≤ (word (a + 8 * j)).toNat ∧
        (word (a + 8 * j)).toNat < e.base + e.size)).isSome = true) :
    ∀ a ∈ wNodes 17, a % 32 = 0 ∧ ∀ j < 4, onDevice (id a) = true ∧ id (a + 8 * j) = id a + 8 * j ∧
      s.nodeWord (a + 8 * j) .peek = (.ok ⟨id a + 8 * j, false, 32⟩, s) ∧
      s.nodeWord (a + 8 * j) .change = (.ok ⟨id a + 8 * j, false, 32⟩, s) := by
  intro a ha
  refine ⟨(h a ha).1, fun j hj => ?_⟩
  obtain ⟨h1, h2, h3, h4⟩ := (h a ha).2 j hj
  exact ⟨h1, rfl, Prod.ext h2 (nodeWord_same _ _ _ h4), Prod.ext h3 (nodeWord_same _ _ _ h4)⟩

theorem cores_of (s : State) (k : Core) (h : s.cores = State.reset.cores.set 0 k) (P : Core → Prop) (hk : P k)
    (hr : P Core.reset) (p : CoreId) : P (s.core p) := by
  show P (s.cores[p])
  simp only [h, Fin.getElem_fin, Vector.getElem_set]
  split
  · exact hk
  · simpa only [State.reset, Vector.getElem_replicate] using hr

theorem xredTurn_of (s : State) (k : Core) (h : s.cores = State.reset.cores.set 0 k) (g : Fin 16) (p : CoreId) (t : StrandId)
    (e : QEntry) (hg : (s.chains[g]).serving.isNone = true)
    (hk : ∀ u : StrandId, (k.strands[u]).replay = [] ∧
      ((xredTickets (k.strands[u]).queue g).all fun n => decide (e.ticket ≤ n)) = true)
    (hs : (s.ctxs.all fun (k : Ctx) => k.saved.all fun (x : Nat × Kept) => x.2.strands.all fun (st : Strand) =>
      (xredTickets (st.queue ++ st.replay) g).all fun n => decide (e.ticket ≤ n)) = true) : s.xredTurn g p t e = true := by
  have hr := cores_of s k h (fun k => ∀ u : StrandId, (k.strands[u]).replay = [] ∧
      ((xredTickets (k.strands[u]).queue g).all fun n => decide (e.ticket ≤ n)) = true) hk
    (fun u => by simp [Core.reset, Strand.reset, xredTickets])
  unfold State.xredTurn
  simp only [Bool.and_eq_true]
  refine ⟨⟨hg, List.all_eq_true.mpr fun q _ => List.all_eq_true.mpr fun u _ => ?_⟩, hs⟩
  obtain ⟨h1, h2⟩ := hr q u
  rw [show (s.strand q u).replay = [] from h1, List.append_nil, ite_self]
  exact h2

theorem probed_of {α β γ : Type} {x : α × β × γ} {a : α} {b : β} (h1 : x.1 = a) (h2 : x.2.1 = b) : x = (a, b, x.2.2) :=
  h1 ▸ h2 ▸ rfl

theorem parkedVldsb_of {s : State} {p : CoreId} {u : StrandId} (h : (s.strand p u).queue = []) (b : StreamBuf) :
    s.parkedVldsb p u b = none := by
  unfold State.parkedVldsb
  simp only [h]

theorem pWait_of (s : State) (k : Ctx) (h : s.ctxs = State.reset.ctxs.set 0 k) (hk : k.pWait = none) :
    ∀ c, (s.ctx c).pWait = none := by
  intro c
  show (s.ctxs[c]).pWait = none
  simp only [h, Fin.getElem_fin, Vector.getElem_set]
  split
  · exact hk
  · simp [State.reset, Ctx.reset]

/-! ## Decoding: words written out from the encodings of the opcode table -/

theorem test_word_0x01_0 :
    decode 0x06aa9800 = .ok (.add 21 10 19) ∧
    decode 0x06aa9801 = .ok (.sub 21 10 19) ∧
    decode 0x06aa9802 = .ok (.and 21 10 19) ∧
    decode 0x06aa9803 = .ok (.or 21 10 19) ∧
    decode 0x06aa9804 = .ok (.xor 21 10 19) ∧
    decode 0x06aa9805 = .ok (.andn 21 10 19) ∧
    decode 0x06aa9806 = .ok (.sll 21 10 19) ∧
    decode 0x06aa9807 = .ok (.srl 21 10 19) ∧
    decode 0x06aa9808 = .ok (.sra 21 10 19) ∧
    decode 0x06aa9809 = .ok (.rol 21 10 19) ∧
    decode 0x06aa980a = .ok (.slt 21 10 19) ∧
    decode 0x06aa980b = .ok (.sltu 21 10 19) := by
  decide

theorem test_word_0x01_1 :
    decode 0x06aa980c = .ok (.min 21 10 19) ∧
    decode 0x06aa980d = .ok (.max 21 10 19) ∧
    decode 0x06aa980e = .ok (.minu 21 10 19) ∧
    decode 0x06aa980f = .ok (.maxu 21 10 19) ∧
    decode 0x06aa0010 = .ok (.clz 21 10) ∧
    decode 0x06aa0011 = .ok (.ctz 21 10) ∧
    decode 0x06aa0012 = .ok (.popc 21 10) ∧
    decode 0x06aa0813 = .ok (.sext .h 21 10) ∧
    decode 0x06aa0814 = .ok (.zext .h 21 10) := by
  decide

theorem test_word_0x02 :
    decode 0x0aaaad68 = .ok (.addi 21 10 44392) := by
  decide

theorem test_word_0x03 :
    decode 0x0eaaad68 = .ok (.andi 21 10 44392) := by
  decide

theorem test_word_0x04 :
    decode 0x12aaad68 = .ok (.ori 21 10 44392) := by
  decide

theorem test_word_0x05 :
    decode 0x16aaad68 = .ok (.xori 21 10 44392) := by
  decide

theorem test_word_0x06 :
    decode 0x1aaaad68 = .ok (.slti 21 10 44392) := by
  decide

theorem test_word_0x07 :
    decode 0x1eaaad68 = .ok (.sltiu 21 10 44392) := by
  decide

theorem test_word_0x08 :
    decode 0x22aa002b = .ok (.slli 21 10 43) ∧
    decode 0x22aa402b = .ok (.srli 21 10 43) ∧
    decode 0x22aa802b = .ok (.srai 21 10 43) ∧
    decode 0x22aac02b = .ok (.roli 21 10 43) := by
  decide

theorem test_word_0x09 :
    decode 0x26a0ad68 = .ok (.lui 21 44392) := by
  decide

theorem test_word_0x0a :
    decode 0x2aaa9800 = .ok (.mul 21 10 19) ∧
    decode 0x2aaa9801 = .ok (.mulh 21 10 19) ∧
    decode 0x2aaa9802 = .ok (.mulhu 21 10 19) ∧
    decode 0x2aaa9803 = .ok (.div 21 10 19) ∧
    decode 0x2aaa9804 = .ok (.divu 21 10 19) ∧
    decode 0x2aaa9805 = .ok (.rem 21 10 19) ∧
    decode 0x2aaa9806 = .ok (.remu 21 10 19) := by
  decide

theorem test_word_0x0b :
    decode 0x2d53ad68 = .ok (.beq 10 19 44392) := by
  decide

theorem test_word_0x0c :
    decode 0x3153ad68 = .ok (.bne 10 19 44392) := by
  decide

theorem test_word_0x0d :
    decode 0x3553ad68 = .ok (.blt 10 19 44392) := by
  decide

theorem test_word_0x0e :
    decode 0x3953ad68 = .ok (.bge 10 19 44392) := by
  decide

theorem test_word_0x0f :
    decode 0x3d53ad68 = .ok (.bltu 10 19 44392) := by
  decide

theorem test_word_0x10 :
    decode 0x4153ad68 = .ok (.bgeu 10 19 44392) := by
  decide

theorem test_word_0x11 :
    decode 0x46b5a3c7 = .ok (.jal 45458375) := by
  decide

theorem test_word_0x12 :
    decode 0x4aaaad68 = .ok (.jalr 21 10 44392) := by
  decide

theorem test_word_0x13 :
    decode 0x4eaa256b = .ok (.ld ⟨21, 10, .o, true, .b, 1387⟩) := by
  decide

theorem test_word_0x14 :
    decode 0x526a6d6b = .ok (.st ⟨19, 10, .w, true, .h, 1387⟩) := by
  decide

theorem test_word_0x15 :
    decode 0x56aa9870 = .ok (.aadd ⟨21, 10, 19, .w, true, true, .dev⟩) ∧
    decode 0x56aa99f8 = .ok (.aand ⟨21, 10, 19, .d, true, true, .dom⟩) ∧
    decode 0x56aa9a60 = .ok (.aor ⟨21, 10, 19, .w, true, true, .strand⟩) ∧
    decode 0x56aa9be8 = .ok (.axor ⟨21, 10, 19, .d, true, true, .core⟩) ∧
    decode 0x56aa9c70 = .ok (.amin ⟨21, 10, 19, .w, true, true, .dev⟩) ∧
    decode 0x56aa9df8 = .ok (.amax ⟨21, 10, 19, .d, true, true, .dom⟩) ∧
    decode 0x56aa9e60 = .ok (.aswap ⟨21, 10, 19, .w, true, true, .strand⟩) ∧
    decode 0x56aa9fe8 = .ok (.acas ⟨21, 10, 19, .d, true, true, .core⟩) := by
  decide

theorem test_word_0x16 :
    decode 0x5aaa1d6b = .ok (.ldfK 21 10 1387) ∧
    decode 0x5aaa3d6b = .ok (.ldfT 21 10 1387) ∧
    decode 0x5a6a5d6b = .ok (.stf 19 10 1387) ∧
    decode 0x5a6a7d6b = .ok (.stfW 19 10 1387) ∧
    decode 0x580a9d6b = .ok (.sete 10 1387) ∧
    decode 0x5aaabd6b = .ok (.probef 21 10 1387) := by
  decide

theorem test_word_0x17 :
    decode 0x5c000000 = .ok (.fence .strand) ∧
    decode 0x5c000040 = .ok .vsync ∧
    decode 0x5c0a9880 = .ok (.cflush 10 19) ∧
    decode 0x5c0a98c0 = .ok (.cinv 10 19) ∧
    decode 0x5c0a9900 = .ok (.seal 10 19) ∧
    decode 0x5c0a9940 = .ok (.unseal 10 19) := by
  decide

theorem test_word_0x18 :
    decode 0x62a0010c = .ok (.csrr 21 268) ∧
    decode 0x600a410c = .ok (.csrw 10 268) ∧
    decode 0x600a810c = .ok (.csrs 10 268) ∧
    decode 0x600ac10c = .ok (.csrc 10 268) := by
  decide

theorem test_word_0x19 :
    decode 0x640a0000 = .ok (.trap 10) ∧
    decode 0x64000001 = .ok .tret ∧
    decode 0x64000002 = .ok .brk ∧
    decode 0x64000003 = .ok .wfe ∧
    decode 0x64000004 = .ok .haltc ∧
    decode 0x640a1005 = .ok (.fmtset 2 10) ∧
    decode 0x640a0006 = .ok (.ovtset 10) ∧
    decode 0x640a0007 = .ok (.rndset 10) ∧
    decode 0x640a9808 = .ok (.send 10 19) ∧
    decode 0x640a0009 = .ok (.rserve 10) := by
  decide

theorem test_word_0x1a :
    decode 0x68000000 = .ok .next ∧
    decode 0x6aa00001 = .ok (.nalloc 21) ∧
    decode 0x680a0002 = .ok (.nfree 10) ∧
    decode 0x6aaa0003 = .ok (.ntake 21 10) ∧
    decode 0x680a9804 = .ok (.nlink 10 19) ∧
    decode 0x680a9805 = .ok (.npush 10 19) ∧
    decode 0x6aaa0006 = .ok (.nhdr 21 10) ∧
    decode 0x680a9807 = .ok (.nseth 10 19) ∧
    decode 0x680a0008 = .ok (.nfwd 10) ∧
    decode 0x68000009 = .ok .ndone ∧
    decode 0x6800000a = .ok .yield ∧
    decode 0x680a000b = .ok (.resume 10) := by
  decide

theorem test_word_0x1b :
    decode 0x6c0a0000 = .ok (.cpy 10) ∧
    decode 0x6c0a0001 = .ok (.cpy2d 10) ∧
    decode 0x6eaa0002 = .ok (.cpyw 21 10) ∧
    decode 0x6c0a9803 = .ok (.sbinit 10 19) ∧
    decode 0x6c0a0004 = .ok (.sbwait 10) ∧
    decode 0x6c0a9805 = .ok (.sbadv 10 19) ∧
    decode 0x6eaa0006 = .ok (.snap 21 10) := by
  decide

theorem test_word_0x1c :
    decode 0x72aa0000 = .ok (.publish 21 10) ∧
    decode 0x72aa0001 = .ok (.objfree 21 10) := by
  decide

theorem test_word_0x20 :
    decode 0x82aa0000 = .ok (.setlen 21 10) ∧
    decode 0x800a0001 = .ok (.setvt 10) ∧
    decode 0x80000002 = .ok .lanerel ∧
    decode 0x8015ad03 = .ok (.setvti 44392) := by
  decide

theorem test_word_0x21_0 :
    decode 0x86aa9d40 = .ok (.vadd ⟨21, 10, 19, 5, .vx⟩) ∧
    decode 0x86aa9d41 = .ok (.vsub ⟨21, 10, 19, 5, .vx⟩) ∧
    decode 0x86aa9d42 = .ok (.vrsub ⟨21, 10, 19, 5, .vx⟩) ∧
    decode 0x86aa9d43 = .ok (.vmul ⟨21, 10, 19, 5, .vx⟩) ∧
    decode 0x86aa9d44 = .ok (.vmulh ⟨21, 10, 19, 5, .vx⟩) ∧
    decode 0x86aa9d45 = .ok (.vmac ⟨21, 10, 19, 5, .vx⟩) ∧
    decode 0x86aa9d46 = .ok (.vdiv ⟨21, 10, 19, 5, .vx⟩) ∧
    decode 0x86aa9d47 = .ok (.vrem ⟨21, 10, 19, 5, .vx⟩) ∧
    decode 0x86aa9d48 = .ok (.vmin ⟨21, 10, 19, 5, .vx⟩) ∧
    decode 0x86aa9d49 = .ok (.vmax ⟨21, 10, 19, 5, .vx⟩) ∧
    decode 0x86aa9d4a = .ok (.vsadd ⟨21, 10, 19, 5, .vx⟩) ∧
    decode 0x86aa9d4b = .ok (.vssub ⟨21, 10, 19, 5, .vx⟩) := by
  decide

theorem test_word_0x21_1 :
    decode 0x86aa9d4c = .ok (.vavg ⟨21, 10, 19, 5, .vx⟩) ∧
    decode 0x86aa050d = .ok (.vabs ⟨21, 10, 5⟩) ∧
    decode 0x86aa050e = .ok (.vneg ⟨21, 10, 5⟩) ∧
    decode 0x86aa050f = .ok (.vpopc ⟨21, 10, 5⟩) ∧
    decode 0x86aa0510 = .ok (.vclz ⟨21, 10, 5⟩) := by
  decide

theorem test_word_0x22 :
    decode 0x8aaa9d40 = .ok (.vand ⟨21, 10, 19, 5, .vx⟩) ∧
    decode 0x8aaa9d41 = .ok (.vor ⟨21, 10, 19, 5, .vx⟩) ∧
    decode 0x8aaa9d42 = .ok (.vxor ⟨21, 10, 19, 5, .vx⟩) ∧
    decode 0x8aaa0503 = .ok (.vnot ⟨21, 10, 5⟩) ∧
    decode 0x8aaa9d44 = .ok (.vsll ⟨21, 10, 19, 5, .vx⟩) ∧
    decode 0x8aaa9d45 = .ok (.vsrl ⟨21, 10, 19, 5, .vx⟩) ∧
    decode 0x8aaa9d46 = .ok (.vsra ⟨21, 10, 19, 5, .vx⟩) ∧
    decode 0x8aaa0507 = .ok (.vmv ⟨21, 10, 5⟩) ∧
    decode 0x8aaa9d48 = .ok (.vmerge ⟨21, 10, 19, 5, .vx⟩) ∧
    decode 0x8aa09d49 = .ok (.vsplat 21 19 5 .vx) := by
  decide

theorem test_word_0x23_0 :
    decode 0x8c6a9d40 = .ok (.vcmpeq ⟨3, 10, 19, 5, .vx⟩) ∧
    decode 0x8c6a9d41 = .ok (.vcmpne ⟨3, 10, 19, 5, .vx⟩) ∧
    decode 0x8c6a9d42 = .ok (.vcmplt ⟨3, 10, 19, 5, .vx⟩) ∧
    decode 0x8c6a9d43 = .ok (.vcmple ⟨3, 10, 19, 5, .vx⟩) ∧
    decode 0x8c6a9d44 = .ok (.vcmpgt ⟨3, 10, 19, 5, .vx⟩) ∧
    decode 0x8c6a9d45 = .ok (.vcmpge ⟨3, 10, 19, 5, .vx⟩) ∧
    decode 0x8c653010 = .ok (.mand 3 5 6) ∧
    decode 0x8c653011 = .ok (.mor 3 5 6) ∧
    decode 0x8c653012 = .ok (.mxor 3 5 6) ∧
    decode 0x8c650013 = .ok (.mnot 3 5) ∧
    decode 0x8ea50514 = .ok (.mpopc 21 5 5) ∧
    decode 0x8ea50515 = .ok (.mfirst 21 5 5) := by
  decide

theorem test_word_0x23_1 :
    decode 0x8c600016 = .ok (.mset 3) := by
  decide

theorem test_word_0x24 :
    decode 0x904a9d40 = .ok (.vmatch 2 10 19 5) ∧
    decode 0x92a29d41 = .ok (.vwrite 21 19 2 5) ∧
    decode 0x90620002 = .ok (.tgmovToMask 3 2) ∧
    decode 0x90450003 = .ok (.tgmovToTag 2 5) ∧
    decode 0x912a0004 = .ok (.ttload 9 10) ∧
    decode 0x92aa9d19 = .ok (.vtt ⟨21, 10, 19, 5, 9⟩) := by
  decide

theorem test_word_0x25_0 :
    decode 0x96aa9d68 = .ok (.vfadd ⟨21, 10, 19, 5, true, .rsr⟩) ∧
    decode 0x96aa9d49 = .ok (.vfsub ⟨21, 10, 19, 5, true, .rne⟩) ∧
    decode 0x96aa9d4a = .ok (.vfmul ⟨21, 10, 19, 5, true, .rne⟩) ∧
    decode 0x96aa9d53 = .ok (.vfma ⟨21, 10, 19, 5, true, .rtz⟩) ∧
    decode 0x96aa9d5c = .ok (.vfnma ⟨21, 10, 19, 5, true, .rdn⟩) ∧
    decode 0x96aa9d45 = .ok (.vfmin 21 10 19 5 true) ∧
    decode 0x96aa9d46 = .ok (.vfmax 21 10 19 5 true) ∧
    decode 0x96aa9d4f = .ok (.vfdiv ⟨21, 10, 19, 5, true, .rne⟩) ∧
    decode 0x96aa0588 = .ok (.vfsqrt ⟨21, 10, 5, .rne⟩) ∧
    decode 0x96aa0591 = .ok (.vfrsq ⟨21, 10, 5, .rtz⟩) ∧
    decode 0x96aa059a = .ok (.vfexp2 ⟨21, 10, 5, .rdn⟩) ∧
    decode 0x96aa05a3 = .ok (.vflog2 ⟨21, 10, 5, .rup⟩) := by
  decide

theorem test_word_0x25_1 :
    decode 0x96aa0584 = .ok (.vfabs ⟨21, 10, 5⟩) ∧
    decode 0x96aa0585 = .ok (.vfneg ⟨21, 10, 5⟩) ∧
    decode 0x96aa0586 = .ok (.vfclass ⟨21, 10, 5⟩) ∧
    decode 0x946a9dd7 = .ok (.vfcmp .lt 3 10 19 5 true) := by
  decide

theorem test_word_0x26 :
    decode 0x9aaa5d18 = .ok (.vcvt ⟨21, 10, 11, 5, .rdn⟩) ∧
    decode 0x9aaa5d21 = .ok (.vnarrow ⟨21, 10, 11, 5, .rup⟩) ∧
    decode 0x9aaa5d2a = .ok (.vwiden ⟨21, 10, 11, 5, .rsr⟩) ∧
    decode 0x9aaa9d0b = .ok (.vbscale ⟨21, 10, 19, 5, .rne⟩) ∧
    decode 0x9aaa5d0c = .ok (.vbquant ⟨21, 10, 11, 5, .rne⟩) ∧
    decode 0x9aaa5d15 = .ok (.vbdeq ⟨21, 10, 11, 5, .rtz⟩) := by
  decide

theorem test_word_0x27 :
    decode 0x9eaa0558 = .ok (.vredsum ⟨21, 10, 5, true, .rdn⟩) ∧
    decode 0x9eaa0d60 = .ok (.vredsumo ⟨21, 10, 5, true, .rup⟩) ∧
    decode 0x9eaa1540 = .ok (.vredmin 21 10 5 true) ∧
    decode 0x9eaa1d40 = .ok (.vredmax 21 10 5 true) ∧
    decode 0x9eaa2540 = .ok (.vredand 21 10 5 true) ∧
    decode 0x9eaa2d40 = .ok (.vredor 21 10 5 true) ∧
    decode 0x9eaa3540 = .ok (.vredxor 21 10 5 true) ∧
    decode 0x9eaa4520 = .ok (.vscansum ⟨21, 10, 5, .rup⟩) ∧
    decode 0x9eaa4d00 = .ok (.vscanmin ⟨21, 10, 5⟩) ∧
    decode 0x9eaa5500 = .ok (.vscanmax ⟨21, 10, 5⟩) := by
  decide

theorem test_word_0x28 :
    decode 0xa2aa9d40 = .ok (.vslideup ⟨21, 10, 19, 5, .vx⟩) ∧
    decode 0xa2aa9d41 = .ok (.vslidedn ⟨21, 10, 19, 5, .vx⟩) ∧
    decode 0xa2aa9d02 = .ok (.vgather 21 10 19 5) ∧
    decode 0xa2aa0503 = .ok (.vcompress ⟨21, 10, 5⟩) ∧
    decode 0xa2aa0504 = .ok (.vexpand ⟨21, 10, 5⟩) ∧
    decode 0xa2aa9d45 = .ok (.vbcast ⟨21, 10, 19, 5, .vx⟩) ∧
    decode 0xa2aa9d46 = .ok (.vextr ⟨21, 10, 19, 5, .vx⟩) ∧
    decode 0xa2aa9d47 = .ok (.vins ⟨21, 10, 19, 5, .vx⟩) ∧
    decode 0xa2aa9d08 = .ok (.vbshuf 21 10 19 5) := by
  decide

theorem test_word_0x29 :
    decode 0xa6b5aeb5 = .ok (.vidx 21 1387 693) := by
  decide

theorem test_word_0x2a :
    decode 0xaaaa0548 = .ok (.vld ⟨21, 10, 0, 5, .w, true⟩) ∧
    decode 0xaaaa9d98 = .ok (.vlds ⟨21, 10, 19, 5, .s, true⟩) ∧
    decode 0xaaaa9de8 = .ok (.vldx ⟨21, 10, 19, 5, .u, true⟩) ∧
    decode 0xaaaa9d38 = .ok (.vldt ⟨21, 10, 19, 5, .o, true⟩) ∧
    decode 0xaaaa0549 = .ok (.vldb ⟨21, 10, 0, 5, .w, true⟩) ∧
    decode 0xaaaa050a = .ok (.vldsb 21 10 5 true) := by
  decide

theorem test_word_0x2b :
    decode 0xaeaa05c8 = .ok (.vst ⟨21, 10, 0, 5, .u, true⟩) ∧
    decode 0xaeaa9d18 = .ok (.vsts ⟨21, 10, 19, 5, .o, true⟩) ∧
    decode 0xaeaa9d68 = .ok (.vstx ⟨21, 10, 19, 5, .w, true⟩) ∧
    decode 0xaeaa9db8 = .ok (.vstt ⟨21, 10, 19, 5, .s, true⟩) := by
  decide

theorem test_word_0x2c :
    decode 0xb2aa9df0 = .ok (.vamoadd ⟨21, 10, 19, 5, .dom, true, true⟩) ∧
    decode 0xb2aa9d31 = .ok (.vamomin ⟨21, 10, 19, 5, .strand, true, true⟩) ∧
    decode 0xb2aa9d72 = .ok (.vamomax ⟨21, 10, 19, 5, .core, true, true⟩) ∧
    decode 0xb2aa9db3 = .ok (.vamoand ⟨21, 10, 19, 5, .dev, true, true⟩) ∧
    decode 0xb2aa9df4 = .ok (.vamoor ⟨21, 10, 19, 5, .dom, true, true⟩) ∧
    decode 0xb2aa9d35 = .ok (.vamoxor ⟨21, 10, 19, 5, .strand, true, true⟩) ∧
    decode 0xb2aa9d76 = .ok (.vamoswap ⟨21, 10, 19, 5, .core, true, true⟩) ∧
    decode 0xb2aa9db7 = .ok (.vamocas ⟨21, 10, 19, 5, .dev, true, true⟩) := by
  decide

theorem test_word_0x2d :
    decode 0xb46a9d03 = .ok (.vwait .lt 3 10 19 5) ∧
    decode 0xb40a9d48 = .ok (.vsend 10 19 5) ∧
    decode 0xb6a09d51 = .ok (.xred .min 21 19 5) := by
  decide

theorem test_word_0x2e :
    decode 0xb80a9d40 = .ok (.bsload 10 19 5) ∧
    decode 0xb80a9d41 = .ok (.bsmovToUpper 10 19 5) ∧
    decode 0xbaa09d42 = .ok (.bsmovFromUpper 21 19 5) ∧
    decode 0xbaaa9d43 = .ok (.imma 21 10 19 5) := by
  decide

theorem test_word_0x2f :
    decode 0xbeaa7a20 = .ok (.tmma ⟨5, 10, 19, 26, .rne⟩) ∧
    decode 0xbeaa7a21 = .ok (.tmmao ⟨5, 10, 19, 26, .rne⟩) ∧
    decode 0xbe800002 = .ok (.taccz 5) ∧
    decode 0xbea80003 = .ok (.taccld 5 10) ∧
    decode 0xbea80004 = .ok (.taccst 5 10) := by
  decide

theorem test_word_0x3d :
    decode 0xf6b5a3c7 = .ok (.hint .h3d 45458375) := by
  decide


/-- VPF, in 0x3c, has the layout of VLD (R134). -/
theorem test_word_vpf : decode 0xf2aa0348 = .ok (.vpf ⟨21, 10, 0, 3, .w, true⟩) := by decide

/-- Words that the spec gives in its examples. -/
theorem test_word_examples :
    decode 0x28a63803 = .ok (.div 5 6 7) ∧
    decode 0x30a0fffd = .ok (.bne 5 0 0xfffd) ∧
    decode 0x60a00003 = .ok (.csrr 5 3) ∧
    decode 0x6006c003 = .ok (.csrc 6 3) ∧
    decode 0x640a0000 = .ok (.trap 10) ∧
    decode 0x64071005 = .ok (.fmtset 2 7) ∧
    decode 0x4ca61802 = .ok (.ld ⟨5, 6, .o, false, .d, 2⟩) ∧
    decode 0x50e2d7ff = .ok (.st ⟨7, 2, .u, false, .w, 0x7ff⟩) ∧
    decode 0x58ba1802 = .ok (.ldfK 5 26 2) ∧
    decode 0x59305800 = .ok (.stf 9 16 0) ∧
    decode 0x80000023 = .ok (.setvti 1) := by
  decide

theorem test_word_vector_examples :
    decode 0x84886000 = .ok (.vadd ⟨4, 8, 12, 0, .vv⟩) ∧
    decode 0x8488f880 = .ok (.vadd ⟨4, 8, 31, 0, .vi⟩) ∧
    decode 0xa4c017fe = .ok (.vidx 6 5 0x3fe) ∧
    decode 0x90283040 = .ok (.vmatch 1 8 6 0) ∧
    decode 0x90aa0004 = .ok (.ttload 5 10) ∧
    decode 0x9488620b = .ok (.vfma ⟨4, 8, 12, 2, false, .rne⟩) ∧
    decode 0x94883050 = .ok (.vfadd ⟨4, 8, 6, 0, true, .rtz⟩) ∧
    decode 0x94880088 = .ok (.vfsqrt ⟨4, 8, 0, .rne⟩) ∧
    decode 0x94686097 = .ok (.vfcmp .lt 3 8 12 0 false) ∧
    decode 0x98887008 = .ok (.vcvt ⟨4, 8, 14, 0, .rne⟩) ∧
    decode 0x9984b00d = .ok (.vbdeq ⟨12, 4, 22, 0, .rne⟩) ∧
    decode 0x9ca80140 = .ok (.vredsum ⟨5, 8, 1, true, .dflt⟩) ∧
    decode 0xa0880203 = .ok (.vcompress ⟨4, 8, 2⟩) ∧
    decode 0xbc000002 = .ok (.taccz 0) := by
  decide

/-- Unallocated words: the word of all zeros, unused major opcodes, an unused function code, a rounding code past RSR,
a CSR that R151 does not list and a source type past 26 (R133). -/
theorem test_word_unallocated :
    decode 0x00000000 = .error .unallocated ∧
    decode 0x74000000 = .error .unallocated ∧
    decode 0xfc000000 = .error .unallocated ∧
    decode 0x06aa9815 = .error .unallocated ∧
    decode 0x94883070 = .error .unallocated ∧
    decode 0x60a00006 = .error .unallocated ∧
    decode 0x9888d808 = .error .unallocated := by
  decide

/-- A TRET with a reserved bit set, and VFCMP.lt into m0 (R133). -/
theorem test_word_refused :
    decode 0x64000801 = .error .reservedSet ∧
    decode 0x94086097 = .error .m0Write := by
  decide

/-! ## Well-formedness refuses one ill-formed term for each of its checks -/

theorem test_wf_refuses_kind : wellFormed (.vmul ⟨4, 8, 12, 0, .vi⟩) = false := by decide
theorem test_wf_refuses_carry_bits : wellFormed (.vadd ⟨4, 8, 9, 0, .vc⟩) = false := by decide
theorem test_wf_refuses_m0_compare : wellFormed (.vcmpeq ⟨0, 8, 12, 0, .vv⟩) = false := by decide
theorem test_wf_refuses_m0_mask :
    wellFormed (.mand 0 1 2) = false ∧ wellFormed (.mor 0 1 2) = false ∧ wellFormed (.mxor 0 1 2) = false ∧
    wellFormed (.mnot 0 1) = false ∧ wellFormed (.mset 0) = false ∧ wellFormed (.tgmovToMask 0 1) = false ∧
    wellFormed (.vfcmp .lt 0 8 12 0 false) = false := by decide
theorem test_wf_refuses_source_type : wellFormed (.vcvt ⟨4, 8, 27, 0, .rne⟩) = false := by decide
theorem test_wf_refuses_doubleword : wellFormed (.sext .d 1 2) = false ∧ wellFormed (.zext .d 1 2) = false := by decide
theorem test_wf_refuses_csr : wellFormed (.csrr 1 6) = false ∧ wellFormed (.csrw 1 0x107) = false := by decide
theorem test_wf_refuses_register : wellFormed (.vld ⟨4, 10, 1, 0, .o, false⟩) = false := by decide
theorem test_wf_refuses_hint : wellFormed (.hint .h3c 0x2aa0348) = false := by decide
theorem test_wf_accepts : wellFormed (.vadd ⟨4, 8, 9, 0, .vv⟩) = true ∧ wellFormed (.hint .h3d 1) = true := by decide

/-! ## One step each, with values worked by hand or in the spec's own examples -/

/-- What holds of the next state. -/
def after (o : Host.Outcome State Fault Refusal) (f : State → Bool) : Bool :=
  match o with
  | .next t => f t
  | _ => false

/-- A state whose strand 0 has the given values in x1, x2 and so on. -/
def tState (l : List Word) : State := wState (wWith { wStrand with x := wRegs l }) wCtx wMem

/-- R143, R145: a sum wraps, and the corners of division. -/
theorem test_scalar_corners :
    after (exec (.add 3 1 2) (tState [0xffffffffffffffff, 2])) (fun t => t.reg 3 == 1 && t.me.pc == 0x30004) ∧
    after (exec (.div 3 1 2) (tState [5, 0])) (fun t => t.reg 3 == 0xffffffffffffffff) ∧
    after (exec (.div 3 1 2) (tState [0x8000000000000000, 0xffffffffffffffff]))
      (fun t => t.reg 3 == 0x8000000000000000) ∧
    after (exec (.rem 3 1 2) (tState [0xfffffffffffffff9, 2])) (fun t => t.reg 3 == 0xffffffffffffffff) ∧
    after (exec (.mulhu 3 1 2) (tState [0xffffffffffffffff, 2])) (fun t => t.reg 3 == 1) := by
  decide +kernel

/-- R146, R147: a branch three words back, JAL one word back, and JALR whose link register is its base. -/
theorem test_jumps :
    after (exec (.bne 1 0 0xfffd) (tState [1])) (fun t => t.me.pc == 0x2fff4) ∧
    after (exec (.jal 0x3ffffff) (tState [])) (fun t => t.me.pc == 0x2fffc && t.reg 1 == 0x30004) ∧
    after (exec (.jalr 1 1 4) (tState [0x40000])) (fun t => t.me.pc == 0x40004 && t.reg 1 == 0x30004) := by
  decide +kernel

/-- The example of R157: TRAP x10 at 0x10_0002_0a40 with x10 = 0x21, from task level. -/
theorem test_trap :
    after (exec (.trap 10) (wState (wWith { wStrand with
        pc := 0x1000020a40, priv := 0, x := wRegs [0, 0, 0, 0, 0, 0, 0, 0, 0, 0x21] }) wCtx wMem))
      (fun t => t.me.causeSw && t.me.cause == 0x21 && t.me.tval == 0x21 && t.me.tepc == 0x400008291 &&
        t.me.tact && t.me.ppriv == 0 && t.me.priv == 1 && t.me.pc == 0x24000) := by
  decide +kernel

/-- R289: a byte load sign-extends, and a halfword store leaves the bytes around it. -/
theorem test_memory :
    after (exec (.ld ⟨3, 1, .o, false, .b, 1⟩) (wState (wWith { wStrand with x := wRegs [0x60000] }) wCtx
      (wWords wMem 0x60000 [0x1122334455668877]))) (fun t => t.reg 3 == 0xffffffffffffff88) ∧
    after (exec (.st ⟨2, 1, .u, false, .h, 1⟩) (wState (wWith { wStrand with x := wRegs [0x60000, 0xabcdef] }) wCtx
      (wWords wMem 0x60000 [0x1122334455667788]))) (fun t => t.homeWord 0x60000 == 0x11223344cdef7788) := by
  decide +kernel

/-- FMT0 of the example of R53. -/
def tFmt0 (ovt : BitVec 16) : ETy := .fp (narrowFmt 0x283b9 ovt 0)

/-- The worked conversions of R65. -/
theorem test_conversions :
    let f : ETy := .fp (fp32 0x55)
    convert (.fp (bf16 0x55)) 0 0 f 0x40533333 = (0x4053, fInexact) ∧
    convert (tFmt0 0x55) 0 0 f 0x40533333 = (0x45, fInexact) ∧
    convert (tFmt0 0x55) 0 0 f 0xc0533333 = (0xc5, fInexact) ∧
    convert (tFmt0 0x55) 0 0 f 0x43e80000 = (0x7e, fInexact) ∧
    convert (tFmt0 0x55) 0 0 f 0x43eb0000 = (0x7e, fSat ||| fInexact) ∧
    convert (tFmt0 0x155) 0 0 f 0x43eb0000 = (0x7f, fSat ||| fInexact) ∧
    convert (tFmt0 0x55) 0 0 f 0x3a83126f = (1, fInexact) ∧
    convert (tFmt0 0x55) 1 0 f 0x3a83126f = (0, fInexact) ∧
    convert (.int true 8) 0 0 (.int true 32) 300 = (127, fSat) ∧
    convert (.int true 8) 0 0 (.int true 32) 0xffffff38 = (0x80, fSat) ∧
    convert (.int true 16) 0 0 f 0x7fc00000 = (0, fInvalid) := by
  decide +kernel

/-- The example of R60: 1 + 2^−9 + 2^−10 to BF16. -/
theorem test_stochastic :
    convert (.fp (bf16 0x55)) 4 0xa000 (.fp (fp32 0x55)) 0x3f806000 = (0x3f81, fInexact) ∧
    convert (.fp (bf16 0x55)) 4 0x9fff (.fp (fp32 0x55)) 0x3f806000 = (0x3f80, fInexact) := by
  decide +kernel

/-- Lanes of array 0 with the given values of w rows in a register. -/
def tLanes (r w : Nat) (l : List Nat) (m : BitVec 8) : List Lane :=
  l.map fun x => ({ Lane.zero with masks := m } : Lane).withRows (32 * r) w x

/-- An environment over lanes of array 0. -/
def tEnv (vtype : BitVec 16) (x1 : Word) (l : List Lane) : VEnv where
  core := { Core.reset with lanes := (List.range l.length).zip l }
  part := [0]
  vlen := l.length
  cfg := ⟨vtype, Vector.replicate 4 0, 0x55, l.length, x1, 0⟩
  seed := 0
  vicount := 0
  level1 := false
  slots := Vector.replicate 16 []
  acc := []

/-- A register of every lane after an instruction. -/
def tOut (v : VEnv) (o : VOut) (r : Nat) : List Nat :=
  (List.range v.vlen).map fun i => ({ v with core := o.core } : VEnv).elem r i

/-- The example of R214: VDIV and VREM under INT8. -/
theorem test_vdiv :
    intDiv true 8 0xf9 2 = 0xfd ∧ intRem true 8 0xf9 2 = 0xff ∧ intDiv true 8 0xf9 0 = 0xff ∧
    intRem true 8 0xf9 0 = 0xf9 := by
  decide

/-- The example of R243: INT8 VSCANSUM with lanes 0, 2, 3 and 5 active. -/
theorem test_scan :
    let v := tEnv 0x0002 0 ((tLanes 8 8 [3, 0xff, 4, 1, 0xfb, 9] 1).zipWith (fun (l : Lane) m => { l with masks := m })
      [2, 0, 2, 2, 0, 2])
    tOut v (runVscansum v ⟨4, 8, 1, .dflt⟩) 4 = [3, 0, 7, 8, 0, 17] := by
  decide +kernel

/-- The example of R247: INT8 VCOMPRESS with lanes 1, 4, 5 and 7 active. -/
theorem test_compress :
    let v := tEnv 0x0002 0 ((tLanes 8 8 [10, 11, 12, 13, 14, 15, 16, 17] 1).zipWith
      (fun (l : Lane) m => { l with masks := m }) [0, 4, 0, 0, 4, 4, 0, 4])
    tOut v (runVcompress v ⟨4, 8, 2⟩) 4 = [11, 14, 15, 17, 0, 0, 0, 0] := by
  decide +kernel

/-- The example of R69: the tree and the ordered sum of 2^−24, 1.0, 2^−24, 2^−24. -/
theorem test_sums :
    let v := tEnv 0x0014 0 (tLanes 8 32 [0x33800000, 0x3f800000, 0x33800000, 0x33800000] 1)
    (runVredsum v ⟨5, 8, 0, true, .dflt⟩).result = some 0x3f800001 ∧
    (runVredsumo v ⟨5, 8, 0, true, .dflt⟩).result = some 0x3f800000 := by
  decide +kernel

/-- The example of R236 to R238: VBQUANT of 3.3, 10.0, −7.9 and 0.01, and VBDEQ of what it gives. -/
theorem test_block_scale :
    let v := tEnv 0x002a 0 (tLanes 8 32 [0x40533333, 0x41200000, 0xc0fccccd, 0x3c23d70a] 1)
    let o := runVbquant v ⟨4, 8, 14, 0, .rne⟩
    let u : VEnv := { v with core := o.core, cfg := { v.cfg with vtype := 0x0014 } }
    (tOut v o 4).map (· % 256) = [0x1a, 0x50, 0xc1, 0] ∧ (o.core.lane [0] 0).rows (32 * 4 + 24) 8 = 0x7c ∧
    o.flags = fInexact ∧
    tOut u (runVbdeq u ⟨12, 4, 22, 0, .rne⟩) 12 = [0x40500000, 0x41200000, 0xc0fc0000, 0] := by
  decide +kernel

/-- The example of R255: IMMA with INT4 products of two output rows. -/
theorem test_imma :
    let v := tEnv 0x0001 0x01010000 ((tLanes 8 4 [3, 15, 0, 5] 1).zipWith
      (fun (l : Lane) b => (l.withUpper 0 4 (b % 16)).withUpper 4 4 (b / 16)) [0xd2, 0x71, 0, 0])
    let o := runImma v 4 8 0
    (List.range 2).map (fun i => ((o.core.lane [0] i).rows (32 * 4) 48, (o.core.lane [0] i).rows (32 * 6) 48)) =
      [(0x000000000009, 0xfffffffffff1), (0xfffffffffffc, 0x000000000023)] := by
  decide +kernel

/-- The example of R262: TMMA and TMMAO of one row by one column. -/
theorem test_tile :
    let v := tEnv 0x0014 0 ((tLanes 4 32 [0x3f800000, 0x33800000, 0x33800000, 0x33800000] 1).map
      fun (l : Lane) => l.withRows (32 * 6) 32 0x3f800000)
    mapGet 0 (runTmma v ⟨0, 4, 6, 0, .dflt⟩).acc (accKey 0 0) = 0x3f800001 ∧
    mapGet 0 (runTmmao v ⟨0, 4, 6, 0, .dflt⟩).acc (accKey 0 0) = 0x3f800000 ∧
    (runTmma v ⟨0, 4, 6, 0, .dflt⟩).flags = fInexact := by
  decide +kernel

/-- After reset memory lists nothing, and no core serves a context. -/
theorem test_reset :
    State.reset.mem = [] ∧ (State.reset.core 0).serves = none ∧ (State.reset.strand 0 0).halted = true := by
  decide +kernel

/-! ## Witnesses: a state and operands that meet the hypotheses of each statement, clause by clause -/
theorem wit_DecodeEncodeRoundTrip :
    let i : Instr := .add 5 6 7
    let w : IWord := (encode (.add 5 6 7)).getD 0
    wellFormed i = true ∧ encode i = some w :=
  by decide +kernel

theorem wit_AcceptedWordIsItsEncoding :
    let w : IWord := 0x24a00100
    let i : Instr := .lui 5 0x0100
    decode w = .ok i :=
  by decide +kernel

/-- Core 0 with a word at 0x30000 in its instruction cache, and the turn at strand 0. -/
def wFetch (x : Nat) : Core := { wCore with icache := [(0x30000 / 64, x)] }

theorem wit_IllegalWordTakesItsTrap :
    let s : State := wState (wFetch 0) wCtx wMem
    decode 0 = .error .unallocated ∧ s.me.tact = false ∧ s.atHand = some 0 ∧ s.atHand ≠ some 1 :=
  by decide +kernel

theorem wit_StepRunsTheDecodedInstruction :
    let s : State := { wState (wFetch 0x24a00100) wCtx wMem with agenda := [.issue 0 0, .idle 3] }
    let p : CoreId := 0
    let t : StrandId := 0
    let rest : List Pick := [.idle 3]
    let i : Instr := .lui 5 0x0100
    let w : IWord := 0x24a00100
    let s1 : State := { s with agenda := rest, cycles := s.cycles + 1 }
    let pc := (s1.strand p t).pc
    s.agenda = .issue p t :: rest ∧ s1.turn p = some t ∧ s1.boundary p t = none ∧ s1.awake p t = true ∧
    s1.inCode p pc = true ∧ s1.nextWord p t = some (some w) ∧ decode w = .ok i ∧ s1.mayIssue p t w i = true ∧
    (s1.strand p t).spoiled i = none ∧ (s1.strand p t).dbgStep = false :=
  by decide +kernel

theorem wit_StepTrapsOnAnIllegalWord_word :
    let s : State := { wState (wFetch 0) wCtx wMem with agenda := [.issue 0 0, .idle 3] }
    let p : CoreId := 0
    let t : StrandId := 0
    let rest : List Pick := [.idle 3]
    let x : DecodeError := .unallocated
    let w : IWord := 0
    let s1 : State := { s with agenda := rest, cycles := s.cycles + 1 }
    let pc := (s1.strand p t).pc
    s.agenda = .issue p t :: rest ∧ s1.turn p = some t ∧ s1.boundary p t = none ∧ s1.awake p t = true ∧
    s1.inCode p pc = true ∧ (s1.strand p t).dbgStep = false ∧ (s1.strand p t).tact = false ∧
    s1.nextWord p t = some (some w) ∧ decode w = .error x :=
  by decide +kernel

theorem wit_StepTrapsOnAnIllegalWord_error :
    let s : State := { wState (wWith { wStrand with fetchBuf := some (0x30000 / 64, none) }) wCtx wMem with
      agenda := [.issue 0 0, .idle 3] }
    let p : CoreId := 0
    let t : StrandId := 0
    let rest : List Pick := [.idle 3]
    let s1 : State := { s with agenda := rest, cycles := s.cycles + 1 }
    let pc := (s1.strand p t).pc
    s.agenda = .issue p t :: rest ∧ s1.turn p = some t ∧ s1.boundary p t = none ∧ s1.awake p t = true ∧
    s1.inCode p pc = true ∧ (s1.strand p t).dbgStep = false ∧ (s1.strand p t).tact = false ∧
    s1.nextWord p t = some none :=
  by decide +kernel

theorem wit_StepTrapsOutsideTheCode_below :
    let s : State := { wState (wWith { wStrand with pc := 0x2fffc }) wCtx wMem with agenda := [.issue 0 0, .idle 3] }
    let p : CoreId := 0
    let t : StrandId := 0
    let rest : List Pick := [.idle 3]
    let s1 : State := { s with agenda := rest, cycles := s.cycles + 1 }
    let st := s1.strand p t
    s.agenda = .issue p t :: rest ∧ s1.turn p = some t ∧ s1.boundary p t = none ∧ s1.awake p t = true ∧
    (∀ c, (s1.core p).serves = some c → st.pc.toNat < (s1.ctx c).entry.arenaBase + 131072 ∨
      (s1.ctx c).entry.arenaBound ≤ st.pc.toNat) ∧ st.tact = false :=
  by decide +kernel

theorem wit_StepTrapsOutsideTheCode_above :
    let s : State := { wState (wWith { wStrand with pc := 0x50000 }) wCtx wMem with agenda := [.issue 0 0, .idle 3] }
    let p : CoreId := 0
    let t : StrandId := 0
    let rest : List Pick := [.idle 3]
    let s1 : State := { s with agenda := rest, cycles := s.cycles + 1 }
    let st := s1.strand p t
    s.agenda = .issue p t :: rest ∧ s1.turn p = some t ∧ s1.boundary p t = none ∧ s1.awake p t = true ∧
    (∀ c, (s1.core p).serves = some c → st.pc.toNat < (s1.ctx c).entry.arenaBase + 131072 ∨
      (s1.ctx c).entry.arenaBound ≤ st.pc.toNat) ∧ st.tact = false :=
  by decide +kernel

theorem wit_JumpsLinkAndGo_aligned :
    let s : State := wState (wWith { wStrand with x := wRegs [1, 2, 0x40000] }) wCtx wMem
    let r1 : BitVec 5 := 3
    let imm : BitVec 16 := 8
    let t := s.reg r1 + BitVec.ofInt 64 imm.toInt
    t.extractLsb' 0 2 = 0 :=
  by decide +kernel

theorem wit_JumpsLinkAndGo_misaligned :
    let s : State := wState (wWith { wStrand with x := wRegs [1, 2, 0x40000] }) wCtx wMem
    let r1 : BitVec 5 := 3
    let imm : BitVec 16 := 6
    let t := s.reg r1 + BitVec.ofInt 64 imm.toInt
    t.extractLsb' 0 2 ≠ 0 ∧ s.me.tact = false :=
  by decide +kernel

theorem wit_LoadReadsItsBytes_hbm :
    let s : State := wState (wWith { wStrand with
      x := wRegs [1, 2, 0x60000, 4, 0x80] }) wCtx (wMem.write 0x60000 (leBytes 8 0x8877665544332211))
    let a : MArgs := ⟨5, 3, .u, false, .w, 1⟩
    let s1 : State := (s.check (s.memAddr a) (Size.bytes a.size) .read).2
    let pl : Place := ⟨0x60004, false, 32⟩
    let n := Size.bytes a.size
    let va := s.memAddr a
    s.calm = true ∧ s.check va n .read = (.ok pl, s1) ∧ onDevice pl.pa = true ∧ s.isBad pl.pa n = false ∧
    (a.rx = false ∨ pl.dev = true ∨ feBase ≤ pl.pa) :=
  ⟨by decide +kernel, Prod.ext (by decide +kernel) rfl, by and_intros <;> decide +kernel⟩

theorem wit_LoadReadsItsBytes_spad :
    let s : State := wState (wWith { wStrand with
      x := wRegs [1, 2, 0x10000001000, 4, 0x80] }) wCtx (wMem.write 0x60000 (leBytes 8 0x8877665544332211))
    let a : MArgs := ⟨5, 3, .u, true, .h, 1⟩
    let s1 : State := (s.check (s.memAddr a) (Size.bytes a.size) .read).2
    let pl : Place := ⟨0x10000001002, false, 32⟩
    let n := Size.bytes a.size
    let va := s.memAddr a
    s.calm = true ∧ s.check va n .read = (.ok pl, s1) ∧ onDevice pl.pa = true ∧ s.isBad pl.pa n = false ∧
    (a.rx = false ∨ pl.dev = true ∨ feBase ≤ pl.pa) :=
  ⟨by decide +kernel, Prod.ext (by decide +kernel) rfl, by and_intros <;> decide +kernel⟩

theorem wit_LoadReadsItsBytes_relaxed :
    let s : State := wState (wWith { wStrand with
      x := wRegs [1, 2, 0x60000, 4, 0x80] }) wCtx (wMem.write 0x60000 (leBytes 8 0x8877665544332211))
    let a : MArgs := ⟨5, 3, .u, true, .d, 0⟩
    let s1 : State := (s.check (s.memAddr a) (Size.bytes a.size) .read).2
    let pl : Place := ⟨0x60000, false, 32⟩
    let n := Size.bytes a.size
    let va := s.memAddr a
    s.calm = true ∧ s.check va n .read = (.ok pl, s1) ∧ (pl.pa < feBase ∨ isExternal pl.pa = true) ∧ a.rx = true ∧
    pl.dev = false :=
  ⟨by decide +kernel, Prod.ext (by decide +kernel) rfl, by and_intros <;> decide +kernel⟩

theorem wit_LoadReadsItsBytes_fails :
    let s : State := wState (wWith { wStrand with x := wRegs [1, 2, 0x60001] }) wCtx wMem
    let a : MArgs := ⟨5, 3, .u, false, .w, 0⟩
    let s1 : State := (s.check (s.memAddr a) (Size.bytes a.size) .read).2
    let n := Size.bytes a.size
    let va := s.memAddr a
    s.calm = true ∧ s.me.tact = false ∧ s.check va n .read = (.error .align, s1) ∧ Cause.align ≠ .await :=
  ⟨by decide +kernel, by decide +kernel, Prod.ext (by decide +kernel) rfl, by decide⟩

theorem wit_LoadReadsItsBytes_await :
    let s : State := wState { wWith { wStrand with x := wRegs [1, 2, 0x60000] } with
      tlb := []
      ptroot := 0x4000000000000 } wCtx wMem
    let a : MArgs := ⟨5, 3, .u, false, .w, 0⟩
    let s1 : State := (s.check (s.memAddr a) (Size.bytes a.size) .read).2
    s.calm = true ∧ s.check (s.memAddr a) (Size.bytes a.size) .read = (.error .await, s1) :=
  ⟨by decide +kernel, Prod.ext (by decide +kernel) rfl⟩

theorem wit_LoadReadsItsBytes_bad :
    let s : State := { wState (wWith { wStrand with x := wRegs [1, 2, 0x60000, 4, 0x80] }) wCtx wMem with
      badWords := [0x60000 / 8] }
    let a : MArgs := ⟨5, 3, .o, false, .w, 1⟩
    let s1 : State := (s.check (s.memAddr a) (Size.bytes a.size) .read).2
    let pl : Place := ⟨0x60004, false, 32⟩
    let n := Size.bytes a.size
    let va := s.memAddr a
    s.calm = true ∧ s.check va n .read = (.ok pl, s1) ∧ onDevice pl.pa = true ∧ s.isBad pl.pa n = true ∧
    (a.rx = false ∨ pl.dev = true ∨ feBase ≤ pl.pa) ∧ s.me.tact = false :=
  ⟨by decide +kernel, Prod.ext (by decide +kernel) rfl, by and_intros <;> decide +kernel⟩

theorem wit_LoadReadsItsBytes_window :
    let s : State := wState { wWith { wStrand with x := wRegs [1, 2, 0x4000000000000] } with
      tlb := [⟨none, 0, 0x4000000000000, 2 ^ 32, 0x4000000000000, 128, false, true, true⟩] } wCtx wMem
    let a : MArgs := ⟨5, 3, .s, false, .w, 1⟩
    let s1 : State := (s.check (s.memAddr a) (Size.bytes a.size) .read).2
    let pl : Place := ⟨0x4000000000004, false, 128⟩
    let n := Size.bytes a.size
    let va := s.memAddr a
    s.calm = true ∧ s.check va n .read = (.ok pl, s1) ∧ isExternal pl.pa = true ∧ s.isBad pl.pa n = false ∧ (a.rx = false ∨ pl.dev = true) :=
  ⟨by decide +kernel, Prod.ext (by decide +kernel) rfl, by and_intros <;> decide +kernel⟩

theorem wit_LoadReadsItsBytes_mmio :
    let s : State := wState { wWith { wStrand with x := wRegs [1, 2, 0x20000020000, 4, 0x80] } with
      tlb := [⟨none, 0, 0x20000000000, 2 ^ 32, 0x20000000000, 32, true, true, true⟩] } wCtx wMem
    let a : MArgs := ⟨5, 3, .u, false, .d, 0⟩
    let s1 : State := (s.check (s.memAddr a) (Size.bytes a.size) .read).2
    let pl : Place := ⟨0x20000020000, true, 32⟩
    let n := Size.bytes a.size
    let va := s.memAddr a
    s.calm = true ∧ s.check va n .read = (.ok pl, s1) ∧ region pl.pa = .mmio 0x20000 :=
  ⟨by decide +kernel, Prod.ext (by decide +kernel) rfl, by decide +kernel⟩

theorem wit_StoreWritesItsBytes_hbm :
    let s : State := wState (wWith { wStrand with
      x := wRegs [1, 2, 0x60000, 4, 0x80] }) wCtx (wMem.write 0x60000 (leBytes 8 0x8877665544332211))
    let a : MArgs := ⟨5, 3, .s, false, .w, 1⟩
    let s1 : State := (s.check (s.memAddr a) (Size.bytes a.size) .write).2
    let pl : Place := ⟨0x60004, false, 32⟩
    let n := Size.bytes a.size
    let va := s.memAddr a
    s.calm = true ∧ s.memOk ∧ s.tlbOk ∧ s.check va n .write = (.ok pl, s1) ∧ onDevice pl.pa = true ∧
    (a.rx = false ∨ pl.dev = true ∨ feBase ≤ pl.pa) :=
  ⟨by decide +kernel, memOk_of _ _ rfl (by decide +kernel) (by decide +kernel), tlbOk_of _ _ rfl (by decide),
    Prod.ext (by decide +kernel) rfl, by decide +kernel, by decide +kernel⟩

theorem wit_StoreWritesItsBytes_spad :
    let s : State := wState (wWith { wStrand with
      x := wRegs [1, 2, 0x10000001000, 4, 0x80] }) wCtx (wMem.write 0x60000 (leBytes 8 0x8877665544332211))
    let a : MArgs := ⟨5, 3, .s, true, .h, 1⟩
    let s1 : State := (s.check (s.memAddr a) (Size.bytes a.size) .write).2
    let pl : Place := ⟨0x10000001002, false, 32⟩
    let n := Size.bytes a.size
    let va := s.memAddr a
    s.calm = true ∧ s.memOk ∧ s.tlbOk ∧ s.check va n .write = (.ok pl, s1) ∧ onDevice pl.pa = true ∧
    (a.rx = false ∨ pl.dev = true ∨ feBase ≤ pl.pa) :=
  ⟨by decide +kernel, memOk_of _ _ rfl (by decide +kernel) (by decide +kernel), tlbOk_of _ _ rfl (by decide),
    Prod.ext (by decide +kernel) rfl, by decide +kernel, by decide +kernel⟩

theorem wit_StoreWritesItsBytes_relaxed :
    let s : State := wState (wWith { wStrand with
      x := wRegs [1, 2, 0x60000, 4, 0x80] }) wCtx (wMem.write 0x60000 (leBytes 8 0x8877665544332211))
    let a : MArgs := ⟨5, 3, .u, true, .d, 0⟩
    let s1 : State := (s.check (s.memAddr a) (Size.bytes a.size) .write).2
    let pl : Place := ⟨0x60000, false, 32⟩
    let n := Size.bytes a.size
    let va := s.memAddr a
    s.calm = true ∧ s.memOk ∧ s.tlbOk ∧ s.check va n .write = (.ok pl, s1) ∧
    (pl.pa < feBase ∨ isExternal pl.pa = true) ∧ a.rx = true ∧ pl.dev = false :=
  ⟨by decide +kernel, memOk_of _ _ rfl (by decide +kernel) (by decide +kernel), tlbOk_of _ _ rfl (by decide),
    Prod.ext (by decide +kernel) rfl, by and_intros <;> decide +kernel⟩

theorem wit_StoreWritesItsBytes_mmio :
    let s : State := wState { wWith { wStrand with x := wRegs [1, 2, 0x20000020000, 4, 0x80] } with
      tlb := [⟨none, 0, 0x20000000000, 2 ^ 32, 0x20000000000, 32, true, true, true⟩] } wCtx wMem
    let a : MArgs := ⟨5, 3, .u, false, .d, 0⟩
    let s1 : State := (s.check (s.memAddr a) (Size.bytes a.size) .write).2
    let pl : Place := ⟨0x20000020000, true, 32⟩
    let n := Size.bytes a.size
    let va := s.memAddr a
    s.calm = true ∧ s.memOk ∧ s.tlbOk ∧ s.check va n .write = (.ok pl, s1) ∧ region pl.pa = .mmio 0x20000 ∧
    s1.mmioHeld 0x20000 = none :=
  ⟨by decide +kernel, memOk_of _ _ rfl (by decide +kernel) (by decide +kernel), tlbOk_of _ _ rfl (by decide),
    Prod.ext (by decide +kernel) rfl, by decide +kernel, by decide +kernel⟩

theorem wit_StoreWritesItsBytes_fails :
    let s : State := wState (wWith { wStrand with x := wRegs [1, 2, 0x60001] }) wCtx wMem
    let a : MArgs := ⟨5, 3, .u, false, .w, 0⟩
    let s1 : State := (s.check (s.memAddr a) (Size.bytes a.size) .write).2
    let n := Size.bytes a.size
    let va := s.memAddr a
    s.calm = true ∧ s.me.tact = false ∧ s.check va n .write = (.error .align, s1) ∧ Cause.align ≠ .await :=
  ⟨by decide +kernel, by decide +kernel, Prod.ext (by decide +kernel) rfl, by decide⟩

theorem wit_StoreWritesItsBytes_await :
    let s : State := wState { wWith { wStrand with x := wRegs [1, 2, 0x60000] } with
      tlb := []
      ptroot := 0x4000000000000 } wCtx wMem
    let a : MArgs := ⟨5, 3, .u, false, .w, 0⟩
    let s1 : State := (s.check (s.memAddr a) (Size.bytes a.size) .write).2
    s.calm = true ∧ s.check (s.memAddr a) (Size.bytes a.size) .write = (.error .await, s1) :=
  ⟨by decide +kernel, Prod.ext (by decide +kernel) rfl⟩

theorem wit_StoreWritesItsBytes_window :
    let s : State := wState { wWith { wStrand with x := wRegs [1, 2, 0x4000000000000] } with
      tlb := [⟨none, 0, 0x4000000000000, 2 ^ 32, 0x4000000000000, 128, false, true, true⟩] } wCtx wMem
    let a : MArgs := ⟨5, 3, .s, false, .w, 1⟩
    let s1 : State := (s.check (s.memAddr a) (Size.bytes a.size) .write).2
    let pl : Place := ⟨0x4000000000004, false, 128⟩
    let n := Size.bytes a.size
    let va := s.memAddr a
    s.calm = true ∧ s.memOk ∧ s.tlbOk ∧ s.check va n .write = (.ok pl, s1) ∧ isExternal pl.pa = true ∧
    (a.rx = false ∨ pl.dev = true) :=
  ⟨by decide +kernel, memOk_of _ _ rfl (by decide +kernel) (by decide +kernel), tlbOk_of _ _ rfl (by decide),
    Prod.ext (by decide +kernel) rfl, by decide +kernel, by decide +kernel⟩

theorem wit_ScalarAtomicsActOnce :
    let s : State := wState (wWith { wStrand with
      x := wRegs [1, 2, 0x60004, 0xfffffffff, 0x88776655] }) wCtx (wMem.write 0x60000 (leBytes 8 0x8877665544332211))
    let a : AArgs := ⟨5, 3, 4, .w, true, true, .dev⟩
    let s1 : State := (s.check (s.reg a.xs1) (ASize.bytes a.size) .atomic).2
    let pl : Place := ⟨0x60004, false, 32⟩
    let n := ASize.bytes a.size
    s.calm = true ∧ s.memOk ∧ s.check (s.reg a.xs1) n .atomic = (.ok pl, s1) ∧ onDevice pl.pa = true ∧
    s.isBad pl.pa n = false :=
  ⟨by decide +kernel, memOk_of _ _ rfl (by decide +kernel) (by decide +kernel), Prod.ext (by decide +kernel) rfl,
    by decide +kernel, by decide +kernel⟩

theorem wit_ScalarAtomicsActOnce_window :
    let s : State := wState { wWith { wStrand with x := wRegs [1, 2, 0x4000000000000] } with
      tlb := [⟨none, 0, 0x4000000000000, 2 ^ 32, 0x4000000000000, 128, false, true, true⟩] } wCtx wMem
    let a : AArgs := ⟨5, 3, 4, .w, true, true, .dev⟩
    let s1 : State := (s.check (s.reg a.xs1) (ASize.bytes a.size) .atomic).2
    let pl : Place := ⟨0x4000000000000, false, 128⟩
    let n := ASize.bytes a.size
    s.calm = true ∧ s.memOk ∧ s.check (s.reg a.xs1) n .atomic = (.ok pl, s1) ∧ isExternal pl.pa = true ∧
    s.me.tact = false ∧ region pl.pa = .host 0 :=
  ⟨by decide +kernel, memOk_of _ _ rfl (by decide +kernel) (by decide +kernel), Prod.ext (by decide +kernel) rfl,
    by and_intros <;> decide +kernel⟩

theorem wit_ScalarAtomicsActOnce_bad :
    let s : State := { wState (wWith { wStrand with x := wRegs [1, 2, 0x60004] }) wCtx wMem with
      badWords := [0x60000 / 8] }
    let a : AArgs := ⟨5, 3, 4, .w, true, true, .dev⟩
    let s1 : State := (s.check (s.reg a.xs1) (ASize.bytes a.size) .atomic).2
    let pl : Place := ⟨0x60004, false, 32⟩
    let n := ASize.bytes a.size
    s.calm = true ∧ s.memOk ∧ s.check (s.reg a.xs1) n .atomic = (.ok pl, s1) ∧ s.me.tact = false ∧
    onDevice pl.pa = true ∧ s.isBad pl.pa n = true :=
  ⟨by decide +kernel, memOk_of _ _ rfl (by decide +kernel) (by decide +kernel), Prod.ext (by decide +kernel) rfl,
    by and_intros <;> decide +kernel⟩

theorem wit_FullEmptyOperationsComplete_peek :
    let s : State := wState (wWith { wStrand with
      x := wRegs [1, 2, 0x5fff8] }) wCtx (wMem.write 0x60000 (leBytes 8 0x8877665544332211))
    let r1 : BitVec 5 := 3
    let imm : BitVec 11 := 1
    let s1 : State := (s.check (s.feAddr r1 imm) 8 .peek).2
    let pl : Place := ⟨0x60000, false, 32⟩
    let va := s.feAddr r1 imm
    s.calm = true ∧ s.memOk ∧ s.tlbOk ∧ s.waiters = [] ∧ onDevice pl.pa = true ∧ s.check va 8 .peek = (.ok pl, s1) ∧
    s.isFull pl.pa = true ∧ s.isBad pl.pa 8 = false :=
  ⟨by decide +kernel, memOk_of _ _ rfl (by decide +kernel) (by decide +kernel), tlbOk_of _ _ rfl (by decide),
    by decide +kernel, by decide +kernel, Prod.ext (by decide +kernel) rfl, by decide +kernel, by decide +kernel⟩

theorem wit_FullEmptyOperationsComplete_full :
    let s : State := wState (wWith { wStrand with
      x := wRegs [1, 2, 0x5fff8] }) wCtx (wMem.write 0x60000 (leBytes 8 0x8877665544332211))
    let r1 : BitVec 5 := 3
    let imm : BitVec 11 := 1
    let s1 : State := (s.check (s.feAddr r1 imm) 8 .change).2
    let pl : Place := ⟨0x60000, false, 32⟩
    let va := s.feAddr r1 imm
    s.calm = true ∧ s.memOk ∧ s.tlbOk ∧ s.waiters = [] ∧ onDevice pl.pa = true ∧
    s.check va 8 .change = (.ok pl, s1) ∧ s.isFull pl.pa = true ∧ s.isBad pl.pa 8 = false :=
  ⟨by decide +kernel, memOk_of _ _ rfl (by decide +kernel) (by decide +kernel), tlbOk_of _ _ rfl (by decide),
    by decide +kernel, by decide +kernel, Prod.ext (by decide +kernel) rfl, by decide +kernel, by decide +kernel⟩

theorem wit_FullEmptyOperationsComplete_empty :
    let s : State := ((wState (wWith { wStrand with
      x := wRegs [1, 2, 0x5fff8] }) wCtx (wMem.write 0x60000 (leBytes 8 0x8877665544332211))).setFull 0x60000 false)
    let r1 : BitVec 5 := 3
    let imm : BitVec 11 := 1
    let s1 : State := (s.check (s.feAddr r1 imm) 8 .change).2
    let pl : Place := ⟨0x60000, false, 32⟩
    let va := s.feAddr r1 imm
    s.calm = true ∧ s.memOk ∧ s.tlbOk ∧ s.waiters = [] ∧ onDevice pl.pa = true ∧
    s.check va 8 .change = (.ok pl, s1) ∧ s.isFull pl.pa = false :=
  ⟨by decide +kernel, memOk_of _ _ rfl (by decide +kernel) (by decide +kernel), tlbOk_of _ _ rfl (by decide),
    by decide +kernel, by decide +kernel, Prod.ext (by decide +kernel) rfl, by decide +kernel⟩

theorem wit_MisalignedAccessesTrap :
    let s : State := wState (wWith { wStrand with x := wRegs [1, 2, 0x60001] }) wCtx wMem
    let m : MArgs := ⟨5, 3, .u, false, .h, 0⟩
    let a : AArgs := ⟨5, 3, 4, .w, true, true, .dev⟩
    let r1 : BitVec 5 := 3
    let imm : BitVec 11 := 0
    s.me.tact = false ∧ (s.memAddr m).toNat % Size.bytes m.size ≠ 0 ∧ (s.reg a.xs1).toNat % ASize.bytes a.size ≠ 0 ∧
    (s.feAddr r1 imm).toNat % 8 ≠ 0 :=
  by decide +kernel

theorem wit_FencesWaitOnlyForEarlierAccesses_done :
    let s : State := wState (wWith { wStrand with queue := [wEntry 0] }) wCtx wMem
    s.me.queue ≠ [] ∧ s.me.relaxed = [] ∧ s.extRelaxed s.cur s.str = false ∧ s.me.relaxedFault = none ∧
    s.windowDirty s.cur = false ∧ s.mine.copyFault = none ∧ s.mine.copies = [] :=
  by decide +kernel

theorem wit_FencesWaitOnlyForEarlierAccesses_wide :
    let s : State := wState { wCore with
      copies := [⟨0x60000 / 32, .untracked, List.replicate 32 7, [3], false, 32, true, none, some 0, 0x60000, []⟩] } wCtx wMem
    s.me.relaxed = [] ∧ s.extRelaxed s.cur s.str = false ∧ s.me.relaxedFault = none ∧ s.windowDirty s.cur = false ∧
    s.mine.copyFault = none ∧ s.comb = [] ∧ s.badCopies = [] ∧ s.snap = none :=
  by decide +kernel

theorem wit_FencesWaitOnlyForEarlierAccesses_away :
    let s : State := { wState (wWith { wStrand with queue := [] }) wCtx wMem with
      ext := [⟨.scalar 0 0, 0x4000000000000, 0x4000000000000, .read 0x4000000000000 8, some (5, .d), true, none, none, []⟩] }
    s.me.queue = [] ∧ s.me.relaxed = [] ∧ s.extRelaxed s.cur s.str = true :=
  by decide +kernel

theorem wit_FencesWaitOnlyForEarlierAccesses_store :
    let a : RelaxedAcc := ⟨true, 5, 0x60004, 0x60004, .w, .u, false, 32, 0x80, 0x30000⟩
    let s : State := wState (wWith { wStrand with queue := [wEntry 0], relaxed := [a] }) wCtx wMem
    let alone := s.setMe { s.me with relaxed := [], queue := [] }
    s.me.relaxed = [a] ∧ a.isStore = true ∧ a.req = .u ∧ a.pa + a.length ≤ feBase ∧
    a.pa / 32 = (a.pa + a.length - 1) / 32 ∧ alone.calm = true ∧ s.memOk :=
  ⟨by decide +kernel, by decide +kernel, by decide +kernel, by decide +kernel, by decide +kernel, by decide +kernel,
    memOk_of _ _ rfl (by decide +kernel) (by decide +kernel)⟩

theorem wit_FencesWaitOnlyForEarlierAccesses_calm :
    let s : State := wState wCore wCtx wMem
    s.calm = true :=
  by decide +kernel

theorem wit_FencesWaitOnlyForEarlierAccesses_queued :
    let s : State := wState (wWith { wStrand with queue := [wEntry 0] }) wCtx wMem
    s.me.queue ≠ [] ∧ s.me.vfault = none :=
  by decide +kernel

theorem wit_CacheOperationsCleanTheirGrains_empty :
    let s : State := wState { wWith { wStrand with x := wRegs [1, 2, 0x60000, 0] } with
      copies := [⟨0x60000 / 32, .untracked, List.replicate 32 7, [3], false, 32, true, none, some 0, 0x60000, []⟩] } wCtx wMem
    let r2 : BitVec 5 := 4
    let len := (s.reg r2).toNat
    len = 0 :=
  by decide +kernel

theorem wit_CacheOperationsCleanTheirGrains_page :
    let s : State := wState { wWith { wStrand with x := wRegs [1, 2, 0x60000, 0x1000] } with
      copies := [⟨0x60000 / 32, .untracked, List.replicate 32 7, [3], false, 32, true, none, some 0, 0x60000, []⟩] } wCtx (wMem.write 0x60000 (leBytes 8 0x8877665544332211))
    let r1 : BitVec 5 := 3
    let s1 : State := (s.lookup s.cur s.myCtx s.mine.ptroot (s.reg r1)).2
    let r2 : BitVec 5 := 4
    let e : TlbEntry := ⟨none, 0, 0, 2 ^ 32, 0, 32, false, true, true⟩
    let va := (s.reg r1).toNat
    let len := (s.reg r2).toNat
    let pa := e.frame + (va - e.base)
    len ≠ 0 ∧ va / 4096 = (va + len - 1) / 4096 ∧ s.lookup s.cur s.myCtx s.mine.ptroot (s.reg r1) = (.ok e, s1) ∧
    e.canRead = true ∧ e.dev = false ∧ pa < feBase ∧ s.tlbOk ∧ s.comb = [] ∧ s.badCopies = [] ∧ s.me.relaxed = [] ∧
    s.extRelaxed s.cur s.str = false ∧ (∀ x ∈ s.ext, x.who ≠ .copies s.cur) ∧ s.snap = none ∧
    (s.mine.copies.map (·.sector)).Nodup ∧ (∀ x ∈ s.mine.copies, ∀ d ∈ x.dirty, d < 32) ∧
    (∀ x ∈ s.mine.copies, x.sector ∈ s1.grainsOf pa len e.grain) ∧ s.memOk :=
  ⟨by decide +kernel, by decide +kernel, Prod.ext (by decide +kernel) rfl, by decide +kernel, by decide +kernel,
    by decide +kernel, tlbOk_of _ _ rfl (by decide), by decide +kernel, by decide +kernel, rfl, by decide +kernel, by decide +kernel,
    by decide +kernel, by decide +kernel, by decide +kernel, by decide +kernel,
    memOk_of _ _ rfl (by decide +kernel) (by decide +kernel)⟩

theorem wit_SealAndUnsealActOnTheirPages_empty :
    let s : State := wState (wWith { wStrand with x := wRegs [1, 2, 0x60000, 0] }) wCtx wMem
    let r2 : BitVec 5 := 4
    let len := (s.reg r2).toNat
    s.calm = true ∧ len = 0 ∧ s.seals.length ≤ 256 :=
  by and_intros <;> decide +kernel

theorem wit_SealAndUnsealActOnTheirPages_page :
    let s : State := { wState (wWith { wStrand with x := wRegs [1, 2, 0x60000, 0x1000] }) wCtx wMem with
      seals := [⟨0x60000, 0x61000, 0⟩, ⟨0x60000, 0x62000, 5⟩] }
    let r1 : BitVec 5 := 3
    let s1 : State := (s.lookup s.cur s.myCtx s.mine.ptroot (BitVec.ofNat 64 ((s.reg r1).toNat / 4096 * 4096))).2
    let r2 : BitVec 5 := 4
    let e : TlbEntry := ⟨none, 0, 0, 2 ^ 32, 0, 32, false, true, true⟩
    let x := (s.reg r1).toNat
    let len := (s.reg r2).toNat
    let page := x / 4096 * 4096
    let pa := e.frame + (page - e.base)
    s.calm = true ∧ len ≠ 0 ∧ x / 4096 = (x + len - 1) / 4096 ∧
    s.lookup s.cur s.myCtx s.mine.ptroot (BitVec.ofNat 64 page) = (.ok e, s1) ∧ e.canRead = true ∧
    pa + 4096 ≤ feBase ∧ s.seals.length < 256 ∧
    (s.unsealRuns s.myCtx [(pa, pa + 4096)]).seals.length ≤ 256 :=
  ⟨by decide +kernel, by decide +kernel, by decide +kernel, Prod.ext (by decide +kernel) rfl, by decide +kernel,
    by decide +kernel, by decide +kernel, seals_of _ _ _ _ rfl (by decide +kernel) (by decide +kernel) (fun l => l.length ≤ 256) (by decide +kernel)⟩

theorem wit_SealAndUnsealActOnTheirPages_full :
    let s : State := { wState (wWith { wStrand with x := wRegs [1, 2, 0x61000, 0x1000] }) wCtx wMem with
      seals := ⟨0x60000, 0x63000, 0⟩ :: List.replicate 255 ⟨0x80000, 0x81000, 5⟩ }
    let s1 : State := (s.lookup s.cur s.myCtx s.mine.ptroot 0x61000).2
    let e : TlbEntry := ⟨none, 0, 0, 2 ^ 32, 0, 32, false, true, true⟩
    s.calm = true ∧ s.lookup s.cur s.myCtx s.mine.ptroot 0x61000 = (.ok e, s1) ∧ s.me.tact = false ∧
    256 < (s.unsealRuns s.myCtx [(0x61000, 0x62000)]).seals.length :=
  ⟨by decide +kernel, Prod.ext (by decide +kernel) rfl, by decide +kernel,
    seals_of _ _ _ _ rfl (by decide +kernel) (by decide +kernel) (fun l => 256 < l.length) (by decide +kernel)⟩

theorem wit_CsrReadsGiveTheRegister_runtime :
    let s : State := wState wCore wCtx wMem
    let n : BitVec 12 := 0x10c
    csrListed n = true ∧ (s.isRuntime = true ∨ csrTaskReads n.toNat = true) ∧ s.me.queue = [] :=
  by decide +kernel

theorem wit_CsrReadsGiveTheRegister_task :
    let s : State := wState (wWith { wStrand with priv := 0 }) wCtx wMem
    let n : BitVec 12 := 0x000
    csrListed n = true ∧ (s.isRuntime = true ∨ csrTaskReads n.toNat = true) ∧ s.me.queue = [] :=
  by decide +kernel

theorem wit_CsrWritesSetClearAndStore_empty :
    let s : State := wState (wWith { wStrand with x := wRegs [1, 2, 0x60000] }) wCtx wMem
    s.isRuntime = true ∧ s.me.queue = [] :=
  by decide +kernel

theorem wit_CsrWritesSetClearAndStore_queued :
    let s : State := wState (wWith { wStrand with queue := [wEntry 0] }) wCtx wMem
    s.me.queue ≠ [] ∧ s.me.vfault = none :=
  by decide +kernel

theorem wit_TaskLevelMayNotRunPrivilegedForms_tret :
    let s : State := wState (wWith { wStrand with priv := 0 }) wCtx wMem
    let i : Instr := .tret
    let w : IWord := (encode .tret).getD 0
    let rd : BitVec 5 := 0
    let r1 : BitVec 5 := 3
    let n : BitVec 12 := 0
    s.me.priv = 0 ∧ s.me.tact = false ∧ encode i = some w ∧
    (i ∈ [Instr.tret, .haltc, .ovtset r1, .snap rd r1, .objfree rd r1] ∨ (csrTaskReads n.toNat = false ∧ i = .csrr rd n) ∨ (csrTaskWrites n.toNat = false ∧ i ∈ [Instr.csrw r1 n, .csrs r1 n, .csrc r1 n])) :=
  by decide +kernel

theorem wit_TaskLevelMayNotRunPrivilegedForms_csr :
    let s : State := wState (wWith { wStrand with priv := 0 }) wCtx wMem
    let i : Instr := .csrr 5 0x108
    let w : IWord := (encode (.csrr 5 0x108)).getD 0
    let rd : BitVec 5 := 5
    let r1 : BitVec 5 := 3
    let n : BitVec 12 := 0x108
    s.me.priv = 0 ∧ s.me.tact = false ∧ encode i = some w ∧
    (i ∈ [Instr.tret, .haltc, .ovtset r1, .snap rd r1, .objfree rd r1] ∨ (csrTaskReads n.toNat = false ∧ i = .csrr rd n) ∨ (csrTaskWrites n.toNat = false ∧ i ∈ [Instr.csrw r1 n, .csrs r1 n, .csrc r1 n])) :=
  by decide +kernel

theorem wit_TaskLevelMayNotRunPrivilegedForms_csw :
    let s : State := wState (wWith { wStrand with priv := 0 }) wCtx wMem
    let i : Instr := .csrs 3 0x108
    let w : IWord := (encode (.csrs 3 0x108)).getD 0
    let rd : BitVec 5 := 5
    let r1 : BitVec 5 := 3
    let n : BitVec 12 := 0x108
    s.me.priv = 0 ∧ s.me.tact = false ∧ encode i = some w ∧
    (i ∈ [Instr.tret, .haltc, .ovtset r1, .snap rd r1, .objfree rd r1] ∨ (csrTaskReads n.toNat = false ∧ i = .csrr rd n) ∨ (csrTaskWrites n.toNat = false ∧ i ∈ [Instr.csrw r1 n, .csrs r1 n, .csrc r1 n])) :=
  by decide +kernel

theorem wit_TrapAndBreakpointEnterTheHandler_taken :
    let s : State := wState (wWith { wStrand with x := wRegs [1, 2, 0x6abcd] }) wCtx wMem
    s.me.queue = [] ∧ s.me.tact = false ∧ s.mine.dbg.arm.getLsbD s.str.val = false :=
  by decide +kernel

theorem wit_TrapAndBreakpointEnterTheHandler_armed :
    let s : State := wState { wCore with dbg := ⟨1, 0, 0, 0, 0, false, 0⟩ } wCtx wMem
    s.calm = true ∧ s.me.muldiv = false ∧ s.mine.deliveries = [] ∧ s.mine.dbg.arm.getLsbD s.str.val = true :=
  by decide +kernel

theorem wit_TrapAndBreakpointEnterTheHandler_queued :
    let s : State := wState (wWith { wStrand with queue := [wEntry 0] }) wCtx wMem
    s.me.queue ≠ [] ∧ s.me.vfault = none :=
  by decide +kernel

theorem wit_TrapReturnRestoresTheLevel :
    let s : State := wState (wWith { wStrand with tact := true, ppriv := 3, tepc := 0x123 }) wCtx wMem
    s.isRuntime = true ∧ s.me.replay = [] ∧ s.me.counted = [] ∧ s.me.serving = none :=
  by decide +kernel

theorem wit_WaitForEventTestsTheLatch_set :
    let s : State := wState (wWith { wStrand with latch := true }) wCtx wMem
    s.me.latch = true :=
  by decide +kernel

theorem wit_WaitForEventTestsTheLatch_clear :
    let s : State := wState wCore wCtx wMem
    s.me.latch = false :=
  by decide +kernel

theorem wit_HaltcEndsTheStrand :
    let s : State := wState wCore wCtx wMem
    s.isRuntime = true ∧ s.calm = true ∧ s.me.firing = none ∧ s.me.replay = [] ∧ s.me.asyncTraps = [] ∧
    s.me.serving = none ∧ s.mine.deliveries = [] ∧ (∀ c, (s.ctx c).pWait = none) := by
  and_intros <;> first | exact pWait_of _ _ rfl (by decide) | decide +kernel

theorem wit_TrapInAHandlerAbortsTheContext :
    let s : State := wState (wWith { wStrand with x := wRegs [1, 2, 0x6abcd], tact := true }) wCtx wMem
    let c : CtxId := 0
    s.me.queue = [] ∧ s.me.tact = true ∧ s.mine.serves = some c :=
  by decide +kernel

theorem wit_VectorInstructionsCommit_commits :
    let s : State := wState (wWith { wStrand with x := wRegs [1,2,9], part := [0], vlen := 4, vtype := 4 }) wCtx wMem
    let i : Instr := (.vadd ⟨1, 2, 3, 0, .vx⟩)
    let w : IWord := (encode (.vadd ⟨1, 2, 3, 0, .vx⟩)).getD 0
    let v := vspec i (s.vcfg i)
    let bound : Bool := (chanRows s.me.chanmap).any fun x => meets x.2 v.writes
    wellFormed i = true ∧ encode i = some w ∧ 0x21 ≤ (w.extractLsb' 26 6).toNat ∧
    (w.extractLsb' 26 6).toNat ≤ 0x2f ∧ s.me.queue.length < 32 ∧
    (s.me.readq.filter fun (r : ReadSlot) => !r.dropped).length < 8 ∧ v.bad = false ∧
    (∀ j ∈ v.classes, (s.maskAt s.me.pc).getLsbD j = true ∧ s.mine.capmask.getLsbD j = true) ∧ bound = false :=
  by and_intros <;> decide +kernel

theorem wit_VectorInstructionsCommit_tox :
    let s : State := wState (wWith { wStrand with x := wRegs [1,2,9], part := [0], vlen := 4, vtype := 4 }) wCtx wMem
    let i : Instr := (.mpopc 3 1 0)
    let w : IWord := (encode (.mpopc 3 1 0)).getD 0
    let v := vspec i (s.vcfg i)
    let bound : Bool := (chanRows s.me.chanmap).any fun x => meets x.2 v.writes
    wellFormed i = true ∧ encode i = some w ∧ 0x21 ≤ (w.extractLsb' 26 6).toNat ∧
    (w.extractLsb' 26 6).toNat ≤ 0x2f ∧ s.me.queue.length < 32 ∧
    (s.me.readq.filter fun (r : ReadSlot) => !r.dropped).length < 8 ∧ v.bad = false ∧
    (∀ j ∈ v.classes, (s.maskAt s.me.pc).getLsbD j = true ∧ s.mine.capmask.getLsbD j = true) ∧ bound = false :=
  by and_intros <;> decide +kernel

theorem wit_VectorInstructionsCommit_xred :
    let s : State := wState (wWith { wStrand with x := wRegs [1,2,9], part := [0], vlen := 4, vtype := 4 }) wCtx wMem
    let i : Instr := (.xred .add 1 3 0)
    let w : IWord := (encode (.xred .add 1 3 0)).getD 0
    let v := vspec i (s.vcfg i)
    let bound : Bool := (chanRows s.me.chanmap).any fun x => meets x.2 v.writes
    wellFormed i = true ∧ encode i = some w ∧ 0x21 ≤ (w.extractLsb' 26 6).toNat ∧
    (w.extractLsb' 26 6).toNat ≤ 0x2f ∧ s.me.queue.length < 32 ∧
    (s.me.readq.filter fun (r : ReadSlot) => !r.dropped).length < 8 ∧ v.bad = false ∧
    (∀ j ∈ v.classes, (s.maskAt s.me.pc).getLsbD j = true ∧ s.mine.capmask.getLsbD j = true) ∧ bound = false ∧
    (s.reg 3).toNat < 16 :=
  by and_intros <;> decide +kernel

theorem wit_VectorInstructionsCommit_vtype :
    let s : State := wState (wWith { wStrand with part := [0], vlen := 4, vtype := 0x3f }) wCtx wMem
    let i : Instr := (.vadd ⟨1, 2, 3, 0, .vv⟩)
    let w : IWord := (encode (.vadd ⟨1, 2, 3, 0, .vv⟩)).getD 0
    let v := vspec i (s.vcfg i)
    wellFormed i = true ∧ encode i = some w ∧ 0x21 ≤ (w.extractLsb' 26 6).toNat ∧
    (w.extractLsb' 26 6).toNat ≤ 0x2f ∧ s.me.queue.length < 32 ∧
    (s.me.readq.filter fun (r : ReadSlot) => !r.dropped).length < 8 ∧ v.bad = true :=
  by decide +kernel

theorem wit_VectorInstructionsCommit_mask :
    let s : State := wState (wWith { wStrand with
      part := [0]
      vlen := 4
      vtype := 4 }) wCtx (wMem.write 0x10030 (List.replicate 16 0))
    let i : Instr := (.vadd ⟨1, 2, 3, 0, .vv⟩)
    let w : IWord := (encode (.vadd ⟨1, 2, 3, 0, .vv⟩)).getD 0
    let v := vspec i (s.vcfg i)
    wellFormed i = true ∧ encode i = some w ∧ 0x21 ≤ (w.extractLsb' 26 6).toNat ∧
    (w.extractLsb' 26 6).toNat ≤ 0x2f ∧ s.me.queue.length < 32 ∧
    (s.me.readq.filter fun (r : ReadSlot) => !r.dropped).length < 8 ∧ v.bad = false ∧ 50 ∈ v.classes ∧
    (s.maskAt s.me.pc).getLsbD 50 = false :=
  by decide +kernel

theorem wit_VectorInstructionsCommit_capability :
    let s : State := wState { wWith { wStrand with part := [0], vlen := 4, vtype := 4 } with capmask := 0 } wCtx wMem
    let i : Instr := (.vadd ⟨1, 2, 3, 0, .vv⟩)
    let w : IWord := (encode (.vadd ⟨1, 2, 3, 0, .vv⟩)).getD 0
    let v := vspec i (s.vcfg i)
    wellFormed i = true ∧ encode i = some w ∧ 0x21 ≤ (w.extractLsb' 26 6).toNat ∧
    (w.extractLsb' 26 6).toNat ≤ 0x2f ∧ s.me.queue.length < 32 ∧
    (s.me.readq.filter fun (r : ReadSlot) => !r.dropped).length < 8 ∧ v.bad = false ∧
    (∀ j ∈ v.classes, (s.maskAt s.me.pc).getLsbD j = true) ∧ 50 ∈ v.classes ∧ s.mine.capmask.getLsbD 50 = false :=
  by decide +kernel

theorem wit_VectorInstructionsCommit_bound :
    let s : State := wState (wWith { wStrand with part := [0], vlen := 4, vtype := 4, chanmap := 0xa0 }) wCtx wMem
    let i : Instr := (.vadd ⟨28, 2, 3, 0, .vv⟩)
    let w : IWord := (encode (.vadd ⟨28, 2, 3, 0, .vv⟩)).getD 0
    let v := vspec i (s.vcfg i)
    let bound : Bool := (chanRows s.me.chanmap).any fun x => meets x.2 v.writes
    wellFormed i = true ∧ encode i = some w ∧ 0x21 ≤ (w.extractLsb' 26 6).toNat ∧
    (w.extractLsb' 26 6).toNat ≤ 0x2f ∧ s.me.queue.length < 32 ∧
    (s.me.readq.filter fun (r : ReadSlot) => !r.dropped).length < 8 ∧ v.bad = false ∧
    (∀ j ∈ v.classes, (s.maskAt s.me.pc).getLsbD j = true ∧ s.mine.capmask.getLsbD j = true) ∧ bound = true :=
  by and_intros <;> decide +kernel

theorem wit_VectorConfigurationCommits_task :
    let s : State := wState (wWith { wStrand with x := wRegs [1, 2, 0xbeef], part := [0, 1], cls := .long }) wCtx wMem
    let r1 : BitVec 5 := 3
    let x := s.reg r1
    s.me.queue.length < 32 ∧ field x 63 16 = 0 ∧ (s.ctx s.myCtx).replay.running = 0 :=
  by decide +kernel

theorem wit_VectorConfigurationCommits_vtype :
    let s : State := wState (wWith { wStrand with x := wRegs [1, 2, 0x1beef] }) wCtx wMem
    let r1 : BitVec 5 := 3
    let x := s.reg r1
    s.me.queue.length < 32 ∧ field x 63 16 ≠ 0 ∧ s.me.tact = false :=
  by decide +kernel

theorem wit_IntegerVectorResults_s32vv_0 :
    let s : State := wState { wWith { wStrand with
        queue := [{ wEntry ((encode (.vadd ⟨1, 2, 3, 1, .vv⟩)).getD 0) with vtype := 4, vlen := 6, x1 := 0xfffffffb }]
        part := [0] } with
      lanes := wLanes } wCtx wMem
    let p : CoreId := 0
    let t : StrandId := 0
    let e : QEntry := { wEntry ((encode (.vadd ⟨1, 2, 3, 1, .vv⟩)).getD 0) with
      vtype := 4
      vlen := 6
      x1 := 0xfffffffb }
    let sgn : Bool := true
    let w : Nat := 32
    let v := s.headEnv p t e
    v.cfg.ty = some (.int sgn w) ∧ s.mayRun p t e (.vadd ⟨1, 2, 3, 1, .vv⟩) :=
  ⟨by decide +kernel, ((by unfold State.mayRun; decide +kernel))⟩

theorem wit_IntegerVectorResults_s32vv_13 :
    let s : State := wState { wWith { wStrand with
        queue := [{ wEntry ((encode (.vabs ⟨2, 2, 1⟩)).getD 0) with vtype := 4, vlen := 6, x1 := 0xfffffffb }]
        part := [0] } with
      lanes := wLanes } wCtx wMem
    let p : CoreId := 0
    let t : StrandId := 0
    let e : QEntry := { wEntry ((encode (.vabs ⟨2, 2, 1⟩)).getD 0) with vtype := 4, vlen := 6, x1 := 0xfffffffb }
    let sgn : Bool := true
    let w : Nat := 32
    let v := s.headEnv p t e
    v.cfg.ty = some (.int sgn w) ∧ s.mayRun p t e (.vabs ⟨2, 2, 1⟩) :=
  ⟨by decide +kernel, ((by unfold State.mayRun; decide +kernel))⟩

theorem wit_LogicVectorResults_s32vv_0 :
    let s : State := wState { wWith { wStrand with
        queue := [{ wEntry ((encode (.vand ⟨1, 2, 3, 1, .vv⟩)).getD 0) with vtype := 4, vlen := 6, x1 := 0x5 }]
        part := [0] } with
      lanes := wLanes } wCtx wMem
    let p : CoreId := 0
    let t : StrandId := 0
    let e : QEntry := { wEntry ((encode (.vand ⟨1, 2, 3, 1, .vv⟩)).getD 0) with vtype := 4, vlen := 6, x1 := 0x5 }
    let ty : ETy := .int true 32
    let v := s.headEnv p t e
    v.cfg.ty = some ty ∧ s.mayRun p t e (.vand ⟨1, 2, 3, 1, .vv⟩) :=
  ⟨by decide +kernel, ((by unfold State.mayRun; decide +kernel))⟩

theorem wit_LogicVectorResults_s32vv_10 :
    let s : State := wState { wWith { wStrand with
        queue := [{ wEntry ((encode (.vidx 4 0x7fd 3)).getD 0) with vtype := 4, vlen := 6, x1 := 0x5 }]
        part := [0] } with
      lanes := wLanes } wCtx wMem
    let p : CoreId := 0
    let t : StrandId := 0
    let e : QEntry := { wEntry ((encode (.vidx 4 0x7fd 3)).getD 0) with vtype := 4, vlen := 6, x1 := 0x5 }
    let ty : ETy := .int true 32
    let v := s.headEnv p t e
    v.cfg.ty = some ty ∧ s.mayRun p t e (.vidx 4 0x7fd 3) :=
  ⟨by decide +kernel, ((by unfold State.mayRun; decide +kernel))⟩

theorem wit_MaskAndTagResults_s32vv_0 :
    let s : State := wState { wWith { wStrand with
        queue := [{ wEntry ((encode (.vcmpeq ⟨3, 2, 3, 1, .vv⟩)).getD 0) with
          vtype := 4
          vlen := 6
          x1 := 0x700000005 }]
        part := [0] } with
      lanes := wLanes } wCtx wMem
    let p : CoreId := 0
    let t : StrandId := 0
    let e : QEntry := { wEntry ((encode (.vcmpeq ⟨3, 2, 3, 1, .vv⟩)).getD 0) with
      vtype := 4
      vlen := 6
      x1 := 0x700000005 }
    let sgn : Bool := true
    let ty : ETy := .int true 32
    let v := s.headEnv p t e
    let w := ty.width
    ty = .int sgn w ∧ v.cfg.ty = some ty ∧ s.mayRun p t e (.vcmpeq ⟨3, 2, 3, 1, .vv⟩) :=
  ⟨by decide +kernel, by decide +kernel, ((by unfold State.mayRun; decide +kernel))⟩

theorem wit_MaskAndTagResults_s32vv_6 :
    let s : State := wState { wWith { wStrand with
        queue := [{ wEntry ((encode (.mand 5 1 2)).getD 0) with vtype := 4, vlen := 6, x1 := 0x700000005 }]
        part := [0] } with
      lanes := wLanes } wCtx wMem
    let p : CoreId := 0
    let t : StrandId := 0
    let e : QEntry := { wEntry ((encode (.mand 5 1 2)).getD 0) with vtype := 4, vlen := 6, x1 := 0x700000005 }
    s.mayRun p t e (.mand 5 1 2) :=
  (by unfold State.mayRun; decide +kernel)

theorem wit_MaskAndTagResults_s32vv_11 :
    let s : State := wState { wWith { wStrand with
        queue := [{ wEntry ((encode (.mpopc 6 1 2)).getD 0) with vtype := 4, vlen := 6, x1 := 0x700000005 }]
        part := [0] } with
      lanes := wLanes } wCtx wMem
    let p : CoreId := 0
    let t : StrandId := 0
    let e : QEntry := { wEntry ((encode (.mpopc 6 1 2)).getD 0) with vtype := 4, vlen := 6, x1 := 0x700000005 }
    s.mayRun p t e (.mpopc 6 1 2) :=
  (by unfold State.mayRun; decide +kernel)

theorem wit_MaskAndTagResults_s32vv_15 :
    let s : State := wState { wWith { wStrand with
        queue := [{ wEntry ((encode (.vmatch 2 2 7 2)).getD 0) with vtype := 4, vlen := 6, x1 := 0x700000005 }]
        part := [0] } with
      lanes := wLanes } wCtx wMem
    let p : CoreId := 0
    let t : StrandId := 0
    let e : QEntry := { wEntry ((encode (.vmatch 2 2 7 2)).getD 0) with vtype := 4, vlen := 6, x1 := 0x700000005 }
    let ty : ETy := .int true 32
    let v := s.headEnv p t e
    v.cfg.ty = some ty ∧ s.mayRun p t e (.vmatch 2 2 7 2) :=
  ⟨by decide +kernel, ((by unfold State.mayRun; decide +kernel))⟩

theorem wit_MaskAndTagResults_vtt :
    let s : State := wState { wWith { wStrand with
        queue := [{ wEntry ((encode (.vtt ⟨4, 8, 12, 1, 3⟩)).getD 0) with vlen := 6 }]
        part := [0] } with
      lanes := wLanes } { wCtx with slots := wCtx.slots.set 3 [0x11000080902, 0x10000080501, 0] } wMem
    let e : QEntry := { wEntry ((encode (.vtt ⟨4, 8, 12, 1, 3⟩)).getD 0) with vlen := 6 }
    let v := s.headEnv 0 0 e
    s.mayRun 0 0 e (.vtt ⟨4, 8, 12, 1, 3⟩) ∧ (v.slots[3]).any (stepTooFar v.cfg.g) = false :=
  ⟨by unfold State.mayRun; decide +kernel, by decide +kernel⟩

theorem wit_PermuteResults_s32vx_0 :
    let s : State := wState { wWith { wStrand with
        queue := [{ wEntry ((encode (.vslideup ⟨1, 2, 3, 0, .vx⟩)).getD 0) with
          vtype := 4
          vlen := 6
          x1 := 2
          x2 := 3 }]
        part := [0] } with
      lanes := wLanes } wCtx wMem
    let p : CoreId := 0
    let t : StrandId := 0
    let e : QEntry := { wEntry ((encode (.vslideup ⟨1, 2, 3, 0, .vx⟩)).getD 0) with
      vtype := 4
      vlen := 6
      x1 := 2
      x2 := 3 }
    let ty : ETy := .int true 32
    let v := s.headEnv p t e
    v.cfg.ty = some ty ∧ s.mayRun p t e (.vslideup ⟨1, 2, 3, 0, .vx⟩) :=
  ⟨by decide +kernel, ((by unfold State.mayRun; decide +kernel))⟩

theorem wit_PermuteResults_s32vx_7 :
    let s : State := wState { wWith { wStrand with
        queue := [{ wEntry ((encode (.vextr ⟨1, 2, 3, 0, .vx⟩)).getD 0) with
          vtype := 4
          vlen := 6
          x1 := 2
          x2 := 3 }]
        part := [0] } with
      lanes := wLanes } wCtx wMem
    let p : CoreId := 0
    let t : StrandId := 0
    let e : QEntry := { wEntry ((encode (.vextr ⟨1, 2, 3, 0, .vx⟩)).getD 0) with
      vtype := 4
      vlen := 6
      x1 := 2
      x2 := 3 }
    let ty : ETy := .int true 32
    let sgn : Bool := true
    let v := s.headEnv p t e
    let w := ty.width
    v.cfg.ty = some ty ∧ ty = .int sgn w ∧ s.mayRun p t e (.vextr ⟨1, 2, 3, 0, .vx⟩) :=
  ⟨by decide +kernel, by decide +kernel, ((by unfold State.mayRun; decide +kernel))⟩

theorem wit_PermuteResults_vbshuf :
    let s : State := wState { wWith { wStrand with
        queue := [{ wEntry ((encode (.vbshuf 2 4 6 1)).getD 0) with vtype := 0x2a, vlen := 6 }]
        part := [0] } with
      lanes := wLanes } wCtx wMem
    let e : QEntry := { wEntry ((encode (.vbshuf 2 4 6 1)).getD 0) with vtype := 0x2a, vlen := 6 }
    (s.headEnv 0 0 e).cfg.ty = some (.int true 8) ∧ s.mayRun 0 0 e (.vbshuf 2 4 6 1) :=
  ⟨by decide +kernel, by unfold State.mayRun; decide +kernel⟩

theorem wit_QueueRetirementAndDelivery_vadd :
    let s : State := wState (wWith { wStrand with
      queue := [{ wEntry ((encode (.vadd ⟨1, 2, 3, 0, .vv⟩)).getD 0) with vlen := 6 }]
      head := some ({ HeadRun.start with finished := true })
      wait := some .drain }) wCtx wMem
    let p : CoreId := 0
    let t : StrandId := 0
    let e : QEntry := { wEntry ((encode (.vadd ⟨1, 2, 3, 0, .vv⟩)).getD 0) with vlen := 6 }
    let rest : List QEntry := []
    let h : HeadRun := { HeadRun.start with finished := true }
    let st := s.strand p t
    st.queue = e :: rest ∧ st.head = some h ∧ h.finished = true ∧ e.chans = 0 ∧ st.replay = [] ∧
    (s.core p).channels = [] ∧ st.wait ≠ some .slot ∧ rest.any (·.again) = false ∧
    (∀ u ∈ (s.core p).uses, ∀ b, u.2 ≠ .leaving b) ∧ st.lanesDue = false ∧ e.releases = false := by
  and_intros <;> decide +kernel

theorem wit_QueueRetirementAndDelivery_lanerel :
    let s : State := wState { wWith { wStrand with
        queue := [{ wEntry ((encode (.lanerel)).getD 0) with vlen := 6 }, wEntry 0]
        head := some ({ HeadRun.start with finished := true })
        part := [0]
        cls := .short } with
      uses := [(0, .short 0)] } wCtx wMem
    let p : CoreId := 0
    let t : StrandId := 0
    let e : QEntry := { wEntry ((encode (.lanerel)).getD 0) with vlen := 6 }
    let rest : List QEntry := [wEntry 0]
    let h : HeadRun := { HeadRun.start with finished := true }
    let st := s.strand p t
    st.queue = e :: rest ∧ st.head = some h ∧ h.finished = true ∧ e.chans = 0 ∧ st.replay = [] ∧
    (s.core p).channels = [] ∧ st.wait ≠ some .slot ∧ rest.any (·.again) = false ∧ e.instr = some .lanerel ∧
    e.ending = [] ∧ (s.core p).laneReqs = [] :=
  by decide +kernel

theorem wit_QueueRetirementAndDelivery_delivery :
    let s : State := wState (wWith { wStrand with readq := [⟨3, some 7, false⟩, ⟨4, none, false⟩] }) wCtx wMem
    let p : CoreId := 0
    let t : StrandId := 0
    let r : ReadSlot := ⟨3, some 7, false⟩
    let l : List ReadSlot := [⟨4, none, false⟩]
    let x : Word := 7
    let st := s.strand p t
    st.readq = r :: l ∧ r.value = some x ∧ r.dropped = false ∧ st.wait ≠ some .slot :=
  by decide +kernel

theorem wit_VectorFaultsAndLaneGrants_fault :
    let s : State := wState (wWith { wStrand with
      x := wRegs [1,2,3]
      queue := [{ wEntry ((encode (.vadd ⟨1, 2, 3, 0, .vv⟩)).getD 0) with vlen := 6 }, wEntry 0]
      vfault := some ⟨4, 0x60000, 3, 2⟩
      head := some HeadRun.start }) wCtx wMem
    let p : CoreId := 0
    let t : StrandId := 0
    let f : VFault := ⟨4, 0x60000, 3, 2⟩
    let st := s.strand p t
    st.vfault = some f ∧ st.tact = false ∧ st.halted = false ∧ st.dbgHalted = false ∧ st.wait = none ∧
    st.relaxed = [] ∧ s.extRelaxed p t = false :=
  by decide +kernel

theorem wit_VectorFaultsAndLaneGrants_vwait :
    let s : State := wState (wWith { wStrand with
      queue := [{ wEntry ((encode (.vadd ⟨1, 2, 3, 0, .vv⟩)).getD 0) with vlen := 6 },
        { wEntry ((encode (.vwait .eq 2 2 3 1)).getD 0) with addr := 0x30004 }]
      pc := 0x30008
      vfault := some ⟨4, 0x60000, 3, 2⟩
      head := some HeadRun.start }) wCtx wMem
    let p : CoreId := 0
    let t : StrandId := 0
    let f : VFault := ⟨4, 0x60000, 3, 2⟩
    let st := s.strand p t
    let last := st.queue.getLast?
    let inVwait : Bool := match last.bind QEntry.instr with | some (.vwait _ _ _ _ _) => true | _ => false
    st.vfault = some f ∧ st.tact = false ∧ st.halted = false ∧ st.dbgHalted = false ∧ st.wait = none ∧
    st.relaxed = [] ∧ s.extRelaxed p t = false ∧ inVwait = true :=
  by decide +kernel

theorem wit_VectorFaultsAndLaneGrants_short :
    let s : State := wState { wWith { wStrand with wait := some .lanes } with
      laneReqs := [(0, .short), (2, .long)] } wCtx wMem
    let p : CoreId := 0
    let t : StrandId := 0
    let rest : List (StrandId × LaneClass) := [(2, .long)]
    let a : ArrayId := 0
    (s.core p).laneReqs = (t, .short) :: rest ∧ (s.core p).shortArray = some a :=
  by decide +kernel

theorem wit_VectorFaultsAndLaneGrants_long :
    let s : State := wState { wWith { wStrand with wait := some .lanes } with laneReqs := [(0, .long)] } wCtx wMem
    let p : CoreId := 0
    let t : StrandId := 0
    let rest : List (StrandId × LaneClass) := []
    let ks := ((s.core p).clusters.filter (s.core p).isFreeCluster).take (s.longcl p + 1)
    (s.core p).laneReqs = (t, .long) :: rest ∧ ks ≠ [] :=
  ⟨by decide +kernel, by decide +kernel⟩

theorem wit_WatchedFlagsEndAVwait_met :
    let s : State := wState { wWith { wStrand with
        queue := [{ wEntry ((encode (.vwait .eq 2 2 3 1)).getD 0) with vlen := 6 }]
        part := [0]
        head := some ({ HeadRun.start with
          reqs := [⟨1, 0x60000, 0x60000, 0, 32, .u, false, 32, .watch 0x44332211, none, false⟩,
            ⟨3, 0x60004, 0x60004, 0, 32, .u, false, 32, .watch 0x88776655, none, false⟩] }) } with
      lanes := wLanes } wCtx (wMem.write 0x60000 (leBytes 8 0x8877665544332211))
    let p : CoreId := 0
    let t : StrandId := 0
    let e : QEntry := { wEntry ((encode (.vwait .eq 2 2 3 1)).getD 0) with vlen := 6 }
    let rest : List QEntry := []
    let h : HeadRun := { HeadRun.start with
      reqs := [⟨1, 0x60000, 0x60000, 0, 32, .u, false, 32, .watch 0x44332211, none, false⟩, ⟨3, 0x60004, 0x60004, 0, 32, .u, false, 32, .watch 0x88776655, none, false⟩] }
    let r : VReq := ⟨1, 0x60000, 0x60000, 0, 32, .u, false, 32, .watch 0x44332211, none, false⟩
    let rs : List VReq := [⟨3, 0x60004, 0x60004, 0, 32, .u, false, 32, .watch 0x88776655, none, false⟩]
    let k : WCond := .eq
    let md : BitVec 3 := 2
    let vs1 : BitVec 5 := 2
    let vs2 : BitVec 5 := 3
    let vm : BitVec 3 := 1
    let st := s.strand p t
    st.queue = e :: rest ∧ decode e.word = .ok (.vwait k md vs1 vs2 vm) ∧ st.head = some h ∧ h.finished = false ∧
    h.reqs = r :: rs ∧ mapWfFrom Lane.zero 0 (s.core p).lanes = true ∧ (s.core p).parityBad = [] ∧
    (s.core p).copies = [] ∧ s.comb = [] ∧ e.part.Nodup ∧ e.vlen.toNat ≤ 256 * e.part.length ∧ s.badCopies = [] ∧
    h.fault = none ∧ h.reqs.all fun y => match y.op with
      | .watch x => onDevice y.pa && !s.isBad y.pa (y.width / 8) && !(y.dev && y.sent) &&
        watchMet k (s.headEnv p t e).sgn y.width (fromLe (s.peekHome y.pa (y.width / 8)) % 2 ^ y.width) x
      | _ => false :=
  by decide +kernel

theorem wit_WatchedFlagsEndAVwait_timeout :
    let s : State := { wState { wWith { wStrand with
          queue := [{ wEntry ((encode (.vwait .eq 2 2 3 1)).getD 0) with vlen := 6 }]
          part := [0]
          head := some ({ HeadRun.start with
            reqs := [⟨1, 0x60000, 0x60000, 0, 32, .u, false, 32, .watch 0x44332211, none, false⟩, ⟨5, 0x60000, 0x60000, 0, 32, .u, false, 32, .watch 9, none, false⟩]
            limit := 1
            since := 0 }) } with
        lanes := wLanes } wCtx (wMem.write 0x60000 (leBytes 8 0x8877665544332211)) with
      cycles := 683 }
    let p : CoreId := 0
    let t : StrandId := 0
    let e : QEntry := { wEntry ((encode (.vwait .eq 2 2 3 1)).getD 0) with vlen := 6 }
    let rest : List QEntry := []
    let h : HeadRun := { HeadRun.start with
      reqs := [⟨1, 0x60000, 0x60000, 0, 32, .u, false, 32, .watch 0x44332211, none, false⟩, ⟨5, 0x60000, 0x60000, 0, 32, .u, false, 32, .watch 9, none, false⟩]
      limit := 1
      since := 0 }
    let r : VReq := ⟨1, 0x60000, 0x60000, 0, 32, .u, false, 32, .watch 0x44332211, none, false⟩
    let rs : List VReq := [⟨5, 0x60000, 0x60000, 0, 32, .u, false, 32, .watch 9, none, false⟩]
    let k : WCond := .eq
    let md : BitVec 3 := 2
    let vs1 : BitVec 5 := 2
    let vs2 : BitVec 5 := 3
    let vm : BitVec 3 := 1
    let st := s.strand p t
    let n := field h.limit 31 0
    st.queue = e :: rest ∧ decode e.word = .ok (.vwait k md vs1 vs2 vm) ∧ st.head = some h ∧ h.finished = false ∧
    h.reqs = r :: rs ∧ mapWfFrom Lane.zero 0 (s.core p).lanes = true ∧ (s.core p).parityBad = [] ∧
    (s.core p).copies = [] ∧ s.comb = [] ∧ e.part.Nodup ∧ e.vlen.toNat ≤ 256 * e.part.length ∧ n ≠ 0 ∧
    h.since + 1024 * n ≤ s.coreCycle ∧ bit h.limit 63 = false :=
  by and_intros <;> decide +kernel

theorem wit_WatchedFlagsEndAVwait_fault :
    let s : State := { wState { wWith { wStrand with
          queue := [{ wEntry ((encode (.vwait .eq 2 2 3 1)).getD 0) with vlen := 6 }]
          part := [0]
          head := some ({ HeadRun.start with
            reqs := [⟨1, 0x60000, 0x60000, 0, 32, .u, false, 32, .watch 0x44332211, none, false⟩, ⟨5, 0x60000, 0x60000, 0, 32, .u, false, 32, .watch 9, none, false⟩]
            limit := 0x8000000000000001
            since := 0 }) } with
        lanes := wLanes } wCtx (wMem.write 0x60000 (leBytes 8 0x8877665544332211)) with
      cycles := 683 }
    let p : CoreId := 0
    let t : StrandId := 0
    let e : QEntry := { wEntry ((encode (.vwait .eq 2 2 3 1)).getD 0) with vlen := 6 }
    let rest : List QEntry := []
    let h : HeadRun := { HeadRun.start with
      reqs := [⟨1, 0x60000, 0x60000, 0, 32, .u, false, 32, .watch 0x44332211, none, false⟩, ⟨5, 0x60000, 0x60000, 0, 32, .u, false, 32, .watch 9, none, false⟩]
      limit := 0x8000000000000001
      since := 0 }
    let r : VReq := ⟨1, 0x60000, 0x60000, 0, 32, .u, false, 32, .watch 0x44332211, none, false⟩
    let rs : List VReq := [⟨5, 0x60000, 0x60000, 0, 32, .u, false, 32, .watch 9, none, false⟩]
    let k : WCond := .eq
    let md : BitVec 3 := 2
    let vs1 : BitVec 5 := 2
    let vs2 : BitVec 5 := 3
    let vm : BitVec 3 := 1
    let st := s.strand p t
    let n := field h.limit 31 0
    st.queue = e :: rest ∧ decode e.word = .ok (.vwait k md vs1 vs2 vm) ∧ st.head = some h ∧ h.finished = false ∧
    h.reqs = r :: rs ∧ mapWfFrom Lane.zero 0 (s.core p).lanes = true ∧ (s.core p).parityBad = [] ∧
    (s.core p).copies = [] ∧ s.comb = [] ∧ e.part.Nodup ∧ e.vlen.toNat ≤ 256 * e.part.length ∧ n ≠ 0 ∧
    h.since + 1024 * n ≤ s.coreCycle ∧ bit h.limit 63 = true ∧ ((r :: rs).map (·.elem)).Pairwise (· < ·) ∧ s.badCopies = [] ∧ st.replay = [] ∧
    ¬(st.tact = true ∧ st.wait = some .drain) :=
  by and_intros <;> decide +kernel

theorem wit_WatchedFlagsEndAVwait_early :
    let s : State := { wState { wWith { wStrand with
          queue := [{ wEntry ((encode (.vwait .eq 2 2 3 1)).getD 0) with vlen := 6 }]
          part := [0]
          head := some ({ HeadRun.start with
            reqs := [⟨1, 0x60000, 0x60000, 0, 32, .u, false, 32, .watch 0x44332211, none, false⟩, ⟨5, 0x60000, 0x60000, 0, 32, .u, false, 32, .watch 9, none, false⟩]
            limit := 1
            since := 0 }) } with
        lanes := wLanes } wCtx (wMem.write 0x60000 (leBytes 8 0x8877665544332211)) with
      cycles := 682 }
    let p : CoreId := 0
    let t : StrandId := 0
    let e : QEntry := { wEntry ((encode (.vwait .eq 2 2 3 1)).getD 0) with vlen := 6 }
    let rest : List QEntry := []
    let h : HeadRun := { HeadRun.start with
      reqs := [⟨1, 0x60000, 0x60000, 0, 32, .u, false, 32, .watch 0x44332211, none, false⟩, ⟨5, 0x60000, 0x60000, 0, 32, .u, false, 32, .watch 9, none, false⟩]
      limit := 1
      since := 0 }
    let r : VReq := ⟨1, 0x60000, 0x60000, 0, 32, .u, false, 32, .watch 0x44332211, none, false⟩
    let rs : List VReq := [⟨5, 0x60000, 0x60000, 0, 32, .u, false, 32, .watch 9, none, false⟩]
    let k : WCond := .eq
    let md : BitVec 3 := 2
    let vs1 : BitVec 5 := 2
    let vs2 : BitVec 5 := 3
    let vm : BitVec 3 := 1
    let st := s.strand p t
    let n := field h.limit 31 0
    st.queue = e :: rest ∧ decode e.word = .ok (.vwait k md vs1 vs2 vm) ∧ st.head = some h ∧ h.finished = false ∧
    h.reqs = r :: rs ∧ mapWfFrom Lane.zero 0 (s.core p).lanes = true ∧ (s.core p).parityBad = [] ∧
    (s.core p).copies = [] ∧ s.comb = [] ∧ e.part.Nodup ∧ e.vlen.toNat ≤ 256 * e.part.length ∧
    (n = 0 ∨ s.coreCycle < h.since + 1024 * n) :=
  by and_intros <;> decide +kernel

theorem wit_WatchedFlagsEndAVwait_never :
    let s : State := wState { wWith { wStrand with
        queue := [{ wEntry ((encode (.vwait .eq 2 2 3 1)).getD 0) with vlen := 6 }]
        part := [0]
        head := some ({ HeadRun.start with
          reqs := [⟨1, 0x60000, 0x60000, 0, 32, .u, false, 32, .watch 0x44332211, none, false⟩, ⟨5, 0x60000, 0x60000, 0, 32, .u, false, 32, .watch 9, none, false⟩]
          limit := 0 }) } with
      lanes := wLanes } wCtx (wMem.write 0x60000 (leBytes 8 0x8877665544332211))
    let p : CoreId := 0
    let t : StrandId := 0
    let e : QEntry := { wEntry ((encode (.vwait .eq 2 2 3 1)).getD 0) with vlen := 6 }
    let rest : List QEntry := []
    let h : HeadRun := { HeadRun.start with
      reqs := [⟨1, 0x60000, 0x60000, 0, 32, .u, false, 32, .watch 0x44332211, none, false⟩, ⟨5, 0x60000, 0x60000, 0, 32, .u, false, 32, .watch 9, none, false⟩]
      limit := 0 }
    let r : VReq := ⟨1, 0x60000, 0x60000, 0, 32, .u, false, 32, .watch 0x44332211, none, false⟩
    let rs : List VReq := [⟨5, 0x60000, 0x60000, 0, 32, .u, false, 32, .watch 9, none, false⟩]
    let k : WCond := .eq
    let md : BitVec 3 := 2
    let vs1 : BitVec 5 := 2
    let vs2 : BitVec 5 := 3
    let vm : BitVec 3 := 1
    let st := s.strand p t
    let n := field h.limit 31 0
    st.queue = e :: rest ∧ decode e.word = .ok (.vwait k md vs1 vs2 vm) ∧ st.head = some h ∧ h.finished = false ∧
    h.reqs = r :: rs ∧ mapWfFrom Lane.zero 0 (s.core p).lanes = true ∧ (s.core p).parityBad = [] ∧
    (s.core p).copies = [] ∧ s.comb = [] ∧ e.part.Nodup ∧ e.vlen.toNat ≤ 256 * e.part.length ∧
    (n = 0 ∨ s.coreCycle < h.since + 1024 * n) :=
  by and_intros <;> decide +kernel

theorem wit_MemoryRequestsPerformAndLand_cached :
    let s : State := wState wCore wCtx wMem
    let p : CoreId := 0
    let t : StrandId := 0
    let st := s.strand p t
    let line := st.pc.toNat / 64
    s.fetchable p st.pc.toNat = true ∧ (s.core p).cachedLine line = some 0xf0000000 :=
  by decide +kernel

theorem wit_MemoryRequestsPerformAndLand_error :
    let s : State := { wState { wCore with icache := [] } wCtx wMem with badWords := [0x30000 / 8] }
    let p : CoreId := 0
    let t : StrandId := 0
    let st := s.strand p t
    let line := st.pc.toNat / 64
    s.fetchable p st.pc.toNat = true ∧ (s.core p).cachedLine line = none ∧ s.isBad (line * 64) 64 = true :=
  by decide +kernel

theorem wit_MemoryRequestsPerformAndLand_fetch :
    let s : State := wState { wCore with icache := [(0x30040 / 64, 7)] } wCtx wMem
    let p : CoreId := 0
    let t : StrandId := 0
    let st := s.strand p t
    let line := st.pc.toNat / 64
    s.fetchable p st.pc.toNat = true ∧ (s.core p).cachedLine line = none ∧ s.isBad (line * 64) 64 = false :=
  by decide +kernel

theorem wit_MemoryRequestsPerformAndLand_relaxed :
    let s : State := wState (wWith { wStrand with
      relaxed := [⟨false, 5, 0x60004, 0x60004, .w, .u, false, 32, 0, 0x2fffc⟩] }) wCtx (wMem.write 0x60000 (leBytes 8 0x8877665544332211))
    let p : CoreId := 0
    let t : StrandId := 0
    let n : Nat := 0
    let a : RelaxedAcc := ⟨false, 5, 0x60004, 0x60004, .w, .u, false, 32, 0, 0x2fffc⟩
    let st := s.strand p t
    let z := Size.bytes a.size
    st.relaxed[n]? = some a ∧ a.isStore = false ∧ onDevice a.pa = true ∧ s.isBad a.pa z = false ∧
    (s.core p).copies = [] ∧ s.comb = [] ∧ s.badCopies = [] :=
  by decide +kernel

theorem wit_MemoryRequestsPerformAndLand_home :
    let s : State := wState { wWith { wStrand with
        queue := [{ wEntry ((encode (.vld ⟨1, 3, 0, 0, .u, false⟩)).getD 0) with vlen := 6, vtype := 4 }]
        part := [0]
        head := some ({ HeadRun.start with
          reqs := [⟨3, 0x60040, 0x60040, 0, 32, .u, false, 32, .load, none, false⟩, ⟨1, 0x60004, 0x60004, 0, 32, .u, false, 32, .load, none, false⟩] }) } with
      lanes := wLanes } wCtx (wMem.write 0x60000 (leBytes 8 0x8877665544332211))
    let p : CoreId := 0
    let t : StrandId := 0
    let n : Nat := 1
    let e : QEntry := { wEntry ((encode (.vld ⟨1, 3, 0, 0, .u, false⟩)).getD 0) with vlen := 6, vtype := 4 }
    let rest : List QEntry := []
    let h : HeadRun := { HeadRun.start with
      reqs := [⟨3, 0x60040, 0x60040, 0, 32, .u, false, 32, .load, none, false⟩, ⟨1, 0x60004, 0x60004, 0, 32, .u, false, 32, .load, none, false⟩] }
    let r : VReq := ⟨1, 0x60004, 0x60004, 0, 32, .u, false, 32, .load, none, false⟩
    let o : VMemArgs := ⟨1, 3, 0, 0, .u, false⟩
    let st := s.strand p t
    st.queue = e :: rest ∧ decode e.word = .ok (.vld o) ∧ st.head = some h ∧ h.finished = false ∧
    nthEligible n [] h.reqs = some r ∧ r.op = .load ∧ onDevice r.pa = true ∧ (s.core p).copies = [] ∧ s.comb = [] ∧
    s.badCopies = [] ∧ 8 ≤ r.width ∧
    s.isBad r.pa (r.width / 8) = false ∧ r.width % 8 = 0 ∧ r.bit = 0 :=
  by decide +kernel

theorem wit_MemoryRequestsPerformAndLand_group :
    let s : State := wState { wWith { wStrand with
        queue := [{ wEntry ((encode (.vld ⟨1, 3, 0, 0, .u, false⟩)).getD 0) with vlen := 6, vtype := 4 }]
        part := [0]
        head := some ({ HeadRun.start with
          reqs := [⟨1, 0x60004, 0x60004, 0, 32, .u, false, 32, .load, some 0x99, false⟩, ⟨3, 0x60008, 0x60008, 0, 32, .u, false, 32, .load, some 0x77, false⟩, ⟨300, 0x60040, 0x60040, 0, 32, .u, false, 32, .load, none, false⟩] }) } with
      lanes := wLanes } wCtx (wMem.write 0x60000 (leBytes 8 0x8877665544332211))
    let p : CoreId := 0
    let t : StrandId := 0
    let e : QEntry := { wEntry ((encode (.vld ⟨1, 3, 0, 0, .u, false⟩)).getD 0) with vlen := 6, vtype := 4 }
    let rest : List QEntry := []
    let h : HeadRun := { HeadRun.start with
      reqs := [⟨1, 0x60004, 0x60004, 0, 32, .u, false, 32, .load, some 0x99, false⟩, ⟨3, 0x60008, 0x60008, 0, 32, .u, false, 32, .load, some 0x77, false⟩, ⟨300, 0x60040, 0x60040, 0, 32, .u, false, 32, .load, none, false⟩] }
    let o : VMemArgs := ⟨1, 3, 0, 0, .u, false⟩
    let g : Nat := 0
    let st := s.strand p t
    let v := s.headEnv p t e
    let mine := h.reqs.filter fun (x : VReq) => decide (x.group = g)
    st.queue = e :: rest ∧ decode e.word = .ok (.vld o) ∧ st.head = some h ∧ h.finished = false ∧ mine ≠ [] ∧
    (∀ x ∈ mine, x.got.isSome = true ∧ x.op = .load ∧ x.elem < e.vlen.toNat) ∧ (mine.map (·.elem)).Nodup ∧
    (mine ≠ h.reqs) ∧ (∀ x ∈ h.reqs, x.group < g → x.got.isSome = true ∨ isExternal x.pa = false) ∧
    (h.fault = none ∨ ∀ x ∈ h.reqs, g ≤ x.group) ∧ v.cfg.scaled = false ∧ mapWfFrom Lane.zero 0 (s.core p).lanes = true ∧
    (s.core p).parityBad = [] ∧ e.part.Nodup ∧ e.vlen.toNat ≤ 256 * e.part.length :=
  by and_intros <;> decide +kernel

theorem wit_MemoryRequestsPerformAndLand_begin :
    let o : VMemArgs := ⟨3, 3, 2, 0, .u, false⟩
    let e : QEntry := { wEntry ((encode (.vstx o)).getD 0) with
      x1 := 0x60000
      vlen := 3
      vstart := 1
      vtype := 4 }
    let s : State := wState { wWith { wStrand with queue := [e], part := [0] } with
      tlb := [⟨some 0, 0, 0, 2 ^ 32, 0, 32, false, true, true⟩]
      lanes := [(0, wLane 0x10 1 2), (1, wLane 0x20 5 6), (2, wLane 0x34 7 1)] } wCtx wMem
    let p : CoreId := 0
    let t : StrandId := 0
    let st := s.strand p t
    let v := s.headEnv p t e
    let w := sewBits (vtSew e.vtype)
    let index (q : BitVec 5) (k : Nat) : Word := e.x1 + ((v.lane k).rows (32 * q.toNat) 32 |> BitVec.ofNat 32).signExtend 64
    let out (k : Nat) : VOp := .store (v.elem o.v.toNat k)
    let q : Instr × (Nat → Word) × (Nat → VOp) := (.vstx o, index o.r2, out)
    let pass := s.probePass p ((s.core p).serves.getD 0) o.req q.1 e.part id
      (((List.range e.vlen.toNat).filter fun k => decide (e.vstart.toNat ≤ k) && v.active o.vm k).map fun k =>
        ⟨k, q.2.1 k, 0, w, q.2.2 k, decide ((q.2.1 k).toNat % (w / 8) ≠ 0)⟩)
    let rs : List VReq := [⟨1, 0x60020, 0x60020, 0, 32, .u, false, 32, .store 5, none, false⟩,
      ⟨2, 0x60034, 0x60034, 0, 32, .u, false, 32, .store 7, none, false⟩]
    s.mayRun p t e q.1 ∧ 8 ≤ w ∧ e.early = [] ∧ st.relaxed = [] ∧ rs ≠ [] ∧ pass = (rs, none, pass.2.2) :=
  ⟨by unfold State.mayRun; decide +kernel, by decide +kernel, by decide +kernel, by decide +kernel, by decide +kernel,
    probed_of (by decide +kernel) (by decide +kernel)⟩

theorem wit_MemoryRequestsPerformAndLand_atomics :
    let am : VAmoArgs := ⟨1, 3, 2, 0, .dev, false, false⟩
    let e : QEntry := { wEntry ((encode (.vamomax am)).getD 0) with
      x1 := 0x60000
      vlen := 2
      vtype := 4 }
    let s : State := wState { wWith { wStrand with queue := [e], part := [0] } with
      tlb := [⟨some 0, 0, 0, 2 ^ 32, 0, 32, false, true, true⟩]
      lanes := [(0, wLane 0x10 1 2), (1, wLane 0x20 5 6)] } wCtx wMem
    let p : CoreId := 0
    let t : StrandId := 0
    let st := s.strand p t
    let v := s.headEnv p t e
    let w := sewBits (vtSew e.vtype)
    let index (q : BitVec 5) (k : Nat) : Word := e.x1 + ((v.lane k).rows (32 * q.toNat) 32 |> BitVec.ofNat 32).signExtend 64
    let mins : AmoOp × AmoOp := if v.sgn then (.min, .max) else (.minu, .maxu)
    let q : Instr × AmoOp := (.vamomax am, mins.2)
    let pass := s.probePass p ((s.core p).serves.getD 0) .o q.1 e.part id
      (((List.range e.vlen.toNat).filter fun k => decide (e.vstart.toNat ≤ k) && v.active am.vm k).map fun k =>
        ⟨k, index am.vs2 k, 0, w, .atomic q.2 [(k, v.elem am.vs3.toNat k,
          if q.2 = .cas then v.elem (am.vs3.toNat + v.cfg.g) k else 0)], decide ((index am.vs2 k).toNat % (w / 8) ≠ 0)⟩)
    let rs : List VReq := [⟨0, 0x60010, 0x60010, 0, 32, .o, false, 32, .atomic q.2 [(0, 0, 0)], none, false⟩,
      ⟨1, 0x60020, 0x60020, 0, 32, .o, false, 32, .atomic q.2 [(1, 0, 0)], none, false⟩]
    s.mayRun p t e q.1 ∧ v.cfg.isFp = false ∧ am.rel = false ∧ e.early = [] ∧ st.relaxed = [] ∧ rs ≠ [] ∧
    (rs.map (·.va)).Nodup ∧ pass = (rs, none, pass.2.2) :=
  ⟨by unfold State.mayRun; decide +kernel, by decide +kernel, by decide +kernel, by decide +kernel, by decide +kernel,
    by decide +kernel, by decide +kernel, probed_of (by decide +kernel) (by decide +kernel)⟩

theorem wit_MemoryRequestsPerformAndLand_store :
    let o : VMemArgs := ⟨1, 3, 0, 0, .u, false⟩
    let e : QEntry := { wEntry ((encode (.vst o)).getD 0) with vlen := 6, vtype := 4 }
    let r : VReq := ⟨1, 0x60004, 0x60004, 0, 32, .u, false, 32, .store 0x12345678, none, false⟩
    let h : HeadRun := { HeadRun.start with
      reqs := [⟨3, 0x60040, 0x60040, 0, 32, .u, false, 32, .store 9, none, false⟩, r] }
    let s : State := wState { wWith { wStrand with queue := [e], part := [0], head := some h } with
      lanes := wLanes } wCtx (wMem.write 0x60000 (leBytes 8 0x8877665544332211))
    let p : CoreId := 0
    let t : StrandId := 0
    let n : Nat := 1
    let rest : List QEntry := []
    let i : Instr := .vst o
    let x : Nat := 0x12345678
    let st := s.strand p t
    let still : Prop := (s.core p).copies = [] ∧ s.comb = [] ∧ s.combWait = [] ∧ s.badCopies = [] ∧ s.snap = none
    st.queue = e :: rest ∧ decode e.word = .ok i ∧ st.head = some h ∧ h.finished = false ∧ h.fault = none ∧
    nthEligible n [] h.reqs = some r ∧ onDevice r.pa = true ∧ still ∧ s.memOk ∧ r.bit = 0 ∧ r.width ∈ [8, 16, 32, 64] ∧
    r.pa % (r.width / 8) = 0 ∧
    (∀ c off, region r.pa = .spad c off → ((s.core c).spadPlace off).isSome = true) ∧ r.op = .store x ∧ r.req = .u ∧
    isGrain r.grain = true :=
  ⟨by decide +kernel, by decide +kernel, by decide +kernel, by decide +kernel, by decide +kernel, by decide +kernel,
    by decide +kernel, by and_intros <;> decide +kernel, memOk_of _ _ rfl (by decide +kernel) (by decide +kernel),
    by decide +kernel, by decide +kernel, by decide +kernel,
    (by intro c off h; have h2 := h.symm.trans (by decide : region 0x60004 = .hbm 0x60004); cases h2), by and_intros <;> decide +kernel⟩

theorem wit_MemoryRequestsPerformAndLand_atomic :
    let am : VAmoArgs := ⟨1, 3, 2, 0, .dev, false, false⟩
    let e : QEntry := { wEntry ((encode (.vamoadd am)).getD 0) with vlen := 6, vtype := 4 }
    let r : VReq := ⟨1, 0x60004, 0x60004, 0, 32, .u, false, 32, .atomic .add [(1, 0xfffffff0, 0)], none, false⟩
    let h : HeadRun := { HeadRun.start with reqs := [r] }
    let s : State := wState { wWith { wStrand with queue := [e], part := [0], head := some h } with
      lanes := wLanes } wCtx (wMem.write 0x60000 (leBytes 8 0x8877665544332211))
    let p : CoreId := 0
    let t : StrandId := 0
    let n : Nat := 0
    let rest : List QEntry := []
    let i : Instr := .vamoadd am
    let j : Nat := 1
    let x : Nat := 0xfffffff0
    let y : Nat := 0
    let st := s.strand p t
    let still : Prop := (s.core p).copies = [] ∧ s.comb = [] ∧ s.combWait = [] ∧ s.badCopies = [] ∧ s.snap = none
    st.queue = e :: rest ∧ decode e.word = .ok i ∧ st.head = some h ∧ h.finished = false ∧ h.fault = none ∧
    nthEligible n [] h.reqs = some r ∧ onDevice r.pa = true ∧ still ∧ s.memOk ∧ r.bit = 0 ∧ r.width ∈ [8, 16, 32, 64] ∧
    r.pa % (r.width / 8) = 0 ∧
    (∀ c off, region r.pa = .spad c off → ((s.core c).spadPlace off).isSome = true) ∧ am.acq = false ∧
    r.op = .atomic .add [(j, x, y)] ∧ (r.width = 32 ∨ r.width = 64) ∧ isGrain r.grain = true ∧
    s.isBad r.pa (r.width / 8) = false ∧ j < 256 * e.part.length ∧ e.part.Nodup ∧
    mapWfFrom Lane.zero 0 (s.core p).lanes = true ∧ (s.core p).parityBad = [] ∧ x < 2 ^ r.width ∧ y < 2 ^ r.width :=
  ⟨by decide +kernel, by decide +kernel, by decide +kernel, by decide +kernel, by decide +kernel, by decide +kernel,
    by decide +kernel, by and_intros <;> decide +kernel, memOk_of _ _ rfl (by decide +kernel) (by decide +kernel),
    by decide +kernel, by decide +kernel, by decide +kernel,
    (by intro c off h; have h2 := h.symm.trans (by decide : region 0x60004 = .hbm 0x60004); cases h2), by and_intros <;> decide +kernel⟩

theorem wit_SendAndReductionServersStart_deposit :
    let s : State := wState (wWith { wStrand with x := wRegs [1, 2, 0xffff00082400, 0x1ffffffff] }) wCtx wMem
    let r1 : BitVec 5 := 3
    let p : CoreId := 0
    let c := s.myCtx
    let x := s.reg r1
    let l := x.extractLsb' 0 10
    s.calm = true ∧ (s.ctx c).aborted = false ∧ l.toNat ∉ (s.ctx c).preempted ∧ (s.ctx c).route l.toNat = some p ∧
    field x 63 49 = 0 ∧ field x 31 20 = 0 ∧ field x 19 17 ≤ 5 ∧ l.toNat < (s.ctx c).size ∧ bit x 15 = false ∧
    field x 48 32 < 65536 :=
  by decide +kernel

theorem wit_SendAndReductionServersStart_red :
    let s : State := wState (wWith { wStrand with x := wRegs [1, 2, 0x98000, 0x1ffffffff] }) wCtx wMem
    let r1 : BitVec 5 := 3
    let p : CoreId := 0
    let c := s.myCtx
    let x := s.reg r1
    let l := x.extractLsb' 0 10
    s.calm = true ∧ (s.ctx c).aborted = false ∧ l.toNat ∉ (s.ctx c).preempted ∧ (s.ctx c).route l.toNat = some p ∧
    field x 63 49 = 0 ∧ field x 31 20 = 0 ∧ field x 19 17 ≤ 5 ∧ l.toNat < (s.ctx c).size ∧ bit x 15 = true :=
  by decide +kernel

theorem wit_SendAndReductionServersStart_vsend :
    let e : QEntry := { wEntry ((encode (.vsend 2 3 1)).getD 0) with
      x1 := 0x700082400
      vlen := 6
      vtype := 4 }
    let s : State := wState { wWith { wStrand with queue := [e], part := [0] } with
      lanes := wLanes } wCtx wMem
    let p : CoreId := 0
    let q : CoreId := 0
    let t : StrandId := 0
    let d : CtxId := 0
    let k := s.core q
    let st := s.strand q t
    let to' := e.x1
    s.mayRun q t e (.vsend 2 3 1) ∧ k.serves = some d ∧ st.relaxed = [] ∧ s.extRelaxed q t = false ∧ k.copies = [] ∧
    s.windowDirty q = false ∧ (s.ctx d).aborted = false ∧ (to'.extractLsb' 0 10).toNat ∉ (s.ctx d).preempted ∧
    (s.ctx d).route (to'.extractLsb' 0 10).toNat = some p ∧ (to'.extractLsb' 0 10).toNat < (s.ctx d).size ∧
    field to' 63 49 = 0 ∧ field to' 31 20 = 0 ∧ field to' 19 17 ≤ 5 ∧ bit to' 15 = false ∧
    field to' 48 32 + e.vlen.toNat ≤ 65536 :=
  ⟨by unfold State.mayRun; decide +kernel, by and_intros <;> decide +kernel⟩

theorem wit_SendAndReductionServersStart_xred :
    let e : QEntry := { wEntry ((encode (.xred .add 1 3 0)).getD 0) with
      x1 := 5
      vlen := 6
      vtype := 20
      ticket := 2 }
    let s : State := { wState { wWith { wStrand with queue := [e], part := [0] } with
      lanes := wLanes } wCtx wMem with
      chains := State.reset.chains.set 5 { Chain.reset with valid := true, first := true, last := true } }
    let q : CoreId := 0
    let t : StrandId := 0
    let g := fin16 (field e.x1 3 0)
    let chain := s.chains[g]
    s.mayRun q t e (.xred .add 1 3 0) ∧ field e.x1 63 4 = 0 ∧ chain.valid = true ∧ chain.first = true ∧
    chain.last = true ∧ chain.header = none ∧ chain.results = [] ∧ s.xredTurn g q t e = true :=
  ⟨by unfold State.mayRun; decide +kernel, by decide +kernel, by decide +kernel, by decide +kernel, by decide +kernel,
    by decide +kernel, by decide +kernel, xredTurn_of _ _ rfl _ _ _ _ (by decide +kernel) (by decide +kernel) (by decide +kernel)⟩

theorem wit_SendAndReductionServersStart_size :
    let s : State := wState (wWith { wStrand with x := wRegs [1, 2, 0x82401, 0x1ffffffff] }) wCtx wMem
    let r1 : BitVec 5 := 3
    let c := s.myCtx
    let x := s.reg r1
    let l := x.extractLsb' 0 10
    s.calm = true ∧
    (field x 63 49 ≠ 0 ∨ field x 31 20 ≠ 0 ∨ 5 < field x 19 17 ∨ (s.ctx c).size ≤ l.toNat ∨ bit x 15 = false ∧ 65536 ≤ field x 48 32) ∧
    s.me.tact = false :=
  by decide +kernel

theorem wit_SendAndReductionServersStart_offset :
    let s : State := wState (wWith { wStrand with x := wRegs [1, 2, 0x1000000082400, 0x1ffffffff] }) wCtx wMem
    let r1 : BitVec 5 := 3
    let c := s.myCtx
    let x := s.reg r1
    let l := x.extractLsb' 0 10
    s.calm = true ∧
    (field x 63 49 ≠ 0 ∨ field x 31 20 ≠ 0 ∨ 5 < field x 19 17 ∨ (s.ctx c).size ≤ l.toNat ∨ bit x 15 = false ∧ 65536 ≤ field x 48 32) ∧
    s.me.tact = false :=
  by decide +kernel

theorem wit_SendAndReductionServersStart_rserve :
    let s : State := wState { wWith { wStrand with x := wRegs [1, 2, 0x10000001000] } with
      spad := Memory.write [] 0x101000 (leBytes 8 0x01000004) } wCtx wMem
    let r1 : BitVec 5 := 3
    let s1 : State := (s.place s.cur s.myCtx s.isRuntime false (s.reg r1) 32 .change).2
    let pl : Place := ⟨0x10000001000, false, 32⟩
    let off : Nat := 0x1000
    let c := s.myCtx
    let x := s.reg r1
    s.calm = true ∧ x.toNat % 32 = 0 ∧ s.memOk ∧ s.waiters = [] ∧ s.mine.server = none ∧ s.mine.redHeld = [] ∧
    s.me.firing = none ∧ s.place s.cur c s.isRuntime false x 32 .change = (.ok pl, s1) ∧
    region pl.pa = .spad s.cur off ∧ s.isBad pl.pa 32 = false ∧
    recordOk (s.homeWord pl.pa) (s.homeWord (pl.pa + 24)) = true :=
  ⟨by decide +kernel, by decide +kernel, memOk_of _ _ rfl (by decide +kernel) (by decide +kernel),
    by decide +kernel, by decide +kernel, by decide +kernel, by decide +kernel, Prod.ext (by decide +kernel) rfl,
    by and_intros <;> decide +kernel⟩

theorem wit_MessagesTakeEffectOnArrival_deposit :
    let s : State := { wState { wCore with
        strands := (wCore.strands.set 0 { wStrand with
          part := [0]
          chanmap := 0xc2 }).set 1 { wStrand with wait := some .deposit }
        lanes := wLanes } wCtx wMem with
      net := [.deposit ⟨0, 1, false, 0, 0, 0, 2, 4, [some 0x99, none]⟩, .wake 0 0 0 1] }
    let rest : List Msg := [.wake 0 0 0 1]
    let d : Deposit := ⟨0, 1, false, 0, 0, 0, 2, 4, [some 0x99, none]⟩
    let p : CoreId := 0
    let c : CtxId := 0
    let reg : Nat := 28
    let w : Nat := 32
    let k := s.core p
    let open' (c : CtxId) (l : Nat) (p : CoreId) : Prop :=
      (s.ctx c).aborted = false ∧ l ∉ (s.ctx c).preempted ∧ (s.ctx c).route l = some p
    let st := s.strand p d.strand
    let held := 256 * st.part.length
    s.net = .deposit d :: rest ∧ open' d.ctx d.lcore.toNat p ∧ k.serves = some d.ctx ∧ k.channels = [] ∧
    d.vector = false ∧ (s.strand d.fromCore d.fromStrand).wait = some .deposit ∧ st.halted = false ∧
    chanBinding st.chanmap d.ch = some (reg, w) ∧ st.part.Nodup ∧ mapWfFrom Lane.zero 0 k.lanes = true ∧
    (∀ j < d.elems.length, d.offset + j < held → (k.lane st.part (d.offset + j)).arrived.getLsbD d.ch.toNat = false) :=
  by decide +kernel

theorem wit_MessagesTakeEffectOnArrival_held :
    let s : State := wState wCore wCtx wMem
    let m : RedMsg := ⟨false, 0, some 5, 7, none, 0, 0, false, 9⟩
    let p : CoreId := 0
    let c : CtxId := 0
    let dev : BitVec 9 := 5
    let k := s.core p
    let open' (c : CtxId) (l : Nat) (p : CoreId) : Prop :=
      (s.ctx c).aborted = false ∧ l ∉ (s.ctx c).preempted ∧ (s.ctx c).route l = some p
    s.plat.ready = true ∧ m.fromDev = some dev ∧ m.fromCore = none ∧ open' m.ctx m.lcore.toNat p ∧
    k.serves = some m.ctx ∧ k.server = none ∧ (∀ y ∈ k.redHeld, y.fromCore = none) :=
  by decide +kernel

theorem wit_MessagesTakeEffectOnArrival_red :
    let s : State := wState { wCore with
      server := some ⟨0, 0x10000001000, 0x30000, 0, 0, 3, [], [(3, 4, 7, 1), (2, 5, 7, 1)], false⟩ } wCtx wMem
    let m : RedMsg := ⟨false, 0, some 5, 7, none, 0, 0, false, 9⟩
    let p : CoreId := 0
    let c : CtxId := 0
    let dev : BitVec 9 := 5
    let v : Server := ⟨0, 0x10000001000, 0x30000, 0, 0, 3, [], [(3, 4, 7, 1), (2, 5, 7, 1)], false⟩
    let k := s.core p
    let open' (c : CtxId) (l : Nat) (p : CoreId) : Prop :=
      (s.ctx c).aborted = false ∧ l ∉ (s.ctx c).preempted ∧ (s.ctx c).route l = some p
    s.plat.ready = true ∧ m.fromDev = some dev ∧ m.fromCore = none ∧ open' m.ctx m.lcore.toNat p ∧
    k.serves = some m.ctx ∧ k.server = some v ∧ k.redHeld = [] ∧ m.stop = false ∧ v.waitingParent = false ∧
    (v.children.all fun (y : Nat × Nat × Nat × Word) => !decide (y.1 = v.round ∧ y.2.1 = dev.toNat ∧ y.2.2.1 = m.fromLcore.toNat)) = true ∧
    ¬((v.locals.filter fun (y : Nat × Nat × Word) => decide (y.1 = v.round)).length = field v.rec0 31 24 ∧
      (v.children.filter fun (y : Nat × Nat × Nat × Word) => decide (y.1 = v.round)).length = field v.rec0 23 16) ∧
    (v.children.filter fun (y : Nat × Nat × Nat × Word) => decide (y.1 = v.round)).length + 1 ≠ field v.rec0 23 16 :=
  by decide +kernel

theorem wit_MessagesTakeEffectOnArrival_steal :
    let s : State := { wState { wCore with
        bag := [⟨0x60000, 0x60020, 0⟩, ⟨0x60040, 0x60060, 2⟩, ⟨0x60080, 0x600a0, 8⟩] } { wCtx with
        entry := { wCtx.entry with width := 2 }
        cores := [some 0, some 1]
        routes := [some 0, some 1] } wMem with
      net := [.steal 0 0 0 1 true true, .wake 0 0 0 1] }
    let rest : List Msg := [.wake 0 0 0 1]
    let p : CoreId := 0
    let q : CoreId := 1
    let c : CtxId := 0
    let l : Nat := 0
    let thief : BitVec 10 := 1
    let so : Bool := true
    let lo : Bool := true
    let x : Pair := ⟨0, 0, 0⟩
    let s0 : State := { s with net := rest }
    let k := s.core p
    let open' (c : CtxId) (l : Nat) (p : CoreId) : Prop :=
      (s.ctx c).aborted = false ∧ l ∉ (s.ctx c).preempted ∧ (s.ctx c).route l = some p
    let eligible (x : Pair) : Bool := if s0.pairClass p c x = .long then lo else so
    s.net = .steal p c l thief so lo :: rest ∧ k.serves = some c ∧ l ∉ (s.ctx c).preempted ∧ k.deliveries = [] ∧ k.bag ≠ [] ∧
    (s.ctx c).replay.running = 0 ∧ open' c thief.toNat q ∧ k.bag.all eligible = true :=
  by decide +kernel

theorem wit_MessagesTakeEffectOnArrival_refused :
    let s : State := { wState { wCore with
        bag := [⟨0x60000, 0x60020, 0⟩, ⟨0x60040, 0x60060, 2⟩, ⟨0x60080, 0x600a0, 8⟩] } { wCtx with
        entry := { wCtx.entry with width := 2 }
        cores := [some 0, some 1]
        routes := [some 0, some 1] } wMem with
      net := [.steal 0 0 0 1 false false] }
    let rest : List Msg := []
    let p : CoreId := 0
    let q : CoreId := 1
    let c : CtxId := 0
    let l : Nat := 0
    let thief : BitVec 10 := 1
    let so : Bool := false
    let lo : Bool := false
    let x : Pair := ⟨0, 0, 0⟩
    let s0 : State := { s with net := rest }
    let k := s.core p
    let open' (c : CtxId) (l : Nat) (p : CoreId) : Prop :=
      (s.ctx c).aborted = false ∧ l ∉ (s.ctx c).preempted ∧ (s.ctx c).route l = some p
    let eligible (x : Pair) : Bool := if s0.pairClass p c x = .long then lo else so
    s.net = .steal p c l thief so lo :: rest ∧ k.serves = some c ∧ l ∉ (s.ctx c).preempted ∧ k.deliveries = [] ∧ k.bag ≠ [] ∧
    (s.ctx c).replay.running = 0 ∧ open' c thief.toNat q ∧ k.bag.any eligible = false :=
  by decide +kernel

theorem wit_MessagesTakeEffectOnArrival_give :
    let s : State := { wState { wWith { wStrand with wait := some .pair } with
        sweep := some ⟨[1], 0⟩
        bag := List.replicate 1022 ⟨0x60080, 0x600a0, 8⟩ } wCtx wMem with
      net := [.give 0 0 0 [⟨0x60000, 0x60020, 0⟩, ⟨0x60040, 0x60060, 2⟩]] }
    let rest : List Msg := []
    let p : CoreId := 0
    let c : CtxId := 0
    let ps : List Pair := [⟨0x60000, 0x60020, 0⟩, ⟨0x60040, 0x60060, 2⟩]
    let k := s.core p
    s.net = .give p c 0 ps :: rest ∧ k.serves = some c ∧ k.lcore.toNat = 0 ∧ ps ≠ [] ∧ k.deliveries = [] ∧
    k.bag.length + ps.length ≤ 1024 ∧ (s.ctx c).hungrySet = [] :=
  by decide +kernel

theorem wit_MessagesTakeEffectOnArrival_nothing :
    let s : State := { wState { wCore with
        sweep := some ⟨[1, 0], 3⟩
        asked := true } { wCtx with
        entry := { wCtx.entry with width := 2 }
        cores := [some 0, some 1]
        routes := [some 0, some 1] } wMem with
      net := [.give 0 0 0 []] }
    let rest : List Msg := []
    let p : CoreId := 0
    let q : CoreId := 1
    let c : CtxId := 0
    let ps : List Pair := []
    let victim : Nat := 1
    let gen : Nat := 3
    let vs : List Nat := [0]
    let k := s.core p
    let open' (c : CtxId) (l : Nat) (p : CoreId) : Prop :=
      (s.ctx c).aborted = false ∧ l ∉ (s.ctx c).preempted ∧ (s.ctx c).route l = some p
    s.net = .give p c 0 ps :: rest ∧ k.serves = some c ∧ k.lcore.toNat = 0 ∧ ps = [] ∧ k.asked = true ∧ k.sweep = some ⟨victim :: vs, gen⟩ ∧
    open' c victim q :=
  by decide +kernel

theorem wit_MessagesTakeEffectOnArrival_fwd :
    let s : State := { wState { wWith { wStrand with wait := some .pair } with
        bag := [⟨0x60000, 0x60020, 0⟩, ⟨0x60040, 0x60060, 2⟩, ⟨0x60080, 0x600a0, 8⟩] } wCtx wMem with
      net := [.fwd 0 0 0 ⟨0x60000, 0x60020, 0⟩] }
    let rest : List Msg := []
    let p : CoreId := 0
    let c : CtxId := 0
    let x : Pair := ⟨0x60000, 0x60020, 0⟩
    let k := s.core p
    s.net = .fwd p c 0 x :: rest ∧ k.serves = some c ∧ k.lcore.toNat = 0 ∧ k.deliveries = [] ∧ k.bag.length < 1024 ∧
    (s.ctx c).hungrySet = [] :=
  by decide +kernel

theorem wit_MessagesTakeEffectOnArrival_wake :
    let s : State := { wState { wWith { wStrand with wait := some .pair } with
        bag := [⟨0x60000, 0x60020, 0⟩, ⟨0x60040, 0x60060, 2⟩, ⟨0x60080, 0x600a0, 8⟩]
        hungry := true } wCtx wMem with
      net := [.wake 0 0 0 0] }
    let rest : List Msg := []
    let p : CoreId := 0
    let c : CtxId := 0
    let pusher : BitVec 10 := 0
    let k := s.core p
    s.net = .wake p c 0 pusher :: rest ∧ k.serves = some c ∧ k.lcore.toNat = 0 ∧ k.bag ≠ [] :=
  by decide +kernel

theorem wit_PortWordInstructionsComplete_take :
    let s : State := wState (wWith { wStrand with
      x := wRegs [1, 2, 0x60008, 0x60048] }) wCtx (wMem.write 0x60008 (leBytes 8 0x8877665544332211))
    let r1 : BitVec 5 := 3
    let s1 : State := (s.nodeWord (s.reg r1).toNat .change).2
    let u : Place := ⟨0x60008, false, 32⟩
    let a := s.reg r1
    s.calm = true ∧ s.memOk ∧ s.tlbOk ∧ s.waiters = [] ∧ s.retries = [] ∧ onDevice u.pa = true ∧ a.toNat % 8 = 0 ∧
    s.nodeWord a.toNat .change = (.ok u, s1) ∧ s.isBad u.pa 8 = false ∧ s.isFull u.pa = true :=
  ⟨by decide +kernel, memOk_of _ _ rfl (by decide +kernel) (by decide +kernel), tlbOk_of _ _ rfl (by decide),
    by decide +kernel, by decide +kernel, by decide +kernel, by decide +kernel, Prod.ext (by decide +kernel) rfl,
    by decide +kernel, by decide +kernel⟩

theorem wit_PortWordInstructionsComplete_wait :
    let s : State := ((wState (wWith { wStrand with
      x := wRegs [1, 2, 0x60008, 0x60048] }) wCtx (wMem.write 0x60000 (leBytes 8 0x8877665544332211))).setFull 0x60008 false)
    let r1 : BitVec 5 := 3
    let s1 : State := (s.nodeWord (s.reg r1).toNat .change).2
    let u : Place := ⟨0x60008, false, 32⟩
    let a := s.reg r1
    s.calm = true ∧ s.memOk ∧ s.tlbOk ∧ s.waiters = [] ∧ s.retries = [] ∧ onDevice u.pa = true ∧ a.toNat % 8 = 0 ∧
    s.nodeWord a.toNat .change = (.ok u, s1) ∧ s.isBad u.pa 8 = false ∧ s.isFull u.pa = false ∧ s.watches = [] :=
  ⟨by decide +kernel, memOk_of _ _ rfl (by decide +kernel) (by decide +kernel), tlbOk_of _ _ rfl (by decide),
    by decide +kernel, by decide +kernel, by decide +kernel, by decide +kernel, Prod.ext (by decide +kernel) rfl,
    by and_intros <;> decide +kernel⟩

theorem wit_PortWordInstructionsComplete_header :
    let s : State := wState (wWith { wStrand with
      x := wRegs [1, 2, 0x60000] }) wCtx (wMem.write 0x60000 (leBytes 8 0x8877665544332211))
    let r1 : BitVec 5 := 3
    let s1 : State := (s.nodeWord (s.reg r1).toNat .peek).2
    let u : Place := ⟨0x60000, false, 32⟩
    let a := s.reg r1
    s.calm = true ∧ s.memOk ∧ s.tlbOk ∧ s.waiters = [] ∧ s.retries = [] ∧ onDevice u.pa = true ∧ a.toNat % 32 = 0 ∧
    s.nodeWord a.toNat .peek = (.ok u, s1) ∧ s.isBad u.pa 8 = false ∧ s.isFull u.pa = true :=
  ⟨by decide +kernel, memOk_of _ _ rfl (by decide +kernel) (by decide +kernel), tlbOk_of _ _ rfl (by decide),
    by decide +kernel, by decide +kernel, by decide +kernel, by decide +kernel, Prod.ext (by decide +kernel) rfl,
    by decide +kernel, by decide +kernel⟩

theorem wit_PortWordInstructionsComplete_link :
    let s : State := wState (wWith { wStrand with
      x := wRegs [1, 2, 0x60000, 0x60048] }) wCtx (wMem.write 0x60000 (leBytes 8 0x8877665544332211))
    let r1 : BitVec 5 := 3
    let s1 : State := (s.nodeWord (s.reg r1).toNat .change).2
    let r2 : BitVec 5 := 4
    let s2 : State := (s1.nodeWord (s.reg r2).toNat .change).2
    let u : Place := ⟨0x60000, false, 32⟩
    let v : Place := ⟨0x60048, false, 32⟩
    let a := s.reg r1
    let b := s.reg r2
    s.calm = true ∧ s.memOk ∧ s.tlbOk ∧ s.waiters = [] ∧ s.retries = [] ∧ onDevice u.pa = true ∧ a.toNat % 8 = 0 ∧
    b.toNat % 8 = 0 ∧ s.nodeWord a.toNat .change = (.ok u, s1) ∧ s1.nodeWord b.toNat .change = (.ok v, s2) ∧
    onDevice v.pa = true ∧ u.pa ≠ v.pa ∧ (field a 4 3 ≠ 0 ∨ field b 4 3 ≠ 0) ∧ s.isBad u.pa 8 = false ∧
    s.isBad v.pa 8 = false :=
  ⟨by decide +kernel, memOk_of _ _ rfl (by decide +kernel) (by decide +kernel), tlbOk_of _ _ rfl (by decide),
    by decide +kernel, by decide +kernel, by decide +kernel, by decide +kernel, by decide +kernel,
    Prod.ext (by decide +kernel) rfl, Prod.ext (by decide +kernel) rfl, by and_intros <;> decide +kernel⟩

theorem wit_PortWordInstructionsComplete_principal :
    let s : State := wState (wWith { wStrand with
      x := wRegs [1, 2, 0x60000, 0x60040] }) wCtx (wMem.write 0x60000 (leBytes 8 0x8877665544332211))
    let r1 : BitVec 5 := 3
    let s1 : State := (s.nodeWord (s.reg r1).toNat .change).2
    let r2 : BitVec 5 := 4
    let s2 : State := (s1.nodeWord (s.reg r2).toNat .change).2
    let u : Place := ⟨0x60000, false, 32⟩
    let v : Place := ⟨0x60040, false, 32⟩
    let a := s.reg r1
    let b := s.reg r2
    let k := s.ctx s.myCtx
    s.calm = true ∧ s.memOk ∧ s.tlbOk ∧ s.waiters = [] ∧ s.retries = [] ∧ onDevice u.pa = true ∧ a.toNat % 8 = 0 ∧
    b.toNat % 8 = 0 ∧ s.nodeWord a.toNat .change = (.ok u, s1) ∧ s1.nodeWord b.toNat .change = (.ok v, s2) ∧
    onDevice v.pa = true ∧ u.pa ≠ v.pa ∧ s.isBad u.pa 8 = false ∧ s.isBad v.pa 8 = false ∧ field a 4 3 = 0 ∧
    field b 4 3 = 0 ∧ s.mine.bag.length < 1024 ∧ k.hungrySet = [] ∧ k.replay.running = 0 :=
  ⟨by decide +kernel, memOk_of _ _ rfl (by decide +kernel) (by decide +kernel), tlbOk_of _ _ rfl (by decide),
    by decide +kernel, by decide +kernel, by decide +kernel, by decide +kernel, by decide +kernel,
    Prod.ext (by decide +kernel) rfl, Prod.ext (by decide +kernel) rfl, by and_intros <;> decide +kernel⟩

theorem wit_PortWordInstructionsComplete_seth :
    let s : State := wState (wWith { wStrand with
      x := wRegs [1, 2, 0x60000, 0xfedcba9876543210] }) wCtx (wMem.write 0x60000 (leBytes 8 0x8877665544332211))
    let r1 : BitVec 5 := 3
    let s1 : State := (s.nodeWord (s.reg r1).toNat .change).2
    let u : Place := ⟨0x60000, false, 32⟩
    let a := s.reg r1
    s.calm = true ∧ s.memOk ∧ s.tlbOk ∧ s.waiters = [] ∧ s.retries = [] ∧ onDevice u.pa = true ∧ a.toNat % 32 = 0 ∧
    s.nodeWord a.toNat .change = (.ok u, s1) ∧ s.isBad u.pa 8 = false :=
  ⟨by decide +kernel, memOk_of _ _ rfl (by decide +kernel) (by decide +kernel), tlbOk_of _ _ rfl (by decide),
    by decide +kernel, by decide +kernel, by decide +kernel, by decide +kernel, Prod.ext (by decide +kernel) rfl,
    by decide +kernel⟩

theorem wit_NodesPairsAndFirings_alloc :
    let s : State := wState { wCore with npool := 0x3000 } wCtx (wWords wMem 0x60000 [0x6002, 7, 7, 7])
    let pl : Place := ⟨0x60000, false, 32⟩
    let c := s.myCtx
    let k := s.ctx c
    let head := s.mine.npool.toNat * 32
    s.calm = true ∧ s.memOk ∧ s.tlbOk ∧ s.waiters = [] ∧ s.retries = [] ∧ k.replay.running = 0 ∧
    k.notifyEn = false ∧ s.mine.npool ≠ 0 ∧ s.me.progress = [] ∧ onDevice pl.pa = true ∧ s.isBad pl.pa 32 = false ∧
    (∀ j < 4, s.nodeWord (head + 8 * j) .change = (.ok { pl with pa := pl.pa + 8 * j }, s) ∧ s.isFull (pl.pa + 8 * j) = true) :=
  ⟨by decide +kernel, memOk_of _ _ rfl (by decide +kernel) (by decide +kernel), tlbOk_of _ _ rfl (by decide),
    by decide +kernel, rfl, by decide +kernel, by decide +kernel, by decide +kernel, by decide +kernel,
    by decide +kernel, by decide +kernel,
    (by intro j hj; interval_cases j <;> exact ⟨Prod.ext (by decide) rfl, by decide⟩)⟩

theorem wit_NodesPairsAndFirings_push :
    let r1 : BitVec 5 := 3
    let r2 : BitVec 5 := 4
    let x : Pair := ⟨0, 0, 0⟩
    let s : State := wState (wWith { wStrand with x := wRegs [1, 2, 0x60000, 0x60020] }) wCtx wMem
    let c := s.myCtx
    let k := s.ctx c
    let a := s.reg r1
    let b := s.reg r2
    s.calm = true ∧ s.memOk ∧ s.tlbOk ∧ s.waiters = [] ∧ s.retries = [] ∧ k.replay.running = 0 ∧
    k.notifyEn = false ∧ b.toNat % 32 = 0 ∧ nodeOk (a.toNat / 32 * 32) = true ∧ nodeOk b.toNat = true ∧
    a.toNat / 4 % 8 = 0 ∧ s.mine.bag.length < 1024 ∧ k.hungrySet = [] ∧ a.toNat % 4 = 0 :=
  ⟨by decide +kernel, memOk_of _ _ rfl (by decide +kernel) (by decide +kernel), tlbOk_of _ _ rfl (by decide),
    by and_intros <;> decide +kernel⟩

theorem wit_NodesPairsAndFirings_spare :
    let r1 : BitVec 5 := 3
    let r2 : BitVec 5 := 4
    let x : Pair := ⟨0, 0, 0⟩
    let s : State := wState (wWith { wStrand with x := wRegs [1, 2, 0x60001, 0x60020] }) wCtx wMem
    let c := s.myCtx
    let k := s.ctx c
    let a := s.reg r1
    let b := s.reg r2
    s.calm = true ∧ s.memOk ∧ s.tlbOk ∧ s.waiters = [] ∧ s.retries = [] ∧ k.replay.running = 0 ∧
    k.notifyEn = false ∧ b.toNat % 32 = 0 ∧ nodeOk (a.toNat / 32 * 32) = true ∧ nodeOk b.toNat = true ∧
    a.toNat / 4 % 8 = 0 ∧ s.mine.bag.length < 1024 ∧ k.hungrySet = [] ∧ a.toNat % 4 = 1 :=
  ⟨by decide +kernel, memOk_of _ _ rfl (by decide +kernel) (by decide +kernel), tlbOk_of _ _ rfl (by decide),
    by and_intros <;> decide +kernel⟩

theorem wit_NodesPairsAndFirings_drop :
    let r1 : BitVec 5 := 3
    let x : Pair := ⟨0, 0, 0⟩
    let s : State := wState (wWith { wStrand with x := wRegs [1, 2, 0x60002, 0x60020] }) { wCtx with count := 2 } wMem
    let c := s.myCtx
    let k := s.ctx c
    let a := s.reg r1
    s.calm = true ∧ s.memOk ∧ s.tlbOk ∧ s.waiters = [] ∧ s.retries = [] ∧ k.replay.running = 0 ∧
    k.notifyEn = false ∧ a.toNat / 4 % 8 = 0 ∧ a.toNat % 4 = 2 ∧ k.count - 1 ≠ 0 :=
  ⟨by decide +kernel, memOk_of _ _ rfl (by decide +kernel) (by decide +kernel), tlbOk_of _ _ rfl (by decide),
    by and_intros <;> decide +kernel⟩

theorem wit_NodesPairsAndFirings_done :
    let s : State := wState { wWith { wStrand with
        firing := some ⟨0x60000, 0x60020, 0⟩
        part := [0]
        cls := .short
        resumed := true } with
      uses := [(0, .short 0)] } { wCtx with count := 1 } wMem
    let x : Pair := ⟨0x60000, 0x60020, 0⟩
    let c := s.myCtx
    let k := s.ctx c
    s.calm = true ∧ s.memOk ∧ s.tlbOk ∧ s.waiters = [] ∧ s.retries = [] ∧ k.replay.running = 0 ∧
    k.notifyEn = false ∧ s.me.firing = some x ∧ s.mine.serves = some c ∧ s.me.replay = [] ∧ s.mine.laneReqs = [] ∧
    ¬(s.me.nextAt = s.me.pc ∧ 3 ≤ s.me.nstep.toNat) :=
  ⟨by decide +kernel, memOk_of _ _ rfl (by decide +kernel) (by decide +kernel), tlbOk_of _ _ rfl (by decide),
    by and_intros <;> decide +kernel⟩

theorem wit_NodesPairsAndFirings_last :
    let s : State := wState (wWith { wStrand with x := wRegs [1, 2, 0x60002, 0x60020] }) { wCtx with count := 1 } wMem
    let r1 : BitVec 5 := 3
    let a := s.reg r1
    let c := s.myCtx
    let k := s.ctx c
    s.calm = true ∧ s.memOk ∧ s.tlbOk ∧ s.waiters = [] ∧ s.retries = [] ∧ k.replay.running = 0 ∧
    k.notifyEn = false ∧ a.toNat / 4 % 8 = 0 ∧ a.toNat % 4 = 2 ∧ k.count = 1 :=
  ⟨by decide +kernel, memOk_of _ _ rfl (by decide +kernel) (by decide +kernel), tlbOk_of _ _ rfl (by decide),
    by and_intros <;> decide +kernel⟩

theorem wit_NodesPairsAndFirings_outside :
    let s : State := wState (wWith { wStrand with part := [0], cls := .short }) wCtx wMem
    let c := s.myCtx
    let k := s.ctx c
    s.calm = true ∧ s.memOk ∧ s.tlbOk ∧ s.waiters = [] ∧ s.retries = [] ∧ k.replay.running = 0 ∧
    k.notifyEn = false ∧ s.me.firing = none ∧ s.me.replay = [] ∧ s.mine.laneReqs = [] :=
  ⟨by decide +kernel, memOk_of _ _ rfl (by decide +kernel) (by decide +kernel), tlbOk_of _ _ rfl (by decide),
    by and_intros <;> decide +kernel⟩

theorem wit_NodesPairsAndFirings_nextLast :
    let s : State := wState (wWith { wStrand with firing := some ⟨0x60000, 0x60020, 0⟩ }) { wCtx with count := 1 } wMem
    let x : Pair := ⟨0x60000, 0x60020, 0⟩
    let c := s.myCtx
    let k := s.ctx c
    s.calm = true ∧ s.memOk ∧ s.tlbOk ∧ s.waiters = [] ∧ s.retries = [] ∧ k.replay.running = 0 ∧
    k.notifyEn = false ∧ s.me.firing = some x ∧ ¬(s.me.nextAt = s.me.pc ∧ 3 ≤ s.me.nstep.toNat) ∧ k.count = 1 :=
  ⟨by decide +kernel, memOk_of _ _ rfl (by decide +kernel) (by decide +kernel), tlbOk_of _ _ rfl (by decide),
    by and_intros <;> decide +kernel⟩

theorem wit_NodesPairsAndFirings_nextHunts :
    let s : State := wState (wWith { wStrand with firing := some ⟨0x60000, 0x60020, 0⟩ }) { wCtx with count := 3 } wMem
    let x : Pair := ⟨0x60000, 0x60020, 0⟩
    let c := s.myCtx
    let k := s.ctx c
    s.calm = true ∧ s.memOk ∧ s.tlbOk ∧ s.waiters = [] ∧ s.retries = [] ∧ k.replay.running = 0 ∧
    k.notifyEn = false ∧ s.me.firing = some x ∧ ¬(s.me.nextAt = s.me.pc ∧ 3 ≤ s.me.nstep.toNat) ∧ k.count - 1 ≠ 0 ∧
    s.mine.bag = [] ∧ k.spills s.mine.lcore.toNat = 0 :=
  ⟨by decide +kernel, memOk_of _ _ rfl (by decide +kernel) (by decide +kernel), tlbOk_of _ _ rfl (by decide),
    by and_intros <;> decide +kernel⟩

theorem wit_NodesPairsAndFirings_quiescent :
    let s : State := wState wCore wCtx wMem
    let c := s.myCtx
    let k := s.ctx c
    s.calm = true ∧ s.memOk ∧ s.tlbOk ∧ s.waiters = [] ∧ s.retries = [] ∧ k.replay.running = 0 ∧
    k.notifyEn = false ∧ s.me.firing = none ∧ k.count = 0 :=
  ⟨by decide +kernel, memOk_of _ _ rfl (by decide +kernel) (by decide +kernel), tlbOk_of _ _ rfl (by decide),
    by and_intros <;> decide +kernel⟩

theorem wit_NodesPairsAndFirings_hunt :
    let s : State := wState wCore { wCtx with count := 1 } wMem
    let c := s.myCtx
    let k := s.ctx c
    s.calm = true ∧ s.memOk ∧ s.tlbOk ∧ s.waiters = [] ∧ s.retries = [] ∧ k.replay.running = 0 ∧
    k.notifyEn = false ∧ s.me.firing = none ∧ k.count ≠ 0 ∧ s.mine.bag = [] ∧ k.spills s.mine.lcore.toNat = 0 :=
  ⟨by decide +kernel, memOk_of _ _ rfl (by decide +kernel) (by decide +kernel), tlbOk_of _ _ rfl (by decide),
    by and_intros <;> decide +kernel⟩

theorem wit_NodesPairsAndFirings_obtain :
    let x : Pair := ⟨0x60000, 0x60020, 2⟩
    let bag : List Pair := [⟨0x60080, 0x600a0, 8⟩]
    let s : State := wState { wWith { wStrand with cls := .short, part := [0] } with
      bag := [⟨0x60080, 0x600a0, 8⟩, ⟨0x60000, 0x60020, 2⟩]
      rules := [(0x001002, some (0x01000000, 0x30000)), (0x002001, some (0x01000000, 0x30000)), (0x001001, some (0x01000000, 0x30000))] } { wCtx with
      count := 1 } (wWords wMem 0x60000 [0x0020000000000000, 0, 0, 0, 0x0010000000000000])
    let u : Place := ⟨0x60000, false, 32⟩
    let v : Place := ⟨0x60020, false, 32⟩
    let w : Word := 0x01000000
    let h : Word := 0x30000
    let c := s.myCtx
    let k := s.ctx c
    let h1 := s.homeWord u.pa
    let h2 := s.homeWord v.pa
    let o := s.object c (field w 35 24)
    s.calm = true ∧ s.memOk ∧ s.tlbOk ∧ s.waiters = [] ∧ s.retries = [] ∧ k.replay.running = 0 ∧
    k.notifyEn = false ∧ s.me.firing = none ∧ k.count ≠ 0 ∧ s.mine.bag = bag ++ [x] ∧ onDevice u.pa = true ∧
    onDevice v.pa = true ∧ s.nodeWord x.node1.toNat .peek = (.ok u, s) ∧
    s.nodeWord x.node2.toNat .peek = (.ok v, s) ∧ s.isFull u.pa = true ∧ s.isFull v.pa = true ∧
    s.isBad u.pa 8 = false ∧ s.isBad v.pa 8 = false ∧ field h1 63 52 ≠ 0xffe ∧ field h2 63 52 ≠ 0xffe ∧
    bit h1 51 = false ∧ bit h2 51 = false ∧
    s.lookupRule s.cur c (field h1 63 52) (field h2 63 52) = (some (w, h), s) ∧ o.valid = true ∧
    o.mask &&& ~~~s.mine.capmask = 0 ∧ s.me.cls = (if field w 39 38 = 1 then .long else .short) ∧
    s.me.leaving = false :=
  ⟨by decide +kernel, memOk_of _ _ rfl (by decide +kernel) (by decide +kernel), tlbOk_of _ _ rfl (by decide),
    by decide +kernel, by decide +kernel, by decide +kernel, by decide +kernel, rfl, by decide +kernel,
    by decide +kernel, by decide +kernel, by decide +kernel, Prod.ext (by decide +kernel) rfl,
    Prod.ext (by decide +kernel) rfl, by decide +kernel, by decide +kernel, by decide +kernel, by decide +kernel,
    by decide +kernel, by decide +kernel, by decide +kernel, by decide +kernel, Prod.ext (by decide +kernel) rfl,
    by and_intros <;> decide +kernel⟩

theorem wit_ContinuationsAndForwards_forward :
    let s : State := wState (wWith { wStrand with
      x := wRegs [1, 2, 0]
      firing := some ⟨0x60000, 0x60020, 1⟩ }) { wCtx with count := 1 } wMem
    let r1 : BitVec 5 := 3
    let q : CoreId := 0
    let p : Pair := ⟨0x60000, 0x60020, 1⟩
    let c := s.myCtx
    let k := s.ctx c
    let x := s.reg r1
    s.calm = true ∧ s.memOk ∧ s.tlbOk ∧ s.waiters = [] ∧ s.retries = [] ∧ k.replay.running = 0 ∧
    s.me.inNext = false ∧ s.me.resumed = false ∧ s.me.firing = some p ∧ x.toNat < k.size ∧ k.aborted = false ∧
    x.toNat ∉ k.preempted ∧ k.route x.toNat = some q :=
  ⟨by decide +kernel, memOk_of _ _ rfl (by decide +kernel) (by decide +kernel), tlbOk_of _ _ rfl (by decide),
    by and_intros <;> decide +kernel⟩

theorem wit_ContinuationsAndForwards_idle :
    let s : State := wState (wWith { wStrand with x := wRegs [1, 2, 0] }) wCtx wMem
    let c := s.myCtx
    let k := s.ctx c
    s.calm = true ∧ s.memOk ∧ s.tlbOk ∧ s.waiters = [] ∧ s.retries = [] ∧ k.replay.running = 0 ∧
    s.me.inNext = false ∧ s.me.firing = none ∧ s.me.tact = false :=
  ⟨by decide +kernel, memOk_of _ _ rfl (by decide +kernel) (by decide +kernel), tlbOk_of _ _ rfl (by decide),
    by and_intros <;> decide +kernel⟩

theorem wit_ContinuationsAndForwards_yield :
    let s : State := wState (wWith { wStrand with
      x := wRegs [1, 2, 3]
      firing := some ⟨0x60000, 0x60020, 1⟩
      progress := ((wNodes 17).flatMap fun a => [BitVec.ofNat 64 a, 0, 0, 0, 0])
      progressAt := 0x30000 }) { wCtx with count := 1 } wMem
    let p : Pair := ⟨0x60000, 0x60020, 1⟩
    let f : Nat → Nat := id
    let ns : List Nat := wNodes 17
    let pls : List Place := (wNodes 17).map fun a => ⟨a, false, 32⟩
    let c := s.myCtx
    let k := s.ctx c
    let nodesHeld : Prop := ns.length = 17 ∧ ns.Nodup ∧ (ns.map f).Pairwise (fun i j => i + 32 ≤ j ∨ j + 32 ≤ i) ∧
      pls = ns.map (fun a => Place.mk (f a) false 32) ∧
      ∀ a ∈ ns, a % 32 = 0 ∧ ∀ j < 4, onDevice (f a) = true ∧ f (a + 8 * j) = f a + 8 * j ∧
        s.nodeWord (a + 8 * j) .peek = (.ok ⟨f a + 8 * j, false, 32⟩, s) ∧
        s.nodeWord (a + 8 * j) .change = (.ok ⟨f a + 8 * j, false, 32⟩, s)
    s.calm = true ∧ s.memOk ∧ s.tlbOk ∧ s.waiters = [] ∧ s.retries = [] ∧ k.replay.running = 0 ∧
    s.me.inNext = false ∧ nodesHeld ∧ s.me.readq = [] ∧ s.me.progressAt = s.me.pc ∧ s.me.progress.length = 85 ∧
    nodesOf s.me.progress = ns ∧ s.mine.bag.length < 1024 ∧ k.hungrySet = [] ∧ s.me.firing = some p ∧ k.count ≠ 0 :=
  ⟨by decide +kernel, memOk_of _ _ rfl (by decide +kernel) (by decide +kernel), tlbOk_of _ _ rfl (by decide),
    by decide +kernel, by decide +kernel, by decide +kernel, by decide +kernel,
    ⟨rfl, by decide +kernel, by decide +kernel, rfl, nodes_of _ (by decide +kernel)⟩, by and_intros <;> decide +kernel⟩

theorem wit_ContinuationsAndForwards_first :
    let s : State := wState { wWith { wStrand with x := wRegs [1, 2, 3], firing := some ⟨0x70000, 0x70020, 1⟩ } with
      npool := 0x3000 } { wCtx with count := 1 }
      (wWords wMem 0x60000 ((List.range 16).flatMap fun j => [BitVec.ofNat 64 ((0x60020 + 32 * j) / 16), 0, 0, 0]))
    let p : Pair := ⟨0x70000, 0x70020, 1⟩
    let f : Nat → Nat := id
    let ns : List Nat := wNodes 17
    let pls : List Place := (wNodes 17).map fun a => ⟨a, false, 32⟩
    let c := s.myCtx
    let k := s.ctx c
    let n (j : Nat) : Nat := ns.getD j 0
    let node (j : Nat) : Nat := f (n j)
    let at' (a : Nat) : Word := s.homeWord (f a)
    let nodesHeld : Prop := ns.length = 17 ∧ ns.Nodup ∧ (ns.map f).Pairwise (fun i j => i + 32 ≤ j ∨ j + 32 ≤ i) ∧
      pls = ns.map (fun a => Place.mk (f a) false 32) ∧
      ∀ a ∈ ns, a % 32 = 0 ∧ ∀ j < 4, onDevice (f a) = true ∧ f (a + 8 * j) = f a + 8 * j ∧
        s.nodeWord (a + 8 * j) .peek = (.ok ⟨f a + 8 * j, false, 32⟩, s) ∧
        s.nodeWord (a + 8 * j) .change = (.ok ⟨f a + 8 * j, false, 32⟩, s)
    s.calm = true ∧ s.memOk ∧ s.tlbOk ∧ s.waiters = [] ∧ s.retries = [] ∧ k.replay.running = 0 ∧
    s.me.inNext = false ∧ nodesHeld ∧ s.me.readq = [] ∧ (s.me.progress = [] ∨ s.me.progressAt ≠ s.me.pc) ∧
    s.mine.npool.toNat * 32 = n 0 ∧
    (∀ j < 17, s.isBad (node j) 32 = false ∧ ∀ i < 4, s.isFull (node j + 8 * i) = true) ∧
    (∀ j < 16, linkNode (at' (n j)) = n (j + 1)) ∧ s.mine.bag.length < 1024 ∧ k.hungrySet = [] ∧
    s.me.firing = some p ∧ k.count ≠ 0 :=
  ⟨by decide +kernel, memOk_of _ _ rfl (by decide +kernel) (by decide +kernel), tlbOk_of _ _ rfl (by decide),
    by decide +kernel, by decide +kernel, by decide +kernel, by decide +kernel,
    ⟨rfl, by decide +kernel, by decide +kernel, rfl, nodes_of _ (by decide +kernel)⟩, by and_intros <;> decide +kernel⟩

theorem wit_ContinuationsAndForwards_resume :
    let s : State := wState (wWith { wStrand with
      x := wRegs [0x60000, 2, 3]
      cls := .short
      part := [0] }) wCtx (wCont { wStrand with x := wRegs [0xa, 0xb, 0xc, 0xd], cls := .short })
    let r1 : BitVec 5 := 1
    let f : Nat → Nat := id
    let ns : List Nat := wNodes 17
    let pls : List Place := (wNodes 17).map fun a => ⟨a, false, 32⟩
    let c := s.myCtx
    let k := s.ctx c
    let x := s.reg r1
    let n (j : Nat) : Nat := ns.getD j 0
    let node (j : Nat) : Nat := f (n j)
    let at' (a : Nat) : Word := s.homeWord (f a)
    let w0 := at' (n 0)
    let w2 := at' (n 0 + 16)
    let o := s.object c (field w2 27 16)
    let nodesHeld : Prop := ns.length = 17 ∧ ns.Nodup ∧ (ns.map f).Pairwise (fun i j => i + 32 ≤ j ∨ j + 32 ≤ i) ∧
      pls = ns.map (fun a => Place.mk (f a) false 32) ∧
      ∀ a ∈ ns, a % 32 = 0 ∧ ∀ j < 4, onDevice (f a) = true ∧ f (a + 8 * j) = f a + 8 * j ∧
        s.nodeWord (a + 8 * j) .peek = (.ok ⟨f a + 8 * j, false, 32⟩, s) ∧
        s.nodeWord (a + 8 * j) .change = (.ok ⟨f a + 8 * j, false, 32⟩, s)
    s.calm = true ∧ s.memOk ∧ s.tlbOk ∧ s.waiters = [] ∧ s.retries = [] ∧ k.replay.running = 0 ∧
    s.me.inNext = false ∧ nodesHeld ∧ x.toNat = n 0 ∧ n 0 % 32 = 0 ∧ (∀ j < 17, s.isBad (node j) 32 = false) ∧
    field w0 63 52 = 0xffe ∧ bit w0 50 = true ∧ bit w0 0 = false ∧ linkNode w0 = n 1 ∧
    field (at' (n 0 + 8)) 47 5 * 32 = n 2 ∧
    (∀ j < 14, linkNode (at' (n (2 + j))) = n (3 + j) ∧ bit (at' (n (2 + j))) 0 = false) ∧ o.valid = true ∧
    o.mask &&& ~~~s.mine.capmask = 0 ∧ s.me.cls = (if field w2 1 0 = 1 then .long else .short) ∧
    s.me.leaving = false ∧ s.me.firing = none ∧ s.me.readq = [] :=
  ⟨by decide +kernel, memOk_of _ _ rfl (by decide +kernel) (by decide +kernel), tlbOk_of _ _ rfl (by decide),
    by decide +kernel, by decide +kernel, by decide +kernel, by decide +kernel,
    ⟨rfl, by decide +kernel, by decide +kernel, rfl, nodes_of _ (by decide +kernel)⟩, by and_intros <;> decide +kernel⟩

theorem wit_CopiesAreAcceptedMovedAndEnded_cpy :
    let s : State := wState (wWith { wStrand with
      x := wRegs [1, 2, 0x60000] }) wCtx (wWords wMem 0x60000 [0x61000, 0x61064, 0x8000000000000064, 0x10000001000])
    let r1 : BitVec 5 := 3
    let s1 : State := (s.place s.cur s.myCtx s.isRuntime false (s.reg r1) 32 .read).2
    let pl : Place := ⟨0x60000, false, 32⟩
    let q : Nat := 0x10000001000
    let src : Place := ⟨0x31000, false, 32⟩
    let dst : Place := ⟨0x31000, false, 32⟩
    let x := s.reg r1
    let w (i : Nat) : Word := s.homeWord (pl.pa + 8 * i)
    let cmp : Option Nat := if w 3 = 0 then none else some q
    let entry (two : Bool) (toReg : Option (BitVec 5)) : CopyDesc :=
      { id := s.nextDesc + 1, ctx := s.myCtx, core := s.cur, lcore := s.mine.lcore.toNat, strand := s.str, ptroot := s.mine.ptroot
        background := bit (w 2) 63, stream := false, toReg := toReg, src := field (w 0) 55 0, dst := field (w 1) 55 0
        len := field (w 2) 39 0, rows := if two then field (w 4) 31 0 else 1
        sstride := if two then (w 5).toInt else 0, dstride := if two then (w 6).toInt else 0
        comp := cmp, sbKey := none, done := 0, slotOpen := false, down := false
        status := if field (w 2) 39 0 * (if two then field (w 4) 31 0 else 1) = 0 then some 0 else none }
    let reads (n : Nat) : Prop := x.toNat % n = 0 ∧ s.place s.cur s.myCtx s.isRuntime false x n .read = (.ok pl, s1) ∧
      onDevice pl.pa = true ∧ s.isBad pl.pa n = false ∧ field (w 0) 63 56 = 0 ∧ field (w 1) 63 56 = 0 ∧
      field (w 2) 61 40 = 0 ∧ bit (w 2) 62 = false ∧ (w 3 = 0 ∨ s1.compPlace (w 3) = some q)
    let apart (y : CopyDesc) : Prop := y.total = 0 ∨
      (streamRange y.src y.sstride y.len y.rows).2 ≤ (streamRange y.dst y.dstride y.len y.rows).1 ∨
      (streamRange y.dst y.dstride y.len y.rows).2 ≤ (streamRange y.src y.sstride y.len y.rows).1
    let slots : Prop := (s.descs.filter fun (y : CopyDesc) => decide (y.core = s.cur)).length < 16
    s.calm = true ∧ s.memOk ∧ s.tlbOk ∧ s.waiters = [] ∧ s.me.progress = [] ∧ slots ∧ reads 32 ∧
    apart (entry false none) :=
  ⟨by decide +kernel, memOk_of _ _ rfl (by decide +kernel) (by decide +kernel), tlbOk_of _ _ rfl (by decide),
    by decide +kernel, by decide +kernel, by decide +kernel,
    ⟨by decide, Prod.ext (by decide) rfl, by decide, by decide, by decide, by decide, by decide, by decide, .inr (by decide)⟩,
    by decide +kernel⟩

theorem wit_CopiesAreAcceptedMovedAndEnded_cpyw :
    let s : State := wState (wWith { wStrand with
      x := wRegs [1, 2, 0x60000] }) wCtx (wWords wMem 0x60000 [0x61064, 0x61000, 0x64, 0])
    let rd : BitVec 5 := 5
    let r1 : BitVec 5 := 3
    let s1 : State := (s.place s.cur s.myCtx s.isRuntime false (s.reg r1) 32 .read).2
    let pl : Place := ⟨0x60000, false, 32⟩
    let q : Nat := 0x31000
    let src : Place := ⟨0x31000, false, 32⟩
    let dst : Place := ⟨0x31000, false, 32⟩
    let x := s.reg r1
    let w (i : Nat) : Word := s.homeWord (pl.pa + 8 * i)
    let cmp : Option Nat := if w 3 = 0 then none else some q
    let entry (two : Bool) (toReg : Option (BitVec 5)) : CopyDesc :=
      { id := s.nextDesc + 1, ctx := s.myCtx, core := s.cur, lcore := s.mine.lcore.toNat, strand := s.str, ptroot := s.mine.ptroot
        background := bit (w 2) 63, stream := false, toReg := toReg, src := field (w 0) 55 0, dst := field (w 1) 55 0
        len := field (w 2) 39 0, rows := if two then field (w 4) 31 0 else 1
        sstride := if two then (w 5).toInt else 0, dstride := if two then (w 6).toInt else 0
        comp := cmp, sbKey := none, done := 0, slotOpen := false, down := false
        status := if field (w 2) 39 0 * (if two then field (w 4) 31 0 else 1) = 0 then some 0 else none }
    let reads (n : Nat) : Prop := x.toNat % n = 0 ∧ s.place s.cur s.myCtx s.isRuntime false x n .read = (.ok pl, s1) ∧
      onDevice pl.pa = true ∧ s.isBad pl.pa n = false ∧ field (w 0) 63 56 = 0 ∧ field (w 1) 63 56 = 0 ∧
      field (w 2) 61 40 = 0 ∧ bit (w 2) 62 = false ∧ (w 3 = 0 ∨ s1.compPlace (w 3) = some q)
    let apart (y : CopyDesc) : Prop := y.total = 0 ∨
      (streamRange y.src y.sstride y.len y.rows).2 ≤ (streamRange y.dst y.dstride y.len y.rows).1 ∨
      (streamRange y.dst y.dstride y.len y.rows).2 ≤ (streamRange y.src y.sstride y.len y.rows).1
    let slots : Prop := (s.descs.filter fun (y : CopyDesc) => decide (y.core = s.cur)).length < 16
    s.calm = true ∧ s.memOk ∧ s.tlbOk ∧ s.waiters = [] ∧ s.me.progress = [] ∧ slots ∧ reads 32 ∧
    apart (entry false (some rd)) :=
  ⟨by decide +kernel, memOk_of _ _ rfl (by decide +kernel) (by decide +kernel), tlbOk_of _ _ rfl (by decide),
    by decide +kernel, by decide +kernel, by decide +kernel,
    ⟨by decide, Prod.ext (by decide) rfl, by decide, by decide, by decide, by decide, by decide, by decide, .inl (by decide)⟩,
    by decide +kernel⟩

theorem wit_CopiesAreAcceptedMovedAndEnded_cpy2d :
    let s : State := wState (wWith { wStrand with
      x := wRegs [1, 2, 0x60000] }) wCtx (wWords wMem 0x60000 [0x61000, 0x62000, 0x14, 0, 3, 0xfffffffffffffff0, 0x80, 0])
    let r1 : BitVec 5 := 3
    let s1 : State := (s.place s.cur s.myCtx s.isRuntime false (s.reg r1) 64 .read).2
    let pl : Place := ⟨0x60000, false, 32⟩
    let q : Nat := 0x31000
    let src : Place := ⟨0x31000, false, 32⟩
    let dst : Place := ⟨0x31000, false, 32⟩
    let x := s.reg r1
    let w (i : Nat) : Word := s.homeWord (pl.pa + 8 * i)
    let cmp : Option Nat := if w 3 = 0 then none else some q
    let entry (two : Bool) (toReg : Option (BitVec 5)) : CopyDesc :=
      { id := s.nextDesc + 1, ctx := s.myCtx, core := s.cur, lcore := s.mine.lcore.toNat, strand := s.str, ptroot := s.mine.ptroot
        background := bit (w 2) 63, stream := false, toReg := toReg, src := field (w 0) 55 0, dst := field (w 1) 55 0
        len := field (w 2) 39 0, rows := if two then field (w 4) 31 0 else 1
        sstride := if two then (w 5).toInt else 0, dstride := if two then (w 6).toInt else 0
        comp := cmp, sbKey := none, done := 0, slotOpen := false, down := false
        status := if field (w 2) 39 0 * (if two then field (w 4) 31 0 else 1) = 0 then some 0 else none }
    let reads (n : Nat) : Prop := x.toNat % n = 0 ∧ s.place s.cur s.myCtx s.isRuntime false x n .read = (.ok pl, s1) ∧
      onDevice pl.pa = true ∧ s.isBad pl.pa n = false ∧ field (w 0) 63 56 = 0 ∧ field (w 1) 63 56 = 0 ∧
      field (w 2) 61 40 = 0 ∧ bit (w 2) 62 = false ∧ (w 3 = 0 ∨ s1.compPlace (w 3) = some q)
    let apart (y : CopyDesc) : Prop := y.total = 0 ∨
      (streamRange y.src y.sstride y.len y.rows).2 ≤ (streamRange y.dst y.dstride y.len y.rows).1 ∨
      (streamRange y.dst y.dstride y.len y.rows).2 ≤ (streamRange y.src y.sstride y.len y.rows).1
    let slots : Prop := (s.descs.filter fun (y : CopyDesc) => decide (y.core = s.cur)).length < 16
    s.calm = true ∧ s.memOk ∧ s.tlbOk ∧ s.waiters = [] ∧ s.me.progress = [] ∧ slots ∧ reads 64 ∧
    field (w 4) 63 32 = 0 ∧ w 7 = 0 ∧ apart (entry true none) :=
  ⟨by decide +kernel, memOk_of _ _ rfl (by decide +kernel) (by decide +kernel), tlbOk_of _ _ rfl (by decide),
    by decide +kernel, by decide +kernel, by decide +kernel,
    ⟨by decide, Prod.ext (by decide) rfl, by decide, by decide, by decide, by decide, by decide, by decide, .inl (by decide)⟩,
    by and_intros <;> decide +kernel⟩

theorem wit_CopiesAreAcceptedMovedAndEnded_misaligned :
    let s : State := wState (wWith { wStrand with x := wRegs [1, 2, 0x60010] }) wCtx wMem
    let r1 : BitVec 5 := 3
    let x := s.reg r1
    s.calm = true ∧ s.me.tact = false ∧ x.toNat % 32 ≠ 0 ∧ x.toNat % 64 ≠ 0 :=
  by decide +kernel

theorem wit_CopiesAreAcceptedMovedAndEnded_piece :
    let s : State := { wState wCore wCtx wTables with descs := [wCopy] }
    let src : Place := ⟨0x60000, false, 32⟩
    let dst : Place := ⟨0x62010, false, 32⟩
    let d : CopyDesc := wCopy
    let e : Fin 48 := 0
    let d' : CopyDesc := { d with down := if d.done = 0 then s.rowsDown d else d.down }
    let s0 := s.setDesc d'
    let n := d'.piece (d'.at d'.src d'.sstride) (d'.at d'.dst d'.dstride)
    s.memOk ∧ s.descs = [d] ∧ s.ext = [] ∧ s.snap = none ∧ s.comb = [] ∧ s.badCopies = [] ∧ d.core.val / 8 = e.val ∧
    d.background = false ∧ d.sbKey = none ∧ d.slotOpen = false ∧ d.status = none ∧ d.done < d.total ∧
    s0.enginePlace d' (d'.at d'.src d'.sstride) false = (.ok src, s0) ∧
    s0.enginePlace d' (d'.at d'.dst d'.dstride) true = (.ok dst, s0) ∧ onDevice src.pa = true ∧ onDevice dst.pa = true ∧
    s.isBad src.pa n = false :=
  ⟨memOk_of _ _ rfl (by decide +kernel) (by decide +kernel), by decide +kernel, by decide +kernel,
    by decide +kernel, by decide +kernel, rfl, by decide +kernel, by decide +kernel, by decide +kernel,
    by decide +kernel, by decide +kernel, by decide +kernel, Prod.ext (by decide +kernel) rfl,
    Prod.ext (by decide +kernel) rfl, by and_intros <;> decide +kernel⟩

theorem wit_CopiesAreAcceptedMovedAndEnded_end :
    let s : State := { wState (wWith { wStrand with wait := some (.copyEnd 1) }) wCtx wMem with
      descs := [{ wCopy with
        status := some 6
        done := 8
        comp := some 0x10000001000
        toReg := some 5 }, { wCopy with id := 2 }] }
    let d : CopyDesc := { wCopy with status := some 6, done := 8, comp := some 0x10000001000, toReg := some 5 }
    let rest : List CopyDesc := [{ wCopy with id := 2 }]
    let st : Nat := 6
    let p : CoreId := 0
    let issuer := s.strand p d.strand
    s.memOk ∧ s.descs = d :: rest ∧ (∀ y ∈ rest, y.id ≠ d.id) ∧ s.ext = [] ∧ s.waiters = [] ∧ s.comb = [] ∧
    d.status = some st ∧ s.serverOf d.ctx d.lcore = some p ∧ issuer.halted = false ∧
    (∀ pa, d.comp = some pa → pa % 8 = 0 ∧ ∃ z off, region pa = .spad z off ∧ (s.spadFor d.ctx z off).isSome = true) :=
  ⟨memOk_of _ _ rfl (by decide +kernel) (by decide +kernel), by decide +kernel, by decide +kernel,
    rfl, by decide +kernel, by decide +kernel, by decide +kernel, by decide +kernel, by decide +kernel,
    (by intro pa h; cases h; exact ⟨by decide, 0, 0x1000, by decide, by decide⟩)⟩

theorem wit_StreamBuffersCountTheirSlots_start :
    let s : State := wState (wWith { wStrand with
      x := wRegs [1, 2, 1, 0]
      sbbase := 0xc0 }) wCtx (wWords wMem 0x60020 [0x10000002000, 0x30000])
    let r1 : BitVec 5 := 3
    let s1 : State := (s.place s.cur s.myCtx s.isRuntime false (BitVec.ofNat 64 (s.me.sbbase.toNat * 2048 + 32 * field (s.reg r1) 5 0)) 32 .read).2
    let r2 : BitVec 5 := 4
    let key : Nat := 0x60020
    let pl : Place := ⟨0x60020, false, 32⟩
    let win : CoreId := 0
    let first : Nat := 0x10000002000
    let x := s.reg r1
    let y := s.reg r2
    let h := field x 5 0
    let w (i : Nat) : Word := s.homeWord (pl.pa + 8 * i)
    let slots := field (w 1) 23 16 + 1
    let size := (field (w 1) 13 0 + 1) * 64
    s.calm = true ∧ s.sbKey s.cur s.str h = some key ∧
    field x 63 6 = 0 ∧ bit y 0 = false ∧ s.tlbOk ∧ s.me.progress = [] ∧ s.sbufAt key = none ∧
    s.place s.cur s.myCtx s.isRuntime false (BitVec.ofNat 64 (s.me.sbbase.toNat * 2048 + 32 * h)) 32 .read = (.ok pl, s1) ∧
    onDevice pl.pa = true ∧ s.isBad pl.pa 32 = false ∧ field (w 0) 63 56 = 0 ∧ field (w 0) 5 0 = 0 ∧
    field (w 1) 63 24 = 0 ∧ field (w 1) 15 14 = 0 ∧ w 2 = 0 ∧ w 3 = 0 ∧
    s1.oneWindow (field (w 0) 55 6 * 64) (slots * size) = some (win, first) ∧
    (s.sbufs.filter fun (z : StreamBuf) => decide (z.core = win ∧ !z.away)).length < 64 :=
  ⟨by decide +kernel, by decide +kernel, by decide +kernel, by decide +kernel,
    tlbOk_of _ _ rfl (by decide), by decide +kernel, by decide +kernel, Prod.ext (by decide +kernel) rfl,
    by and_intros <;> decide +kernel⟩

theorem wit_StreamBuffersCountTheirSlots_full :
    let s : State := { wState (wWith { wStrand with
      x := wRegs [1, 2, 1, 0]
      sbbase := 0xc0 }) wCtx (wWords wMem 0x60020 [0x10000002000, 0x30000]) with
      sbufs := List.replicate 64 ⟨0x70000, 0, 0, 0x10000012000, 4, 64, 2, 2, 3, 1, [], 0x12000, false⟩ }
    let r1 : BitVec 5 := 3
    let s1 : State := (s.place s.cur s.myCtx s.isRuntime false (BitVec.ofNat 64 (s.me.sbbase.toNat * 2048 + 32 * field (s.reg r1) 5 0)) 32 .read).2
    let r2 : BitVec 5 := 4
    let key : Nat := 0x60020
    let pl : Place := ⟨0x60020, false, 32⟩
    let win : CoreId := 0
    let first : Nat := 0x10000002000
    let x := s.reg r1
    let y := s.reg r2
    let h := field x 5 0
    let w (i : Nat) : Word := s.homeWord (pl.pa + 8 * i)
    let slots := field (w 1) 23 16 + 1
    let size := (field (w 1) 13 0 + 1) * 64
    s.calm = true ∧ s.sbKey s.cur s.str h = some key ∧
    field x 63 6 = 0 ∧ bit y 0 = false ∧ s.tlbOk ∧ s.me.progress = [] ∧ s.sbufAt key = none ∧
    s.place s.cur s.myCtx s.isRuntime false (BitVec.ofNat 64 (s.me.sbbase.toNat * 2048 + 32 * h)) 32 .read = (.ok pl, s1) ∧
    onDevice pl.pa = true ∧ s.isBad pl.pa 32 = false ∧ field (w 0) 63 56 = 0 ∧ field (w 0) 5 0 = 0 ∧
    field (w 1) 63 24 = 0 ∧ field (w 1) 15 14 = 0 ∧ w 2 = 0 ∧ w 3 = 0 ∧
    s1.oneWindow (field (w 0) 55 6 * 64) (slots * size) = some (win, first) ∧
    (s.sbufs.filter fun (z : StreamBuf) => decide (z.core = win ∧ !z.away)).length ≥ 64 ∧ s.me.tact = false :=
  ⟨by decide +kernel, by decide +kernel, by decide +kernel, by decide +kernel,
    tlbOk_of _ _ rfl (by decide), by decide +kernel, by decide +kernel, Prod.ext (by decide +kernel) rfl,
    by and_intros <;> decide +kernel⟩

theorem wit_StreamBuffersCountTheirSlots_reserved :
    let s : State := wState (wWith { wStrand with x := wRegs [1, 2, 0x40] }) wCtx wMem
    let x := s.reg 3
    s.me.tact = false ∧ field x 63 6 ≠ 0 ∧ (field x 63 17 ≠ 0 ∨ field x 7 6 ≠ 0) :=
  by decide +kernel

theorem wit_StreamBuffersCountTheirSlots_noBuffer :
    let s : State := wState (wWith { wStrand with
      x := wRegs [1, 2, 1, 1]
      sbbase := 0xc0 }) wCtx (wWords wMem 0x60020 [0x10000002000, 0x30000])
    let x := s.reg 3
    let y := s.reg 4
    s.calm = true ∧ s.sbKey s.cur s.str (field x 5 0) = some 0x60020 ∧ field x 63 6 = 0 ∧ bit y 0 = true ∧
    s.sbufAt 0x60020 = none ∧ s.me.tact = false ∧ field x 63 17 = 0 ∧ field x 7 6 = 0 :=
  by decide +kernel

theorem wit_StreamBuffersCountTheirSlots_end :
    let s : State := { wState { wCore with
        strands := (wCore.strands.set 0 { wStrand with x := wRegs [1, 2, 1, 1], sbbase := 0xc0 }).set 1
          { wStrand with wait := some (.sbuf 0x60020 0x301) } } wCtx (wWords wMem 0x60020 [0x10000002000, 0x30000]) with
      sbufs := [⟨0x60020, 0, 0, 0x10000002000, 4, 64, 2, 2, 3, 1, [(0, 0, 1)], 0x2000, false⟩]
      descs := [{ wCopy with sbKey := some 0x60020 }] }
    let key : Nat := 0x60020
    let b : StreamBuf := ⟨0x60020, 0, 0, 0x10000002000, 4, 64, 2, 2, 3, 1, [(0, 0, 1)], 0x2000, false⟩
    let x := s.reg 3
    let y := s.reg 4
    let parked (p : CoreId) (u : StrandId) : Prop := (s.core p).serves ≠ none ∧ ∃ z, (s.strand p u).wait = some (.sbuf key z)
    s.calm = true ∧ s.sbKey s.cur s.str (field x 5 0) = some key ∧ field x 63 6 = 0 ∧ bit y 0 = true ∧
    s.sbufAt key = some b ∧ parked 0 1 ∧ (∀ p u, parked p u → (s.strand p u).tact = false) ∧
    ∀ p u, s.parkedVldsb p u b = none :=
  ⟨by decide +kernel, by decide +kernel, by decide +kernel, by decide +kernel, by decide +kernel,
    ⟨by decide +kernel, 0x301, by decide +kernel⟩,
    (by
      intro p u _
      exact cores_of _ _ rfl (fun (c : Core) => ∀ u : StrandId, (c.strands[u]).tact = false) (by decide +kernel)
        (by decide +kernel) p u),
    (by
      intro p u
      refine parkedVldsb_of ?_ _
      exact cores_of _ _ rfl (fun (c : Core) => ∀ u : StrandId, (c.strands[u]).queue = []) (by decide +kernel)
        (by decide +kernel) p u)⟩

theorem wit_StreamBuffersCountTheirSlots_wait :
    let s : State := { wState (wWith { wStrand with
        x := wRegs [1, 2, 0x301]
        sbbase := 0xc0 }) wCtx (wWords wMem 0x60020 [0x10000002000, 0x30000]) with
      sbufs := [⟨0x60020, 0, 0, 0x10000002000, 4, 64, 2, 2, 3, 1, [(0, 0, 0)], 0x2000, false⟩]
      descs := [{ wCopy with sbKey := some 0x60020 }] }
    let r1 : BitVec 5 := 3
    let key : Nat := 0x60020
    let b : StreamBuf := ⟨0x60020, 0, 0, 0x10000002000, 4, 64, 2, 2, 3, 1, [(0, 0, 0)], 0x2000, false⟩
    let x := s.reg r1
    let h := field x 5 0
    s.calm = true ∧ s.sbKey s.cur s.str h = some key ∧
    s.sbufAt key = some b ∧ field x 63 17 = 0 ∧ field x 7 6 = 0 ∧ field x 16 8 ≤ b.slots :=
  by decide +kernel

theorem wit_StreamBuffersCountTheirSlots_read :
    let s : State := { wState (wWith { wStrand with
        x := wRegs [1, 2, 1, 2]
        sbbase := 0xc0 }) wCtx (wWords wMem 0x60020 [0x10000002000, 0x30000]) with
      sbufs := [⟨0x60020, 0, 0, 0x10000002000, 4, 64, 2, 2, 3, 1, [(0, 0, 0)], 0x2000, false⟩]
      descs := [{ wCopy with sbKey := some 0x60020 }] }
    let r1 : BitVec 5 := 3
    let r2 : BitVec 5 := 4
    let key : Nat := 0x60020
    let b : StreamBuf := ⟨0x60020, 0, 0, 0x10000002000, 4, 64, 2, 2, 3, 1, [(0, 0, 0)], 0x2000, false⟩
    let x := s.reg r1
    let y := s.reg r2
    let h := field x 5 0
    let k := field y 8 0
    s.calm = true ∧ s.sbKey s.cur s.str h = some key ∧
    s.sbufAt key = some b ∧ bit y 63 = false ∧ 0 < k ∧ k ≤ b.filled :=
  by and_intros <;> decide +kernel

theorem wit_StreamBuffersCountTheirSlots_write :
    let s : State := { wState (wWith { wStrand with
        x := wRegs [1, 2, 1, 0x8000000000000002]
        sbbase := 0xc0 }) wCtx (wWords wMem 0x60020 [0x10000002000, 0x30000]) with
      sbufs := [⟨0x60020, 0, 0, 0x10000002000, 4, 64, 2, 2, 3, 1, [(0, 0, 0)], 0x2000, false⟩]
      descs := [{ wCopy with sbKey := some 0x60020 }] }
    let r1 : BitVec 5 := 3
    let r2 : BitVec 5 := 4
    let key : Nat := 0x60020
    let b : StreamBuf := ⟨0x60020, 0, 0, 0x10000002000, 4, 64, 2, 2, 3, 1, [(0, 0, 0)], 0x2000, false⟩
    let x := s.reg r1
    let y := s.reg r2
    let h := field x 5 0
    let k := field y 8 0
    s.calm = true ∧ s.sbKey s.cur s.str h = some key ∧
    s.sbufAt key = some b ∧ bit y 63 = true ∧ 0 < k ∧ k ≤ b.free :=
  by and_intros <;> decide +kernel

theorem wit_StreamBuffersCountTheirSlots_toomany :
    let s : State := { wState (wWith { wStrand with
        x := wRegs [1, 2, 1, 3]
        sbbase := 0xc0 }) wCtx (wWords wMem 0x60020 [0x10000002000, 0x30000]) with
      sbufs := [⟨0x60020, 0, 0, 0x10000002000, 4, 64, 2, 2, 3, 1, [(0, 0, 0)], 0x2000, false⟩]
      descs := [{ wCopy with sbKey := some 0x60020 }] }
    let r1 : BitVec 5 := 3
    let r2 : BitVec 5 := 4
    let key : Nat := 0x60020
    let b : StreamBuf := ⟨0x60020, 0, 0, 0x10000002000, 4, 64, 2, 2, 3, 1, [(0, 0, 0)], 0x2000, false⟩
    let x := s.reg r1
    let y := s.reg r2
    let h := field x 5 0
    let k := field y 8 0
    s.calm = true ∧ s.sbKey s.cur s.str h = some key ∧
    s.sbufAt key = some b ∧ (if bit y 63 then b.free else b.filled) < k ∧ s.me.tact = false :=
  by decide +kernel

theorem wit_StreamBuffersCountTheirSlots_toomanyw :
    let s : State := { wState (wWith { wStrand with
        x := wRegs [1, 2, 1, 0x8000000000000003]
        sbbase := 0xc0 }) wCtx (wWords wMem 0x60020 [0x10000002000, 0x30000]) with
      sbufs := [⟨0x60020, 0, 0, 0x10000002000, 4, 64, 2, 2, 3, 1, [(0, 0, 0)], 0x2000, false⟩]
      descs := [{ wCopy with sbKey := some 0x60020 }] }
    let r1 : BitVec 5 := 3
    let r2 : BitVec 5 := 4
    let key : Nat := 0x60020
    let b : StreamBuf := ⟨0x60020, 0, 0, 0x10000002000, 4, 64, 2, 2, 3, 1, [(0, 0, 0)], 0x2000, false⟩
    let x := s.reg r1
    let y := s.reg r2
    let h := field x 5 0
    let k := field y 8 0
    s.calm = true ∧ s.sbKey s.cur s.str h = some key ∧
    s.sbufAt key = some b ∧ (if bit y 63 then b.free else b.filled) < k ∧ s.me.tact = false :=
  by decide +kernel

theorem wit_StreamBuffersCountTheirSlots_tooLong :
    let s : State := { wState (wWith { wStrand with
        x := wRegs [1, 2, 0x501]
        sbbase := 0xc0 }) wCtx (wWords wMem 0x60020 [0x10000002000, 0x30000]) with
      sbufs := [⟨0x60020, 0, 0, 0x10000002000, 4, 64, 2, 2, 3, 1, [], 0x12000, false⟩] }
    let key : Nat := 0x60020
    let b : StreamBuf := ⟨0x60020, 0, 0, 0x10000002000, 4, 64, 2, 2, 3, 1, [], 0x12000, false⟩
    let x := s.reg 3
    s.calm = true ∧ s.sbKey s.cur s.str (field x 5 0) = some key ∧ s.me.tact = false ∧ field x 63 17 = 0 ∧
    field x 7 6 = 0 ∧ s.sbufAt key = some b ∧ b.slots < field x 16 8 :=
  by decide +kernel

theorem wit_StreamBuffersCountTheirSlots_nothing :
    let s : State := { wState (wWith { wStrand with
        x := wRegs [1, 2, 1, 0]
        sbbase := 0xc0 }) wCtx (wWords wMem 0x60020 [0x10000002000, 0x30000]) with
      sbufs := [⟨0x60020, 0, 0, 0x10000002000, 4, 64, 2, 2, 3, 1, [], 0x12000, false⟩] }
    let key : Nat := 0x60020
    let b : StreamBuf := ⟨0x60020, 0, 0, 0x10000002000, 4, 64, 2, 2, 3, 1, [], 0x12000, false⟩
    let x := s.reg 3
    let y := s.reg 4
    s.calm = true ∧ s.sbKey s.cur s.str (field x 5 0) = some key ∧ s.sbufAt key = some b ∧ field y 8 0 = 0 :=
  by decide +kernel

theorem wit_SnapshotsAndCodeObjects_snap :
    let s : State := wState (wWith { wStrand with
      x := wRegs [1, 2, 0x60000] }) wCtx (wWords wMem 0x60000 [0x61000, 0x1000, 0x63000, 0x10000001000, 0, 0, 0, 0])
    let r1 : BitVec 5 := 3
    let s1 : State := (s.place s.cur s.myCtx true false (s.reg r1) 64 .read).2
    let pl : Place := ⟨0x60000, false, 32⟩
    let n : Snapshot := ⟨0x61000, 0x1000, 0x63000, 0x10000001000, [], none⟩
    let ws : List Word := [0x61000, 0x1000, 0x63000, 0x10000001000, 0, 0, 0, 0]
    let x := s.reg r1
    let c := s.myCtx
    let fits (ws : List Word) : Prop :=
      let w (i : Nat) : Word := ws.getD i 0
      ws.length = 8 ∧ (∀ i, 4 ≤ i → i < 8 → w i = 0) ∧ w 0 = BitVec.ofNat 64 n.src ∧ w 1 = BitVec.ofNat 64 n.len ∧
        w 2 = BitVec.ofNat 64 n.dst ∧ w 3 = BitVec.ofNat 64 n.comp ∧ n.src % 4096 = 0 ∧ n.len % 4096 = 0 ∧
        n.dst % 4096 = 0 ∧ n.comp % 8 = 0 ∧ n.len ≠ 0 ∧ n.src + n.len ≤ feBase ∧
        (n.dst + n.len ≤ feBase ∨ (2 ^ 50 ≤ n.dst ∧ n.dst + n.len ≤ 2 ^ 51)) ∧
        (n.comp = 0 ∨ onDevice n.comp = true) ∧ (n.src + n.len ≤ n.dst ∨ n.dst + n.len ≤ n.src) ∧ n.copied = [] ∧
        n.failed = none
    let reads : Prop := s.isRuntime = true ∧ s.calm = true ∧ s.tlbOk ∧ s.me.progress = [] ∧ x.toNat % 64 = 0 ∧
      s.place s.cur c true false x 64 .read = (.ok pl, s1) ∧ onDevice pl.pa = true ∧ s.isBad pl.pa 64 = false ∧
      ws = (List.range 8).map fun i => s.homeWord (pl.pa + 8 * i)
    reads ∧ fits ws :=
  ⟨⟨by decide, by decide, tlbOk_of _ _ rfl (by decide), by decide, by decide, Prod.ext (by decide) rfl, by decide, by decide, by decide⟩,
    (⟨by decide, fun i h1 h2 => by interval_cases i <;> decide, by and_intros <;> decide⟩)⟩

theorem wit_SnapshotsAndCodeObjects_snapcmd :
    let s : State := wState wCore wCtx (wWords wMem 0x60000 [0x61000, 0x1000, 0x63000, 0x10000001000, 0, 0, 0, 0])
    let v : Word := 0x60000
    let n : Snapshot := ⟨0x61000, 0x1000, 0x63000, 0x10000001000, [], none⟩
    let ws : List Word := [0x61000, 0x1000, 0x63000, 0x10000001000, 0, 0, 0, 0]
    let fits (ws : List Word) : Prop :=
      let w (i : Nat) : Word := ws.getD i 0
      ws.length = 8 ∧ (∀ i, 4 ≤ i → i < 8 → w i = 0) ∧ w 0 = BitVec.ofNat 64 n.src ∧ w 1 = BitVec.ofNat 64 n.len ∧
        w 2 = BitVec.ofNat 64 n.dst ∧ w 3 = BitVec.ofNat 64 n.comp ∧ n.src % 4096 = 0 ∧ n.len % 4096 = 0 ∧
        n.dst % 4096 = 0 ∧ n.comp % 8 = 0 ∧ n.len ≠ 0 ∧ n.src + n.len ≤ feBase ∧
        (n.dst + n.len ≤ feBase ∨ (2 ^ 50 ≤ n.dst ∧ n.dst + n.len ≤ 2 ^ 51)) ∧
        (n.comp = 0 ∨ onDevice n.comp = true) ∧ (n.src + n.len ≤ n.dst ∨ n.dst + n.len ≤ n.src) ∧ n.copied = [] ∧
        n.failed = none
    s.plat.ready = true ∧ v.toNat % 64 = 0 ∧ onDevice v.toNat = true ∧ s.isBad v.toNat 64 = false ∧
    (ws = (List.range 8).map (fun i => s.homeWord (v.toNat + 8 * i))) ∧ fits ws ∧ s.snap = none :=
  ⟨by decide +kernel, by decide +kernel, by decide +kernel, by decide +kernel, by decide +kernel,
    (⟨by decide, fun i h1 h2 => by interval_cases i <;> decide, by and_intros <;> decide⟩),
    by decide +kernel⟩

theorem wit_SnapshotsAndCodeObjects_active :
    let ws : List Word := [0x61000, 0x1000, 0x63000, 0x10000001000, 0, 0, 0, 0]
    let s : State := { wState (wWith { wStrand with x := wRegs [1, 2, 0x60000] }) wCtx (wWords wMem 0x60000 ws) with
      snap := some ⟨0x61000, 0x1000, 0x63000, 0x10000001000, [], none⟩ }
    let r1 : BitVec 5 := 3
    let s1 : State := (s.place s.cur s.myCtx true false (s.reg r1) 64 .read).2
    let pl : Place := ⟨0x60000, false, 32⟩
    let x := s.reg r1
    let c := s.myCtx
    let reads : Prop := s.isRuntime = true ∧ ({ s with snap := none } : State).calm = true ∧ s.tlbOk ∧ s.me.progress = [] ∧
      x.toNat % 64 = 0 ∧
      s.place s.cur c true false x 64 .read = (.ok pl, s1) ∧ onDevice pl.pa = true ∧ s.isBad pl.pa 64 = false ∧
      ws = (List.range 8).map fun i => s.homeWord (pl.pa + 8 * i)
    reads ∧ s.snap ≠ none :=
  ⟨⟨by decide, by decide, tlbOk_of _ _ rfl (by decide), by decide, by decide, Prod.ext (by decide) rfl, by decide, by decide, by decide⟩,
    by decide⟩

theorem wit_SnapshotsAndCodeObjects_overlap :
    let ws : List Word := [0x61000, 0x2000, 0x62000, 0x10000001000, 0, 0, 0, 0]
    let s : State := wState (wWith { wStrand with x := wRegs [1, 2, 0x60000] }) wCtx (wWords wMem 0x60000 ws)
    let r1 : BitVec 5 := 3
    let s1 : State := (s.place s.cur s.myCtx true false (s.reg r1) 64 .read).2
    let pl : Place := ⟨0x60000, false, 32⟩
    let x := s.reg r1
    let c := s.myCtx
    let reads : Prop := s.isRuntime = true ∧ ({ s with snap := none } : State).calm = true ∧ s.tlbOk ∧ s.me.progress = [] ∧
      x.toNat % 64 = 0 ∧
      s.place s.cur c true false x 64 .read = (.ok pl, s1) ∧ onDevice pl.pa = true ∧ s.isBad pl.pa 64 = false ∧
      ws = (List.range 8).map fun i => s.homeWord (pl.pa + 8 * i)
    let refused (ws : List Word) : Prop :=
      let w (i : Nat) : Nat := (ws.getD i 0).toNat
      (∃ i, 4 ≤ i ∧ i < 8 ∧ w i ≠ 0) ∨ w 0 % 4096 ≠ 0 ∨ w 1 % 4096 ≠ 0 ∨ w 2 % 4096 ≠ 0 ∨ w 3 % 8 ≠ 0 ∨ w 1 = 0 ∨
        feBase < w 0 + w 1 ∨ ¬(w 2 + w 1 ≤ feBase ∨ (2 ^ 50 ≤ w 2 ∧ w 2 + w 1 ≤ 2 ^ 51)) ∨
        (w 3 ≠ 0 ∧ onDevice (w 3) = false) ∨ (w 0 < w 2 + w 1 ∧ w 2 < w 0 + w 1)
    reads ∧ s.snap = none ∧ refused ws :=
  ⟨⟨by decide, by decide, tlbOk_of _ _ rfl (by decide), by decide, by decide, Prod.ext (by decide) rfl, by decide, by decide, by decide⟩,
    by decide, .inr (.inr (.inr (.inr (.inr (.inr (.inr (.inr (.inr (by decide)))))))))⟩

theorem wit_SnapshotsAndCodeObjects_reserved :
    let s : State := wState wCore wCtx (wWords wMem 0x60000 [0x61000, 0x1000, 0x63000, 0x10000001000, 0, 0, 0, 1])
    let v : Word := 0x60000
    let ws : List Word := [0x61000, 0x1000, 0x63000, 0x10000001000, 0, 0, 0, 1]
    let refused (ws : List Word) : Prop :=
      let w (i : Nat) : Nat := (ws.getD i 0).toNat
      (∃ i, 4 ≤ i ∧ i < 8 ∧ w i ≠ 0) ∨ w 0 % 4096 ≠ 0 ∨ w 1 % 4096 ≠ 0 ∨ w 2 % 4096 ≠ 0 ∨ w 3 % 8 ≠ 0 ∨ w 1 = 0 ∨
        feBase < w 0 + w 1 ∨ ¬(w 2 + w 1 ≤ feBase ∨ (2 ^ 50 ≤ w 2 ∧ w 2 + w 1 ≤ 2 ^ 51)) ∨
        (w 3 ≠ 0 ∧ onDevice (w 3) = false) ∨ (w 0 < w 2 + w 1 ∧ w 2 < w 0 + w 1)
    s.plat.ready = true ∧ v.toNat % 64 = 0 ∧ onDevice v.toNat = true ∧ s.isBad v.toNat 64 = false ∧
    (ws = (List.range 8).map (fun i => s.homeWord (v.toNat + 8 * i))) ∧ s.snap = none ∧ refused ws :=
  ⟨by decide +kernel, by decide +kernel, by decide +kernel, by decide +kernel, by decide +kernel, by decide +kernel,
    .inl ⟨7, by decide, by decide, by decide⟩⟩

theorem wit_SnapshotsAndCodeObjects_busy :
    let s : State := { wState wCore wCtx (wWords wMem 0x60000 [0x61000, 0x1000, 0x63000, 0x10000001000, 0, 0, 0, 0]) with
      snap := some ⟨0x61000, 0x1000, 0x63000, 0x10000001000, [], none⟩ }
    let v : Word := 0x60000
    let n : Snapshot := ⟨0x61000, 0x1000, 0x63000, 0x10000001000, [], none⟩
    let ws : List Word := [0x61000, 0x1000, 0x63000, 0x10000001000, 0, 0, 0, 0]
    let fits (ws : List Word) : Prop :=
      let w (i : Nat) : Word := ws.getD i 0
      ws.length = 8 ∧ (∀ i, 4 ≤ i → i < 8 → w i = 0) ∧ w 0 = BitVec.ofNat 64 n.src ∧ w 1 = BitVec.ofNat 64 n.len ∧
        w 2 = BitVec.ofNat 64 n.dst ∧ w 3 = BitVec.ofNat 64 n.comp ∧ n.src % 4096 = 0 ∧ n.len % 4096 = 0 ∧
        n.dst % 4096 = 0 ∧ n.comp % 8 = 0 ∧ n.len ≠ 0 ∧ n.src + n.len ≤ feBase ∧
        (n.dst + n.len ≤ feBase ∨ (2 ^ 50 ≤ n.dst ∧ n.dst + n.len ≤ 2 ^ 51)) ∧
        (n.comp = 0 ∨ onDevice n.comp = true) ∧ (n.src + n.len ≤ n.dst ∨ n.dst + n.len ≤ n.src) ∧ n.copied = [] ∧
        n.failed = none
    s.plat.ready = true ∧ v.toNat % 64 = 0 ∧ onDevice v.toNat = true ∧ s.isBad v.toNat 64 = false ∧
    (ws = (List.range 8).map (fun i => s.homeWord (v.toNat + 8 * i))) ∧ fits ws ∧ s.snap ≠ none :=
  ⟨by decide +kernel, by decide +kernel, by decide +kernel, by decide +kernel, by decide +kernel,
    (⟨by decide, fun i h1 h2 => by interval_cases i <;> decide, by and_intros <;> decide⟩),
    by decide +kernel⟩

theorem wit_SnapshotsAndCodeObjects_end :
    let s : State := { wState wCore wCtx (wWords wMem 0x60000 [0x61000, 0x1000, 0x63000, 0x10000001000, 0, 0, 0, 0]) with
      snap := some ⟨0x61000, 0x1000, 0x63000, 0x10000001000, (List.range 8).map (0x308 + ·), some (0x40, 6)⟩ }
    let n : Snapshot := ⟨0x61000, 0x1000, 0x63000, 0x10000001000, (List.range 8).map (0x308 + ·), some (0x40, 6)⟩
    s.memOk ∧ s.snap = some n ∧ s.ext = [] ∧ s.waiters = [] ∧ s.comb = [] ∧ s.badCopies = [] ∧ n.comp % 8 = 0 ∧ onDevice n.comp = true ∧ n.comp ≠ 0 ∧ s.engineRefused n.comp = false ∧
    (∀ z off, region n.comp = .spad z off → ((s.core z).spadPlace off).isSome = true) ∧
    (∀ b < n.len / 512, n.src / 512 + b ∈ n.copied) :=
  ⟨memOk_of _ _ rfl (by decide +kernel) (by decide +kernel), by decide +kernel, by decide +kernel,
    by decide +kernel, by decide +kernel, rfl, by decide +kernel, by decide +kernel, by decide +kernel,
    by decide +kernel,
    (by intro z off h; cases h.symm.trans (show region 0x10000001000 = .spad 0 0x1000 by decide); decide),
    by decide +kernel⟩

theorem wit_SnapshotsAndCodeObjects_noword :
    let s : State := { wState wCore wCtx wMem with
      snap := some ⟨0x61000, 0x1000, 0x63000, 0, (List.range 8).map (0x308 + ·), none⟩ }
    let n : Snapshot := ⟨0x61000, 0x1000, 0x63000, 0, (List.range 8).map (0x308 + ·), none⟩
    s.snap = some n ∧ s.ext = [] ∧ (∀ b < n.len / 512, n.src / 512 + b ∈ n.copied) ∧ n.comp = 0 :=
  by decide +kernel

theorem wit_SnapshotsAndCodeObjects_window :
    let s : State := wState (wWith { wStrand with
      x := wRegs [1, 2, 0x60000] }) wCtx (wWords wMem 0x60000 [0x61000, 0x1000, 0x4000000000000, 0, 0, 0, 0, 0])
    let n : Snapshot := ⟨0x61000, 0x1000, 0x4000000000000, 0, [], none⟩
    let ws : List Word := (List.range 8).map fun i => s.homeWord (0x60000 + 8 * i)
    let w (i : Nat) : Word := ws.getD i 0
    ws.length = 8 ∧ (∀ i, 4 ≤ i → i < 8 → w i = 0) ∧ w 0 = BitVec.ofNat 64 n.src ∧ w 1 = BitVec.ofNat 64 n.len ∧
    w 2 = BitVec.ofNat 64 n.dst ∧ w 3 = BitVec.ofNat 64 n.comp ∧
    (n.dst + n.len ≤ feBase ∨ (2 ^ 50 ≤ n.dst ∧ n.dst + n.len ≤ 2 ^ 51)) ∧ (n.comp = 0 ∨ onDevice n.comp = true) ∧
    (n.src + n.len ≤ n.dst ∨ n.dst + n.len ≤ n.src) :=
  ⟨by decide, fun i h1 h2 => by interval_cases i <;> decide, by and_intros <;> decide⟩

theorem wit_SnapshotsAndCodeObjects_publish :
    let s : State := wState (wWith { wStrand with
      x := wRegs [1, 2, 0x60000]
      progressAt := 0x30000
      progress := [0x000001014f424a41, 8, 0, 0, 1, 0, 0, 0, 0x24a0010024a00100] }) wCtx []
    let r1 : BitVec 5 := 3
    let k : Nat := 0
    let a : Nat := 0x30000
    let x := s.reg r1
    let c := s.myCtx
    let pass := s.me.progress
    let h := objHeader pass
    let base := (s.ctx c).entry.arenaBase
    s.calm = true ∧ s.memOk ∧ x.toNat % 8 = 0 ∧ s.me.progressAt = s.me.pc ∧ 8 ≤ pass.length ∧
    wordRefusal s.isRuntime pass (pass.length - 1) = none ∧ h.size ≤ 8 * pass.length ∧ h.size < 2 ^ 32 ∧
    h.level ≤ Config.deviceLevel ∧ h.kind ≤ 1 ∧
    (List.range 4095).find? (fun j => !(s.object c (j + 1)).valid) = some k ∧ s.freePlace c h.size = some a ∧
    base + 131072 ≤ a ∧ a + h.size ≤ feBase ∧ a - base < 2 ^ 32 :=
  ⟨by decide +kernel, memOk_of _ _ rfl (by decide +kernel) (by decide +kernel), by decide +kernel,
    by decide +kernel, by decide +kernel, by decide +kernel, by decide +kernel, by decide +kernel,
    by decide, by and_intros <;> decide +kernel⟩

theorem wit_SnapshotsAndCodeObjects_unknown :
    let s : State := wState (wWith { wStrand with x := wRegs [1, 2, 2] }) wCtx wMem
    let r1 : BitVec 5 := 3
    let x := s.reg r1
    let c := s.myCtx
    let o := s.object c (field x 11 0)
    s.isRuntime = true ∧ (field x 63 12 ≠ 0 ∨ o.valid = false) :=
  by decide +kernel

theorem wit_SnapshotsAndCodeObjects_free :
    let s : State := wState (wWith { wStrand with x := wRegs [1, 2, 1] }) wCtx wMem
    let r1 : BitVec 5 := 3
    let x := s.reg r1
    let c := s.myCtx
    let base := (s.ctx c).entry.arenaBase
    let o := s.object c (field x 11 0)
    s.isRuntime = true ∧ s.snap = none ∧ s.comb = [] ∧ s.badCopies = [] ∧ s.memOk ∧ field x 63 12 = 0 ∧
    o.valid = true ∧ base + 131072 ≤ feBase ∧ base + 131072 ≤ o.base ∧ o.base + o.size ≤ feBase :=
  ⟨by decide +kernel, by decide +kernel, by decide +kernel, by decide +kernel, memOk_of _ _ rfl (by decide +kernel) (by decide +kernel),
    by and_intros <;> decide +kernel⟩

theorem wit_RegisterWritesTakeEffect_grow :
    let i : Instr := .csrw 3 0x101
    let w : IWord := (encode i).getD 0
    let s : State := wState { wWith { wStrand with x := wRegs [0, 0, 2] } with
      spad := Memory.write [] 0x101000 [7]
      icache := [(0x30000 / 64, w.toNat)] } wCtx wMem
    let v : Word := 2
    let r : PoolCsr := .v
    let op : CsrOp := .write
    let old : Word := (match r with | .v => s.mine.poolV | .s => s.mine.poolS | .c => s.mine.poolC).zeroExtend 64
    let new : BitVec 5 := (match op with | .write => v | .set => old ||| v | .clear => old &&& ~~~v).extractLsb' 0 5
    let nv := if r = .v then new else s.mine.poolV
    let ns := if r = .s then new else s.mine.poolS
    let nc := if r = .c then new else s.mine.poolC
    let about (w : IWord) (i : Instr) : Prop := s.atHand = some w ∧ decode w = .ok i ∧ s.poolWrite i = some (r, op, v) ∧
      s.mayIssue s.cur s.str w i = true ∧ s.me.spoiled i = none
    let changed (w : Nat) : Prop := s.mine.modeOf w ≠ wayMode nv.toNat ns.toNat nc.toNat w
    about w i ∧ s.isRuntime = true ∧ s.waiters = [] ∧ s.retries = [] ∧ s.mine.copies = [] ∧ s.windowDirty s.cur = false ∧
    new.toNat ≤ 16 ∧ nv ≤ ns ∧ ns ≤ nc ∧ (∀ n < 16, changed n → s.mine.wayHeld n = false) ∧
    (∀ w : Fin 16, foreignTag s.mine.wayTag[w] s.mine.serves = false) :=
  ⟨by and_intros <;> decide +kernel, by and_intros <;> decide +kernel⟩

theorem wit_RegisterWritesTakeEffect_above :
    let i : Instr := .csrw 3 0x103
    let w : IWord := (encode i).getD 0
    let s : State := wState { wWith { wStrand with x := wRegs [0, 0, 17] } with
      icache := [(0x30000 / 64, w.toNat)] } wCtx wMem
    let v : Word := 17
    let r : PoolCsr := .c
    let op : CsrOp := .write
    let old : Word := (match r with | .v => s.mine.poolV | .s => s.mine.poolS | .c => s.mine.poolC).zeroExtend 64
    let new : BitVec 5 := (match op with | .write => v | .set => old ||| v | .clear => old &&& ~~~v).extractLsb' 0 5
    let nv := if r = .v then new else s.mine.poolV
    let ns := if r = .s then new else s.mine.poolS
    let nc := if r = .c then new else s.mine.poolC
    let about (w : IWord) (i : Instr) : Prop := s.atHand = some w ∧ decode w = .ok i ∧ s.poolWrite i = some (r, op, v) ∧
      s.mayIssue s.cur s.str w i = true ∧ s.me.spoiled i = none
    about w i ∧ s.me.tact = false ∧ s.isRuntime = true ∧ (16 < new.toNat ∨ ns < nv ∨ nc < ns) :=
  ⟨by and_intros <;> decide +kernel, by and_intros <;> decide +kernel⟩

theorem wit_RegisterWritesTakeEffect_crossed :
    let i : Instr := .csrs 3 0x101
    let w : IWord := (encode i).getD 0
    let s : State := wState { wWith { wStrand with x := wRegs [0, 0, 4] } with
      icache := [(0x30000 / 64, w.toNat)] } wCtx wMem
    let v : Word := 4
    let r : PoolCsr := .v
    let op : CsrOp := .set
    let old : Word := (match r with | .v => s.mine.poolV | .s => s.mine.poolS | .c => s.mine.poolC).zeroExtend 64
    let new : BitVec 5 := (match op with | .write => v | .set => old ||| v | .clear => old &&& ~~~v).extractLsb' 0 5
    let nv := if r = .v then new else s.mine.poolV
    let ns := if r = .s then new else s.mine.poolS
    let nc := if r = .c then new else s.mine.poolC
    let about (w : IWord) (i : Instr) : Prop := s.atHand = some w ∧ decode w = .ok i ∧ s.poolWrite i = some (r, op, v) ∧
      s.mayIssue s.cur s.str w i = true ∧ s.me.spoiled i = none
    about w i ∧ s.me.tact = false ∧ s.isRuntime = true ∧ (16 < new.toNat ∨ ns < nv ∨ nc < ns) :=
  ⟨by and_intros <;> decide +kernel, by and_intros <;> decide +kernel⟩

theorem wit_RegisterWritesTakeEffect_sixteen :
    let i : Instr := .csrw 3 0x103
    let w : IWord := (encode i).getD 0
    let s : State := wState { wWith { wStrand with x := wRegs [0, 0, 16] } with
      icache := [(0x30000 / 64, w.toNat)] } wCtx wMem
    let v : Word := 16
    let r : PoolCsr := .c
    let op : CsrOp := .write
    let old : Word := (match r with | .v => s.mine.poolV | .s => s.mine.poolS | .c => s.mine.poolC).zeroExtend 64
    let new : BitVec 5 := (match op with | .write => v | .set => old ||| v | .clear => old &&& ~~~v).extractLsb' 0 5
    let nv := if r = .v then new else s.mine.poolV
    let ns := if r = .s then new else s.mine.poolS
    let nc := if r = .c then new else s.mine.poolC
    let about (w : IWord) (i : Instr) : Prop := s.atHand = some w ∧ decode w = .ok i ∧ s.poolWrite i = some (r, op, v) ∧
      s.mayIssue s.cur s.str w i = true ∧ s.me.spoiled i = none
    let changed (w : Nat) : Prop := s.mine.modeOf w ≠ wayMode nv.toNat ns.toNat nc.toNat w
    about w i ∧ s.isRuntime = true ∧ s.waiters = [] ∧ s.retries = [] ∧ s.mine.copies = [] ∧ s.windowDirty s.cur = false ∧
    new.toNat ≤ 16 ∧ nv ≤ ns ∧ ns ≤ nc ∧ (∀ n < 16, changed n → s.mine.wayHeld n = false) ∧
    (∀ w : Fin 16, foreignTag s.mine.wayTag[w] s.mine.serves = false) :=
  ⟨by and_intros <;> decide +kernel, by and_intros <;> decide +kernel⟩

theorem wit_RegisterWritesTakeEffect_task :
    let i : Instr := .csrw 3 0x101
    let w : IWord := (encode i).getD 0
    let s : State := wState { wWith { wStrand with x := wRegs [0, 0, 2], priv := 0 } with
      icache := [(0x30000 / 64, w.toNat)] } wCtx wMem
    let v : Word := 2
    let r : PoolCsr := .v
    let op : CsrOp := .write
    let old : Word := (match r with | .v => s.mine.poolV | .s => s.mine.poolS | .c => s.mine.poolC).zeroExtend 64
    let new : BitVec 5 := (match op with | .write => v | .set => old ||| v | .clear => old &&& ~~~v).extractLsb' 0 5
    let nv := if r = .v then new else s.mine.poolV
    let ns := if r = .s then new else s.mine.poolS
    let nc := if r = .c then new else s.mine.poolC
    let about (w : IWord) (i : Instr) : Prop := s.atHand = some w ∧ decode w = .ok i ∧ s.poolWrite i = some (r, op, v) ∧
      s.mayIssue s.cur s.str w i = true ∧ s.me.spoiled i = none
    about w i ∧ s.me.tact = false ∧ s.isRuntime = false :=
  ⟨by and_intros <;> decide +kernel, by and_intros <;> decide +kernel⟩

theorem wit_RegisterWritesTakeEffect_parked :
    let s : State := wState (wWith { wStrand with wait := some .pair }) wCtx wMem
    s.atHand = none :=
  by decide +kernel

theorem wit_RegisterWritesTakeEffect_refresh :
    let s : State := { wState wCore wCtx wEntries with ctxtbase := 0x18 }
    let c : CtxId := 0
    let k := s.ctx c
    let e := s.readEntry c
    let e1 := if e.saveSize < saveMin then { e with
      saveBase := k.entry.saveBase
      saveSize := k.entry.saveSize } else e
    let table (a : Nat) : List (Option Nat) := (List.range (e1.width * e1.height)).map (s.coreEntry a)
    let quiet : Prop := s.hostHeld = [] ∧ s.accessesLeft c = false ∧ ∀ (q : CoreId) (u : StrandId),
      (s.core q).serves = some c → (s.strand q u).relaxed = [] ∧ (s.strand q u).head = none
    s.plat.ready = true ∧ s.net = [] ∧ s.hostHeld = [] ∧ k.heldMsgs = [] ∧ k.cores = table e1.coretab ∧ k.resuming = [] ∧
    k.pWait = none ∧ quiet ∧ (∃ d : CtxId, (s.ctx d).entry.valid = true) :=
  ⟨by decide +kernel, by decide +kernel, by decide +kernel, by decide +kernel, by decide +kernel, by decide +kernel,
    by decide +kernel, ⟨by decide +kernel, by decide +kernel,
    fun q u _ => cores_of _ _ rfl (fun k => ∀ u : StrandId, (k.strands[u]).relaxed = [] ∧ (k.strands[u]).head = none) (by decide) (by decide) q u⟩,
    ⟨0, by decide⟩⟩

theorem wit_RegisterWritesTakeEffect_renumber :
    let s : State := wState wCore { wCtx with entry := CtxEntry.zero } wMem
    s.plat.ready = true ∧ (∀ d : CtxId, (s.ctx d).entry.valid = false) :=
  by decide +kernel

theorem wit_LaunchesPushTheirSeeds_launch :
    let s : State := { wState wCore wCtx wEntries with ctxtbase := 0x18 }
    let c : CtxId := 0
    let v : Word := 0x68000
    let p : CoreId := 0
    let k := s.ctx c
    let e := s.readEntry c
    let h := s.homeWord v.toNat
    let n := field h 15 0
    let core := s.core p
    let roomFor (m : Nat) : Prop := k.aborted = false ∧ 0 ∉ k.preempted ∧ k.route 0 = some p ∧ core.serves = some c ∧
      core.lcore = 0 ∧ core.bag.length + m ≤ 1024 ∧ k.hungrySet = []
    s.plat.ready = true ∧ k.aborted = false ∧ k.rBusy = false ∧ k.lBusy = false ∧ k.launched = true ∧
    e.valid = true ∧ v.toNat % 16 = 0 ∧ 1 ≤ e.poolV.toNat ∧ e.poolV.toNat + 2 ≤ e.poolS.toNat ∧
    saveMin ≤ e.saveSize ∧ inHbm v.toNat (16 + 16 * n) = true ∧ s.listOk v.toNat n = true ∧
    s.isBad v.toNat (16 + 16 * n) = false ∧ k.replay.mode = 0 ∧ k.replay.running = 0 ∧ k.heldMsgs = [] ∧
    bit h 31 = true ∧ (∀ y ∈ k.cores, ∀ q, y.bind coreOf = some q → (s.core q).serves = some c) ∧ roomFor n := by
  and_intros <;> decide +kernel

theorem wit_LaunchesPushTheirSeeds_invalid :
    let s : State := wState wCore wCtx wMem
    let c : CtxId := 0
    let k := s.ctx c
    let e := s.readEntry c
    s.plat.ready = true ∧ k.aborted = false ∧ k.rBusy = false ∧ k.lBusy = false ∧ k.launched = true ∧
    e.valid = false :=
  by decide +kernel

theorem wit_LaunchesPushTheirSeeds_busy :
    let s : State := { wState wCore { wCtx with lBusy := true } wEntries with ctxtbase := 0x18 }
    let c : CtxId := 0
    let k := s.ctx c
    s.plat.ready = true ∧ k.aborted = false ∧ k.rBusy = false ∧ k.lBusy = true :=
  by decide +kernel

theorem wit_LaunchesPushTheirSeeds_resume :
    let s : State := { wState (wWith { wStrand with
        wait := some .pair }) { wCtx with
        launching := some ⟨0x68000, 2, true, 1, true⟩
        lBusy := true
        count := 2 } wEntries with
      ctxtbase := 0x18 }
    let c : CtxId := 0
    let p : CoreId := 0
    let x : Launching := ⟨0x68000, 2, true, 1, true⟩
    let k := s.ctx c
    let core := s.core p
    let roomFor (m : Nat) : Prop := k.aborted = false ∧ 0 ∉ k.preempted ∧ k.route 0 = some p ∧ core.serves = some c ∧
      core.lcore = 0 ∧ core.bag.length + m ≤ 1024 ∧ k.hungrySet = []
    k.launching = some x ∧ x.ready = true ∧ x.one = true ∧ x.next ≤ x.n ∧ roomFor (x.n - x.next) :=
  ⟨by decide +kernel, by decide +kernel, by decide +kernel, by decide +kernel,
    (by and_intros <;> decide)⟩

theorem wit_LaunchesPushTheirSeeds_waiting :
    let s : State := { wState wCore { wCtx with
        launching := some ⟨0x68000, 2, true, 0, false⟩
        lBusy := true } wEntries with
      ctxtbase := 0x18 }
    let c : CtxId := 0
    let x : Launching := ⟨0x68000, 2, true, 0, false⟩
    let k := s.ctx c
    k.launching = some x ∧ x.ready = false :=
  by decide +kernel

theorem wit_LaunchesPushTheirSeeds_takeup :
    let c : CtxId := 0
    let p : CoreId := 0
    let x : Launching := ⟨0, 0, false, 0, false⟩
    let s : State := wState { wWith { wStrand with halted := true, x := wRegs [5] } with
      serves := none
      wants := [0]
      wayTag := Core.reset.wayTag } wCtx wMem
    let l : Nat := 0
    let k := s.ctx c
    let core := s.core p
    k.lcoreOf p = some l ∧ core.copies = [] ∧ s.windowDirty p = false ∧ (∀ y ∈ s.loose, y.1 ≠ p) ∧ s.waiters = [] ∧
    s.retries = [] ∧ core.serves = none ∧ c ∈ core.wants ∧ k.aborted = false ∧ k.entry.valid = true ∧
    l ∉ k.preempted ∧ k.heldMsgs = [] ∧ (∀ w : Fin 16, foreignTag core.wayTag[w] (some c) = false) :=
  by decide +kernel

theorem wit_PreemptionsSaveAndResume_notify :
    let s : State := wState wCore wCtx wMem
    let c : CtxId := 0
    let v : Word := 0x4000000000000005
    let k := s.ctx c
    let free : Prop := k.rBusy = false ∧ k.pBusy = false ∧ k.entry.valid = true ∧ k.aborted = false ∧ k.launching = none
    s.plat.ready = true ∧ free ∧ bit v 62 = true :=
  ⟨by decide +kernel, (by and_intros <;> decide), by decide +kernel⟩

theorem wit_PreemptionsSaveAndResume_invalid :
    let s : State := wState wCore { wCtx with entry := CtxEntry.zero } wMem
    let c : CtxId := 0
    let k := s.ctx c
    s.plat.ready = true ∧ k.rBusy = false ∧ k.aborted = false ∧ k.pBusy = false ∧ k.entry.valid = false :=
  by decide +kernel

theorem wit_PreemptionsSaveAndResume_aborted :
    let s : State := wState wCore { wCtx with aborted := true } wMem
    let c : CtxId := 0
    let k := s.ctx c
    s.plat.ready = true ∧ k.rBusy = false ∧ k.aborted = true :=
  by decide +kernel

theorem wit_PreemptionsSaveAndResume_save :
    let s : State := wState { wWith { wStrand with x := wRegs [5, 6, 7], halted := true } with
      bag := [⟨0x60000, 0x60020, 2⟩] } { wCtx with
      entry := { wCtx.entry with saveBase := 0x2000000, saveSize := 0x1140000, poolV := 1, poolS := 3, poolC := 5 } } wMem
    let c : CtxId := 0
    let v : Word := 0
    let p : CoreId := 0
    let k := s.ctx c
    let l := field v 9 0
    let core := s.core p
    let base := k.entry.saveBase + l * k.entry.saveSize
    let free : Prop := k.rBusy = false ∧ k.pBusy = false ∧ k.entry.valid = true ∧ k.aborted = false ∧ k.launching = none
    s.plat.ready = true ∧ free ∧ s.memOk ∧ s.snap = none ∧ s.comb = [] ∧ s.badCopies = [] ∧ bit v 62 = false ∧ l < k.size ∧
    saveMin ≤ k.entry.saveSize ∧ l ∉ k.preempted ∧ s.serverOf c l = some p ∧ base + saveMin ≤ feBase ∧
    core.bag.length ≤ 1024 ∧
    (∀ u : StrandId, (s.strand p u).halted = true ∧ s.atRest p u = true ∧ (s.strand p u).readq = [] ∧ (s.strand p u).queue.length ≤ 32 ∧ (s.strand p u).replay.length ≤ 32) :=
  ⟨by decide +kernel, (by and_intros <;> decide),
    memOk_of _ _ rfl (by decide +kernel) (by decide +kernel), by and_intros <;> decide +kernel⟩

theorem wit_PreemptionsSaveAndResume_resume :
    let s : State := wState { wCore with
      serves := none
      wayTag := Core.reset.wayTag } { wCtx with
      entry := { wCtx.entry with saveBase := 0x2000000, saveSize := 0x1140000, poolV := 1, poolS := 3, poolC := 5 }
      preempted := [0] } (wWords (wWords (wWords wMem 0x2000000 [0x4000000000000000, 7, 8, 9]) 0x2000100 [0x30040]) 0x2010000 [0x0000000100050301, 0x60000])
    let c : CtxId := 0
    let v : Word := 0
    let p : CoreId := 0
    let k := s.ctx c
    let l := field v 9 0
    let core := s.core p
    let free : Prop := k.rBusy = false ∧ k.pBusy = false ∧ k.entry.valid = true ∧ k.aborted = false ∧ k.launching = none
    let base := k.entry.saveBase + l * k.entry.saveSize
    let clear : Prop := s.canResume c l = some p ∧ k.heldMsgs = [] ∧ k.outWays = [] ∧ core.copies = [] ∧ l < 1024 ∧
      s.windowDirty p = false ∧ (∀ y ∈ s.loose, y.1 ≠ p) ∧ s.waiters = [] ∧ s.retries = [] ∧
      (∀ y ∈ s.badWords, 8 * y < base ∨ base + 0x38000 ≤ 8 * y) ∧
      ∀ w : Fin 16, foreignTag core.wayTag[w] (some c) = false
    s.plat.ready = true ∧ free ∧ bit v 62 = false ∧ l < k.size ∧ l ∈ k.preempted ∧ clear :=
  ⟨by decide +kernel, (by and_intros <;> decide), by decide +kernel, by decide +kernel,
    by decide +kernel, ⟨by decide +kernel, by and_intros <;> decide⟩⟩

theorem wit_PreemptionsSaveAndResume_retry :
    let s : State := wState { wCore with
      serves := none
      wayTag := Core.reset.wayTag } { wCtx with
      entry := { wCtx.entry with saveBase := 0x2000000, saveSize := 0x1140000, poolV := 1, poolS := 3, poolC := 5 }
      preempted := [0]
      resuming := [0]
      pBusy := true } (wWords (wWords (wWords wMem 0x2000000 [0x4000000000000000, 7, 8, 9]) 0x2000100 [0x30040]) 0x2010000 [0x0000000100050301, 0x60000])
    let c : CtxId := 0
    let v : Word := 0
    let p : CoreId := 0
    let k := s.ctx c
    let l := field v 9 0
    let core := s.core p
    let base := k.entry.saveBase + l * k.entry.saveSize
    let clear : Prop := s.canResume c l = some p ∧ k.heldMsgs = [] ∧ k.outWays = [] ∧ core.copies = [] ∧ l < 1024 ∧
      s.windowDirty p = false ∧ (∀ y ∈ s.loose, y.1 ≠ p) ∧ s.waiters = [] ∧ s.retries = [] ∧
      (∀ y ∈ s.badWords, 8 * y < base ∨ base + 0x38000 ≤ 8 * y) ∧
      ∀ w : Fin 16, foreignTag core.wayTag[w] (some c) = false
    k.resuming = [l] ∧ clear :=
  ⟨by decide +kernel, ⟨by decide +kernel, by and_intros <;> decide⟩⟩

theorem wit_DebuggersAndRetirementAct_halt :
    let s : State := wState wCore wCtx wMem
    let p : CoreId := 0
    let t : StrandId := 0
    let st := s.strand p t
    s.plat.ready = true ∧ st.halted = false ∧ st.dbgHalted = false ∧ st.wait = none ∧ st.relaxed = [] ∧
    st.queue = [] ∧ st.head = none ∧ (s.core p).deliveries = [] ∧ (∀ y ∈ s.ext, y.who ≠ .scalar p t) :=
  by decide +kernel

theorem wit_DebuggersAndRetirementAct_run :
    let s : State := wState (wWith { wStrand with dbgHalted := true }) wCtx wMem
    let p : CoreId := 0
    let t : StrandId := 0
    let st := s.strand p t
    let stopped (x : Strand) : Bool := x.halted || x.dbgHalted
    s.plat.ready = true ∧ stopped st = true ∧ (s.core p).deliveries = [] :=
  by and_intros <;> decide +kernel

theorem wit_DebuggersAndRetirementAct_pc :
    let s : State := wState { wWith { wStrand with dbgHalted := true } with
      dbg := ⟨0, 0, 2, 0, 0, false, 0⟩ } wCtx wMem
    let p : CoreId := 0
    let d := (s.core p).dbg
    let sel := s.strand p d.regStrand.toFin
    let stopped (x : Strand) : Bool := x.halted || x.dbgHalted
    s.plat.ready = true ∧ stopped sel = true ∧ d.regSpace = 2 :=
  by and_intros <;> decide +kernel

theorem wit_DebuggersAndRetirementAct_register :
    let s : State := wState { wWith { wStrand with halted := true } with
      dbg := ⟨0, 0, 0, 31, 0, false, 0⟩ } wCtx wMem
    let p : CoreId := 0
    let d := (s.core p).dbg
    let sel := s.strand p d.regStrand.toFin
    let stopped (x : Strand) : Bool := x.halted || x.dbgHalted
    s.plat.ready = true ∧ stopped sel = true ∧ d.regSpace = 0 ∧ d.regNum.toNat < 32 :=
  by and_intros <;> decide +kernel

theorem wit_DebuggersAndRetirementAct_queue :
    let s : State := wState (wWith { wStrand with halted := true, queue := [wEntry 0] }) wCtx wMem
    let p : CoreId := 0
    let j : Fin 8 := 7
    let e : QEntry := wEntry 0
    let d := (s.core p).dbg
    let qst := s.strand p d.qStrand.toFin
    let stopped (x : Strand) : Bool := x.halted || x.dbgHalted
    s.plat.ready = true ∧ stopped qst = true ∧ d.qBuf = false ∧ qst.head = none ∧
    qst.queue[d.qEntry.toNat]? = some e ∧ j ≠ 0 :=
  by and_intros <;> decide +kernel

theorem wit_DebuggersAndRetirementAct_queue0 :
    let s : State := wState (wWith { wStrand with halted := true, queue := [wEntry 0] }) wCtx wMem
    let p : CoreId := 0
    let j : Fin 8 := 0
    let e : QEntry := wEntry 0
    let d := (s.core p).dbg
    let qst := s.strand p d.qStrand.toFin
    let stopped (x : Strand) : Bool := x.halted || x.dbgHalted
    s.plat.ready = true ∧ stopped qst = true ∧ d.qBuf = false ∧ qst.head = none ∧
    qst.queue[d.qEntry.toNat]? = some e ∧ j = 0 :=
  by and_intros <;> decide +kernel

theorem wit_DebuggersAndRetirementAct_retire :
    let s : State := { wState wCore { wCtx with count := 1 } wMem with seals := [⟨0x60000, 0x61000, 0⟩] }
    let c : CtxId := 0
    let v : Word := 1
    let k := s.ctx c
    let noCopy : Prop := ∀ y ∈ s.descs, y.ctx ≠ c
    let sealed : Prop := ∀ y ∈ s.seals, y.base < y.bound
    s.plat.ready = true ∧ k.rBusy = false ∧ k.entry.valid = true ∧ noCopy ∧ sealed ∧
    (k.count = 0 ∨ k.aborted = true ∨ bit v 0 = true) :=
  ⟨by decide +kernel, by decide +kernel, by decide +kernel, by decide, by decide, by decide +kernel⟩

theorem wit_DebuggersAndRetirementAct_invalid :
    let s : State := wState wCore { wCtx with entry := CtxEntry.zero } wMem
    let c : CtxId := 0
    let k := s.ctx c
    s.plat.ready = true ∧ k.rBusy = false ∧ k.entry.valid = false :=
  by decide +kernel

theorem wit_DebuggersAndRetirementAct_finish :
    let s : State := wState wCore { wCtx with rBusy := true, count := 1 } wMem
    let c : CtxId := 0
    let k := s.ctx c
    let noCopy : Prop := ∀ y ∈ s.descs, y.ctx ≠ c
    let sealed : Prop := ∀ y ∈ s.seals, y.base < y.bound
    k.rBusy = true ∧ noCopy ∧ sealed :=
  ⟨by decide +kernel, by decide, by decide⟩

theorem wit_DebuggersAndRetirementAct_copying :
    let s : State := { wState wCore { wCtx with rBusy := true } wMem with descs := [wCopy] }
    let c : CtxId := 0
    let k := s.ctx c
    k.rBusy = true ∧ (∃ y ∈ s.descs, y.ctx = c) :=
  ⟨by decide +kernel, by decide⟩

theorem wit_RequestsFromOutsidePerform_write :
    let s : State := wState wCore wCtx wMem
    let pa : Nat := 0x60000
    let n : Nat := 0
    let bytes : List Byte := [1, 2, 3]
    let takes (pa n : Nat) : Prop := s.keptFrom pa n = false
    let still : Prop := s.comb = [] ∧ s.combWait = [] ∧ s.badCopies = []
    s.plat.ready = true ∧ s.memOk ∧ s.snap = none ∧ s.hostHeld = [] ∧ still ∧ onDevice pa = true ∧ bytes ≠ [] ∧
    s.reachable none pa bytes.length = true ∧ takes pa bytes.length :=
  ⟨by decide +kernel, memOk_of _ _ rfl (by decide +kernel) (by decide +kernel), by decide +kernel, by decide +kernel,
    ⟨by decide, by decide, by decide⟩,
    by and_intros <;> decide +kernel⟩

theorem wit_RequestsFromOutsidePerform_arena :
    let s : State := wState wCore wCtx wMem
    let pa : Nat := 0x4ffff
    let bytes : List Byte := [1, 2, 3]
    s.plat.ready = true ∧ s.memOk ∧ s.snap = none ∧ s.hostHeld = [] ∧ onDevice pa = true ∧ bytes ≠ [] ∧
    s.keptFrom pa bytes.length = true :=
  ⟨by decide +kernel, memOk_of _ _ rfl (by decide +kernel) (by decide +kernel), by and_intros <;> decide +kernel⟩

theorem wit_RequestsFromOutsidePerform_register :
    let s : State := wState wCore wCtx wMem
    let pa : Nat := 0x20000020008
    let o : Nat := 0x20008
    let bytes : List Byte := leBytes 8 0x2000000000000000
    let reg : MmioReg := .bootstat
    s.plat.ready = true ∧ s.memOk ∧ s.snap = none ∧ region pa = .mmio o ∧ o % 8 = 0 ∧ mmioReg o = some reg ∧
    s.hostHeld = [] ∧ s.mmioHeld o = none ∧ bytes.length = 8 :=
  ⟨by decide +kernel, memOk_of _ _ rfl (by decide +kernel) (by decide +kernel), by and_intros <;> decide +kernel⟩

theorem wit_RequestsFromOutsidePerform_read :
    let s : State := wState wCore wCtx (wMem.write 0x60000 (leBytes 8 0x8877665544332211))
    let pa : Nat := 0x60001
    let n : Nat := 5
    let still : Prop := s.comb = [] ∧ s.combWait = [] ∧ s.badCopies = []
    s.plat.ready = true ∧ s.memOk ∧ s.snap = none ∧ s.hostHeld = [] ∧ still ∧ onDevice pa = true ∧ s.reachable none pa n = true ∧
    s.isBad pa n = false :=
  ⟨by decide +kernel, memOk_of _ _ rfl (by decide +kernel) (by decide +kernel), by decide +kernel, by decide +kernel,
    ⟨by decide, by decide, by decide⟩,
    by and_intros <;> decide +kernel⟩

theorem wit_RequestsFromOutsidePerform_atomic :
    let s : State := wState wCore wCtx (wMem.write 0x60000 (leBytes 8 0x8877665544332211))
    let pa : Nat := 0
    let n : Nat := 0
    let r : AtomicReq := ⟨.host, 0x60004, .w, .cas, 0x55, 0x88776655⟩
    let z := ASize.bytes r.size
    let takes (pa n : Nat) : Prop := s.keptFrom pa n = false
    let still : Prop := s.comb = [] ∧ s.combWait = [] ∧ s.badCopies = []
    s.plat.ready = true ∧ s.memOk ∧ s.snap = none ∧ s.hostHeld = [] ∧ still ∧ r.pa % z = 0 ∧ takes r.pa z ∧
    r.op ∈ [AmoOp.add, .swap, .cas] ∧ s.reachable none r.pa z = true ∧ r.who = .host :=
  ⟨by decide +kernel, memOk_of _ _ rfl (by decide +kernel) (by decide +kernel), by decide +kernel, by decide +kernel,
    ⟨by decide, by decide, by decide⟩,
    by and_intros <;> decide +kernel⟩

theorem wit_RequestsFromOutsidePerform_peeratomic :
    let s : State := wState wCore wCtx (wMem.write 0x60000 (leBytes 8 0x8877665544332211))
    let pa : Nat := 0
    let n : Nat := 0
    let r : AtomicReq := ⟨.peer 5, 0x60004, .w, .cas, 0x55, 0x88776655⟩
    let dev : BitVec 9 := 5
    let z := ASize.bytes r.size
    let takes (pa n : Nat) : Prop := s.keptFrom pa n = false
    let still : Prop := s.comb = [] ∧ s.combWait = [] ∧ s.badCopies = []
    s.plat.ready = true ∧ s.memOk ∧ s.snap = none ∧ s.hostHeld = [] ∧ still ∧ r.pa % z = 0 ∧ takes r.pa z ∧
    r.op ∈ [AmoOp.add, .swap, .cas] ∧ s.reachable none r.pa z = true ∧ r.who = .peer dev :=
  ⟨by decide +kernel, memOk_of _ _ rfl (by decide +kernel) (by decide +kernel), by decide +kernel, by decide +kernel,
    ⟨by decide, by decide, by decide⟩,
    by and_intros <;> decide +kernel⟩

theorem wit_RequestsFromOutsidePerform_unknown :
    let s : State := wState wCore wCtx (wMem.write 0x60000 (leBytes 8 0x8877665544332211))
    let r : AtomicReq := ⟨.host, 0x60004, .w, .and, 0x55, 0x88776655⟩
    s.plat.ready = true ∧ s.memOk ∧ s.snap = none ∧ s.hostHeld = [] ∧ r.op ∉ [AmoOp.add, .swap, .cas] :=
  ⟨by decide +kernel, memOk_of _ _ rfl (by decide +kernel) (by decide +kernel), by decide +kernel, by decide +kernel,
    by decide +kernel⟩

theorem wit_RequestsFromOutsidePerform_combinecas :
    let s : State := { wState wCore wCtx (wMem.write 0x60000 (leBytes 8 0x8877665544332211)) with
      comb := [⟨0x60004 / 8, false, [⟨.host, 0x60004, .w, .cas, 0x55, 0x88776655⟩], none, false, none⟩] }
    let pa : Nat := 0x60004
    let r : AtomicReq := ⟨.host, 0x60004, .w, .cas, 0x55, 0x88776655⟩
    let z := ASize.bytes r.size
    s.plat.ready = true ∧ s.memOk ∧ s.snap = none ∧ s.hostHeld = [] ∧ s.comb = [⟨pa / 8, false, [r], none, false, none⟩] ∧ s.combWait = [] ∧
    s.badCopies = [] ∧ r.pa / 8 = pa / 8 ∧
    r.pa % z = 0 ∧ onDevice r.pa = true ∧ r.who = .host ∧
    (∀ p off, region r.pa = .spad p off → ((s.core p).spadPlace off).isSome = true) ∧
    s.isBad (pa / 8 * 8) 8 = false ∧ r.op ∈ [AmoOp.add, .swap, .cas] :=
  ⟨by decide +kernel, memOk_of _ _ rfl (by decide +kernel) (by decide +kernel), by decide +kernel, by decide +kernel, by decide +kernel, by decide +kernel,
    rfl, by decide +kernel, by decide +kernel, by decide +kernel, by decide +kernel,
    (by intro z off h; cases h.symm.trans (show region 0x60004 = .hbm 0x60004 by decide)), by decide +kernel,
    by decide +kernel⟩

theorem wit_RequestsFromOutsidePerform_parked :
    let s : State := { ((wState wCore wCtx (wMem.write 0x60000 (leBytes 8 0x8877665544332211))).setFull 0x60000 false) with
      retries := [⟨0, 0, 0x60000, 32, .ldfT 5⟩] }
    let w : Waiter := ⟨0, 0, 0x60000, 32, .ldfT 5⟩
    let still : Prop := s.comb = [] ∧ s.combWait = [] ∧ s.badCopies = []
    s.plat.ready = true ∧ s.memOk ∧ s.snap = none ∧ s.hostHeld = [] ∧ still ∧ (s.core w.core).copies = [] ∧ s.retries = [w] ∧ s.isFull w.pa ≠ w.op.wantsFull ∧
    s.waiters = [] ∧ s.watches = [] :=
  ⟨by decide +kernel, memOk_of _ _ rfl (by decide +kernel) (by decide +kernel), by decide +kernel, by decide +kernel,
    ⟨by decide, by decide, by decide⟩,
    by and_intros <;> decide +kernel⟩

theorem wit_RequestsFromOutsidePerform_retried :
    let s : State := { wState (wWith { wStrand with
        wait := some .fullEmpty }) wCtx (wMem.write 0x60000 (leBytes 8 0x8877665544332211)) with
      retries := [⟨0, 0, 0x60000, 32, .ldfT 5⟩] }
    let w : Waiter := ⟨0, 0, 0x60000, 32, .ldfT 5⟩
    let rd : BitVec 5 := 5
    let still : Prop := s.comb = [] ∧ s.combWait = [] ∧ s.badCopies = []
    s.plat.ready = true ∧ s.memOk ∧ s.snap = none ∧ s.hostHeld = [] ∧ still ∧ (s.core w.core).copies = [] ∧ s.retries = [w] ∧ s.waiters = [] ∧ w.op = .ldfT rd ∧
    onDevice w.pa = true ∧ s.isFull w.pa = true ∧ s.isBad w.pa 8 = false :=
  ⟨by decide +kernel, memOk_of _ _ rfl (by decide +kernel) (by decide +kernel), by decide +kernel, by decide +kernel,
    ⟨by decide, by decide, by decide⟩,
    by and_intros <;> decide +kernel⟩

theorem wit_RequestsFromOutsidePerform_peerread :
    let s : State := wState wCore wCtx (wMem.write 0x60000 (leBytes 8 0x8877665544332211))
    let pa : Nat := 2 ^ 51 + 0x60000
    let n : Nat := 8
    let o : Nat := 0x60000
    let bytes : List Byte := [1, 2]
    let dev : BitVec 9 := 5
    let c : CtxId := 0
    let takes (pa n : Nat) : Prop := s.keptFrom pa n = false
    let still : Prop := s.comb = [] ∧ s.combWait = [] ∧ s.badCopies = []
    s.plat.ready = true ∧ s.memOk ∧ s.snap = none ∧ s.hostHeld = [] ∧ still ∧ dev ≠ s.devnum ∧ region pa = .peer s.devnum o ∧ o < feBase ∧
    s.reachable (some c) o n = true ∧ s.isBad o n = false ∧ s.reachable (some c) o bytes.length = true ∧
    takes o bytes.length :=
  ⟨by decide +kernel, memOk_of _ _ rfl (by decide +kernel) (by decide +kernel), by decide +kernel, by decide +kernel,
    ⟨by decide, by decide, by decide⟩,
    by and_intros <;> decide +kernel⟩

theorem wit_AnswersChainsAndPortsAct_host :
    let s : State := { wState (wWith { wStrand with wait := some .external }) wCtx wMem with
      ext := [⟨.scalar 0 0, 2 ^ 50 + 0x100, 2 ^ 50 + 0x100, .read (2 ^ 50 + 0x100) 2, some (5, .h), false, none, none, []⟩] }
    let p : CoreId := 0
    let t : StrandId := 0
    let e : ExtReq := ⟨.scalar 0 0, 2 ^ 50 + 0x100, 2 ^ 50 + 0x100, .read (2 ^ 50 + 0x100) 2, some (5, .h), false, none, none, []⟩
    let r : BitVec 5 := 5
    let z : Size := .h
    let st := s.strand p t
    let asked : BusOp := match e.fill with | some y => .read (e.pa / y * y) y | none => .read e.pa (Size.bytes z)
    s.ext = [e] ∧ e.who = .scalar p t ∧ e.relaxed = false ∧ e.op = asked ∧ e.rd = some (r, z) ∧
    e.acq = none ∧ (∀ c : CtxId, (s.ctx c).pWait = none) ∧ (∀ u : StrandId, (s.strand p u).owed = 0) ∧
    st.halted = false ∧ st.tact = false ∧ e.toHost = true ∧ e.fill = none := by
  and_intros <;> first | exact pWait_of _ _ rfl (by decide) | decide +kernel

theorem wit_AnswersChainsAndPortsAct_peer :
    let s : State := { wState (wWith { wStrand with wait := some .external }) wCtx wMem with
      ext := [⟨.scalar 0 0, 2 ^ 51 + 2 ^ 40 + 0x100, 2 ^ 51 + 2 ^ 40 + 0x100, .read (2 ^ 51 + 2 ^ 40 + 0x100) 2, some (5, .h), false, none, none, []⟩] }
    let p : CoreId := 0
    let t : StrandId := 0
    let e : ExtReq := ⟨.scalar 0 0, 2 ^ 51 + 2 ^ 40 + 0x100, 2 ^ 51 + 2 ^ 40 + 0x100, .read (2 ^ 51 + 2 ^ 40 + 0x100) 2, some (5, .h), false, none, none, []⟩
    let r : BitVec 5 := 5
    let z : Size := .h
    let st := s.strand p t
    let asked : BusOp := match e.fill with | some y => .read (e.pa / y * y) y | none => .read e.pa (Size.bytes z)
    s.ext = [e] ∧ e.who = .scalar p t ∧ e.relaxed = false ∧ e.op = asked ∧ e.rd = some (r, z) ∧
    e.acq = none ∧ (∀ c : CtxId, (s.ctx c).pWait = none) ∧ (∀ u : StrandId, (s.strand p u).owed = 0) ∧
    st.halted = false ∧ st.tact = false ∧ e.toHost = false ∧ e.fill = none := by
  and_intros <;> first | exact pWait_of _ _ rfl (by decide) | decide +kernel

theorem wit_AnswersChainsAndPortsAct_fill :
    let s : State := { wState (wWith { wStrand with wait := some .external }) wCtx wMem with
      ext := [⟨.scalar 0 0, 2 ^ 50 + 0x102, 2 ^ 50 + 0x102, .read (2 ^ 50 + 0x100) 128, some (5, .h), false, none, some 128, []⟩] }
    let p : CoreId := 0
    let t : StrandId := 0
    let e : ExtReq :=
      ⟨.scalar 0 0, 2 ^ 50 + 0x102, 2 ^ 50 + 0x102, .read (2 ^ 50 + 0x100) 128, some (5, .h), false, none, some 128, []⟩
    let r : BitVec 5 := 5
    let z : Size := .h
    let x : Nat := 128
    let asked : BusOp := match e.fill with | some y => .read (e.pa / y * y) y | none => .read e.pa (Size.bytes z)
    s.ext = [e] ∧ e.who = .scalar p t ∧ e.relaxed = false ∧ e.op = asked ∧ e.rd = some (r, z) ∧
    e.acq = none ∧ (∀ c : CtxId, (s.ctx c).pWait = none) ∧ (∀ u : StrandId, (s.strand p u).owed = 0) ∧
    e.fill = some x ∧ isGrain x = true ∧ e.put = [] ∧ e.pa % Size.bytes z = 0 ∧ (s.core p).copies = [] := by
  and_intros <;> first | exact pWait_of _ _ rfl (by decide) | decide +kernel

theorem wit_AnswersChainsAndPortsAct_chain :
    let s : State := { wState wCore wCtx wMem with
      chains := State.reset.chains.set 3 { Chain.reset with valid := true, next := 2, prev := 1 } }
    let g : Fin 16 := 3
    let k := s.chains[g]
    k.serving = none :=
  by decide +kernel

theorem wit_PowerAndTemperatureEvents_allow :
    let s : State := wState { wCore with allowance := 90 } wCtx wMem
    s.plat.throttled = false :=
  by decide +kernel

theorem wit_PowerAndTemperatureEvents_spared :
    let s : State := wState { wCore with allowance := 90 } { wCtx with replay := { wCtx.replay with running := 2 } } wMem
    let n : Vector Nat 384 := Vector.replicate 384 80
    let q : CoreId := 0
    let spared (q : CoreId) : Prop := ∃ c, (s.core q).serves = some c ∧ (s.ctx c).replay.running = 2
    spared q ∧ n[q] < (s.core q).allowance :=
  ⟨⟨0, by decide +kernel, by decide +kernel⟩, by decide +kernel⟩

theorem wit_PowerAndTemperatureEvents_idle :
    let s : State := { wState { wCore with allowance := 90 } wCtx wMem with
      plat := { Platform.reset with ready := true, loweredAt := some 0 }
      cycles := 240000 }
    s.plat.loweredAt = some 0 ∧ 0 + 240000 ≤ s.cycles :=
  by decide +kernel

theorem wit_PowerAndTemperatureEvents_notYet :
    let s : State := { wState { wCore with allowance := 90 } wCtx wMem with
      plat := { Platform.reset with ready := true, loweredAt := some 0 }
      cycles := 239999 }
    s.plat.loweredAt = none ∨ (∃ b, s.plat.loweredAt = some b ∧ s.cycles < b + 240000) :=
  .inr ⟨0, by decide +kernel, by decide +kernel⟩

theorem wit_PowerAndTemperatureEvents_cool :
    let s : State := wState { wCore with thermal := ⟨false, false, false, 680, 600, 3, 4, []⟩ } wCtx wMem
    let p : CoreId := 0
    let x : Int := 680
    let k := s.core p
    let th := k.thermal
    th.temp = some x ∧ th.capped = false ∧ x ≤ 85 * 8 :=
  by decide +kernel

theorem wit_PowerAndTemperatureEvents_warm :
    let s : State := wState { wCore with thermal := ⟨false, false, false, 681, 600, 3, 2, []⟩ } wCtx wMem
    let p : CoreId := 0
    let x : Int := 681
    let k := s.core p
    let th := k.thermal
    th.temp = some x ∧ th.capped = false ∧ 85 * 8 < x :=
  by decide +kernel

theorem wit_PowerAndTemperatureEvents_sensors :
    let s : State := wState wCore wCtx wMem
    let p : CoreId := 0
    let k := s.core p
    let th := k.thermal
    th.failBase = false ∧ th.failCore = false :=
  by decide +kernel

theorem wit_PowerAndTemperatureEvents_throttle :
    let s : State := wState { wCore with thermal := ⟨false, false, false, 841, 600, 0, 0, []⟩ } wCtx wMem
    let q : CoreId := 0
    let x : Int := 841
    s.hottest = some (q, x) ∧ 105 * 8 < x ∧ s.plat.throttled = false :=
  ⟨hottest_of _ _ _ rfl (by decide) (by decide), by decide +kernel, by decide +kernel⟩

theorem wit_PowerAndTemperatureEvents_exit :
    let s : State := { wState { wCore with thermal := ⟨false, false, false, 800, 600, 0, 0, []⟩ } wCtx wMem with
      plat := { Platform.reset with ready := true, throttled := true } }
    let q : CoreId := 0
    let x : Int := 800
    s.hottest = some (q, x) ∧ x ≤ 100 * 8 ∧ s.plat.throttled = true :=
  ⟨hottest_of _ _ _ rfl (by decide) (by decide), by decide +kernel, by decide +kernel⟩

theorem wit_PowerAndTemperatureEvents_shutdown :
    let s : State := wState { wCore with thermal := ⟨false, false, false, 1001, 600, 0, 0, []⟩ } wCtx wMem
    let q : CoreId := 0
    let x : Int := 1001
    s.hottest = some (q, x) ∧ 125 * 8 < x :=
  ⟨hottest_of _ _ _ rfl (by decide) (by decide), by decide +kernel⟩

theorem wit_ResetsAndCapabilityMasks_reset :
    let s : State := wState wCore wCtx wMem
    let v : Word := 0x5b
    s.plat.poweredDown = false ∧ s.plat.ready = true ∧ v ≠ 0x5a ∧ s.plat.recovery = false ∧ s.plat.booting = none :=
  by decide +kernel

theorem wit_ResetsAndCapabilityMasks_recovery :
    let s : State := { wState wCore wCtx wMem with plat := { Platform.reset with recovery := true } }
    s.plat.recovery = true ∧ s.plat.ready = false :=
  by decide +kernel

theorem wit_ResetsAndCapabilityMasks_selfTest :
    let r1 : BootResult := ⟨true, true, Vector.replicate 384 ⟨[], 0xff01010101⟩⟩
    let done : List CoreId := [3]
    let s : State := { State.reset with plat := { Platform.reset with booting := some (r1, done), stage := 5 } }
    let p : CoreId := 2
    let x : TestResult := ⟨[], 0xff01010101⟩
    s.plat.booting = some (r1, done) ∧ s.plat.stage = 5 ∧ p ∉ done ∧ x.rows = [] ∧ (∀ y ∈ s.plat.repair, y.1 ≠ p) :=
  ⟨rfl, by decide, by decide, by decide, by decide⟩

theorem wit_ResetsAndCapabilityMasks_scrub :
    let s : State := wState { wCore with serves := none } wCtx wMem
    let p : CoreId := 0
    let k := s.core p
    s.plat.ready = true ∧ k.serves = none :=
  by decide +kernel

theorem wit_SpdmRequestsAreAnswered_ready :
    let s : State := wState wCore wCtx wMem
    let n : Nat := 4
    (s.plat.ready = true ∨ s.plat.recovery = true) ∧ 1 ≤ n ∧ n ≤ 4 :=
  by decide +kernel

theorem wit_SpdmRequestsAreAnswered_booting :
    let s : State := { wState wCore wCtx wMem with plat := Platform.reset }
    s.plat.ready = false ∧ s.plat.recovery = false :=
  by decide +kernel

theorem wit_OperationsKeepTheirForms :
    let s : State := wState { wCore with spad := Memory.write [] 0x101000 [7] } wCtx wMem
    let p : CoreId := 0
    let c : CtxId := 0
    let root : Nat := 0
    let va : Word := 0x60000
    let e : TlbEntry := ⟨none, 0, 0, 2 ^ 32, 0, 32, false, true, true⟩
    s.memOk ∧ s.tlbOk ∧ isGrain 128 = true ∧ (s.lookup p c root va).1 = .ok e :=
  ⟨memOk_of _ _ rfl (by decide +kernel) (by decide +kernel), tlbOk_of _ _ rfl (by decide), by decide, by decide +kernel⟩

theorem wit_MaskAndTagResults_writes321 :
    let s : State := wState { wWith { wStrand with
        queue := [{ wEntry ((encode (.vwrite 2 7 2 1)).getD 0) with vtype := 4, vlen := 6, x1 := 0xffffffff12345678 }]
        part := [0] } with
      lanes := wLanes } wCtx wMem
    let p : CoreId := 0
    let t : StrandId := 0
    let e : QEntry := { wEntry ((encode (.vwrite 2 7 2 1)).getD 0) with
      vtype := 4
      vlen := 6
      x1 := 0xffffffff12345678 }
    let ty : ETy := .int true 32
    let v := s.headEnv p t e
    v.cfg.ty = some ty ∧ s.mayRun p t e (.vwrite 2 7 2 1) :=
  ⟨by decide +kernel, ((by unfold State.mayRun; decide +kernel))⟩

theorem wit_FloatReductionAndProductResults_fp :
    let e : QEntry := { wEntry ((encode (.vfma ⟨1, 2, 3, 0, true, .dflt⟩)).getD 0) with
      x1 := 0x7fc00001
      vlen := 6
      vtype := 20 }
    let s : State := wState { wWith { wStrand with
        queue := [e]
        part := [0] } with
      lanes := wLanes } wCtx wMem
    let p : CoreId := 0
    let t : StrandId := 0
    let v := s.headEnv p t e
    let f : FpFmt := fp32 0
    s.mayRun p t e (.vfma ⟨1, 2, 3, 0, true, .dflt⟩) ∧ v.cfg.ty = some (.fp f) :=
  ⟨by unfold State.mayRun; decide +kernel, by decide +kernel⟩

theorem wit_FloatReductionAndProductResults_compare :
    let e : QEntry := { wEntry ((encode (.vfcmp .le 1 2 3 2 false)).getD 0) with
      x1 := 0
      vlen := 6
      vtype := 20 }
    let s : State := wState { wWith { wStrand with
        queue := [e]
        part := [0] } with
      lanes := wLanes } wCtx wMem
    let p : CoreId := 0
    let t : StrandId := 0
    let v := s.headEnv p t e
    let f : FpFmt := fp32 0
    s.mayRun p t e (.vfcmp .le 1 2 3 2 false) ∧ v.cfg.ty = some (.fp f) :=
  ⟨by unfold State.mayRun; decide +kernel, by decide +kernel⟩

theorem wit_FloatReductionAndProductResults_convert :
    let e : QEntry := { wEntry ((encode (.vcvt ⟨1, 2, 4, 0, .rtz⟩)).getD 0) with
      x1 := 0
      vlen := 6
      vtype := 20 }
    let s : State := wState { wWith { wStrand with
        queue := [e]
        part := [0] } with
      lanes := wLanes } wCtx wMem
    let p : CoreId := 0
    let t : StrandId := 0
    let v := s.headEnv p t e
    let f : FpFmt := fp32 0
    let ty : ETy := .fp f
    let src : ETy := .int true 32
    s.mayRun p t e (.vcvt ⟨1, 2, 4, 0, .rtz⟩) ∧ v.cfg.ty = some ty ∧ v.cfg.stc 4 = some (src, false) ∧ ty = .fp f ∧ src = .int true 32 :=
  ⟨by unfold State.mayRun; decide +kernel, by and_intros <;> decide +kernel⟩

theorem wit_FloatReductionAndProductResults_integer :
    let e : QEntry := { wEntry ((encode (.vcvt ⟨1, 2, 14, 0, .rtz⟩)).getD 0) with
      x1 := 0
      vlen := 6
      vtype := 4 }
    let s : State := wState { wWith { wStrand with
        queue := [e]
        part := [0] } with
      lanes := wLanes } wCtx wMem
    let p : CoreId := 0
    let t : StrandId := 0
    let v := s.headEnv p t e
    let f : FpFmt := fp32 0
    let ty : ETy := .int true 32
    let src : ETy := .fp f
    s.mayRun p t e (.vcvt ⟨1, 2, 14, 0, .rtz⟩) ∧ v.cfg.ty = some ty ∧ v.cfg.stc 14 = some (src, false) ∧ ty = .int true 32 ∧ src = .fp f :=
  ⟨by unfold State.mayRun; decide +kernel, by and_intros <;> decide +kernel⟩

theorem wit_FloatReductionAndProductResults_dequantize :
    let e : QEntry := { wEntry ((encode (.vbdeq ⟨1, 2, 22, 0, .rtz⟩)).getD 0) with
      x1 := 0
      vlen := 6
      vtype := 20 }
    let s : State := wState { wWith { wStrand with
        queue := [e]
        part := [0] } with
      lanes := wLanes } wCtx wMem
    let p : CoreId := 0
    let t : StrandId := 0
    let v := s.headEnv p t e
    let f : FpFmt := fp32 0
    let src : ETy := .int true 8
    s.mayRun p t e (.vbdeq ⟨1, 2, 22, 0, .rtz⟩) ∧ v.cfg.ty = some (.fp f) ∧ v.cfg.stc 22 = some (src, true) :=
  ⟨by unfold State.mayRun; decide +kernel, by and_intros <;> decide +kernel⟩

theorem wit_FloatReductionAndProductResults_scale :
    let e : QEntry := { wEntry ((encode (.vbscale ⟨1, 2, 3, 0, .dflt⟩)).getD 0) with
      x1 := 0x7f
      vlen := 6
      vtype := 0x2a }
    let s : State := wState { wWith { wStrand with
        queue := [e]
        part := [0] } with
      lanes := wLanes } wCtx wMem
    let p : CoreId := 0
    let t : StrandId := 0
    let v := s.headEnv p t e
    s.mayRun p t e (.vbscale ⟨1, 2, 3, 0, .dflt⟩) ∧ bit e.x1 63 = false :=
  ⟨by unfold State.mayRun; decide +kernel, by decide +kernel⟩

theorem wit_FloatReductionAndProductResults_reduce :
    let e : QEntry := { wEntry ((encode (.vredmin 1 2 1 true)).getD 0) with
      x1 := 0
      vlen := 6
      vtype := 4 }
    let s : State := wState { wWith { wStrand with
        queue := [e]
        part := [0] } with
      lanes := wLanes } wCtx wMem
    let p : CoreId := 0
    let t : StrandId := 0
    let v := s.headEnv p t e
    let act (m : BitVec 3) : List Nat := (List.range e.vlen.toNat).filter (v.active m)
    s.mayRun p t e (.vredmin 1 2 1 true) ∧ v.cfg.ty = some (.int true 32) ∧ (e.level1 = false ∨ act 1 ≠ []) :=
  ⟨by unfold State.mayRun; decide +kernel, by and_intros <;> decide +kernel⟩

theorem wit_FloatReductionAndProductResults_none :
    let e : QEntry := { wEntry ((encode (.vredmax 1 2 1 false)).getD 0) with
      x1 := 0
      vlen := 0
      vtype := 4
      level1 := true }
    let s : State := wState { wWith { wStrand with
        queue := [e]
        part := [0] } with
      lanes := wLanes } wCtx wMem
    let p : CoreId := 0
    let t : StrandId := 0
    let v := s.headEnv p t e
    let act (m : BitVec 3) : List Nat := (List.range e.vlen.toNat).filter (v.active m)
    s.mayRun p t e (.vredmax 1 2 1 false) ∧ v.cfg.ty = some (.int true 32) ∧ e.level1 = true ∧ act 1 = [] :=
  ⟨by unfold State.mayRun; decide +kernel, by and_intros <;> decide +kernel⟩

theorem wit_FloatReductionAndProductResults_scan :
    let e : QEntry := { wEntry ((encode (.vscansum ⟨1, 2, 0, .dflt⟩)).getD 0) with
      x1 := 0
      vlen := 6
      vtype := 4 }
    let s : State := wState { wWith { wStrand with
        queue := [e]
        part := [0] } with
      lanes := wLanes } wCtx wMem
    let p : CoreId := 0
    let t : StrandId := 0
    let v := s.headEnv p t e
    s.mayRun p t e (.vscansum ⟨1, 2, 0, .dflt⟩) ∧ v.cfg.ty = some (.int true 32) :=
  ⟨by unfold State.mayRun; decide +kernel, by decide +kernel⟩

theorem wit_FloatReductionAndProductResults_slice :
    let e : QEntry := { wEntry ((encode (.imma 4 2 1 1)).getD 0) with
      x1 := 0x1010000
      vlen := 6
      vtype := 2 }
    let s : State := wState { wWith { wStrand with
        queue := [e]
        part := [0] } with
      lanes := wLanes } wCtx wMem
    let p : CoreId := 0
    let t : StrandId := 0
    let v := s.headEnv p t e
    s.mayRun p t e (.imma 4 2 1 1) ∧ v.cfg.ty = some (.int true 8) :=
  ⟨by unfold State.mayRun; decide +kernel, by decide +kernel⟩

theorem wit_FloatReductionAndProductResults_upper :
    let e : QEntry := { wEntry ((encode (.bsmovFromUpper 4 1 2)).getD 0) with
      x1 := 0x10000
      vlen := 6
      vtype := 2 }
    let s : State := wState { wWith { wStrand with
        queue := [e]
        part := [0] } with
      lanes := wLanes } wCtx wMem
    let p : CoreId := 0
    let t : StrandId := 0
    let v := s.headEnv p t e
    s.mayRun p t e (.bsmovFromUpper 4 1 2) ∧ field e.x1 23 16 = 1 :=
  ⟨by unfold State.mayRun; decide +kernel, by decide +kernel⟩

theorem wit_FloatReductionAndProductResults_tile :
    let e : QEntry := { wEntry ((encode (.tmma ⟨2, 2, 3, 0, .dflt⟩)).getD 0) with
      x1 := 0
      vlen := 6
      vtype := 0x404 }
    let s : State := wState { wWith { wStrand with
        queue := [e]
        part := [0]
        acc := [(512, 5), (529, 7)] } with
      lanes := wLanes } wCtx wMem
    let p : CoreId := 0
    let t : StrandId := 0
    let v := s.headEnv p t e
    s.mayRun p t e (.tmma ⟨2, 2, 3, 0, .dflt⟩) ∧ v.cfg.ty = some (.int true 32) ∧ e.vlen.toNat ≠ 0 ∧ vtTile e.vtype ≤ 16 ∧
    mapWfFrom 0 0 (s.strand p t).acc = true :=
  ⟨by unfold State.mayRun; decide +kernel, by and_intros <;> decide +kernel⟩

theorem wit_FloatReductionAndProductResults_store :
    let e : QEntry := { wEntry ((encode (.taccst 2 1)).getD 0) with
      x1 := 0
      vlen := 6
      vtype := 4 }
    let s : State := wState { wWith { wStrand with
        queue := [e]
        part := [0]
        acc := [(512, 5), (529, 7)] } with
      lanes := wLanes } wCtx wMem
    let p : CoreId := 0
    let t : StrandId := 0
    let v := s.headEnv p t e
    s.mayRun p t e (.taccst 2 1) ∧ v.cfg.ty = some (.int true 32) ∧ v.cfg.scaled = false :=
  ⟨by unfold State.mayRun; decide +kernel, by and_intros <;> decide +kernel⟩

end Tests
end

section
/-! Power and temperature: what the events of the power controller do to the allowance of each core, to the thermal columns
and to the platform (R17, R435, R436, R440), and with it O55. -/

namespace Sys2Proof.Machine

/-! ### The log and the vectors leave the cores alone -/

@[simp] theorem State.logEvent_core (s : State) (kind pcore : Nat) (d dh : Word) (q : CoreId) :
    (s.logEvent kind pcore d dh).core q = s.core q := by simp only [State.core, State.logEvent]

theorem State.logEvent_rest (s : State) (kind pcore : Nat) (d dh : Word) :
    s.logEvent kind pcore d dh = { s with plat := (s.logEvent kind pcore d dh).plat } := by simp only [State.logEvent]

@[simp] theorem State.logEvent_mem (s : State) (kind pcore : Nat) (d dh : Word) :
    (s.logEvent kind pcore d dh).mem = s.mem := by simp only [State.logEvent]

@[simp] theorem State.logEvent_ctxs (s : State) (kind pcore : Nat) (d dh : Word) :
    (s.logEvent kind pcore d dh).ctxs = s.ctxs := by simp only [State.logEvent]

@[simp] theorem State.logEvent_evCount (s : State) (kind pcore : Nat) (d dh : Word) :
    (s.logEvent kind pcore d dh).plat.evCount = s.plat.evCount + 1 := rfl

@[simp] theorem State.signal_core (s : State) (v : Nat) (q : CoreId) : (s.signal v).core q = s.core q := rfl

@[simp] theorem State.signal_mem (s : State) (v : Nat) : (s.signal v).mem = s.mem := rfl

@[simp] theorem State.signal_ctxs (s : State) (v : Nat) : (s.signal v).ctxs = s.ctxs := rfl

@[simp] theorem State.signal_plat (s : State) (v : Nat) : (s.signal v).plat = s.plat := rfl

/-! ### The allowance of every core -/

/-- Later proofs take the cores as one vector v and do not look inside it. -/
theorem State.mapAllowance_rest (s : State) (f : CoreId → Nat → Nat) : ∃ v, s.mapAllowance f = { s with cores := v } :=
  ⟨_, rfl⟩

theorem State.core_mapAllowance (s : State) (f : CoreId → Nat → Nat) (q : CoreId) :
    (s.mapAllowance f).core q = { s.core q with
      allowance := min (if (s.core q).thermal.capped then 128 else 256) (max 1 (f q (s.core q).allowance)) } :=
  Vector.getElem_ofFn q.isLt

theorem State.allowanceFull_iff (s : State) :
    s.allowanceFull = true ↔
      ∀ q : CoreId, (s.core q).allowance = if (s.core q).thermal.capped then 128 else 256 := by
  simp only [State.allowanceFull, List.all_eq_true, decide_eq_true_eq, Vector.mem_toList_iff]
  constructor
  · exact fun h q => h _ (Vector.getElem_mem q.isLt)
  · intro h k hk
    obtain ⟨i, hi, rfl⟩ := Vector.mem_iff_getElem.mp hk
    exact h ⟨i, hi⟩

theorem State.replays_iff (s : State) (q : CoreId) :
    s.replays q = true ↔ ∃ c, (s.core q).serves = some c ∧ (s.ctx c).replay.running = 2 := by
  unfold State.replays
  cases (s.core q).serves with
  | none => simp
  | some c => simp

theorem allCores_any_iff (f : CoreId → Bool) : allCores.any f = true ↔ ∃ q, f q = true := by
  simp [allCores]

/-! ### POWER_WINDOW (R17) -/

/-- The allowances that a power window leaves: a core under replay keeps its own (R424). -/
def State.windowAllowances (s : State) (n : Vector Nat 384) : State :=
  s.mapAllowance fun p a => if s.replays p then a else min a n[p]

theorem State.powerWindow_rest (s : State) (n : Vector Nat 384) :
    s.powerWindow n = { s with cores := (s.powerWindow n).cores, plat := (s.powerWindow n).plat } := by
  obtain ⟨v, hv⟩ := s.mapAllowance_rest fun p a => if s.replays p then a else min a n[p]
  simp only [State.powerWindow, hv]

theorem State.powerWindow_core_eq (s : State) (n : Vector Nat 384) (q : CoreId) :
    (s.powerWindow n).core q = (s.windowAllowances n).core q := by
  simp only [State.powerWindow, State.core, State.windowAllowances]

theorem State.powerWindow_core_replays {s : State} (n : Vector Nat 384) {q : CoreId} (h : s.replays q = true) :
    (s.powerWindow n).core q = { s.core q with
      allowance := min (if (s.core q).thermal.capped then 128 else 256) (max 1 (s.core q).allowance) } := by
  simp only [State.powerWindow_core_eq, State.windowAllowances, State.core_mapAllowance, if_pos h]

theorem State.powerWindow_core {s : State} (n : Vector Nat 384) {q : CoreId} (h : ¬s.replays q = true) :
    (s.powerWindow n).core q = { s.core q with
      allowance := min (if (s.core q).thermal.capped then 128 else 256) (max 1 (min (s.core q).allowance n[q])) } := by
  simp only [State.powerWindow_core_eq, State.windowAllowances, State.core_mapAllowance, if_neg h]

/-- Of the platform a power window changes what IDLE_INSERTION goes by and whether idle cycles are inserted. -/
theorem State.powerWindow_plat (s : State) (n : Vector Nat 384) :
    (s.powerWindow n).plat = { s.plat with
      loweredAt := if allCores.any fun q => decide (((s.powerWindow n).core q).allowance < (s.core q).allowance)
        then some s.cycles else s.plat.loweredAt
      idleInserted := s.plat.idleInserted ||
        allCores.any fun q => s.replays q && decide (n[q] < (s.core q).allowance) } := by
  simp only [State.powerWindow_core_eq]
  rfl

theorem State.powerWindow_loweredAt_of_lowered {s : State} {n : Vector Nat 384}
    (h : ∃ q, ((s.powerWindow n).core q).allowance < (s.core q).allowance) :
    (s.powerWindow n).plat.loweredAt = some s.cycles := by
  rw [State.powerWindow_plat]
  exact if_pos ((allCores_any_iff _).mpr (h.imp fun _ hq => decide_eq_true hq))

theorem State.powerWindow_loweredAt_of_kept {s : State} {n : Vector Nat 384}
    (h : ∀ q, (s.core q).allowance ≤ ((s.powerWindow n).core q).allowance) :
    (s.powerWindow n).plat.loweredAt = s.plat.loweredAt := by
  rw [State.powerWindow_plat]
  refine if_neg fun hl => ?_
  obtain ⟨q, hq⟩ := (allCores_any_iff _).mp hl
  exact absurd (of_decide_eq_true hq) (Nat.not_lt.mpr (h q))

/-- A core under replay whose allowance would be lowered has idle cycles inserted in place of it (R424). -/
theorem State.powerWindow_idleInserted_of_replays {s : State} {n : Vector Nat 384}
    (h : ∃ q, s.replays q = true ∧ n[q] < (s.core q).allowance) :
    (s.powerWindow n).plat.idleInserted = true := by
  have kept : (allCores.any fun q => s.replays q && decide (n[q] < (s.core q).allowance)) = true :=
    (allCores_any_iff _).mpr (h.imp fun q hq => by simpa using hq)
  simp only [State.powerWindow_plat, kept, Bool.or_true]

theorem State.powerWindow_idleInserted_of_kept {s : State} {n : Vector Nat 384}
    (h : ∀ q, s.replays q = true → (s.core q).allowance ≤ n[q]) :
    (s.powerWindow n).plat.idleInserted = s.plat.idleInserted := by
  have kept : (allCores.any fun q => s.replays q && decide (n[q] < (s.core q).allowance)) = false := by
    refine Bool.eq_false_iff.mpr fun hk => ?_
    obtain ⟨q, hq⟩ := (allCores_any_iff _).mp hk
    obtain ⟨hr, hlt⟩ := Bool.and_eq_true_iff.mp hq
    exact absurd (of_decide_eq_true hlt) (Nat.not_lt.mpr (h q hr))
  simp only [State.powerWindow_plat, kept, Bool.or_false]

/-! ### IDLE_INSERTION (R17) -/

theorem State.idleInsertion_due {s : State} {b : Nat} (hb : s.plat.loweredAt = some b) (h : b + 240000 ≤ s.cycles) :
    s.idleInsertion = { s with plat := { s.plat with idleInserted := true } } := by
  simp [State.idleInsertion, hb, hundredMicros, h]

theorem State.idleInsertion_notDue {s : State}
    (h : s.plat.loweredAt = none ∨ ∃ b, s.plat.loweredAt = some b ∧ s.cycles < b + 240000) : s.idleInsertion = s := by
  rcases h with hn | ⟨b, hb, hlt⟩
  · simp [State.idleInsertion, hn]
  · have : ¬b + hundredMicros ≤ s.cycles := Nat.not_le.mpr hlt
    simp [State.idleInsertion, hb, this]

/-! ### The allowance restored (R17) -/

/-- The allowances raised to those of n where they are lower, before the idle cycles go. -/
def State.raiseAllowances (s : State) (n : Vector Nat 384) : State := s.mapAllowance fun (p : CoreId) a => max a n[p]

theorem State.restoreAllowance_of_full {s : State} {n : Vector Nat 384} (h : (s.raiseAllowances n).allowanceFull = true) :
    s.restoreAllowance n = { s with
      cores := (s.raiseAllowances n).cores, plat := { s.plat with idleInserted := false, loweredAt := none } } := by
  obtain ⟨v, hv⟩ := s.mapAllowance_rest fun p a => max a n[p]
  simp only [State.raiseAllowances, hv] at h ⊢
  simp only [State.restoreAllowance, hv, if_pos h]

theorem State.restoreAllowance_of_notFull {s : State} {n : Vector Nat 384}
    (h : ¬(s.raiseAllowances n).allowanceFull = true) :
    s.restoreAllowance n = { s with cores := (s.raiseAllowances n).cores } := by
  obtain ⟨v, hv⟩ := s.mapAllowance_rest fun p a => max a n[p]
  simp only [State.raiseAllowances, hv] at h ⊢
  simp only [State.restoreAllowance, hv, if_neg h]

theorem State.restoreAllowance_cores (s : State) (n : Vector Nat 384) :
    (s.restoreAllowance n).cores = (s.raiseAllowances n).cores := by
  by_cases h : (s.raiseAllowances n).allowanceFull = true
  · rw [State.restoreAllowance_of_full h]
  · rw [State.restoreAllowance_of_notFull h]

theorem State.restoreAllowance_rest (s : State) (n : Vector Nat 384) :
    s.restoreAllowance n = { s with cores := (s.restoreAllowance n).cores, plat := (s.restoreAllowance n).plat } := by
  by_cases h : (s.raiseAllowances n).allowanceFull = true
  · rw [State.restoreAllowance_of_full h]
  · rw [State.restoreAllowance_of_notFull h]

theorem State.restoreAllowance_core (s : State) (n : Vector Nat 384) (q : CoreId) :
    (s.restoreAllowance n).core q = { s.core q with
      allowance := min (if (s.core q).thermal.capped then 128 else 256) (max 1 (max (s.core q).allowance n[q])) } := by
  rw [State.core, State.restoreAllowance_cores]
  exact s.core_mapAllowance _ q

/-- Whether every core has its allowance back is read off the state after the restoration, whose columns are capped as they
were. -/
theorem State.raiseAllowances_full_iff (s : State) (n : Vector Nat 384) :
    (s.raiseAllowances n).allowanceFull = true ↔
      ∀ q : CoreId, ((s.restoreAllowance n).core q).allowance = if (s.core q).thermal.capped then 128 else 256 := by
  simp only [State.allowanceFull_iff, State.raiseAllowances, State.core_mapAllowance, State.restoreAllowance_core]

theorem State.restoreAllowance_plat_full {s : State} {n : Vector Nat 384}
    (h : ∀ q : CoreId, ((s.restoreAllowance n).core q).allowance = if (s.core q).thermal.capped then 128 else 256) :
    (s.restoreAllowance n).plat = { s.plat with idleInserted := false, loweredAt := none } := by
  rw [State.restoreAllowance_of_full ((s.raiseAllowances_full_iff n).mpr h)]

theorem State.restoreAllowance_plat_notFull {s : State} {n : Vector Nat 384}
    (h : ∃ q : CoreId, ((s.restoreAllowance n).core q).allowance ≠ if (s.core q).thermal.capped then 128 else 256) :
    (s.restoreAllowance n).plat = s.plat := by
  rw [State.restoreAllowance_of_notFull (mt (s.raiseAllowances_full_iff n).mp (not_forall.mpr h))]

theorem State.allowanceRestore_eq {s : State} (n : Vector Nat 384) (h : s.plat.throttled = false) :
    s.allowanceRestore n = s.restoreAllowance n := by
  simp [State.allowanceRestore, h]

/-! ### VX_ARBITRATION (R435) -/

theorem Thermal.arbitrate_cool {t : Thermal} {x : Int} (tf pf : Bool) (ht : t.temp = some x) (hc : t.capped = false)
    (hx : x ≤ 85 * 8) : t.arbitrate tf pf = { t with tileCount := 0, pipeCount := 0 } := by
  simp only [Thermal.arbitrate, ht, hc, if_pos hx]
  rfl

/-- Above 85 °C a cycle that both want goes to the pipeline where the tile unit has had more of them, else to the tile
unit. -/
theorem Thermal.arbitrate_warm {t : Thermal} {x : Int} (ht : t.temp = some x) (hc : t.capped = false) (hx : 85 * 8 < x) :
    t.arbitrate true true =
      if t.pipeCount < t.tileCount then { t with tileCount := 0, pipeCount := min 65535 (t.pipeCount + 1) }
      else { t with tileCount := min 65535 (t.tileCount + 1), pipeCount := 0 } := by
  simp only [Thermal.arbitrate, ht, hc, if_neg (Int.not_le.mpr hx)]
  rfl

/-! ### SENSOR_FAIL (R436) -/

/-- Whether the sensor has been judged failed. -/
def Thermal.failed (t : Thermal) : Sensor → Bool
  | .base => t.failBase
  | .core => t.failCore

/-- The column with the sensor judged failed. -/
def Thermal.markFailed (t : Thermal) : Sensor → Thermal
  | .base => { t with failBase := true }
  | .core => { t with failCore := true }

/-- Whether no sensor of the column works. -/
def Thermal.blind (t : Thermal) : Bool := t.failBase && t.failCore

theorem Thermal.blind_markFailed_base (t : Thermal) : (t.markFailed .base).blind = t.failCore := rfl

theorem Thermal.blind_markFailed_core (t : Thermal) : (t.markFailed .core).blind = t.failBase := Bool.and_true _

/-- The device once a sensor is marked and its event logged and signalled, before any cap. -/
def State.sensorMarked (s : State) (p : CoreId) (w : Sensor) : State :=
  ((s.setCore p { s.core p with thermal := (s.core p).thermal.markFailed w }).logEvent 4 p.val
    (match w with | .base => 0 | .core => 1) 0).signal 66

theorem State.sensorFail_sighted {s : State} {p : CoreId} {w : Sensor} (h : (s.core p).thermal.failed w = false)
    (hb : ((s.core p).thermal.markFailed w).blind = false) : s.sensorFail p w = s.sensorMarked p w := by
  cases w with
  | base => exact (if_neg (Bool.eq_false_iff.mp h)).trans (if_neg (Bool.eq_false_iff.mp hb))
  | core => exact (if_neg (Bool.eq_false_iff.mp h)).trans (if_neg (Bool.eq_false_iff.mp hb))

/-- With its other sensor failed already, the column is capped (R436). -/
theorem State.sensorFail_blind {s : State} {p : CoreId} {w : Sensor} (h : (s.core p).thermal.failed w = false)
    (hb : ((s.core p).thermal.markFailed w).blind = true) :
    s.sensorFail p w = (((s.sensorMarked p w).setCore p { s.core p with
      thermal := { (s.core p).thermal.markFailed w with capped := true }
      allowance := min 128 (s.core p).allowance }).logEvent 5 p.val 0 0).signal 66 := by
  cases w with
  | base => exact (if_neg (Bool.eq_false_iff.mp h)).trans (if_pos hb)
  | core => exact (if_neg (Bool.eq_false_iff.mp h)).trans (if_pos hb)

theorem State.sensorFail_thermal {s : State} {p : CoreId} {w : Sensor} (h : (s.core p).thermal.failed w = false) :
    ((s.sensorFail p w).core p).thermal = { (s.core p).thermal.markFailed w with
      capped := ((s.core p).thermal.markFailed w).capped || ((s.core p).thermal.markFailed w).blind } := by
  cases hb : ((s.core p).thermal.markFailed w).blind with
  | false => simp [State.sensorFail_sighted h hb, State.sensorMarked]
  | true => simp [State.sensorFail_blind h hb]

theorem State.sensorFail_allowance {s : State} {p : CoreId} {w : Sensor} (h : (s.core p).thermal.failed w = false) :
    ((s.sensorFail p w).core p).allowance =
      if ((s.core p).thermal.markFailed w).blind then min 128 (s.core p).allowance else (s.core p).allowance := by
  cases hb : ((s.core p).thermal.markFailed w).blind with
  | false => simp [State.sensorFail_sighted h hb, State.sensorMarked]
  | true => simp [State.sensorFail_blind h hb]

theorem State.sensorFail_evCount {s : State} {p : CoreId} {w : Sensor} (h : (s.core p).thermal.failed w = false) :
    (s.sensorFail p w).plat.evCount =
      s.plat.evCount + if ((s.core p).thermal.markFailed w).blind then 2 else 1 := by
  cases hb : ((s.core p).thermal.markFailed w).blind with
  | false => simp [State.sensorFail_sighted h hb, State.sensorMarked]
  | true => simp [State.sensorFail_blind h hb, State.sensorMarked]

/-- A failing sensor leaves memory and the contexts alone. -/
theorem State.sensorFail_keeps {s : State} {p : CoreId} {w : Sensor} (h : (s.core p).thermal.failed w = false) :
    (s.sensorFail p w).mem = s.mem ∧ (s.sensorFail p w).ctxs = s.ctxs := by
  cases hb : ((s.core p).thermal.markFailed w).blind with
  | false => simp [State.sensorFail_sighted h hb, State.sensorMarked]
  | true => simp [State.sensorFail_blind h hb, State.sensorMarked]

/-! ### The thermal limits of the package (R440) -/

/-- The device as a throttle begins, before the log takes its event. -/
def State.throttleBegun (s : State) : State :=
  let s1 := s.mapAllowance fun _ _ => 1
  { s1 with plat := { s1.plat with throttled := true, idleInserted := true, loweredAt := some s.cycles } }

theorem State.throttleBegun_rest (s : State) :
    s.throttleBegun = { s with cores := s.throttleBegun.cores, plat := s.throttleBegun.plat } := by
  obtain ⟨v, hv⟩ := s.mapAllowance_rest fun _ _ => 1
  simp only [State.throttleBegun, hv]

/-- The allowance 1 is below every cap. -/
theorem State.throttleBegun_core (s : State) (r : CoreId) :
    s.throttleBegun.core r = { s.core r with allowance := 1 } := by
  have one : min (if (s.core r).thermal.capped then 128 else 256) (max 1 1) = 1 := by split <;> rfl
  have begun : s.throttleBegun.core r = (s.mapAllowance fun _ _ => 1).core r := by
    simp only [State.core, State.throttleBegun]
  rw [begun, State.core_mapAllowance, one]

theorem State.thermalThrottle_hot {s : State} {q : CoreId} {x : Int} (h : s.hottest = some (q, x)) (hx : 105 * 8 < x)
    (ht : s.plat.throttled = false) : s.thermalThrottle = s.throttleBegun.logEvent 6 q.val 0 0 := by
  unfold State.thermalThrottle
  rw [h]
  exact (if_neg (Bool.eq_false_iff.mp ht)).trans (if_neg (Int.not_le.mpr hx))

/-- The device as a throttle ends, before any allowance is restored. -/
def State.unthrottled (s : State) : State := { s with plat := { s.plat with throttled := false } }

theorem State.thermalThrottleExit_cool {s : State} {q : CoreId} {x : Int} (n : Vector Nat 384)
    (h : s.hottest = some (q, x)) (hx : x ≤ 100 * 8) (ht : s.plat.throttled = true) :
    s.thermalThrottleExit n = s.unthrottled.restoreAllowance n := by
  unfold State.thermalThrottleExit
  rw [h]
  exact (if_neg (by simp [ht])).trans (if_neg (Int.not_lt.mpr hx))

theorem State.thermalShutdown_hot {s : State} {q : CoreId} {x : Int} (h : s.hottest = some (q, x)) (hx : 125 * 8 < x) :
    s.thermalShutdown = s.lost { s.plat with
      ready := false
      recovery := false
      stage := 0
      zeroCores := 255
      booting := none
      image := []
      poweredDown := true
      throttled := false
      idleInserted := false
      loweredAt := none
      spares := [] } := by
  simp only [State.thermalShutdown, h, if_neg (Int.not_le.mpr hx)]

/-! ### The obligation -/

theorem completes_of_next_eq {i : Instr} {s t u : State} {P : State → Prop} (hx : exec i s = .next t) (ht : t = u)
    (hu : P u) : completes i s P := ⟨u, hx.trans (congrArg _ ht), hu⟩

/-- Settles O55: each event by the lemmas on what it does, POWER_WINDOW and the restoration by those on the allowances of
all cores. -/
theorem powerAndTemperatureEvents : Obligations.PowerAndTemperatureEvents := by
  unfold Obligations.PowerAndTemperatureEvents
  intro s n p q x tf pf k th cap allowedTo allowed rest settled spared
  have restored (a : State) (hcore : ∀ r, a.core r = s.core r) : settled a.plat (a.restoreAllowance n) := by
    simp only [settled, cap, ← hcore]
    exact ⟨State.restoreAllowance_plat_full, State.restoreAllowance_plat_notFull⟩
  -- POWER_WINDOW's own clauses, then one goal for each of the clauses after it.
  refine ⟨⟨s.powerWindow n, rfl, s.powerWindow_rest n, ?_, ?_, ?_, ?_, ?_, ?_, ?_⟩, ?_, ?_, ?_, ?_, ?_, ?_, ?_⟩
  · exact fun r hr => State.powerWindow_core_replays n ((s.replays_iff r).mpr hr)
  · exact fun r hr => State.powerWindow_core n (mt (s.replays_iff r).mp hr)
  · rw [State.powerWindow_plat]
  · exact State.powerWindow_loweredAt_of_lowered
  · exact State.powerWindow_loweredAt_of_kept
  · exact fun ⟨r, hr, hlt⟩ => State.powerWindow_idleInserted_of_replays ⟨r, (s.replays_iff r).mpr hr, hlt⟩
  · exact fun hk => State.powerWindow_idleInserted_of_kept fun r hr => hk r ((s.replays_iff r).mp hr)
  · exact fun b hb hdue => ⟨_, rfl, State.idleInsertion_due hb hdue⟩
  · exact fun hnot => ⟨_, rfl, State.idleInsertion_notDue hnot⟩
  · -- ALLOWANCE_RESTORE
    intro hthr
    exact completes_of_next_eq rfl (State.allowanceRestore_eq n hthr)
      ⟨s.restoreAllowance_rest n, s.restoreAllowance_core n, restored s fun _ => rfl⟩
  · -- VX_ARBITRATION
    intro ht hc
    refine ⟨fun hx => ⟨_, rfl, ?_⟩, fun hx => ⟨_, rfl, ?_⟩⟩
    · rw [State.vxArbitration, Thermal.arbitrate_cool tf pf ht hc hx]
    · rw [State.vxArbitration, Thermal.arbitrate_warm ht hc hx]
  · -- SENSOR_FAIL of the base sensor
    intro hf
    obtain ⟨hmem, hctxs⟩ := State.sensorFail_keeps (w := .base) hf
    have hth := State.sensorFail_thermal (w := .base) hf
    have hal := State.sensorFail_allowance (w := .base) hf
    have hev := State.sensorFail_evCount (w := .base) hf
    rw [Thermal.blind_markFailed_base] at hth hal hev
    exact ⟨s.sensorFail p .base, rfl, (congrArg Thermal.failBase hth :), (congrArg Thermal.failCore hth :),
      (congrArg Thermal.capped hth :), hal, hev, hmem, hctxs⟩
  · -- SENSOR_FAIL of the core sensor
    intro hf
    have hth := State.sensorFail_thermal (w := .core) hf
    have hal := State.sensorFail_allowance (w := .core) hf
    rw [Thermal.blind_markFailed_core] at hth hal
    exact ⟨s.sensorFail p .core, rfl, (congrArg Thermal.failCore hth :), (congrArg Thermal.failBase hth :),
      (congrArg Thermal.capped hth :), hal⟩
  · -- THERMAL_THROTTLE, THERMAL_THROTTLE_EXIT and THERMAL_SHUTDOWN
    intro hot
    refine ⟨fun hx hthr => ?_, fun hx hthr => ?_, fun hx => ?_⟩
    · refine completes_of_next_eq rfl (State.thermalThrottle_hot hot hx hthr) ⟨?_, fun r => ?_, rfl, rfl, rfl⟩
      · rw [State.logEvent_rest, State.throttleBegun_rest]
      · rw [State.logEvent_core, State.throttleBegun_core]
    · exact completes_of_next_eq rfl (State.thermalThrottleExit_cool n hot hx hthr)
        ⟨s.unthrottled.restoreAllowance_rest n, s.unthrottled.restoreAllowance_core n,
          restored s.unthrottled fun _ => rfl⟩
    · exact completes_of_next_eq rfl (State.thermalShutdown_hot hot hx) ⟨rfl, rfl, rfl, rfl, rfl, rfl, rfl⟩

end Sys2Proof.Machine
end

section
/-! The step of an issue that the agenda lists: the strand whose turn it is issues, on a core that no save stops, and a pc
outside the code of the arena traps before anything is fetched (R71, R148, R165, R394), and with it O7. -/

namespace Sys2Proof.Machine

/-! ### Whose turn it is (R165) -/

/-- The strand whose turn it is is one that issues or takes a trap. -/
theorem State.wantsTurn_of_turn {s : State} {p : CoreId} {t : StrandId} (h : s.turn p = some t) :
    s.wantsTurn p t = true :=
  List.find?_some h

/-- No strand has its turn on a core that a save stops (R394). -/
theorem State.saving_of_turn {s : State} {p : CoreId} {t : StrandId} (h : s.turn p = some t) : s.saving p = false := by
  have hw := State.wantsTurn_of_turn h
  rw [State.wantsTurn, Bool.and_eq_true, Bool.not_eq_true'] at hw
  exact hw.1

/-- A step whose agenda lists an issue of the strand whose turn it is lets that strand issue. -/
theorem step_issue_of_turn {s : State} {p : CoreId} {t : StrandId} {rest : List Pick} (ha : s.agenda = .issue p t :: rest)
    (ht : ({ s with agenda := rest } : State).tick.turn p = some t) :
    step s = ({ s with agenda := rest } : State).tick.issue p t := by
  simp only [step, ha, State.act, if_pos ht]

/-! ### A fetch outside the code of the arena (R71) -/

theorem State.inCode_eq_false_iff {s : State} {p : CoreId} {a : Word} :
    s.inCode p a = false ↔ ∀ c, (s.core p).serves = some c →
      a.toNat < (s.ctx c).entry.arenaBase + 131072 ∨ (s.ctx c).entry.arenaBound ≤ a.toNat := by
  unfold State.inCode
  cases (s.core p).serves with
  | none => simp
  | some c => simp only [decide_eq_false_iff_not, Option.some.injEq, forall_eq']; omega

/-- An issue with nothing to take at the boundary and the pc outside the code is ARENA_BOUND, with TEPC at the instruction
that led there. -/
theorem State.issue_outside_code {s : State} {p : CoreId} {t : StrandId} (hs : s.saving p = false)
    (hb : s.boundary p t = none) (hw : s.awake p t = true) (hc : s.inCode p (s.strand p t).pc = false) :
    s.issue p t =
      .next ((s.at p t).trapEntry (Cause.num .arenaBound) false (s.strand p t).pc (s.strand p t).cameFrom) := by
  simp [State.issue, hs, hb, hw, hc]

/-! ### The obligation -/

/-- Settles O7: the turn says that no save stops the core, so the issue ends in ARENA_BOUND, whose entry with TACT 0 is that
of R153. -/
theorem stepTrapsOutsideTheCode : Obligations.StepTrapsOutsideTheCode := by
  unfold Obligations.StepTrapsOutsideTheCode
  intro s p t rest s1 st ha ht hb hw hout htact
  have hissue := State.issue_outside_code (State.saving_of_turn ht) hb hw (State.inCode_eq_false_iff.mpr hout)
  exact ⟨_, (step_issue_of_turn ha ht).trans hissue, (s1.at p t).trapEntry_took 5 false st.pc st.cameFrom htact⟩

end Sys2Proof.Machine
end

section
/-! Launches (R91 to R93) and take-ups (R416): what a launch reads and refuses, how its seeds enter the saddlebag of a core
that has room for all of them, what a change of boundaries leaves of a clean core, and with these O50. -/

namespace Sys2Proof.Machine

/-! ### Cores and contexts replaced in either order -/

theorem State.setCore_setCtx (s : State) (p : CoreId) (x : Core) (c : CtxId) (k : Ctx) :
    (s.setCtx c k).setCore p x = (s.setCore p x).setCtx c k := rfl

@[simp] theorem State.setCtx_setCtx (s : State) (c : CtxId) (k l : Ctx) : (s.setCtx c k).setCtx c l = s.setCtx c l := by
  simp [State.setCtx]

@[simp] theorem State.setCtx_ctx (s : State) (c : CtxId) : s.setCtx c (s.ctx c) = s := by
  have : s.ctxs.set c s.ctxs[c] = s.ctxs := by simp
  simp only [State.setCtx, State.ctx, this]

/-! ### What reads at home depend on -/

theorem State.readEntry_setCtx (s : State) (c d : CtxId) (k : Ctx) : (s.setCtx c k).readEntry d = s.readEntry d := rfl

theorem State.homeWord_setCtx (s : State) (c : CtxId) (k : Ctx) (pa : Nat) :
    (s.setCtx c k).homeWord pa = s.homeWord pa := rfl

theorem State.isBad_setCtx (s : State) (c : CtxId) (k : Ctx) (pa n : Nat) :
    (s.setCtx c k).isBad pa n = s.isBad pa n := rfl

theorem State.listOk_setCtx (s : State) (c : CtxId) (k : Ctx) (list n : Nat) :
    (s.setCtx c k).listOk list n = s.listOk list n := rfl

theorem State.seed_setCtx (s : State) (c : CtxId) (k : Ctx) (list i : Nat) :
    (s.setCtx c k).seed list i = s.seed list i := rfl

/-- A word at home is the same with a core replaced whose window and scratchpad stay. -/
theorem State.homeWord_setCore {s : State} {p : CoreId} {x : Core} (hspad : x.spad = (s.core p).spad)
    (hv : x.poolV = (s.core p).poolV) (hs : x.poolS = (s.core p).poolS) (pa : Nat) :
    (s.setCore p x).homeWord pa = s.homeWord pa := by
  have bytes : (s.setCore p x).peekHome pa 8 = s.peekHome pa 8 := by
    unfold State.peekHome
    split
    · next q off _ =>
      by_cases hq : p = q
      · subst hq
        simp only [State.core_setCore, Core.spadPlace, hspad, hv, hs]
      · rw [s.core_setCore_ne p q x hq]
    · rfl
  rw [State.homeWord, bytes, State.homeWord]

theorem State.seed_setCore {s : State} {p : CoreId} {x : Core} (hspad : x.spad = (s.core p).spad)
    (hv : x.poolV = (s.core p).poolV) (hs : x.poolS = (s.core p).poolS) (list i : Nat) :
    (s.setCore p x).seed list i = s.seed list i := by
  simp only [State.seed, State.homeWord_setCore hspad hv hs]

/-! ### Pairs that enter a saddlebag at the hot end (R27, R92) -/

/-- A core once a pair has entered at the hot end, which wakes the strands that wait for one. -/
def Core.enterOne (k : Core) (x : Pair) : Core := { k with bag := k.bag ++ [x] }.wakeFor .pair

/-- A core once some pairs have entered at the hot end, one by one. -/
def Core.enter (k : Core) : List Pair → Core
  | [] => k
  | x :: xs => (k.enterOne x).enter xs

/-- Pairs that enter change the saddlebag and the strands alone. -/
theorem Core.enter_rest (k : Core) (xs : List Pair) :
    k.enter xs = { k with bag := k.bag ++ xs, strands := (k.enter xs).strands } := by
  induction xs generalizing k with
  | nil => simp [Core.enter]
  | cons x xs ih =>
    rw [Core.enter, ih]
    simp [Core.enterOne, Core.wakeFor]

theorem Core.enter_bag (k : Core) (xs : List Pair) : (k.enter xs).bag = k.bag ++ xs := by rw [Core.enter_rest]

theorem Core.wakeFor_wait (k : Core) (w : Wait) (u : StrandId) : (k.wakeFor w).strands[u].wait ≠ some w := by
  simp only [Core.wakeFor, Fin.getElem_fin, Vector.getElem_map]
  split <;> simp_all

theorem Core.enterOne_noneWaits (k : Core) (x : Pair) (u : StrandId) : (k.enterOne x).strands[u].wait ≠ some .pair :=
  Core.wakeFor_wait { k with bag := k.bag ++ [x] } .pair u

/-- Once a pair has entered no strand waits for one. -/
theorem Core.enter_noneWaits {k : Core} {xs : List Pair}
    (h : xs ≠ [] ∨ ∀ u : StrandId, k.strands[u].wait ≠ some .pair) (u : StrandId) :
    (k.enter xs).strands[u].wait ≠ some .pair := by
  induction xs generalizing k with
  | nil =>
    rw [Core.enter]
    exact h.resolve_left (fun hne => hne rfl) u
  | cons x xs ih =>
    rw [Core.enter]
    exact ih (.inr (k.enterOne_noneWaits x))

/-- Seeds of a list from the one numbered `first` on (R92). -/
def State.seeds (s : State) (list first m : Nat) : List Pair := (List.range m).map fun j => s.seed list (first + j)

theorem State.seeds_setCtx (s : State) (c : CtxId) (k : Ctx) (list first m : Nat) :
    (s.setCtx c k).seeds list first m = s.seeds list first m := rfl

theorem State.seeds_succ (s : State) (list first m : Nat) :
    s.seeds list first (m + 1) = s.seed list first :: s.seeds list (first + 1) m := by
  simp only [State.seeds, List.range_succ_eq_map, List.map_cons, List.map_map, Nat.add_zero, List.cons.injEq, true_and]
  exact List.map_congr_left fun j _ => congrArg (s.seed list) (by simp only [Nat.succ_eq_add_one]; omega)

theorem State.seeds_ne_nil {s : State} {list first m : Nat} (h : 0 < m) : s.seeds list first m ≠ [] := by
  simp [State.seeds]; omega

/-! ### The distribution of seeds to one core with room for them (R93) -/

/-- Core p, to which logical core 0 of context c is routed and which serves it, has room for m more pairs without a spill, and
no core is hungry. -/
def State.roomFor (s : State) (c : CtxId) (p : CoreId) (m : Nat) : Prop :=
  (s.ctx c).aborted = false ∧ 0 ∉ (s.ctx c).preempted ∧ (s.ctx c).route 0 = some p ∧ (s.core p).serves = some c ∧
    (s.core p).lcore = 0 ∧ (s.core p).bag.length + m ≤ 1024 ∧ (s.ctx c).hungrySet = []

/-- A context one of whose seeds has entered. -/
def Ctx.pushed (k : Ctx) (x : Launching) : Ctx :=
  { k with
    gen := k.gen + 1
    launching := some { x with next := x.next + 1 }
    lPushed := BitVec.ofNat 16 (x.next + 1) }

/-- A context the last m of whose seeds, from the one that the launch x has next, have entered. -/
def Ctx.distributed (k : Ctx) (x : Launching) (m : Nat) : Ctx :=
  { k with
    gen := k.gen + m
    launching := none
    lBusy := false
    lDone := true
    lPushed := if m = 0 then k.lPushed else BitVec.ofNat 16 (x.next + m) }

theorem Ctx.distributed_pushed (k : Ctx) (x : Launching) (m : Nat) :
    (k.pushed x).distributed { x with next := x.next + 1 } m = k.distributed x (m + 1) := by
  simp only [Ctx.distributed, Ctx.pushed, Nat.add_assoc, Nat.add_comm 1 m, Nat.succ_ne_zero, if_false]
  split <;> simp_all

/-- A pair enters a saddlebag that is not full at the hot end, with nothing spilled. -/
theorem State.enterBag_hot {s : State} {p : CoreId} (h : (s.core p).bag.length < 1024) (c : CtxId) (x : Pair) :
    s.enterBag p c x false = some (s.setCore p { s.core p with bag := (s.core p).bag ++ [x] }) := by
  simp [State.enterBag, h]

theorem State.entered_noneHungry {s : State} {p : CoreId} {c : CtxId} (h : (s.ctx c).hungrySet = []) :
    s.entered p c = s.setCtx c { s.ctx c with gen := (s.ctx c).gen + 1 } := by
  simp [State.entered, h]

/-- The strands that wait for a pair are woken once one has entered, and the generation rises (R99). -/
theorem State.entered_wakePairs {s : State} {p : CoreId} {c : CtxId} (h : (s.ctx c).hungrySet = []) (x : Pair) :
    ((s.setCore p { s.core p with bag := (s.core p).bag ++ [x] }).wakePairs p).entered p c =
      (s.setCore p ((s.core p).enterOne x)).setCtx c { s.ctx c with gen := (s.ctx c).gen + 1 } := by
  refine (State.entered_noneHungry ?_).trans ?_
  · exact h
  · rw [State.wakePairs, State.core_setCore, State.setCore_setCore]
    rfl

theorem State.distribute_done {s : State} {c : CtxId} {x : Launching} (hx : (s.ctx c).launching = some x)
    (hn : x.n ≤ x.next) (fuel : Nat) :
    s.distribute c (fuel + 1) = s.setCtx c { s.ctx c with launching := none, lBusy := false, lDone := true } := by
  simp only [State.distribute, hx, if_pos hn]

/-- One seed of a launch for logical core 0 enters. -/
theorem State.distribute_push {s : State} {c : CtxId} {p : CoreId} {x : Launching} {m : Nat}
    (hx : (s.ctx c).launching = some x) (hone : x.one = true) (hn : x.next < x.n) (hroom : s.roomFor c p (m + 1))
    (fuel : Nat) :
    s.distribute c (fuel + 1) =
      ((s.setCore p ((s.core p).enterOne (s.seed x.list x.next))).setCtx c ((s.ctx c).pushed x)).distribute c fuel := by
  obtain ⟨list, n, one, next, ready⟩ := x
  obtain rfl : one = true := hone
  obtain ⟨haborted, hpre, hroute, hserves, hlcore, hbag, hhungry⟩ := hroom
  have hserved : s.servesAs p c 0 = true := by simp [State.servesAs, hserves, hlcore]
  have hopen : (if (s.ctx c).aborted || decide (0 ∈ (s.ctx c).preempted) then none else (s.ctx c).route 0) = some p := by
    simp [haborted, hpre, hroute]
  have henter := State.enterBag_hot (s := s) (p := p) (by omega) c (s.seed list next)
  simp only [State.distribute, hx, Nat.not_le.mpr hn, hopen, hserved, henter, if_true, if_false,
        Bool.false_eq_true, Bool.not_true, State.entered_wakePairs hhungry, State.ctx_setCtx,
    State.setCtx_setCtx]
  rfl

/-- Room for m + 1 pairs leaves room for m once one has entered. -/
theorem State.roomFor_pushed {s : State} {c : CtxId} {p : CoreId} {m : Nat} (h : s.roomFor c p (m + 1)) (x : Pair)
    (y : Launching) : ((s.setCore p ((s.core p).enterOne x)).setCtx c ((s.ctx c).pushed y)).roomFor c p m := by
  obtain ⟨haborted, hpre, hroute, hserves, hlcore, hbag, hhungry⟩ := h
  have hlen : ((s.core p).bag ++ [x]).length + m ≤ 1024 := by simp; omega
  simpa only [State.roomFor, State.ctx_setCtx, State.setCtx_core, State.core_setCore] using
    ⟨haborted, hpre, hroute, hserves, hlcore, hlen, hhungry⟩

/-- With room for all of them, the seeds that a launch for logical core 0 has left enter in order, and the launch is done. -/
theorem State.distribute_all {c : CtxId} {p : CoreId} (m : Nat) {s : State} {x : Launching}
    (hx : (s.ctx c).launching = some x) (hone : x.one = true) (hn : x.n = x.next + m) (hroom : s.roomFor c p m)
    {fuel : Nat} (hfuel : m < fuel) :
    s.distribute c fuel =
      (s.setCore p ((s.core p).enter (s.seeds x.list x.next m))).setCtx c ((s.ctx c).distributed x m) := by
  obtain ⟨f, rfl⟩ : ∃ f, fuel = f + 1 := ⟨fuel - 1, by omega⟩
  induction m generalizing s x f with
  | zero =>
    rw [State.distribute_done hx hn.le]
    simp [State.seeds, Core.enter, Ctx.distributed]
  | succ m ih =>
    have hseeds (j : Nat) : ((s.setCore p ((s.core p).enterOne (s.seed x.list x.next))).setCtx c
        ((s.ctx c).pushed x)).seed x.list j = s.seed x.list j :=
      State.seed_setCore (x := (s.core p).enterOne (s.seed x.list x.next)) rfl rfl rfl x.list j
    obtain ⟨g, rfl⟩ : ∃ g, f = g + 1 := ⟨f - 1, by omega⟩
    rw [State.distribute_push hx hone (by omega) hroom,
      ih (x := { x with next := x.next + 1 }) (by rw [State.ctx_setCtx]; rfl) hone (by simp only; omega)
        (State.roomFor_pushed hroom _ x) g (by omega),
      State.seeds_succ]
    simp only [State.seeds, hseeds, State.ctx_setCtx, State.setCtx_core, State.core_setCore, State.setCore_setCtx,
      State.setCore_setCore, State.setCtx_setCtx, Ctx.distributed_pushed, Core.enter]

/-! ### A launch that its checks let go on (R93) -/

theorem State.takeUpAll_of_served {s : State} {c : CtxId}
    (h : ∀ y ∈ (s.ctx c).cores, ∀ q, y.bind coreOf = some q → (s.core q).serves = some c) : s.takeUpAll c = s := by
  refine List.foldlRecOn (motive := (· = s)) _ _ rfl fun a ha x hx => ?_
  subst ha
  split
  · rfl
  · next p hp => exact if_pos (.inl (h x.1 (List.fst_mem_of_mem_zipIdx hx) p hp))

theorem State.releaseHeld_none {s : State} {c : CtxId} (h : (s.ctx c).heldMsgs = []) : s.releaseHeld c = s := by
  have same : { s.ctx c with heldMsgs := [] } = s.ctx c := by rw [← h]
  simp [State.releaseHeld, h, same]

/-- With capture and replay off, a launch changes the log's places and the settings of the run alone, and they stay off
(R422). -/
theorem State.startReplay_off {s : State} {c : CtxId} (hmode : (s.ctx c).replay.mode = 0)
    (hrun : (s.ctx c).replay.running = 0) :
    ∃ pos cnt recs r, s.startReplay c =
      s.setCtx c { s.ctx c with logPos := pos, logCount := cnt, logRecs := recs, replay := r } ∧ r.running = 0 := by
  by_cases hcount : (s.ctx c).count ≠ 0
  · exact ⟨_, _, _, _, (if_pos hcount).trans (s.setCtx_ctx c).symm, hrun⟩
  · exact ⟨_, _, _, _, (if_neg hcount).trans (if_neg (by simp [hmode])), hmode⟩

/-- With capture and replay off, a launch is counted and leaves no record (R423, R424). -/
theorem State.recordLaunch_off {s : State} {c : CtxId} (hrun : (s.ctx c).replay.running = 0) (list n : Nat) :
    s.recordLaunch c list n = s.setCtx c { s.ctx c with
      replay := { (s.ctx c).replay with launches := (s.ctx c).replay.launches + 1 } } := by
  simp [State.recordLaunch, State.nextRecordAt, hrun]

theorem State.launchError_of_invalid {s : State} {c : CtxId} (h : (s.ctx c).entry.valid = false) (v : Word) :
    s.launchError c v = 1 := by
  simp [State.launchError, h]

theorem inHbm_of_le {pa m n : Nat} (h : inHbm pa n = true) (hm : m ≤ n) : inHbm pa m = true := by
  simp only [inHbm, decide_eq_true_eq] at h ⊢
  omega

/-- A launch with a valid entry, pools and a save area that suffice, and a legal seed list that can be read fails no check. -/
theorem State.launchError_none {s : State} {c : CtxId} {v : Word} {e : CtxEntry} {n : Nat}
    (he : (s.ctx c).entry = e) (hn : field (s.homeWord v.toNat) 15 0 = n) (hvalid : e.valid = true)
    (halign : v.toNat % 16 = 0) (hpoolV : 1 ≤ e.poolV.toNat) (hpoolS : e.poolV.toNat + 2 ≤ e.poolS.toNat)
    (hsave : saveMin ≤ e.saveSize) (hhbm : inHbm v.toNat (16 + 16 * n) = true) (hlist : s.listOk v.toNat n = true)
    (hbad : s.isBad v.toNat (16 + 16 * n) = false) : s.launchError c v = 0 := by
  have hhead := inHbm_of_le (m := 16) hhbm (by omega)
  simp [State.launchError, he, hn, hvalid, halign, hhead, hhbm, hlist, hbad, Nat.not_lt.mpr hpoolV, Nat.not_lt.mpr hpoolS,
    Nat.not_lt.mpr hsave]


/-- A context as a launch begins (R93): the entry as it stands in memory, BUSY set, the results cleared. -/
def Ctx.launchBegun (k : Ctx) (e : CtxEntry) : Ctx :=
  { k with entry := e, lBusy := true, lDone := false, lErr := 0, lPushed := 0 }

/-- A launch that has passed its checks (R93, R416, R422, R423). -/
def State.launchGoes (s : State) (c : CtxId) (v : Word) : State :=
  let h := s.homeWord v.toNat
  let n := field h 15 0
  let s1 := (s.startReplay c).countUp c n
  let s2 := (s1.setCtx c { s1.ctx c with launching := some ⟨v.toNat, n, bit h 31, 0, true⟩ }).takeUpAll c
  ((s2.recordLaunch c v.toNat n).releaseHeld c).distribute c (n + 1)

/-- A launch that a check has refused keeps the save area that the context had (R93; assumption 77). -/
def State.launchRefused (s : State) (c : CtxId) (old : CtxEntry) (err : Nat) : State :=
  s.setCtx c { s.ctx c with
    lBusy := false
    lErr := BitVec.ofNat 8 err
    entry := { (s.ctx c).entry with saveBase := old.saveBase, saveSize := old.saveSize } }

/-- The cases of a write to LAUNCH: refused as aborted or retiring, lost, refused by a check, let go on. -/
theorem State.launch_eq (s : State) (c : CtxId) (v : Word) :
    s.launch c v =
      let k := s.ctx c
      let s1 := s.setCtx c (k.launchBegun (s.readEntry c))
      let s2 := if (s1.ctx c).launched then s1 else s1.readTables c
      if k.aborted || k.rBusy then s.setCtx c { k with lErr := 1 }
      else if k.lBusy then s.setCtx c { k with lLost := true }
      else if s2.launchError c v ≠ 0 then s2.launchRefused c k.entry (s2.launchError c v)
      else s2.launchGoes c v := rfl

section
variable {s : State} {c : CtxId} {v : Word} (ha : (s.ctx c).aborted = false) (hr : (s.ctx c).rBusy = false)
include ha hr

theorem State.launch_busy (hb : (s.ctx c).lBusy = true) :
    s.launch c v = s.setCtx c { s.ctx c with lLost := true } := by
  rw [State.launch_eq]
  exact (if_neg (by simp [ha, hr])).trans (if_pos hb)

/-- A launch of a context launched before reads the entry and not the tables, and goes by its checks. -/
theorem State.launch_relaunch (hb : (s.ctx c).lBusy = false) (hl : (s.ctx c).launched = true) {s1 : State}
    (h1 : s1 = s.setCtx c ((s.ctx c).launchBegun (s.readEntry c))) :
    s.launch c v = if s1.launchError c v ≠ 0 then s1.launchRefused c (s.ctx c).entry (s1.launchError c v)
      else s1.launchGoes c v := by
  have hread : (if (s1.ctx c).launched then s1 else s1.readTables c) = s1 :=
    if_pos (by rw [h1, State.ctx_setCtx]; exact hl)
  rw [State.launch_eq]
  refine (if_neg (by simp [ha, hr])).trans ((if_neg (by simp [hb])).trans ?_)
  rw [← h1, hread]

end

/-- A launch of a context whose cores all serve it, with capture and replay off and nothing held, raises the count and comes
to the distribution of its seeds. -/
theorem State.launchGoes_off {s : State} {c : CtxId} {v : Word} {n : Nat} (hn : field (s.homeWord v.toNat) 15 0 = n)
    (hmode : (s.ctx c).replay.mode = 0) (hrun : (s.ctx c).replay.running = 0) (hheld : (s.ctx c).heldMsgs = [])
    (hserved : ∀ y ∈ (s.ctx c).cores, ∀ q, y.bind coreOf = some q → (s.core q).serves = some c) :
    ∃ pos cnt recs r, s.launchGoes c v = (s.setCtx c { s.ctx c with
      logPos := pos
      logCount := cnt
      logRecs := recs
      replay := r
      count := (s.ctx c).count + word n
      launching := some ⟨v.toNat, n, bit (s.homeWord v.toNat) 31, 0, true⟩ }).distribute c (n + 1) := by
  obtain ⟨pos, cnt, recs, r, hreplay, hoff⟩ := State.startReplay_off hmode hrun
  refine ⟨pos, cnt, recs, { r with launches := r.launches + 1 }, ?_⟩
  simp only [State.launchGoes, hn, hreplay, State.countUp, State.setCtx_setCtx, State.ctx_setCtx]
  rw [State.takeUpAll_of_served (by rw [State.ctx_setCtx]; exact hserved),
    State.recordLaunch_off (by rw [State.ctx_setCtx]; exact hoff),
    State.releaseHeld_none (by simpa only [State.ctx_setCtx] using hheld)]
  simp only [State.setCtx_setCtx, State.ctx_setCtx]

theorem State.launchResume_eq {s : State} {c : CtxId} {x : Launching} (hx : (s.ctx c).launching = some x) :
    s.launchResume c = if x.ready then s.distribute c (x.n + 1) else s := by
  simp only [State.launchResume, hx]

/-- A launch that its checks let go on, for logical core 0, whose core has room for every seed: the seeds enter there, and the
context is as the launch has begun it, its count raised, and then distributed. -/
theorem State.launch_all {s : State} {c : CtxId} {v : Word} {p : CoreId} {n : Nat} (ha : (s.ctx c).aborted = false)
    (hr : (s.ctx c).rBusy = false) (hb : (s.ctx c).lBusy = false) (hl : (s.ctx c).launched = true)
    (herr : (s.setCtx c ((s.ctx c).launchBegun (s.readEntry c))).launchError c v = 0)
    (hn : field (s.homeWord v.toNat) 15 0 = n) (hmode : (s.ctx c).replay.mode = 0)
    (hrun : (s.ctx c).replay.running = 0) (hheld : (s.ctx c).heldMsgs = []) (hone : bit (s.homeWord v.toNat) 31 = true)
    (hserved : ∀ y ∈ (s.ctx c).cores, ∀ q, y.bind coreOf = some q → (s.core q).serves = some c)
    (hroom : s.roomFor c p n) :
    ∃ (k : Ctx) (x : Launching), s.launch c v =
      (s.setCore p ((s.core p).enter (s.seeds v.toNat 0 n))).setCtx c (k.distributed x n) ∧
      x.list = v.toNat ∧ x.next = 0 ∧ k.gen = (s.ctx c).gen ∧ k.count = (s.ctx c).count + word n ∧ k.lErr = 0 ∧
      k.entry = s.readEntry c := by
  let k1 := (s.ctx c).launchBegun (s.readEntry c)
  have hk1 : (s.setCtx c k1).ctx c = k1 := State.ctx_setCtx s c k1
  have hgoes := State.launch_relaunch (v := v) ha hr hb hl rfl
  rw [herr, if_neg (by simp)] at hgoes
  obtain ⟨pos, cnt, recs, r, hdist⟩ := State.launchGoes_off (s := s.setCtx c k1) (c := c) (v := v) (n := n) hn
    (by rw [hk1]; exact hmode) (by rw [hk1]; exact hrun) (by rw [hk1]; exact hheld) (by rw [hk1]; exact hserved)
  rw [hk1, State.setCtx_setCtx, State.homeWord_setCtx, hone] at hdist
  let k2 : Ctx := { k1 with
    logPos := pos
    logCount := cnt
    logRecs := recs
    replay := r
    count := k1.count + word n
    launching := some ⟨v.toNat, n, true, 0, true⟩ }
  have hk2 : (s.setCtx c k2).ctx c = k2 := State.ctx_setCtx s c k2
  have hall := State.distribute_all (s := s.setCtx c k2) (x := ⟨v.toNat, n, true, 0, true⟩) n (by rw [hk2]) rfl
    (Nat.zero_add n).symm (by rw [State.roomFor, hk2]; exact hroom) (Nat.lt_succ_self n)
  rw [hk2, State.setCtx_core, State.seeds_setCtx, State.setCore_setCtx, State.setCtx_setCtx] at hall
  exact ⟨k2, _, hgoes.trans (hdist.trans hall), rfl, rfl, rfl, rfl, rfl, rfl⟩

/-! ### What a change of boundaries leaves of a clean core (R265) -/

theorem State.leaveCache_none {s : State} {p : CoreId} (h : (s.core p).copies = []) (picked : Copy → Bool)
    (out : Copy → Copy) : s.leaveCache p picked out = s := by
  have same : { s.core p with copies := [] } = s.core p := by rw [← h]
  simp [State.leaveCache, h, same]

theorem State.retestSpad_none {s : State} (hw : s.waiters = []) (hr : s.retries = []) (on : Waiter → Bool) :
    s.retestSpad on = s := by
  simp [State.retestSpad, hw, hr]

/-- With no copies, no write-backs outstanding and no foreign tag, nothing keeps the boundaries from changing. -/
theorem State.waysReady_clean {s : State} {p : CoreId} {t : Option CtxId} (hcopies : (s.core p).copies = [])
    (hdirty : s.windowDirty p = false) (htags : ∀ w : Fin 16, foreignTag (s.core p).wayTag[w] t = false)
    (v sp k : BitVec 5) : s.waysReady p t v sp k = (true, s) := by
  have hext : (s.ext.any fun e => decide (e.who = .copies p)) = false := by
    simpa [State.windowDirty, hcopies] using hdirty
  simp only [State.waysReady, htags, Bool.false_and, List.filter_false, List.foldl_nil, hcopies, List.filter_nil, hext,
    Bool.not_false, Bool.and_true]

/-- What a change of boundaries leaves of a core, beside the boundaries: its strands, its node list and the contexts that wait
for it. -/
def Core.tenure (k : Core) : Vector Strand 8 × BitVec 43 × List CtxId := (k.strands, k.npool, k.wants)

theorem Core.clearWays_tenure (k : Core) (ws : List Nat) :
    (ws.foldl (fun (x : Core) w => x.clearWay w) k).tenure = k.tenure :=
  List.foldlRecOn (motive := fun x : Core => x.tenure = k.tenure) _ _ rfl fun _ hx _ _ => hx

/-- The state with other words marked as holding an uncorrectable error. -/
def State.withBad (s : State) (bad : List Nat) : State := { s with badWords := bad }

/-- Marks of words change the lists of words with errors alone. -/
theorem State.putWords_eq (s : State) (p : CoreId) (w : Nat) (l : List Nat) :
    ∃ bad kept : List Nat, s.putWords p w l = (s.withBad bad).setCore p { s.core p with keptBad := kept } := by
  unfold State.putWords
  dsimp only
  split
  · exact ⟨_, (s.core p).keptBad, (State.setCore_core (s.withBad _) p).symm⟩
  · exact ⟨s.badWords, _, rfl⟩

/-- The marks of the words of some ways of core p put back (R401). -/
def State.putMarks (s : State) (p : CoreId) (marks : List (Nat × List Nat)) : State :=
  marks.foldl (fun (a : State) (x : Nat × List Nat) => a.putWords p x.1 x.2) s

theorem State.putMarks_eq (s : State) (p : CoreId) (marks : List (Nat × List Nat)) :
    ∃ bad kept : List Nat, s.putMarks p marks = (s.withBad bad).setCore p { s.core p with keptBad := kept } := by
  induction marks generalizing s with
  | nil => exact ⟨s.badWords, (s.core p).keptBad, (State.setCore_core s p).symm⟩
  | cons x marks ih =>
    obtain ⟨bad, kept, hx⟩ := s.putWords_eq p x.1 x.2
    obtain ⟨bad', kept', hrest⟩ := ih (s.putWords p x.1 x.2)
    rw [hx, State.core_setCore] at hrest
    refine ⟨bad', kept', ?_⟩
    rw [State.putMarks, List.foldl_cons, hx]
    exact hrest.trans (State.setCore_setCore (s.withBad bad') p _ _)

/-- New boundaries for a core that has no copy and no foreign tag, while no strand of the device waits for a full/empty
word, change the core and the list of words with errors alone. -/
theorem State.setPools_clean {s : State} {p : CoreId} {t : Option CtxId} (hcopies : (s.core p).copies = [])
    (htags : ∀ w : Fin 16, foreignTag (s.core p).wayTag[w] t = false) (hw : s.waiters = []) (hr : s.retries = [])
    (v sp k : BitVec 5) :
    ∃ (bad : List Nat) (x : Core), s.setPools p t v sp k = (s.withBad bad).setCore p x ∧
      x.tenure = (s.core p).tenure ∧ x.poolV = v ∧ x.poolS = sp ∧ x.poolC = k := by
  have cleared : ∃ (bad : List Nat) (x : Core) (marks : List (Nat × List Nat)) (on : Waiter → Bool),
      s.setPools p t v sp k = (((s.withBad bad).setCore p x).putMarks p marks).retestSpad on ∧
        x.tenure = (s.core p).tenure ∧ x.poolV = v ∧ x.poolS = sp ∧ x.poolC = k := by
    simp only [State.setPools, htags, Bool.false_and, List.filter_false, List.foldl_nil, State.leaveCache_none hcopies]
    exact ⟨_, _, _, _, rfl, Core.clearWays_tenure _ _, rfl, rfl, rfl⟩
  obtain ⟨bad, x, marks, on, hpools, htenure, hv, hs, hc⟩ := cleared
  obtain ⟨bad', kept, hmarks⟩ := ((s.withBad bad).setCore p x).putMarks_eq p marks
  rw [hmarks, State.core_setCore, State.retestSpad_none (by exact hw) (by exact hr)] at hpools
  exact ⟨bad', _, hpools.trans (State.setCore_setCore (s.withBad bad') p _ _), htenure, hv, hs, hc⟩

/-! ### A core that takes a waiting context up (R416) -/

theorem State.settleLoose_none {s : State} {p : CoreId} (h : ∀ y ∈ s.loose, y.1 ≠ p) :
    ∃ f, s.settleLoose p = s.orphanExt f := by
  have none' : (s.loose.filter fun x => x.1 = p) = [] := by simpa using h
  have all : (s.loose.filter fun x => x.1 ≠ p) = s.loose := by simpa using h
  exact ⟨_, by rw [State.settleLoose, none', all]; rfl⟩

theorem State.orphanExt_core (s : State) (f : Requester → Bool) (p : CoreId) : (s.orphanExt f).core p = s.core p := rfl

/-- A take-up by a core that keeps nothing of another context, while no strand of the device waits for a full/empty word. -/
theorem State.takeUp_clean {s : State} {p : CoreId} {c : CtxId} (l : Nat) (hloose : ∀ y ∈ s.loose, y.1 ≠ p)
    (hcopies : (s.core p).copies = []) (htags : ∀ w : Fin 16, foreignTag (s.core p).wayTag[w] (some c) = false)
    (hw : s.waiters = []) (hr : s.retries = []) :
    let a := s.takeUp p c l
    let e := (s.ctx c).entry
    a.ctxs = s.ctxs ∧ (a.core p).tenure = ((s.core p).strands, (s.core p).npool, (s.core p).wants.filter (· ≠ c)) ∧
      (a.core p).serves = some c ∧ (a.core p).lcore = BitVec.ofNat 10 l ∧ (a.core p).ptroot = e.ptroot ∧
      (a.core p).poolV = e.poolV ∧ (a.core p).poolS = e.poolS ∧ (a.core p).poolC = e.poolC ∧ (a.core p).bag = [] := by
  intro a e
  obtain ⟨f, hsettled⟩ := State.settleLoose_none hloose
  obtain ⟨bad, x, hpools, htenure, hv, hs, hc⟩ := State.setPools_clean (s := s.orphanExt f) (p := p) (t := some c)
    hcopies htags hw hr e.poolV e.poolS e.poolC
  rw [State.orphanExt_core] at htenure
  obtain ⟨hstrands, hnpool, hwants⟩ : x.strands = (s.core p).strands ∧ x.npool = (s.core p).npool ∧
    x.wants = (s.core p).wants := by simpa only [Core.tenure, Prod.mk.injEq] using htenure
  have ha : a = ((s.orphanExt f).withBad bad).setCore p { x with
      serves := some c
      lcore := BitVec.ofNat 10 l
      ptroot := e.ptroot
      ovt := ovtStore e.ovt
      bag := []
      rules := []
      lastIssued := 7
      wants := x.wants.filter (· ≠ c) } := by
    simp only [a, State.takeUp, hsettled]
    rw [hpools, State.core_setCore, State.setCore_setCore]
  rw [ha, State.core_setCore]
  exact ⟨rfl, by rw [← hstrands, ← hnpool, ← hwants]; rfl, rfl, rfl, rfl, hv, hs, hc, rfl⟩

/-- A free core that a launch waits for takes its context up, and its strands start. -/
theorem State.coreTakeUp_clean {s : State} {p : CoreId} {c : CtxId} {l : Nat} (hl : (s.ctx c).lcoreOf p = some l)
    (hserves : (s.core p).serves = none) (hwants : c ∈ (s.core p).wants) (ha : (s.ctx c).aborted = false)
    (hvalid : (s.ctx c).entry.valid = true) (hpre : l ∉ (s.ctx c).preempted)
    (hways : ∀ v sp k, s.waysReady p (some c) v sp k = (true, s))
    (hheld : ((s.takeUp p c l).ctx c).heldMsgs = []) :
    s.coreTakeUp p c = (s.takeUp p c l).setCore p { (s.takeUp p c l).core p with
      strands := ((s.takeUp p c l).core p).strands.map Strand.start } := by
  have hgo : ((s.core p).serves.isSome || decide (c ∉ (s.core p).wants) || (s.ctx c).aborted ||
      !(s.ctx c).entry.valid || decide (l ∈ (s.ctx c).preempted)) = false := by
    simp [hserves, hwants, ha, hvalid, hpre]
  simp only [State.coreTakeUp, hl, hgo, hways, Bool.false_eq_true, if_false, Bool.not_true]
  rw [State.releaseHeld_none (by rw [State.setCore_ctx]; exact hheld)]

/-- Which strands a take-up starts, and what it changes of them. -/
theorem Strand.start_fields (st : Strand) :
    let starts := st.halted && !st.dbgHalted && decide (st.trapvec ≠ 0)
    st.start.halted = (st.halted && !starts) ∧ st.start.x = st.x ∧
      st.start.pc = (if starts then addr50 st.trapvec else st.pc) ∧
      st.start.priv = (if starts then 1 else st.priv) ∧ st.start.tact = (st.tact && !starts) := by
  intro starts
  cases h : starts with
  | true =>
    rw [show st.start = _ from if_pos h]
    simp
  | false =>
    rw [show st.start = st from if_neg (by simpa [starts] using h)]
    simp

/-! ### The obligation -/

/-- What a launch whose last m seeds, from the one that x has next, have entered at core p leaves, k being the context
before. -/
theorem State.distributed_ended {s t : State} {c : CtxId} {p : CoreId} {k : Ctx} {x : Launching} {m : Nat}
    (ht : t = (s.setCore p ((s.core p).enter (s.seeds x.list x.next m))).setCtx c (k.distributed x m)) :
    (t.core p).bag = (s.core p).bag ++ s.seeds x.list x.next m ∧ (t.ctx c).lBusy = false ∧ (t.ctx c).lDone = true ∧
      (t.ctx c).launching = none ∧ (t.ctx c).gen = k.gen + m ∧ t.mem = s.mem ∧
      (0 < m → ∀ u : StrandId, (t.strand p u).wait ≠ some .pair) := by
  subst ht
  rw [State.ctx_setCtx, State.setCtx_core, State.core_setCore]
  refine ⟨Core.enter_bag _ _, rfl, rfl, rfl, rfl, rfl, fun hm u => ?_⟩
  rw [State.strand, State.setCtx_core, State.core_setCore]
  exact Core.enter_noneWaits (.inl (State.seeds_ne_nil hm)) u

/-- Settles O50: a launch and its resumption by the entry of their seeds one by one, a lost and a refused launch by the cases
of a write to LAUNCH, a take-up by what new boundaries leave of a core that keeps nothing of another context. -/
theorem launchesPushTheirSeeds : Obligations.LaunchesPushTheirSeeds := by
  unfold Obligations.LaunchesPushTheirSeeds
  intro s c v p x l k e h n core roomFor ended
  refine ⟨fun hready ha hr hb hl => ⟨?_, ?_⟩, ?_, fun hx => ⟨?_, ?_⟩, ?_⟩
  · -- LAUNCH with a legal list
    intro hvalid halign hpoolV hpoolS hsave hhbm hlist hbad hmode hrun hheld hone hserved hroom
    have herr : (s.setCtx c (k.launchBegun e)).launchError c v = 0 :=
      State.launchError_none (e := e) (n := n) (by rw [State.ctx_setCtx]; rfl) rfl hvalid halign hpoolV hpoolS hsave hhbm
        hlist hbad
    obtain ⟨k', y, hlaunch, hlist', hnext, hgen, hcount, herr', hentry⟩ :=
      State.launch_all ha hr hb hl herr rfl hmode hrun hheld hone hserved hroom
    have hpos : n ≠ 0 := by
      intro hn
      simp [State.listOk, hn] at hlist
    refine completes_of_next_eq (congrArg Host.Outcome.next (if_pos hready)) hlaunch ⟨?_, ?_, ?_, ?_, ?_⟩
    · have hended := State.distributed_ended (s := s) (c := c) (p := p) (k := k') (x := y) (m := n) rfl
      rw [hlist', hnext, hgen] at hended
      exact hended
    all_goals rw [State.ctx_setCtx]
    · exact hcount
    · exact herr'
    · rw [Ctx.distributed, if_neg hpos, hnext, Nat.zero_add]
    · exact hentry
  · -- LAUNCH with an entry that is not valid
    intro hinvalid
    have herr : (s.setCtx c (k.launchBegun e)).launchError c v = 1 :=
      State.launchError_of_invalid (by rw [State.ctx_setCtx]; exact hinvalid) v
    have hrefused := State.launch_relaunch (v := v) ha hr hb hl rfl
    rw [herr, if_pos (by simp), State.launchRefused, State.ctx_setCtx, State.setCtx_setCtx] at hrefused
    exact completes_of_next_eq (congrArg Host.Outcome.next (if_pos hready)) hrefused (by rw [Ctx.launchBegun, hb]; rfl)
  · -- LAUNCH while BUSY
    intro hready ha hr hb
    exact completes_of_next_eq (congrArg Host.Outcome.next (if_pos hready)) (State.launch_busy ha hr hb) rfl
  · -- LAUNCH_DISTRIBUTION_RESUME
    intro hgo hone hnext hroom
    have hall := State.distribute_all (x.n - x.next) hx hone (by omega) hroom (fuel := x.n + 1) (by omega)
    exact completes_of_next_eq rfl ((State.launchResume_eq hx).trans ((if_pos hgo).trans hall))
      ⟨State.distributed_ended rfl, by rw [State.ctx_setCtx]; rfl⟩
  · -- LAUNCH_DISTRIBUTION_RESUME while the trap has not returned
    intro hwait
    exact completes_of_next_eq rfl ((State.launchResume_eq hx).trans (if_neg (by simp [hwait]))) rfl
  · -- CORE_TAKE_UP
    intro hl hcopies hdirty hloose hw hr hserves hwants ha hvalid hpre hheld htags
    obtain ⟨hctxs, htenure, hserves', hlcore, hptroot, hv, hs, hc, hbag⟩ := State.takeUp_clean l hloose hcopies htags hw hr
    have hctx : (s.takeUp p c l).ctx c = k := congrArg (fun z : Vector Ctx 64 => z[c]) hctxs
    refine completes_of_next_eq rfl (State.coreTakeUp_clean hl hserves hwants ha hvalid hpre
      (State.waysReady_clean hcopies hdirty htags) (by rw [hctx]; exact hheld)) ?_
    obtain ⟨hstrands, hnpool, hwants'⟩ : ((s.takeUp p c l).core p).strands = core.strands ∧
        ((s.takeUp p c l).core p).npool = core.npool ∧
        ((s.takeUp p c l).core p).wants = core.wants.filter (· ≠ c) := by
      simpa only [Core.tenure, Prod.mk.injEq] using htenure
    simp only [State.strand, State.core_setCore, Fin.getElem_fin, Vector.getElem_map, hstrands]
    refine ⟨hserves', hlcore, hptroot, hv, hs, hc, hnpool, hbag, ?_, fun u => Strand.start_fields _⟩
    simp [hwants']

end Sys2Proof.Machine
end

section
/-! Messages that arrive (R94): the oldest one in flight, and a deposit whose core does not serve its logical core, which the
base die holds (R89, R359). With them O42, whose clause on CHANNEL_DEPOSIT asks only that the core serves the context. -/

namespace Sys2Proof.Machine

/-! ### The oldest message in flight -/

theorem State.deliverNth_zero {s : State} {m : Msg} {rest : List Msg} (h : s.net = m :: rest) :
    s.deliverNth 0 = ({ s with net := rest } : State).receive m := by
  simp [State.deliverNth, h]

/-- An event that the oldest message answers delivers it. -/
theorem State.deliverSome_head {s : State} {f : Msg → Bool} {m : Msg} {rest : List Msg} (h : s.net = m :: rest)
    (hf : f m = true) : s.deliverSome f = ({ s with net := rest } : State).receive m := by
  have hfind : s.net.findIdx? f = some 0 := by rw [h, List.findIdx?_cons, if_pos hf]
  rw [State.deliverSome, hfind]
  exact State.deliverNth_zero h

/-! ### A deposit for a logical core that its core does not serve (R89, R359) -/

theorem State.receiveDeposit_unserved {s : State} {d : Deposit} {p : CoreId} (ha : (s.ctx d.ctx).aborted = false)
    (hp : d.lcore.toNat ∉ (s.ctx d.ctx).preempted) (hroute : (s.ctx d.ctx).route d.lcore.toNat = some p)
    (hs : s.servesAs p d.ctx d.lcore.toNat = false) : s.receiveDeposit d = s.holdMsg d.ctx (.deposit d) := by
  have hopen : (if (s.ctx d.ctx).aborted || decide (d.lcore.toNat ∈ (s.ctx d.ctx).preempted) then none
      else (s.ctx d.ctx).route d.lcore.toNat) = some p := by simp [ha, hp, hroute]
  simp only [State.receiveDeposit, hopen, hs, Bool.false_eq_true, if_false]
  rfl

/-- The sender of a deposit that the base die holds waits on. -/
theorem exec_channelDeposit_unserved {s : State} {d : Deposit} {rest : List Msg} {p : CoreId}
    (hnet : s.net = .deposit d :: rest) (ha : (s.ctx d.ctx).aborted = false)
    (hp : d.lcore.toNat ∉ (s.ctx d.ctx).preempted) (hroute : (s.ctx d.ctx).route d.lcore.toNat = some p)
    (hs : s.servesAs p d.ctx d.lcore.toNat = false) :
    exec (.channelDeposit d) s = .next (({ s with net := rest } : State).holdMsg d.ctx (.deposit d)) :=
  congrArg Host.Outcome.next ((State.deliverSome_head hnet (by simp)).trans
    (State.receiveDeposit_unserved (s := { s with net := rest }) ha hp hroute hs))

/-! ### The obligation -/

/-- A core that serves logical core 1 of context 0. Its strand 0 has the lanes of array 0 and channel 0 bound to v28, and its
strand 1 waits for its SEND. -/
def movedCore : Core := { Core.reset with
  serves := some 0
  lcore := 1
  strands := (Core.reset.strands.set 0 { Strand.reset with halted := false, part := [0], chanmap := 0xc0 }).set 1
    { Strand.reset with halted := false, wait := some .deposit } }

/-- A context whose two logical cores the runtime exchanges between cores 0 and 1 (R89): ROUTETAB is the new one, CORETAB still
the old. -/
def movedCtx : Ctx := { Ctx.reset with
  entry := { CtxEntry.zero with valid := true, width := 2 }
  cores := [some 1, some 0]
  routes := [some 0, some 1] }

/-- A deposit of one element by strand 1 of core 0, for strand 0 of logical core 0. -/
def movedDeposit : Deposit := ⟨0, 1, false, 0, 0, 0, 0, 0, [some 7]⟩

/-- The device with that deposit in flight. -/
def movedState : State := { (State.reset.setCore 0 movedCore).setCtx 0 movedCtx with net := [.deposit movedDeposit] }

theorem movedState_core : movedState.core 0 = movedCore := State.core_setCore State.reset 0 movedCore

theorem movedState_ctx : movedState.ctx 0 = movedCtx := State.ctx_setCtx (State.reset.setCore 0 movedCore) 0 movedCtx

/-- Logical core 0 is routed to core 0. -/
theorem movedState_routed : (movedState.ctx 0).aborted = false ∧ 0 ∉ (movedState.ctx 0).preempted ∧
    (movedState.ctx 0).route 0 = some 0 := by
  rw [movedState_ctx]
  decide

theorem movedState_unserved : movedState.servesAs 0 0 0 = false := by
  rw [State.servesAs, movedState_core]
  decide

/-- The arrival does nothing but leave the deposit with the base die. -/
theorem movedState_held : exec (.channelDeposit movedDeposit) movedState =
    .next (({ movedState with net := [] } : State).holdMsg 0 (.deposit movedDeposit)) :=
  have ⟨ha, hp, hroute⟩ := movedState_routed
  exec_channelDeposit_unserved rfl ha hp hroute movedState_unserved

/-- Refutes O42: the clause on CHANNEL_DEPOSIT asks that the logical core be routed to a core that serves the context, and not
that this core serves that logical core. While the runtime moves logical cores the two differ (R89): the base die then holds
the deposit, and the sender does not go on. -/
theorem not_messagesTakeEffectOnArrival : ¬ Obligations.MessagesTakeEffectOnArrival := by
  unfold Obligations.MessagesTakeEffectOnArrival
  intro h
  have hsent : (movedState.strand 0 1).wait = some .deposit := by rw [State.strand, movedState_core]; rfl
  obtain ⟨hdeposit, -⟩ := h movedState [] movedDeposit ⟨false, 0, none, 0, none, 0, 0, false, 0⟩ 0 0 0 0 0 false false []
    ⟨0, 0, 0⟩ 0 ⟨0, 0, 0, 0, 0, 0, [], [], false⟩ 28 32 0 0 0 []
  rw [State.strand, movedState_core] at hdeposit
  obtain ⟨a, ha, -, -, -, hgone, -⟩ := hdeposit rfl movedState_routed rfl rfl rfl hsent rfl (by decide) (by decide) rfl
    (by decide)
  rw [movedState_held, Host.Outcome.next.injEq] at ha
  rw [← ha] at hgone
  exact Option.some_ne_none _ (hsent.symm.trans hgone)

end Sys2Proof.Machine
end

section
/-! What a word that decodes tells: the layouts of R109 put its fields together again, and each decoder answers only
well-formed instructions whose word is the one it was given (R111, R133). With it O1 and O2. -/

namespace Sys2Proof

/-! ### A word is its fields put together (R109) -/

section layouts
variable {w : IWord} {k : Nat} (h : (w.extractLsb' 26 6).toNat = k)
include h

theorem eq_opcode_append : w = BitVec.ofNat 6 k ++ w.extractLsb' 0 26 := by
  simp only [← (BitVec.toNat_eq_nat.mp h).2, BitVec.extractLsb'_append_extractLsb'_eq_extractLsb']
  exact BitVec.extractLsb'_eq_self.symm

theorem eq_encR : w = encR (BitVec.ofNat 6 k) (w.extractLsb' 21 5) (w.extractLsb' 16 5) (w.extractLsb' 11 5)
    (w.extractLsb' 0 11) := by
  simp only [encR, ← (BitVec.toNat_eq_nat.mp h).2, BitVec.extractLsb'_append_extractLsb'_eq_extractLsb']
  exact BitVec.extractLsb'_eq_self.symm

theorem eq_encI : w = encI (BitVec.ofNat 6 k) (w.extractLsb' 21 5) (w.extractLsb' 16 5) (w.extractLsb' 0 16) := by
  simp only [encI, ← (BitVec.toNat_eq_nat.mp h).2, BitVec.extractLsb'_append_extractLsb'_eq_extractLsb']
  exact BitVec.extractLsb'_eq_self.symm

theorem eq_encM : w = encM (BitVec.ofNat 6 k) (w.extractLsb' 21 5) (w.extractLsb' 16 5) (w.extractLsb' 14 2)
    (w.extractLsb' 13 1) (w.extractLsb' 11 2) (w.extractLsb' 0 11) := by
  simp only [encM, ← (BitVec.toNat_eq_nat.mp h).2, BitVec.extractLsb'_append_extractLsb'_eq_extractLsb']
  exact BitVec.extractLsb'_eq_self.symm

theorem eq_encJ : w = encJ (BitVec.ofNat 6 k) (w.extractLsb' 0 26) := by
  simp only [encJ, ← (BitVec.toNat_eq_nat.mp h).2, BitVec.extractLsb'_append_extractLsb'_eq_extractLsb']
  exact BitVec.extractLsb'_eq_self.symm

theorem eq_encV : w = encV (BitVec.ofNat 6 k) (w.extractLsb' 21 5) (w.extractLsb' 16 5) (w.extractLsb' 11 5)
    (w.extractLsb' 8 3) (w.extractLsb' 6 2) (w.extractLsb' 0 6) := by
  simp only [encV, ← (BitVec.toNat_eq_nat.mp h).2, BitVec.extractLsb'_append_extractLsb'_eq_extractLsb']
  exact BitVec.extractLsb'_eq_self.symm

theorem eq_encVI : w = encVI (BitVec.ofNat 6 k) (w.extractLsb' 21 5) (w.extractLsb' 10 11) (w.extractLsb' 0 10) := by
  simp only [encVI, ← (BitVec.toNat_eq_nat.mp h).2, BitVec.extractLsb'_append_extractLsb'_eq_extractLsb']
  exact BitVec.extractLsb'_eq_self.symm

theorem eq_encVM : w = encVM (BitVec.ofNat 6 k) (w.extractLsb' 21 5) (w.extractLsb' 16 5) (w.extractLsb' 11 5)
    (w.extractLsb' 8 3) (w.extractLsb' 6 2) (w.extractLsb' 4 2) (w.extractLsb' 3 1) (w.extractLsb' 0 3) := by
  simp only [encVM, ← (BitVec.toNat_eq_nat.mp h).2, BitVec.extractLsb'_append_extractLsb'_eq_extractLsb']
  exact BitVec.extractLsb'_eq_self.symm

theorem eq_encT : w = encT (BitVec.ofNat 6 k) (w.extractLsb' 23 3) (w.extractLsb' 18 5) (w.extractLsb' 13 5)
    (w.extractLsb' 8 5) (w.extractLsb' 0 8) := by
  simp only [encT, ← (BitVec.toNat_eq_nat.mp h).2, BitVec.extractLsb'_append_extractLsb'_eq_extractLsb']
  exact BitVec.extractLsb'_eq_self.symm

end layouts

/-- A field is two fields put together. -/
theorem eq_append {a b : Nat} (x : BitVec (a + b)) : ∃ (y : BitVec a) (z : BitVec b), x = y ++ z :=
  ⟨x.extractLsb' b a, x.extractLsb' 0 b, by
    rw [BitVec.extractLsb'_append_extractLsb'_eq_extractLsb' (Nat.zero_add b).symm, BitVec.extractLsb'_eq_self]⟩

/-- The parts of a field whose number is known. -/
theorem append_eq_ofNat {a b k : Nat} {x : BitVec a} {y : BitVec b} (h : (x ++ y).toNat = k) :
    x = (BitVec.ofNat (a + b) k).extractLsb' b a ∧ y = (BitVec.ofNat (a + b) k).extractLsb' 0 b := by
  rw [← (BitVec.toNat_eq_nat.mp h).2]
  exact ⟨BitVec.extractLsb'_append_eq_left.symm, BitVec.extractLsb'_append_eq_right.symm⟩

/-! ### Codes of operand fields: each code is that of one value (R110) -/

theorem ASize.ofBits_bits (z : ASize) : ASize.ofBits z.bits = z := by cases z <;> rfl
theorem Req.ofBits_bits (r : Req) : Req.ofBits r.bits = r := by cases r <;> rfl
theorem Scope.ofBits_bits (c : Scope) : Scope.ofBits c.bits = c := by cases c <;> rfl
theorem VKind.ofBits_bits (k : VKind) : VKind.ofBits k.bits = k := by cases k <;> rfl
theorem isSet_bit (b : Bool) : isSet (bit b) = b := by cases b <;> rfl

theorem Size.bits_ofBits (x : BitVec 2) : (Size.ofBits x).bits = x := by decide +revert
theorem ASize.bits_ofBits (x : BitVec 1) : (ASize.ofBits x).bits = x := by decide +revert
theorem Req.bits_ofBits (x : BitVec 2) : (Req.ofBits x).bits = x := by decide +revert
theorem Scope.bits_ofBits (x : BitVec 2) : (Scope.ofBits x).bits = x := by decide +revert
theorem VKind.bits_ofBits (x : BitVec 2) : (VKind.ofBits x).bits = x := by decide +revert
theorem bit_isSet (x : BitVec 1) : bit (isSet x) = x := by decide +revert

theorem Rm.eq_bits_of_ofBits {x : BitVec 3} {r : Rm} (h : Rm.ofBits x = some r) : x = r.bits := by
  revert x; cases r <;> decide
theorem FCond.eq_bits_of_ofBits {x : BitVec 3} {c : FCond} (h : FCond.ofBits x = some c) : x = c.bits := by
  revert x; cases c <;> decide

theorem ASize.eq_bits (x : BitVec 1) : ∃ z : ASize, x = z.bits := ⟨_, (ASize.bits_ofBits x).symm⟩
theorem Req.eq_bits (x : BitVec 2) : ∃ r : Req, x = r.bits := ⟨_, (Req.bits_ofBits x).symm⟩
theorem Scope.eq_bits (x : BitVec 2) : ∃ c : Scope, x = c.bits := ⟨_, (Scope.bits_ofBits x).symm⟩
theorem VKind.eq_bits (x : BitVec 2) : ∃ k : VKind, x = k.bits := ⟨_, (VKind.bits_ofBits x).symm⟩
theorem eq_bit (x : BitVec 1) : ∃ b : Bool, x = bit b := ⟨_, (bit_isSet x).symm⟩

theorem kindOk_vv {k : VKind} {op2 : BitVec 5} (h : kindOk [.vv] k op2 = true) : k = .vv := by
  cases k
  case vv => rfl
  all_goals cases h
theorem kindOk_vx {k : VKind} {op2 : BitVec 5} (h : kindOk [.vx] k op2 = true) : k = .vx := by
  cases k
  case vx => rfl
  all_goals cases h

theorem zero_append_low3 {x : BitVec 5} (h : hi2z x = true) : 0#2 ++ low3 x = x := by decide +revert
theorem zero_append_low2 {x : BitVec 5} (h : hi3z x = true) : 0#3 ++ low2 x = x := by decide +revert

theorem eq_two_bits (x : BitVec 2) : x = 0 ∨ x = 1 ∨ x = 2 ∨ x = 3 := by decide +revert
theorem eq_three_bits (x : BitVec 3) : x = 0 ∨ x = 1 ∨ x = 2 ∨ x = 3 ∨ x = 4 ∨ x = 5 ∨ x = 6 ∨ x = 7 := by
  decide +revert

/-! ### Answers of a decoder for a word -/

/-- The decoder's answer r, where it is an instruction, is a well-formed one whose word is w. -/
def Encodes (w : IWord) : Except DecodeError Instr → Prop
  | .ok i => encode i = some w ∧ wellFormed i = true
  | .error _ => True

section answers
variable {w w' : IWord} {i : Instr} {z m : Bool}

theorem Encodes.of_eq {r : Except DecodeError Instr} (hw : w = w') (h : Encodes w' r) : Encodes w r := hw ▸ h

theorem Encodes.ok (he : encode i = some w) (hf : wellFormed i = true) : Encodes w (.ok i) := ⟨he, hf⟩

theorem Encodes.error {x : DecodeError} : Encodes w (.error x) := trivial

/-- Of an allocated word only the reserved bits and the mask it writes are in question. -/
theorem Encodes.accept (h : z = true → m = false → Encodes w (.ok i)) : Encodes w (accept z i m) := by
  cases z
  case false => exact .error
  case true =>
    cases m
    case false => exact h rfl rfl
    case true => exact .error

theorem Encodes.acceptKind {ks : List VKind} {k : VKind} {op2 : BitVec 5}
    (h : kindOk ks k op2 = true → z = true → m = false → Encodes w (.ok i)) :
    Encodes w (acceptKind ks k op2 z i m) := by
  unfold Sys2Proof.acceptKind
  split
  · next hk =>
    refine .accept fun hz hm => ?_
    obtain ⟨hz, ho⟩ := Bool.and_eq_true_iff.mp hz
    exact h (Bool.and_eq_true_iff.mpr ⟨hk, ho⟩) hz hm
  · exact .error

theorem Encodes.withRm {rm : BitVec 3} {f : Rm → Except DecodeError Instr}
    (h : ∀ r, rm = r.bits → Encodes w (f r)) : Encodes w (withRm rm f) := by
  unfold Sys2Proof.withRm
  split
  · next r hr => exact h r (Rm.eq_bits_of_ofBits hr)
  · exact .error

theorem Encodes.onlyIf {r : Except DecodeError Instr} (h : z = true → Encodes w r) : Encodes w (onlyIf z r) := by
  cases z
  case false => exact .error
  case true => exact h rfl

theorem Encodes.ite {c : Prop} [Decidable c] {r q : Except DecodeError Instr} (hr : c → Encodes w r)
    (hq : ¬c → Encodes w q) : Encodes w (if c then r else q) := by
  split
  · next hc => exact hr hc
  · next hc => exact hq hc

end answers

/-! ### Scalar and system instructions (R112 to R116) -/

section scalar
variable (rd rs1 rs2 : BitVec 5) (fn : BitVec 11) (imm : BitVec 16)

theorem encodes_decAlu : Encodes (encR 0x01 rd rs1 rs2 fn) (decAlu rd rs1 rs2 fn) := by
  have size (x : BitVec 5) (h : x.toNat < 3) : 0#3 ++ (Size.ofBits (x.extractLsb' 0 2)).bits = x ∧
      (Size.ofBits (x.extractLsb' 0 2) != .d) = true := by decide +revert
  unfold decAlu
  split
  case h_22 => exact .error
  all_goals rename_i h; obtain rfl := (BitVec.toNat_eq_nat.mp h).2
  case h_17 | h_18 | h_19 => -- CLZ, CTZ and POPC
    exact .accept fun hz _ => by rw [eq_of_beq hz]; exact .ok rfl rfl
  case h_20 | h_21 => -- SEXT and ZEXT
    refine .ite (fun hs => ?_) fun _ => .error
    exact .ok (congrArg some (congrArg (encR 1 rd rs1 · _) (size rs2 hs).1)) (size rs2 hs).2
  all_goals exact .ok rfl rfl

theorem encodes_decMulDiv : Encodes (encR 0x0a rd rs1 rs2 fn) (decMulDiv rd rs1 rs2 fn) := by
  unfold decMulDiv
  split
  case h_8 => exact .error
  all_goals rename_i h; obtain rfl := (BitVec.toNat_eq_nat.mp h).2; exact .ok rfl rfl

theorem encodes_decShift : Encodes (encI 0x08 rd rs1 imm) (decShift rd rs1 imm) := by
  obtain ⟨hi, sh, rfl⟩ := eq_append (a := 10) (b := 6) imm
  obtain ⟨op, z, rfl⟩ := eq_append (a := 2) (b := 8) hi
  unfold decShift
  simp (disch := omega) only [BitVec.extractLsb'_append_eq_of_add_le, BitVec.extractLsb'_append_eq_of_le,
    Nat.reduceSub, BitVec.extractLsb'_eq_self]
  obtain rfl | rfl | rfl | rfl := eq_two_bits op
  all_goals exact .accept fun hz _ => by rw [eq_of_beq hz]; exact .ok rfl rfl

theorem encodes_decAtomic : Encodes (encR 0x15 rd rs1 rs2 fn) (decAtomic rd rs1 rs2 fn) := by
  obtain ⟨f, z, rfl⟩ := eq_append (a := 8) (b := 3) fn
  obtain ⟨f, sc, rfl⟩ := eq_append (a := 6) (b := 2) f
  obtain ⟨f, rel, rfl⟩ := eq_append (a := 5) (b := 1) f
  obtain ⟨f, acq, rfl⟩ := eq_append (a := 4) (b := 1) f
  obtain ⟨op, size, rfl⟩ := eq_append (a := 3) (b := 1) f
  obtain ⟨sc, rfl⟩ := Scope.eq_bits sc
  obtain ⟨rel, rfl⟩ := eq_bit rel
  obtain ⟨acq, rfl⟩ := eq_bit acq
  obtain ⟨size, rfl⟩ := ASize.eq_bits size
  unfold decAtomic
  simp (disch := omega) only [BitVec.extractLsb'_append_eq_of_add_le, BitVec.extractLsb'_append_eq_of_le,
    Nat.reduceSub, BitVec.extractLsb'_eq_self, ASize.ofBits_bits, isSet_bit,
    Scope.ofBits_bits]
  obtain rfl | rfl | rfl | rfl | rfl | rfl | rfl | rfl := eq_three_bits op
  all_goals exact .accept fun hz _ => by rw [eq_of_beq hz]; exact .ok rfl rfl

theorem encodes_decFullEmpty (req : BitVec 2) (rx : BitVec 1) (size : BitVec 2) (imm : BitVec 11) :
    Encodes (encM 0x16 rd rs1 req rx size imm) (decFullEmpty rd rs1 (req ++ rx) size imm) := by
  unfold decFullEmpty
  refine .ite (fun hs => ?_) fun _ => .error
  subst hs
  obtain ⟨rx, rfl⟩ := eq_bit rx
  obtain rfl | rfl | rfl | rfl := eq_two_bits req
  · cases rx <;> exact .ok rfl rfl
  · cases rx <;> exact .ok rfl rfl
  · cases rx
    · exact .accept fun hz _ => by rw [eq_of_beq hz]; exact .ok rfl rfl
    · exact .ok rfl rfl
  · cases rx <;> exact .error

theorem encodes_decFence : Encodes (encR 0x17 rd rs1 rs2 fn) (decFence rd rs1 rs2 fn) := by
  obtain ⟨op, lo, rfl⟩ := eq_append (a := 5) (b := 6) fn
  obtain ⟨sc, z, hlo⟩ := eq_append (a := 2) (b := 4) lo
  unfold decFence
  simp (disch := omega) only [BitVec.extractLsb'_append_eq_of_add_le, BitVec.extractLsb'_append_eq_of_le,
    Nat.reduceSub, BitVec.extractLsb'_eq_self]
  split
  case h_7 => exact .error
  all_goals
    rename_i h
    obtain rfl := (BitVec.toNat_eq_nat.mp h).2
    refine .accept fun hz _ => ?_
    simp only [Bool.and_eq_true, beq_iff_eq] at hz
  case h_1 => -- FENCE
    subst hlo
    obtain ⟨sc, rfl⟩ := Scope.eq_bits sc
    simp (disch := omega) only [BitVec.extractLsb'_append_eq_of_add_le, BitVec.extractLsb'_append_eq_of_le,
      Nat.reduceSub, BitVec.extractLsb'_eq_self, Scope.ofBits_bits] at hz ⊢
    simp only [hz]
    exact .ok (by cases sc <;> rfl) rfl
  all_goals
    simp only [hz]
    exact .ok rfl rfl

theorem encodes_decCsr : Encodes (encI 0x18 rd rs1 imm) (decCsr rd rs1 imm) := by
  obtain ⟨hi, csr, rfl⟩ := eq_append (a := 4) (b := 12) imm
  obtain ⟨op, z, rfl⟩ := eq_append (a := 2) (b := 2) hi
  unfold decCsr
  simp (disch := omega) only [BitVec.extractLsb'_append_eq_of_add_le, BitVec.extractLsb'_append_eq_of_le,
    Nat.reduceSub, BitVec.extractLsb'_eq_self]
  refine .ite (fun hl => ?_) fun _ => .error
  obtain rfl | rfl | rfl | rfl := eq_two_bits op
  all_goals
    refine .accept fun hz _ => .ok ?_ hl
    simp only [Bool.and_eq_true, beq_iff_eq] at hz
    simp only [hz]
    rfl

theorem encodes_decTrap : Encodes (encR 0x19 rd rs1 rs2 fn) (decTrap rd rs1 rs2 fn) := by
  have number (x : BitVec 5) (h : x.toNat < 4) : 0#3 ++ x.extractLsb' 0 2 = x := by decide +revert
  unfold decTrap
  split
  case h_11 => exact .error
  all_goals rename_i h; obtain rfl := (BitVec.toNat_eq_nat.mp h).2
  case h_6 => -- FMTSET
    refine .ite (fun hn => .accept fun hz _ => .ok (congrArg some ?_) rfl) fun _ => .error
    rw [number rs2 hn, eq_of_beq hz]
    rfl
  all_goals
    refine .accept fun hz _ => ?_
    simp only [Bool.and_eq_true, beq_iff_eq] at hz
    simp only [hz]
    exact .ok rfl rfl

theorem encodes_decNet : Encodes (encR 0x1a rd rs1 rs2 fn) (decNet rd rs1 rs2 fn) := by
  unfold decNet
  split
  case h_13 => exact .error
  all_goals
    rename_i h
    obtain rfl := (BitVec.toNat_eq_nat.mp h).2
    refine .accept fun hz _ => ?_
    simp only [Bool.and_eq_true, beq_iff_eq] at hz
    simp only [hz]
    exact .ok rfl rfl

theorem encodes_decCopy : Encodes (encR 0x1b rd rs1 rs2 fn) (decCopy rd rs1 rs2 fn) := by
  unfold decCopy
  split
  case h_8 => exact .error
  all_goals
    rename_i h
    obtain rfl := (BitVec.toNat_eq_nat.mp h).2
    refine .accept fun hz _ => ?_
    simp only [Bool.and_eq_true, beq_iff_eq] at hz
    simp only [hz]
    exact .ok rfl rfl

theorem encodes_decObject : Encodes (encR 0x1c rd rs1 rs2 fn) (decObject rd rs1 rs2 fn) := by
  unfold decObject
  split
  case h_3 => exact .error
  all_goals
    rename_i h
    obtain rfl := (BitVec.toNat_eq_nat.mp h).2
    exact .accept fun hz _ => by rw [eq_of_beq hz]; exact .ok rfl rfl

/-- The middle fields of format R are the immediate of SETVTI (R116). -/
theorem encR_middle (op : BitVec 6) (rd rs1 rs2 : BitVec 5) (hi : BitVec 6) (lo : BitVec 5) :
    encR op rd rs1 rs2 (hi ++ lo) = op ++ rd ++ (rs1 ++ rs2 ++ hi) ++ lo := by
  rw [BitVec.append_assoc' (x₁ := op ++ rd), BitVec.append_assoc' (x₁ := op ++ rd), encR,
    BitVec.append_assoc' (x₂ := hi)]
  rfl

theorem encodes_decConfig : Encodes (encR 0x20 rd rs1 rs2 fn) (decConfig rd rs1 rs2 fn) := by
  obtain ⟨hi, op, rfl⟩ := eq_append (a := 6) (b := 5) fn
  unfold decConfig
  simp (disch := omega) only [BitVec.extractLsb'_append_eq_of_add_le, BitVec.extractLsb'_append_eq_of_le,
    Nat.reduceSub, BitVec.extractLsb'_eq_self]
  split
  case h_5 => exact .error
  all_goals
    rename_i h
    obtain rfl := (BitVec.toNat_eq_nat.mp h).2
    refine .accept fun hz _ => .ok (congrArg some ?_) rfl
    simp only [Bool.and_eq_true, beq_iff_eq] at hz
    simp only [hz]
  case h_4 => exact (encR_middle ..).symm -- SETVTI
  all_goals rfl

end scalar

/-! ### Vector and tile instructions (R117 to R128) -/

section vector
variable (vd vs1 op2 : BitVec 5) (vm : BitVec 3) (kind : BitVec 2) (fn : BitVec 6)

theorem encodes_decVInt : Encodes (encV 0x21 vd vs1 op2 vm kind fn) (decVInt vd vs1 op2 vm kind fn) := by
  obtain ⟨k, rfl⟩ := VKind.eq_bits kind
  unfold decVInt
  simp only [VKind.ofBits_bits]
  split
  case h_18 => exact .error
  all_goals rename_i h; obtain rfl := (BitVec.toNat_eq_nat.mp h).2
  case h_14 | h_15 | h_16 | h_17 => -- VABS, VNEG, VPOPC and VCLZ
    exact .acceptKind fun hk hz _ => by rw [kindOk_vv hk, eq_of_beq hz]; exact .ok rfl rfl
  all_goals exact .acceptKind fun hk _ _ => .ok rfl hk

theorem encodes_decVLogic : Encodes (encV 0x22 vd vs1 op2 vm kind fn) (decVLogic vd vs1 op2 vm kind fn) := by
  obtain ⟨k, rfl⟩ := VKind.eq_bits kind
  unfold decVLogic
  simp only [VKind.ofBits_bits]
  split
  case h_11 => exact .error
  all_goals rename_i h; obtain rfl := (BitVec.toNat_eq_nat.mp h).2
  case h_4 | h_8 => -- VNOT and VMV
    exact .acceptKind fun hk hz _ => by rw [kindOk_vv hk, eq_of_beq hz]; exact .ok rfl rfl
  case h_10 => -- VSPLAT
    exact .acceptKind fun hk hz _ => by rw [eq_of_beq hz]; exact .ok rfl hk
  all_goals exact .acceptKind fun hk _ _ => .ok rfl hk

theorem encodes_decVMask : Encodes (encV 0x23 vd vs1 op2 vm kind fn) (decVMask vd vs1 op2 vm kind fn) := by
  obtain ⟨k, rfl⟩ := VKind.eq_bits kind
  unfold decVMask
  simp only [VKind.ofBits_bits]
  split
  case h_14 => exact .error
  all_goals rename_i h; obtain rfl := (BitVec.toNat_eq_nat.mp h).2
  case h_1 | h_2 | h_3 | h_4 | h_5 | h_6 => -- the compares
    refine .acceptKind fun hk hz hm => .ok (congrArg some ?_) (Bool.and_eq_true_iff.mpr ⟨hk, congrArg not hm⟩)
    simp only [zero_append_low3 hz]
    rfl
  case h_7 | h_8 | h_9 | h_10 => -- MAND, MOR, MXOR and MNOT
    refine .acceptKind fun hk hz hm => .ok (congrArg some ?_) (congrArg not hm)
    simp only [Bool.and_eq_true, beq_iff_eq] at hz
    simp only [kindOk_vv hk, zero_append_low3, hz]
    rfl
  case h_11 | h_12 => -- MPOPC and MFIRST
    refine .accept fun hz _ => .ok (congrArg some ?_) rfl
    simp only [Bool.and_eq_true, beq_iff_eq] at hz
    simp only [zero_append_low3, hz]
    rfl
  case h_13 => -- MSET
    refine .accept fun hz hm => .ok (congrArg some ?_) (congrArg not hm)
    simp only [Bool.and_eq_true, beq_iff_eq] at hz
    simp only [zero_append_low3, hz]
    rfl

theorem encodes_decVAssoc : Encodes (encV 0x24 vd vs1 op2 vm kind fn) (decVAssoc vd vs1 op2 vm kind fn) := by
  have slot (x : BitVec 5) (h : x.extractLsb' 4 1 = 0) : 0#1 ++ x.extractLsb' 0 4 = x := by decide +revert
  obtain ⟨k, rfl⟩ := VKind.eq_bits kind
  unfold decVAssoc
  simp only [VKind.ofBits_bits]
  refine .ite (fun hf => ?_) fun _ => ?_
  · -- VTT
    obtain ⟨hi, n, rfl⟩ := eq_append (a := 2) (b := 4) fn
    simp (disch := omega) only [BitVec.extractLsb'_append_eq_of_add_le, BitVec.extractLsb'_append_eq_of_le,
      Nat.reduceSub, BitVec.extractLsb'_eq_self, beq_iff_eq] at hf ⊢
    exact .acceptKind fun hk _ _ => by rw [kindOk_vv hk, hf]; exact .ok rfl rfl
  split
  case h_6 => exact .error
  all_goals rename_i h; obtain rfl := (BitVec.toNat_eq_nat.mp h).2
  case h_1 | h_2 => -- VMATCH and VWRITE
    refine .acceptKind fun hk hz _ => .ok (congrArg some ?_) rfl
    simp only [kindOk_vx hk, zero_append_low2 hz]
    rfl
  case h_3 => -- TGMOV to a mask
    refine .accept fun hz hm => .ok (congrArg some ?_) (congrArg not hm)
    simp only [Bool.and_eq_true, beq_iff_eq] at hz
    simp only [zero_append_low3, zero_append_low2, hz]
    rfl
  case h_4 => -- TGMOV to a tag
    refine .accept fun hz _ => .ok (congrArg some ?_) rfl
    simp only [Bool.and_eq_true, beq_iff_eq] at hz
    simp only [zero_append_low3, zero_append_low2, hz]
    rfl
  case h_5 => -- TTLOAD
    refine .accept fun hz _ => .ok (congrArg some ?_) rfl
    simp only [Bool.and_eq_true, beq_iff_eq] at hz
    simp only [slot, hz]
    rfl

theorem encodes_decVCvt : Encodes (encV 0x26 vd vs1 op2 vm kind fn) (decVCvt vd vs1 op2 vm kind fn) := by
  obtain ⟨rm, op, rfl⟩ := eq_append (a := 3) (b := 3) fn
  unfold decVCvt
  simp (disch := omega) only [BitVec.extractLsb'_append_eq_of_add_le, BitVec.extractLsb'_append_eq_of_le,
    Nat.reduceSub, BitVec.extractLsb'_eq_self]
  split
  case h_7 => exact .error
  all_goals rename_i h; obtain rfl := (BitVec.toNat_eq_nat.mp h).2; refine .withRm fun r hr => ?_; subst hr
  case h_4 => -- VBSCALE
    exact .accept fun hz _ => by rw [eq_of_beq hz]; exact .ok rfl rfl
  all_goals exact .onlyIf fun hs => .accept fun hz _ => by rw [eq_of_beq hz]; exact .ok rfl hs

theorem encodes_decVPerm : Encodes (encV 0x28 vd vs1 op2 vm kind fn) (decVPerm vd vs1 op2 vm kind fn) := by
  obtain ⟨k, rfl⟩ := VKind.eq_bits kind
  unfold decVPerm
  simp only [VKind.ofBits_bits]
  split
  case h_10 => exact .error
  all_goals rename_i h; obtain rfl := (BitVec.toNat_eq_nat.mp h).2
  case h_3 | h_9 => -- VGATHER and VBSHUF
    exact .acceptKind fun hk _ _ => by rw [kindOk_vv hk]; exact .ok rfl rfl
  case h_4 | h_5 => -- VCOMPRESS and VEXPAND
    exact .acceptKind fun hk hz _ => by rw [kindOk_vv hk, eq_of_beq hz]; exact .ok rfl rfl
  all_goals exact .acceptKind fun hk _ _ => .ok rfl hk

theorem encodes_decVAmo : Encodes (encV 0x2c vd vs1 op2 vm kind fn) (decVAmo vd vs1 op2 vm kind fn) := by
  obtain ⟨f, op, rfl⟩ := eq_append (a := 3) (b := 3) fn
  obtain ⟨f, z, rfl⟩ := eq_append (a := 2) (b := 1) f
  obtain ⟨acq, rel, rfl⟩ := eq_append (a := 1) (b := 1) f
  obtain ⟨acq, rfl⟩ := eq_bit acq
  obtain ⟨rel, rfl⟩ := eq_bit rel
  obtain ⟨sc, rfl⟩ := Scope.eq_bits kind
  unfold decVAmo
  simp (disch := omega) only [BitVec.extractLsb'_append_eq_of_add_le, BitVec.extractLsb'_append_eq_of_le,
    Nat.reduceSub, BitVec.extractLsb'_eq_self, isSet_bit, Scope.ofBits_bits]
  obtain rfl | rfl | rfl | rfl | rfl | rfl | rfl | rfl := eq_three_bits op
  all_goals exact .accept fun hz _ => by rw [eq_of_beq hz]; exact .ok rfl rfl

theorem encodes_decVSync : Encodes (encV 0x2d vd vs1 op2 vm kind fn) (decVSync vd vs1 op2 vm kind fn) := by
  obtain ⟨k, rfl⟩ := VKind.eq_bits kind
  unfold decVSync
  simp only [VKind.ofBits_bits]
  split
  case h_9 => exact .error
  all_goals rename_i h; obtain rfl := (BitVec.toNat_eq_nat.mp h).2
  case h_1 | h_2 | h_3 | h_4 => -- VWAIT
    refine .acceptKind fun hk hz hm => .ok (congrArg some ?_) (congrArg not hm)
    simp only [kindOk_vv hk, zero_append_low3 hz]
    rfl
  all_goals exact .acceptKind fun hk hz _ => by rw [kindOk_vx hk, eq_of_beq hz]; exact .ok rfl rfl

theorem encodes_decVMatrix : Encodes (encV 0x2e vd vs1 op2 vm kind fn) (decVMatrix vd vs1 op2 vm kind fn) := by
  obtain ⟨k, rfl⟩ := VKind.eq_bits kind
  unfold decVMatrix
  simp only [VKind.ofBits_bits]
  split
  case h_5 => exact .error
  all_goals rename_i h; obtain rfl := (BitVec.toNat_eq_nat.mp h).2
  case h_4 => -- IMMA
    exact .acceptKind fun hk _ _ => by rw [kindOk_vx hk]; exact .ok rfl rfl
  all_goals exact .acceptKind fun hk hz _ => by rw [kindOk_vx hk, eq_of_beq hz]; exact .ok rfl rfl

theorem encodes_decVFp : Encodes (encV 0x25 vd vs1 op2 vm kind fn) (decVFp vd vs1 op2 vm kind fn) := by
  obtain ⟨rm, op, rfl⟩ := eq_append (a := 3) (b := 3) fn
  obtain ⟨hi, vx, rfl⟩ := eq_append (a := 1) (b := 1) kind
  obtain ⟨vx, rfl⟩ := eq_bit vx
  unfold decVFp
  simp (disch := omega) only [BitVec.extractLsb'_append_eq_of_add_le, BitVec.extractLsb'_append_eq_of_le,
    Nat.reduceSub, BitVec.extractLsb'_eq_self, isSet_bit]
  generalize hn : (hi ++ op).toNat = n
  have hlt : n < 16 := hn ▸ (hi ++ op).isLt
  split
  case h_16 => -- VFCMP
    obtain ⟨rfl, rfl⟩ := append_eq_ofNat (hn.trans (show _ = 15 by simp only [imp_false] at *; omega))
    split
    · next c hc =>
      rw [FCond.eq_bits_of_ofBits hc]
      refine .accept fun hz hm => .ok (congrArg some ?_) (congrArg not hm)
      simp only [zero_append_low3 hz]
      rfl
    · exact .error
  all_goals obtain ⟨rfl, rfl⟩ := append_eq_ofNat hn
  case h_1 | h_2 | h_3 | h_4 | h_5 | h_8 => -- two operands, rounded
    exact .withRm fun r hr => hr ▸ .ok rfl rfl
  case h_6 | h_7 => -- VFMIN and VFMAX
    exact .onlyIf fun hz => by rw [eq_of_beq hz]; exact .ok rfl rfl
  case h_9 | h_10 | h_11 | h_12 => -- one operand, rounded
    refine .withRm fun r hr => .onlyIf fun hz => ?_
    simp only [Bool.and_eq_true, Bool.not_eq_true', beq_iff_eq] at hz
    simp only [hz, hr]
    exact .ok rfl rfl
  all_goals -- VFABS, VFNEG and VFCLASS
    refine .onlyIf fun hz => ?_
    simp only [Bool.and_eq_true, Bool.not_eq_true', beq_iff_eq] at hz
    simp only [hz]
    exact .ok rfl rfl

theorem encodes_decVRed : Encodes (encV 0x27 vd vs1 op2 vm kind fn) (decVRed vd vs1 op2 vm kind fn) := by
  obtain ⟨rm, lo, rfl⟩ := eq_append (a := 3) (b := 3) fn
  obtain ⟨hi, x, rfl⟩ := eq_append (a := 1) (b := 1) kind
  obtain ⟨x, rfl⟩ := eq_bit x
  unfold decVRed
  simp (disch := omega) only [BitVec.extractLsb'_append_eq_of_add_le, BitVec.extractLsb'_append_eq_of_le,
    Nat.reduceSub, BitVec.extractLsb'_eq_self, isSet_bit]
  split
  case h_11 => exact .error
  all_goals rename_i h; obtain rfl := (BitVec.toNat_eq_nat.mp h).2
  case h_1 | h_2 | h_8 => -- the sums, which round
    refine .withRm fun r hr => .onlyIf fun hk => .accept fun hz _ => ?_
    rw [eq_of_beq hk, eq_of_beq hz, hr]
    exact .ok rfl rfl
  all_goals
    refine .onlyIf fun hk => .accept fun hz _ => ?_
    obtain ⟨hk, hrm⟩ := Bool.and_eq_true_iff.mp hk
    rw [eq_of_beq hk, eq_of_beq hrm, eq_of_beq hz]
    exact .ok rfl rfl

theorem encodes_decVMem (store : Bool) (req mode : BitVec 2) (rx : BitVec 1) (fn3 : BitVec 3) :
    Encodes (encVM (cond store 0x2b 0x2a) vd vs1 op2 vm req mode rx fn3)
      (decVMem store vd vs1 op2 vm req mode rx fn3) := by
  obtain ⟨rx, rfl⟩ := eq_bit rx
  obtain ⟨r, rfl⟩ := Req.eq_bits req
  have lt := mode.isLt
  unfold decVMem
  simp only [isSet_bit, Req.ofBits_bits]
  generalize hf : fn3.toNat = f
  generalize hm : mode.toNat = n at lt
  split
  case h_11 => exact .error
  all_goals obtain rfl := (BitVec.toNat_eq_nat.mp hf).2
  case h_4 | h_10 => -- VLDT and VSTT
    obtain rfl := (BitVec.toNat_eq_nat.mp (hm.trans (show _ = 3 by simp only [imp_false] at *; omega))).2
    exact .ok rfl rfl
  all_goals obtain rfl := (BitVec.toNat_eq_nat.mp hm).2
  case h_1 | h_5 | h_7 => -- VLD, VLDB and VST
    exact .accept fun hz _ => .ok rfl hz
  case h_6 => -- VLDSB
    refine .accept fun hz _ => ?_
    simp only [Bool.and_eq_true, beq_iff_eq] at hz
    simp only [hz]
    exact .ok rfl rfl
  all_goals exact .ok rfl rfl

theorem encodes_decTile (acc : BitVec 3) (vA vB count : BitVec 5) (fn : BitVec 8) :
    Encodes (encT 0x2f acc vA vB count fn) (decTile acc vA vB count fn) := by
  obtain ⟨rm, op, rfl⟩ := eq_append (a := 3) (b := 5) fn
  unfold decTile
  simp (disch := omega) only [BitVec.extractLsb'_append_eq_of_add_le, BitVec.extractLsb'_append_eq_of_le,
    Nat.reduceSub, BitVec.extractLsb'_eq_self]
  split
  case h_6 => exact .error
  all_goals rename_i h; obtain rfl := (BitVec.toNat_eq_nat.mp h).2
  case h_1 | h_2 => -- TMMA and TMMAO
    exact .withRm fun r hr => hr ▸ .ok rfl rfl
  all_goals
    refine .onlyIf fun hrm => .accept fun hz _ => ?_
    simp only [Bool.and_eq_true, beq_iff_eq] at hz
    simp only [hz, eq_of_beq hrm]
    exact .ok rfl rfl

end vector

/-! ### Hints (R134) -/

theorem wellFormed_hint (m : HintMajor) (imm : BitVec 26) :
    wellFormed (.hint m imm) = true ↔ decHint m imm = .hint m imm := beq_iff_eq

theorem encodes_decHint {w : IWord} (m : HintMajor) (h : (w.extractLsb' 26 6).toNat = m.bits.toNat) :
    Encodes w (.ok (decHint m (w.extractLsb' 0 26))) := by
  by_cases hp : (m = .h3c && (w.extractLsb' 0 26).extractLsb' 11 5 == 0 && (w.extractLsb' 0 26).extractLsb' 4 2 == 0 &&
      (w.extractLsb' 0 26).extractLsb' 0 3 == 0) = true
  · rw [decHint, if_pos hp]
    simp (disch := omega) only [Laws.nested, Nat.zero_add, Bool.and_eq_true, beq_iff_eq, decide_eq_true_eq] at hp ⊢
    obtain ⟨⟨⟨rfl, hr2⟩, hmode⟩, hfn3⟩ := hp
    refine .of_eq (eq_encVM h) (.ok (congrArg some ?_) rfl)
    simp only [hr2, hmode, hfn3, Req.bits_ofBits, bit_isSet]
    rfl
  · have hd : decHint m (w.extractLsb' 0 26) = .hint m (w.extractLsb' 0 26) := if_neg hp
    rw [hd]
    have hw := eq_opcode_append h
    rw [BitVec.ofNat_toNat, BitVec.setWidth_eq] at hw
    exact .ok (congrArg some hw.symm) ((wellFormed_hint ..).mpr hd)

/-! ### The decoder (R111) -/

theorem encodes_decode (w : IWord) : Encodes w (decode w) := by
  unfold decode
  dsimp only
  split
  all_goals rename_i h
  case h_1 => exact .of_eq (eq_encR h) (encodes_decAlu ..)
  case h_2 | h_3 | h_4 | h_5 | h_6 | h_7 => -- ADDI to SLTIU
    exact .of_eq (eq_encI h) (.ok rfl rfl)
  case h_8 => exact .of_eq (eq_encI h) (encodes_decShift ..)
  case h_9 => -- LUI
    exact .of_eq (eq_encI h) (.accept fun hz _ => by rw [eq_of_beq hz]; exact .ok rfl rfl)
  case h_10 => exact .of_eq (eq_encR h) (encodes_decMulDiv ..)
  case h_11 | h_12 | h_13 | h_14 | h_15 | h_16 => -- the branches
    exact .of_eq (eq_encI h) (.ok rfl rfl)
  case h_17 => exact .of_eq (eq_encJ h) (.ok rfl rfl) -- JAL
  case h_18 => exact .of_eq (eq_encI h) (.ok rfl rfl) -- JALR
  case h_19 | h_20 => -- LD and ST
    refine .of_eq (eq_encM h) (.ok (congrArg some ?_) rfl)
    simp only [Req.bits_ofBits, Size.bits_ofBits, bit_isSet]
    rfl
  case h_21 => exact .of_eq (eq_encR h) (encodes_decAtomic ..)
  case h_22 =>
    have hop : w.extractLsb' 13 3 = w.extractLsb' 14 2 ++ w.extractLsb' 13 1 := by
      simp only [BitVec.extractLsb'_append_extractLsb'_eq_extractLsb']
    rw [hop]
    exact .of_eq (eq_encM h) (encodes_decFullEmpty ..)
  case h_23 => exact .of_eq (eq_encR h) (encodes_decFence ..)
  case h_24 => exact .of_eq (eq_encI h) (encodes_decCsr ..)
  case h_25 => exact .of_eq (eq_encR h) (encodes_decTrap ..)
  case h_26 => exact .of_eq (eq_encR h) (encodes_decNet ..)
  case h_27 => exact .of_eq (eq_encR h) (encodes_decCopy ..)
  case h_28 => exact .of_eq (eq_encR h) (encodes_decObject ..)
  case h_29 => exact .of_eq (eq_encR h) (encodes_decConfig ..)
  case h_30 => exact .of_eq (eq_encV h) (encodes_decVInt ..)
  case h_31 => exact .of_eq (eq_encV h) (encodes_decVLogic ..)
  case h_32 => exact .of_eq (eq_encV h) (encodes_decVMask ..)
  case h_33 => exact .of_eq (eq_encV h) (encodes_decVAssoc ..)
  case h_34 => exact .of_eq (eq_encV h) (encodes_decVFp ..)
  case h_35 => exact .of_eq (eq_encV h) (encodes_decVCvt ..)
  case h_36 => exact .of_eq (eq_encV h) (encodes_decVRed ..)
  case h_37 => exact .of_eq (eq_encV h) (encodes_decVPerm ..)
  case h_38 => exact .of_eq (eq_encVI h) (.ok rfl rfl) -- VIDX
  case h_39 => exact .of_eq (eq_encVM h) (encodes_decVMem (store := false) ..)
  case h_40 => exact .of_eq (eq_encVM h) (encodes_decVMem (store := true) ..)
  case h_41 => exact .of_eq (eq_encV h) (encodes_decVAmo ..)
  case h_42 => exact .of_eq (eq_encV h) (encodes_decVSync ..)
  case h_43 => exact .of_eq (eq_encV h) (encodes_decVMatrix ..)
  case h_44 => exact .of_eq (eq_encT h) (encodes_decTile ..)
  case h_45 => exact encodes_decHint .h3c h
  case h_46 => exact encodes_decHint .h3d h
  case h_47 => exact encodes_decHint .h3e h
  case h_48 => exact .error

/-! ### The word of an instruction, decoded -/

open Laws in
/-- One lemma for each constructor, in the order of the opcode table. -/
theorem roundTrip (i : Instr) : RoundTrip.Statement i :=
  i.casesOn
    RoundTrip.add RoundTrip.sub RoundTrip.and RoundTrip.or RoundTrip.xor RoundTrip.andn RoundTrip.sll RoundTrip.srl
    RoundTrip.sra RoundTrip.rol RoundTrip.slt RoundTrip.sltu RoundTrip.min RoundTrip.max RoundTrip.minu
    RoundTrip.maxu RoundTrip.clz RoundTrip.ctz RoundTrip.popc RoundTrip.sext RoundTrip.zext RoundTrip.addi
    RoundTrip.andi RoundTrip.ori RoundTrip.xori RoundTrip.slti RoundTrip.sltiu RoundTrip.slli RoundTrip.srli
    RoundTrip.srai RoundTrip.roli RoundTrip.lui RoundTrip.mul RoundTrip.mulh RoundTrip.mulhu RoundTrip.div
    RoundTrip.divu RoundTrip.rem RoundTrip.remu RoundTrip.beq RoundTrip.bne RoundTrip.blt RoundTrip.bge
    RoundTrip.bltu RoundTrip.bgeu RoundTrip.jal RoundTrip.jalr RoundTrip.ld RoundTrip.st RoundTrip.aadd
    RoundTrip.aand RoundTrip.aor RoundTrip.axor RoundTrip.amin RoundTrip.amax RoundTrip.aswap RoundTrip.acas
    RoundTrip.ldfK RoundTrip.ldfT RoundTrip.stf RoundTrip.stfW RoundTrip.sete RoundTrip.probef RoundTrip.fence
    RoundTrip.vsync RoundTrip.cflush RoundTrip.cinv RoundTrip.seal RoundTrip.unseal RoundTrip.csrr RoundTrip.csrw
    RoundTrip.csrs RoundTrip.csrc RoundTrip.trap RoundTrip.tret RoundTrip.brk RoundTrip.wfe RoundTrip.haltc
    RoundTrip.fmtset RoundTrip.ovtset RoundTrip.rndset RoundTrip.send RoundTrip.rserve RoundTrip.next
    RoundTrip.nalloc RoundTrip.nfree RoundTrip.ntake RoundTrip.nlink RoundTrip.npush RoundTrip.nhdr RoundTrip.nseth
    RoundTrip.nfwd RoundTrip.ndone RoundTrip.yield RoundTrip.resume RoundTrip.cpy RoundTrip.cpy2d RoundTrip.cpyw
    RoundTrip.sbinit RoundTrip.sbwait RoundTrip.sbadv RoundTrip.snap RoundTrip.publish RoundTrip.objfree
    RoundTrip.setlen RoundTrip.setvt RoundTrip.lanerel RoundTrip.setvti RoundTrip.vadd RoundTrip.vsub
    RoundTrip.vrsub RoundTrip.vmul RoundTrip.vmulh RoundTrip.vmac RoundTrip.vdiv RoundTrip.vrem RoundTrip.vmin
    RoundTrip.vmax RoundTrip.vsadd RoundTrip.vssub RoundTrip.vavg RoundTrip.vabs RoundTrip.vneg RoundTrip.vpopc
    RoundTrip.vclz RoundTrip.vand RoundTrip.vor RoundTrip.vxor RoundTrip.vnot RoundTrip.vsll RoundTrip.vsrl
    RoundTrip.vsra RoundTrip.vmv RoundTrip.vmerge RoundTrip.vsplat RoundTrip.vcmpeq RoundTrip.vcmpne
    RoundTrip.vcmplt RoundTrip.vcmple RoundTrip.vcmpgt RoundTrip.vcmpge RoundTrip.mand RoundTrip.mor RoundTrip.mxor
    RoundTrip.mnot RoundTrip.mpopc RoundTrip.mfirst RoundTrip.mset RoundTrip.vmatch RoundTrip.vwrite
    RoundTrip.tgmovToMask RoundTrip.tgmovToTag RoundTrip.ttload RoundTrip.vtt RoundTrip.vfadd RoundTrip.vfsub
    RoundTrip.vfmul RoundTrip.vfma RoundTrip.vfnma RoundTrip.vfmin RoundTrip.vfmax RoundTrip.vfdiv RoundTrip.vfsqrt
    RoundTrip.vfrsq RoundTrip.vfexp2 RoundTrip.vflog2 RoundTrip.vfabs RoundTrip.vfneg RoundTrip.vfclass
    RoundTrip.vfcmp RoundTrip.vcvt RoundTrip.vnarrow RoundTrip.vwiden RoundTrip.vbscale RoundTrip.vbquant
    RoundTrip.vbdeq RoundTrip.vredsum RoundTrip.vredsumo RoundTrip.vredmin RoundTrip.vredmax RoundTrip.vredand
    RoundTrip.vredor RoundTrip.vredxor RoundTrip.vscansum RoundTrip.vscanmin RoundTrip.vscanmax RoundTrip.vslideup
    RoundTrip.vslidedn RoundTrip.vgather RoundTrip.vcompress RoundTrip.vexpand RoundTrip.vbcast RoundTrip.vextr
    RoundTrip.vins RoundTrip.vbshuf RoundTrip.vidx RoundTrip.vld RoundTrip.vlds RoundTrip.vldx RoundTrip.vldt
    RoundTrip.vldb RoundTrip.vldsb RoundTrip.vst RoundTrip.vsts RoundTrip.vstx RoundTrip.vstt RoundTrip.vamoadd
    RoundTrip.vamomin RoundTrip.vamomax RoundTrip.vamoand RoundTrip.vamoor RoundTrip.vamoxor RoundTrip.vamoswap
    RoundTrip.vamocas RoundTrip.vwait RoundTrip.vsend RoundTrip.xred RoundTrip.bsload RoundTrip.bsmovToUpper
    RoundTrip.bsmovFromUpper RoundTrip.imma RoundTrip.tmma RoundTrip.tmmao RoundTrip.taccz RoundTrip.taccld
    RoundTrip.taccst RoundTrip.vpf RoundTrip.hint RoundTrip.illegalWordFetch RoundTrip.poolCsrWrite RoundTrip.launch
    RoundTrip.launchDistributionResume RoundTrip.ctxrefresh RoundTrip.yreqWrite RoundTrip.tlbinvAll
    RoundTrip.tlbinvVpn RoundTrip.snapcmd RoundTrip.snapComplete RoundTrip.xredgrpWrite RoundTrip.preemptNotify
    RoundTrip.preemptSave RoundTrip.ctxrun RoundTrip.ctxrunResume RoundTrip.dbgHalt RoundTrip.dbgRun
    RoundTrip.dbgStep RoundTrip.dregdataWrite RoundTrip.qdataWrite RoundTrip.ctxretire RoundTrip.retireFinish
    RoundTrip.devnumWrite RoundTrip.registerWrite RoundTrip.coreTakeUp RoundTrip.steal RoundTrip.give RoundTrip.fwd
    RoundTrip.wake RoundTrip.ifetchFill RoundTrip.muldivResult RoundTrip.readQueueDelivery
    RoundTrip.scalarAccessPerform RoundTrip.vqEntryExecute RoundTrip.vqEntryRetire RoundTrip.vectorFault
    RoundTrip.laneGrant RoundTrip.channelDeposit RoundTrip.redMessage RoundTrip.xredMessage RoundTrip.atomicRequest
    RoundTrip.combineFetchArrival RoundTrip.homeAccess RoundTrip.feRetry RoundTrip.vwaitPoll RoundTrip.vwaitTimeout
    RoundTrip.enginePiece RoundTrip.copyComplete RoundTrip.powerWindow RoundTrip.idleInsertion
    RoundTrip.vxArbitration RoundTrip.sensorFail RoundTrip.thermalThrottle RoundTrip.thermalShutdown
    RoundTrip.railFault RoundTrip.coldReset RoundTrip.perst RoundTrip.resetcmd RoundTrip.selfTest RoundTrip.scrub
    RoundTrip.mgmtCapmaskClear RoundTrip.hostWrite RoundTrip.hostRead RoundTrip.hostAtomic RoundTrip.hostCompletion
    RoundTrip.hostCompletionTimeout RoundTrip.getVersion RoundTrip.getCapabilities RoundTrip.negotiateAlgorithms
    RoundTrip.getDigests RoundTrip.getCertificate RoundTrip.challenge RoundTrip.getMeasurements
    RoundTrip.recoveryImage RoundTrip.peerRequest RoundTrip.peerResponse RoundTrip.peerTimeout RoundTrip.flitCrcFail
    RoundTrip.portDown RoundTrip.portRetrained RoundTrip.allowanceRestore RoundTrip.thermalThrottleExit
    RoundTrip.hostConfigurationRequest RoundTrip.elementGroupArrival

/-- Settles O1, by the lemma for each constructor. -/
theorem decodeEncodeRoundTrip : Obligations.DecodeEncodeRoundTrip := by
  unfold Obligations.DecodeEncodeRoundTrip
  exact fun i w hf he => roundTrip i w hf he

/-- Settles O2: what the decoder answers for a word encodes to it, decoder by decoder. -/
theorem acceptedWordIsItsEncoding : Obligations.AcceptedWordIsItsEncoding := by
  unfold Obligations.AcceptedWordIsItsEncoding
  intro w i h
  have hw := encodes_decode w
  rwa [h] at hw

end Sys2Proof
end

section
/-! Words that are no instruction and hints: the traps of R133 and R163 and the one effect of a hint, that the pc moves on
(R134), with O4, O6 and O32. -/

namespace Sys2Proof.Machine

/-! ### The strand that issues (R165) -/

theorem State.issued_me (s : State) (p : CoreId) (t : StrandId) :
    (s.issued p t).me = { s.strand p t with wait := none, cameFrom := (s.strand p t).pc, issuedWord := none } := by
  have : ((s.at p t).setCore p { s.core p with lastIssued := t }).me = s.strand p t := by
    simp [State.me, State.strand]
  simp only [State.issued, State.me_setMe, this]

theorem State.issued_pc (s : State) (p : CoreId) (t : StrandId) : (s.issued p t).me.pc = (s.strand p t).pc := by
  rw [State.issued_me]

theorem State.issued_tact (s : State) (p : CoreId) (t : StrandId) : (s.issued p t).me.tact = (s.strand p t).tact := by
  rw [State.issued_me]

/-! ### Words that are no instruction (R133) and lines with an error (R163) -/

theorem exec_illegalWordFetch_atHand {s : State} {w : IWord} {x : DecodeError} (hx : decode w = .error x)
    (hw : s.atHand = some w) :
    exec (.illegalWordFetch w) s = .next ((s.issued s.cur s.str).trap .illegal (w.zeroExtend 64)) := by
  simp only [exec, execIllegalWordFetch, hx, hw, if_true]

theorem exec_illegalWordFetch_notAtHand {s : State} {w : IWord} {x : DecodeError} (hx : decode w = .error x)
    (hw : s.atHand ≠ some w) : exec (.illegalWordFetch w) s = .next s := by
  simp only [exec, execIllegalWordFetch, hx, if_neg hw]

/-- Whatever word is at hand, one that is no instruction does not keep its strand from issuing. -/
theorem State.blocked_of_error {s : State} {p : CoreId} {t : StrandId} {w : IWord} {x : DecodeError}
    (hx : decode w = .error x) : s.blocked p t (some w) = false := by
  simp only [State.blocked, hx]

section issue
variable {s : State} {p : CoreId} {t : StrandId} (hs : s.saving p = false) (hb : s.boundary p t = none)
  (hw : s.awake p t = true) (hc : s.inCode p (s.strand p t).pc = true) (hd : (s.strand p t).dbgStep = false)
include hs hb hw hc hd

/-- With nothing to take at its boundary a ready strand issues the word at hand, unless that word keeps it waiting. -/
theorem State.issue_word {y : Option IWord} (hn : s.nextWord p t = some y) (hk : s.blocked p t y = false) :
    s.issue p t = s.issueWord p t y := by
  simp [State.issue, hs, hb, hw, hc, hd, hn, hk]

theorem State.issue_illegal (ht : (s.strand p t).tact = false) {w : IWord} {x : DecodeError}
    (hn : s.nextWord p t = some (some w)) (hx : decode w = .error x) :
    ∃ a, s.issue p t = .next a ∧ (s.issued p t).tookTrap false 1 (w.zeroExtend 64) (s.strand p t).pc a := by
  refine ⟨(s.issued p t).trap .illegal (w.zeroExtend 64), ?_, ?_⟩
  · rw [State.issue_word hs hb hw hc hd hn (State.blocked_of_error hx)]
    simp only [State.issueWord, hx]
  · rw [← s.issued_pc p t]
    exact State.trap_took _ .illegal _ nofun ((s.issued_tact p t).trans ht)

/-- A line whose fill met an error leaves the fetch buffer as its trap is taken. -/
theorem State.issue_lineError (ht : (s.strand p t).tact = false) (hn : s.nextWord p t = some none) :
    ∃ a, s.issue p t = .next a ∧ ((s.issued p t).setMe { (s.issued p t).me with fetchBuf := none }).tookTrap false 11
      (s.strand p t).pc (s.strand p t).pc a := by
  refine ⟨_, State.issue_word hs hb hw hc hd hn rfl, ?_⟩
  have took := State.trap_took ((s.issued p t).setMe { (s.issued p t).me with fetchBuf := none }) .memUncorrectable
    (s.issued p t).me.pc nofun (by rw [State.me_setMe]; exact (s.issued_tact p t).trans ht)
  rw [State.me_setMe, s.issued_pc p t] at took
  rw [s.issued_pc p t]
  exact took

end issue

/-- Settles O4: the word at hand traps at the strand that issues, whose pc and TACT are those it had. -/
theorem illegalWordTakesItsTrap : Obligations.IllegalWordTakesItsTrap := by
  unfold Obligations.IllegalWordTakesItsTrap
  intro s w x hx
  refine ⟨fun hw htact => ⟨_, exec_illegalWordFetch_atHand hx hw, ?_⟩,
    fun hw => ⟨_, exec_illegalWordFetch_notAtHand hx hw, rfl⟩⟩
  have took := State.trap_took (s.issued s.cur s.str) .illegal (w.zeroExtend 64) nofun ((s.issued_tact ..).trans htact)
  rwa [s.issued_pc] at took

/-- Settles O6: the step lets the strand issue, which traps on the word at hand or on the marked line. -/
theorem stepTrapsOnAnIllegalWord : Obligations.StepTrapsOnAnIllegalWord := by
  unfold Obligations.StepTrapsOnAnIllegalWord
  intro s p t rest x w s1 pc ha ht hb hw hc hd htact
  have hs := State.saving_of_turn ht
  have hstep : step s = s1.issue p t := step_issue_of_turn ha ht
  rw [hstep]
  exact ⟨fun hn hx => State.issue_illegal hs hb hw hc hd htact hn hx,
    fun hn => State.issue_lineError hs hb hw hc hd htact hn⟩

/-! ### Hints (R134) -/

/-- The word of a hint opcode is VPF or HINT. -/
theorem decHint_cases (m : HintMajor) (imm : BitVec 26) :
    (∃ a, decHint m imm = .vpf a) ∨ decHint m imm = .hint m imm := by
  unfold decHint
  split
  · exact .inl ⟨_, rfl⟩
  · exact .inr rfl

theorem decode_hintSpace {w : IWord} (hlo : 0x3c ≤ (w.extractLsb' 26 6).toNat)
    (hhi : (w.extractLsb' 26 6).toNat ≤ 0x3e) :
    ∃ m, decode w = .ok (decHint m (w.extractLsb' 0 26)) := by
  obtain h | h | h : (w.extractLsb' 26 6).toNat = 0x3c ∨ (w.extractLsb' 26 6).toNat = 0x3d ∨
      (w.extractLsb' 26 6).toNat = 0x3e := by omega
  · exact ⟨_, Laws.major3c (BitVec.toNat_eq_nat.mp h).2⟩
  · exact ⟨_, Laws.major3d (BitVec.toNat_eq_nat.mp h).2⟩
  · exact ⟨_, Laws.major3e (BitVec.toNat_eq_nat.mp h).2⟩

/-- Settles O32: VPF and HINT go on and do nothing else, and every word of hint space is one of them. -/
theorem hintWordsChangeNothing : Obligations.HintWordsChangeNothing := by
  unfold Obligations.HintWordsChangeNothing
  refine ⟨fun s a => ⟨_, rfl, s.advance_eq⟩, fun s m imm => ⟨_, rfl, s.advance_eq⟩, fun w hlo hhi => ?_⟩
  obtain ⟨m, hw⟩ := decode_hintSpace hlo hhi
  rw [hw]
  obtain ⟨a, ha⟩ | hm := decHint_cases m (w.extractLsb' 0 26)
  · exact .inl ⟨a, congrArg _ ha⟩
  · exact .inr ⟨m, _, congrArg _ hm⟩

end Sys2Proof.Machine
end

section
/-! The commit of a vector or tile instruction (R130, R166): every instruction of major opcodes 0x21 to 0x2f commits, what
each failed check raises, and the entry and the issue order that a commit leaves, with O30. -/

namespace Sys2Proof.Machine

/-! ### The instructions of major opcodes 0x21 to 0x2f (R111) -/

/-- The word of another major opcode is not that of a vector or tile instruction. -/
theorem not_queued {w w' : IWord} {op : BitVec 6} (he : some w' = some w) (hop : w'.extractLsb' 26 6 = op)
    (hnot : op.toNat < 0x21 ∨ 0x2f < op.toNat) (hlo : 0x21 ≤ (w.extractLsb' 26 6).toNat)
    (hhi : (w.extractLsb' 26 6).toNat ≤ 0x2f) : False := by
  obtain rfl := Option.some.inj he
  rw [hop] at hlo hhi
  omega

theorem append_op (op : BitVec 6) (imm : BitVec 26) : (op ++ imm : IWord).extractLsb' 26 6 = op :=
  BitVec.extractLsb'_append_eq_left

theorem setvti_op (imm : BitVec 16) : (0x20#6 ++ 0#5 ++ imm ++ 3#5 : IWord).extractLsb' 26 6 = 0x20 := by
  simp (disch := omega) only [BitVec.extractLsb'_append_eq_of_le, Nat.reduceSub, BitVec.extractLsb'_eq_self]
  rfl

theorem exec_eq_commit {i : Instr} {w : IWord} (he : encode i = some w) (hlo : 0x21 ≤ (w.extractLsb' 26 6).toNat)
    (hhi : (w.extractLsb' 26 6).toNat ≤ 0x2f) (s : State) : exec i s = .next (s.commit i) := by
  cases i with
  | vadd | vsub | vrsub | vmul | vmulh | vmac | vdiv | vrem | vmin | vmax | vsadd | vssub | vavg | vabs | vneg
  | vpopc | vclz | vand | vor | vxor | vnot | vsll | vsrl | vsra | vmv | vmerge | vsplat | vcmpeq | vcmpne
  | vcmplt | vcmple | vcmpgt | vcmpge | mand | mor | mxor | mnot | mpopc | mfirst | mset | vmatch | vwrite
  | tgmovToMask | tgmovToTag | ttload | vtt | vfadd | vfsub | vfmul | vfma | vfnma | vfmin | vfmax | vfdiv
  | vfsqrt | vfrsq | vfexp2 | vflog2 | vfabs | vfneg | vfclass | vfcmp | vcvt | vnarrow | vwiden | vbscale
  | vbquant | vbdeq | vredsum | vredsumo | vredmin | vredmax | vredand | vredor | vredxor | vscansum | vscanmin
  | vscanmax | vslideup | vslidedn | vgather | vcompress | vexpand | vbcast | vextr | vins | vbshuf | vidx
  | vld | vlds | vldx | vldt | vldb | vldsb | vst | vsts | vstx | vstt | vamoadd | vamomin | vamomax | vamoand
  | vamoor | vamoxor | vamoswap | vamocas | vwait | vsend | xred | bsload | bsmovToUpper | bsmovFromUpper
  | imma | tmma | tmmao | taccz | taccld | taccst => rfl
  | addi | andi | ori | xori | slti | sltiu | slli | srli | srai | roli | lui | beq | bne | blt | bge | bltu
  | bgeu | jalr | csrr | csrw | csrs | csrc =>
    exact (not_queued he (Laws.encI_op ..) (by decide) hlo hhi).elim
  | ld | st | ldfK | ldfT | stf | stfW | sete | probef =>
    exact (not_queued he (Laws.encM_op ..) (by decide) hlo hhi).elim
  | jal =>
    exact (not_queued he (Laws.encJ_op ..) (by decide) hlo hhi).elim
  | vpf =>
    exact (not_queued he (Laws.encVM_op ..) (by decide) hlo hhi).elim
  | setvti =>
    exact (not_queued he (setvti_op _) (by decide) hlo hhi).elim
  | hint m imm =>
    exact (not_queued he (append_op ..) (by cases m <;> decide) hlo hhi).elim
  | illegalWordFetch | poolCsrWrite | launch | launchDistributionResume | ctxrefresh | yreqWrite | tlbinvAll
  | tlbinvVpn | snapcmd | snapComplete | xredgrpWrite | preemptNotify | preemptSave | ctxrun | ctxrunResume
  | dbgHalt | dbgRun | dbgStep | dregdataWrite | qdataWrite | ctxretire | retireFinish | devnumWrite
  | registerWrite | coreTakeUp | steal | give | fwd | wake | ifetchFill | muldivResult | readQueueDelivery
  | scalarAccessPerform | vqEntryExecute | vqEntryRetire | vectorFault | laneGrant | channelDeposit | redMessage
  | xredMessage | atomicRequest | combineFetchArrival | homeAccess | feRetry | vwaitPoll | vwaitTimeout
  | enginePiece | copyComplete | powerWindow | idleInsertion | vxArbitration | sensorFail | thermalThrottle
  | thermalShutdown | railFault | coldReset | perst | resetcmd | selfTest | scrub | mgmtCapmaskClear | hostWrite
  | hostRead | hostAtomic | hostCompletion | hostCompletionTimeout | getVersion | getCapabilities
  | negotiateAlgorithms | getDigests | getCertificate | challenge | getMeasurements | recoveryImage | peerRequest
  | peerResponse | peerTimeout | flitCrcFail | portDown | portRetrained | allowanceRestore | thermalThrottleExit
  | hostConfigurationRequest | elementGroupArrival => cases he
  | _ => -- the scalar instructions of format R
    exact (not_queued he (Laws.encR_op ..) (by decide) hlo hhi).elim

/-! ### The lowest class that a mask lacks (R82) -/

theorem lowestLacking_eq_min? (l : List Nat) (m : BitVec 128) :
    lowestLacking l m = (l.filter fun k => !m.getLsbD k).min? := by
  have least (xs : List Nat) (x : Nat) : xs.foldl (fun (b : Option Nat) k =>
      match b with | none => some k | some y => some (min y k)) (some x) = some (xs.foldl min x) := by
    induction xs generalizing x with
    | nil => rfl
    | cons y ys ih => exact ih (min x y)
  unfold lowestLacking
  cases l.filter fun k => !m.getLsbD k with
  | nil => rfl
  | cons x xs => exact least xs x

theorem lowestLacking_eq_none {l : List Nat} {m : BitVec 128} (h : ∀ j ∈ l, m.getLsbD j = true) :
    lowestLacking l m = none := by
  rw [lowestLacking_eq_min?, List.min?_eq_none_iff, List.filter_eq_nil_iff]
  exact fun j hj => by rw [h j hj]; decide

theorem lowestLacking_eq_some {l : List Nat} {m : BitVec 128} {k : Nat} (hk : k ∈ l) (hm : m.getLsbD k = false)
    (h : ∀ j ∈ l, j < k → m.getLsbD j = true) : lowestLacking l m = some k := by
  rw [lowestLacking_eq_min?, List.min?_eq_some_iff]
  refine ⟨List.mem_filter.mpr ⟨hk, by rw [hm]; rfl⟩, fun j hj => ?_⟩
  obtain ⟨hjl, hjm⟩ := List.mem_filter.mp hj
  by_contra hlt
  rw [h j hjl (Nat.lt_of_not_le hlt)] at hjm
  cases hjm

/-! ### The checks of a commit, in their order (R130, R131, R82, R357) -/

/-- The entry that the commit of an instruction makes. -/
def State.committed (s : State) (i : Instr) : QEntry :=
  s.entryOf i (chansRead s.me.chanmap (vspec i (s.vcfg i)).reads)

section checks
variable {s : State} {i : Instr} (hroom : s.me.hasRoom (s.committed i).dest = true)
include hroom

theorem State.commit_bad (hb : (vspec i (s.vcfg i)).bad = true) :
    s.commit i = s.trap .illegalType (flagAt true 63 ||| s.me.vtype.zeroExtend 64) := by
  rw [State.committed] at hroom
  simp only [State.commit, hroom, hb, Bool.not_true, Bool.false_eq_true, if_false, if_true]
  rfl

variable (hb : (vspec i (s.vcfg i)).bad = false)
include hb

theorem State.commit_outsideMask {k : Nat}
    (hk : lowestLacking (vspec i (s.vcfg i)).classes (s.maskAt s.me.pc) = some k) :
    s.commit i = s.trap .illegalType (word k) := by
  rw [State.committed] at hroom
  simp only [State.commit, hroom, hb, hk, Bool.not_true, Bool.false_eq_true, if_false]

variable (hm : lowestLacking (vspec i (s.vcfg i)).classes (s.maskAt s.me.pc) = none)
include hm

theorem State.commit_lacking {k : Nat} (hk : lowestLacking (vspec i (s.vcfg i)).classes s.mine.capmask = some k) :
    s.commit i = s.trap .capability (word k) := by
  rw [State.committed] at hroom
  simp only [State.commit, hroom, hb, hm, hk, Bool.not_true, Bool.false_eq_true, if_false]

variable (hc : lowestLacking (vspec i (s.vcfg i)).classes s.mine.capmask = none)
include hc

theorem State.commit_bound
    (hw : ((chanRows s.me.chanmap).any fun x => meets x.2 (vspec i (s.vcfg i)).writes) = true) :
    s.commit i = s.trap .channelWrite (word (s.committed i).word.toNat) := by
  rw [State.committed] at hroom
  simp only [State.commit, hroom, hb, hm, hc, hw, Bool.not_true, Bool.false_eq_true, if_false, if_true]
  rfl

theorem State.commit_enters
    (hw : ((chanRows s.me.chanmap).any fun x => meets x.2 (vspec i (s.vcfg i)).writes) = false) :
    s.commit i = ((s.setMe { s.me.enqueue (s.committed i) with vstart := 0 }).advance).chainOrder i (s.committed i) := by
  rw [State.committed] at hroom
  simp only [State.commit, hroom, hb, hm, hc, hw, Bool.not_true, Bool.false_eq_true, if_false]
  rfl

end checks

/-! ### The entry of a commit (R166, R168) -/

/-- The read-queue slots that a destination takes: x0 takes none (R168). -/
def slotsOf : Option (BitVec 5) → List ReadSlot
  | some r => if r = 0 then [] else [⟨r, none, false⟩]
  | none => []

theorem State.committed_word {s : State} {i : Instr} {w : IWord} (he : encode i = some w) :
    (s.committed i).word = w := by
  simp only [State.committed, State.entryOf, he, Option.getD_some]

theorem QEntry.dest_of_decode {e : QEntry} {i : Instr} (h : decode e.word = .ok i) :
    e.dest = (queuedDest i).bind fun r => if r = 0 then none else some r := by
  simp only [QEntry.dest, QEntry.instr, h]
  cases queuedDest i <;> rfl

theorem Strand.enqueue_eq {st : Strand} {e : QEntry} {i : Instr} (h : decode e.word = .ok i) :
    st.enqueue e = { st with queue := st.queue ++ [e], readq := st.readq ++ slotsOf (queuedDest i) } := by
  rw [Strand.enqueue, QEntry.dest_of_decode h]
  cases queuedDest i with
  | none => simp only [slotsOf, Option.bind_none, List.append_nil]
  | some r =>
    by_cases h0 : r = 0
    · simp only [slotsOf, Option.bind_some, if_pos h0, List.append_nil]
    · simp only [slotsOf, Option.bind_some, if_neg h0]

theorem Strand.hasRoom_of_lt {st : Strand} (d : Option (BitVec 5)) (hq : st.queue.length < 32)
    (hr : (st.readq.filter fun (r : ReadSlot) => !r.dropped).length < 8) : st.hasRoom d = true := by
  simp [Strand.hasRoom, hq, hr]

theorem State.committed_x1 {s : State} {i : Instr} {r : BitVec 5} {l : List (BitVec 5)} (h : xSources i = r :: l) :
    (s.committed i).x1 = s.reg r := by
  simp only [State.committed, State.entryOf, State.vcfg, h]

theorem State.committed_x2 {s : State} {i : Instr} {r q : BitVec 5} {l : List (BitVec 5)}
    (h : xSources i = r :: q :: l) :
    (s.committed i).x2 = s.reg q := by
  simp only [State.committed, State.entryOf, State.vcfg, h]

/-! ### The issue order of a chain (R361) -/

theorem fin16_field (x : Word) : fin16 (field x 3 0) = fin16 x.toNat := by
  simp [fin16, field]

theorem field_63_4_eq_zero_iff (x : Word) : field x 63 4 = 0 ↔ x.toNat < 16 := by
  have := x.isLt
  simp only [field, Nat.shiftRight_eq_div_pow]
  omega

/-- A commit changes the issue order of a chain alone. -/
theorem State.chainOrder_rest (s : State) (i : Instr) (e : QEntry) :
    s.chainOrder i e = { s with chains := (s.chainOrder i e).chains } := by
  unfold State.chainOrder
  split
  · dsimp only
    split <;> rfl
  · rfl

theorem State.chainOrder_setMe (s : State) (st : Strand) (i : Instr) (e : QEntry) :
    (s.setMe st).chainOrder i e = (s.chainOrder i e).setMe st := by
  unfold State.chainOrder
  split
  · dsimp only [State.setMe_chains]
    split <;> rfl
  · rfl

theorem State.chainOrder_xred_chains (s : State) {e : QEntry} {op : XOp} {vd r : BitVec 5} {m : BitVec 3} {x : Word}
    (hx : e.x1 = x) (h : x.toNat < 16) : (s.chainOrder (.xred op vd r m) e).chains = s.chains.set (fin16 x.toNat)
      { s.chains[fin16 x.toNat] with issued := s.chains[fin16 x.toNat].issued + 1 } := by
  subst hx
  have h0 := (field_63_4_eq_zero_iff e.x1).mpr h
  simp only [State.chainOrder, h0, ne_eq, not_true_eq_false, if_false, fin16_field]

theorem State.chainOrder_chains {s : State} {i : Instr} {e : QEntry}
    (h : ∀ op vd r m, i = .xred op vd r m → 16 ≤ e.x1.toNat) :
    (s.chainOrder i e).chains = s.chains := by
  unfold State.chainOrder
  split
  · next op vd r m =>
    have h0 : field e.x1 63 4 ≠ 0 := mt (field_63_4_eq_zero_iff e.x1).mp (Nat.not_lt.mpr (h _ _ _ _ rfl))
    rw [if_pos h0]
  · rfl

theorem State.committed_ticket (s : State) {op : XOp} {vd r : BitVec 5} {m : BitVec 3} :
    (s.committed (.xred op vd r m)).ticket = s.chains[fin16 (s.reg r).toNat].issued := by
  simp only [← fin16_field]
  rfl

/-- What a commit leaves: the entry at the tail of the queue, its slot, VSTART 0, the pc past the
instruction, and the chains. -/
theorem State.entered_eq {s : State} {i : Instr} {e : QEntry} (hd : decode e.word = .ok i) :
    ((s.setMe { s.me.enqueue e with vstart := 0 }).advance).chainOrder i e =
      { s with chains := (s.chainOrder i e).chains }.setMe { s.me with
        queue := s.me.queue ++ [e], readq := s.me.readq ++ slotsOf (queuedDest i), vstart := 0, pc := s.me.pc + 4 } := by
  rw [State.advance_eq, State.setMe_setMe, State.me_setMe, State.chainOrder_setMe, Strand.enqueue_eq hd,
    ← State.chainOrder_rest]

/-! ### The obligation -/

/-- Settles O30: the instruction commits, and each clause is one outcome of the commit's checks in their order. -/
theorem vectorInstructionsCommit : Obligations.VectorInstructionsCommit := by
  unfold Obligations.VectorInstructionsCommit
  intro s i w v dest traps bound hwf he hlo hhi hq hr
  have hx := exec_eq_commit he hlo hhi s
  have hroom := Strand.hasRoom_of_lt (s.committed i).dest hq hr
  have hword := State.committed_word (s := s) he
  have trapped {c : Cause} {tval : Word} (h : s.commit i = s.trap c tval) (hc : c ≠ .await) : traps c.num tval :=
    fun htact => ⟨_, hx.trans (congrArg _ h), s.trap_took c tval hc htact⟩
  refine ⟨fun hb => trapped (State.commit_bad hroom hb) nofun, fun hb k hk hl hlow => ?_,
    fun hb hm k hk hl hlow => ?_, fun hb hall => ?_⟩
  · exact trapped (State.commit_outsideMask hroom hb (lowestLacking_eq_some hk hl hlow)) nofun
  · exact trapped
      (State.commit_lacking hroom hb (lowestLacking_eq_none hm) (lowestLacking_eq_some hk hl hlow)) nofun
  have hm := lowestLacking_eq_none fun j hj => (hall j hj).1
  have hc := lowestLacking_eq_none fun j hj => (hall j hj).2
  refine ⟨fun hbound => ?_, fun hbound => ?_⟩
  · have h := State.commit_bound hroom hb hm hc hbound
    rw [hword, word, BitVec.ofNat_toNat] at h
    exact trapped h nofun
  · have hd : decode (s.committed i).word = .ok i := hword ▸ roundTrip i w hwf he
    have h := (State.commit_enters hroom hb hm hc hbound).trans (State.entered_eq hd)
    refine ⟨_, hx.trans (congrArg _ h), s.committed i, rfl, ?_, ?_, hword, rfl, rfl, rfl, rfl, rfl, rfl, rfl, rfl, rfl,
      rfl, rfl, rfl, fun r l hl => State.committed_x1 hl, fun r q l hl => State.committed_x2 hl⟩
    · rintro op vd r m rfl hlt
      exact ⟨State.chainOrder_xred_chains s (State.committed_x1 rfl) hlt, s.committed_ticket⟩
    · intro hge
      refine State.chainOrder_chains ?_
      rintro op vd r m rfl
      rw [State.committed_x1 rfl]
      exact hge _ _ _ _ rfl

end Sys2Proof.Machine
end

section
/-! Integer register and immediate instructions, multiply and divide (R142 to R145): the operations on words as the spec
states them on numbers, and with them O8, O9, O10 and O11. -/

namespace Sys2Proof.Machine

/-! ### Operations on words, as operations on numbers -/

theorem ofNat_toNat_word (a : Word) : BitVec.ofNat 64 a.toNat = a := by rw [BitVec.ofNat_toNat, BitVec.setWidth_eq]

theorem add_eq_ofNat (a b : Word) : a + b = BitVec.ofNat 64 (a.toNat + b.toNat) := by
  rw [BitVec.ofNat_add, ofNat_toNat_word, ofNat_toNat_word]

theorem sub_eq_ofInt (a b : Word) : a - b = BitVec.ofInt 64 ((a.toNat : Int) - b.toNat) := by
  rw [Int.sub_eq_add_neg, BitVec.ofInt_add, BitVec.ofInt_neg, BitVec.ofInt_natCast, BitVec.ofInt_natCast,
    ofNat_toNat_word, ofNat_toNat_word, BitVec.sub_eq_add_neg]

theorem shiftLeft_eq_ofNat (a : Word) (k : Nat) : a <<< k = BitVec.ofNat 64 (a.toNat * 2 ^ k) :=
  BitVec.eq_of_toNat_eq (by rw [BitVec.toNat_shiftLeft, BitVec.toNat_ofNat, Nat.shiftLeft_eq])

theorem ushiftRight_eq_ofNat (a : Word) (k : Nat) : a >>> k = BitVec.ofNat 64 (a.toNat / 2 ^ k) := by
  refine BitVec.eq_of_toNat_eq ?_
  rw [BitVec.toNat_ushiftRight, BitVec.toNat_ofNat, Nat.shiftRight_eq_div_pow,
    Nat.mod_eq_of_lt (Nat.lt_of_le_of_lt (Nat.div_le_self ..) a.isLt)]

theorem sshiftRight_eq_ofInt (a : Word) (k : Nat) : a.sshiftRight k = BitVec.ofInt 64 (a.toInt / (2 ^ k : Nat)) :=
  congrArg _ (Int.shiftRight_eq_div_pow ..)

theorem rotateLeft_eq_or {k : Nat} (a : Word) (h : k < 64) : a.rotateLeft k = a <<< k ||| a >>> (64 - k) := by
  rw [BitVec.rotateLeft_def, Nat.mod_eq_of_lt h]

theorem shamt_lt (b : Word) : shamt b < 64 := Nat.mod_lt _ (by decide)

theorem flag_slt (a b : Word) : flag (a.slt b) = if a.toInt < b.toInt then 1 else 0 := by
  simp only [flag, BitVec.slt, decide_eq_true_eq]

theorem flag_ult (a b : Word) : flag (a.ult b) = if a.toNat < b.toNat then 1 else 0 := by
  simp only [flag, BitVec.ult, decide_eq_true_eq]

/-- The lesser of two values of an order in which words are compared, as the word that has it. -/
theorem ite_lt_eq_min {α : Type} [LinearOrder α] {f : Word → α} {g : α → Word} (hg : ∀ x, g (f x) = x) (a b : Word) :
    (if f a < f b then a else b) = g (min (f a) (f b)) := by
  split
  · next h => rw [min_eq_left h.le, hg]
  · next h => rw [min_eq_right (not_lt.mp h), hg]

theorem ite_lt_eq_max {α : Type} [LinearOrder α] {f : Word → α} {g : α → Word} (hg : ∀ x, g (f x) = x) (a b : Word) :
    (if f a < f b then b else a) = g (max (f a) (f b)) := by
  split
  · next h => rw [max_eq_right h.le, hg]
  · next h => rw [max_eq_left (not_lt.mp h), hg]

theorem ite_slt (a b x y : Word) : (if a.slt b then x else y) = if a.toInt < b.toInt then x else y := by
  simp only [BitVec.slt, decide_eq_true_eq]

theorem ite_ult (a b x y : Word) : (if a.ult b then x else y) = if a.toNat < b.toNat then x else y := by
  simp only [BitVec.ult, decide_eq_true_eq]

/-! ### Two-operand register instructions (R143) -/

/-- An instruction that finishes with a value has written it. -/
theorem completes_of_finish {i : Instr} {s : State} {r : BitVec 5} {v w : Word} (hx : exec i s = .next (s.finish r v))
    (hv : v = w) : completes i s (s.wrote r w) := ⟨_, hx, hv ▸ s.finish_wrote r v⟩

/-- Settles O8: each instruction finishes with the value of its operation, which is the stated one. -/
theorem aluRegisterResults : Obligations.AluRegisterResults := by
  unfold Obligations.AluRegisterResults
  intro s rd r1 r2 a b k
  exact ⟨completes_of_finish rfl (add_eq_ofNat a b), completes_of_finish rfl (sub_eq_ofInt a b),
    completes_of_finish rfl rfl, completes_of_finish rfl rfl, completes_of_finish rfl rfl, completes_of_finish rfl rfl,
    completes_of_finish rfl (shiftLeft_eq_ofNat a k), completes_of_finish rfl (ushiftRight_eq_ofNat a k),
    completes_of_finish rfl (sshiftRight_eq_ofInt a k), completes_of_finish rfl (rotateLeft_eq_or a (shamt_lt b)),
    completes_of_finish rfl (flag_slt a b), completes_of_finish rfl (flag_ult a b),
    completes_of_finish rfl ((ite_slt a b a b).trans (ite_lt_eq_min (fun _ => BitVec.ofInt_toInt) a b)),
    completes_of_finish rfl ((ite_slt a b b a).trans (ite_lt_eq_max (fun _ => BitVec.ofInt_toInt) a b)),
    completes_of_finish rfl ((ite_ult a b a b).trans (ite_lt_eq_min ofNat_toNat_word a b)),
    completes_of_finish rfl ((ite_ult a b b a).trans (ite_lt_eq_max ofNat_toNat_word a b))⟩

/-! ### Counts and extensions (R143) -/

/-- The number of zero bits above the highest 1 bit places the value between two powers of 2. -/
theorem clzNat_spec {v : Nat} (hv : v < 2 ^ 64) :
    clzNat 64 v ≤ 64 ∧ v < 2 ^ (64 - clzNat 64 v) ∧ (clzNat 64 v < 64 → 2 ^ (63 - clzNat 64 v) ≤ v) := by
  simp only [clzNat, Nat.mod_eq_of_lt hv]
  split
  · next h0 => exact ⟨le_rfl, by omega, fun h => absurd h (lt_irrefl _)⟩
  · next h0 =>
    have hlog : Nat.log2 v < 64 := (Nat.log2_lt h0).mpr hv
    have hup : 64 - (64 - 1 - Nat.log2 v) = Nat.log2 v + 1 := by omega
    have hlow : 63 - (64 - 1 - Nat.log2 v) = Nat.log2 v := by omega
    rw [hup, hlow]
    exact ⟨by omega, Nat.lt_log2_self, fun _ => Nat.log2_self_le h0⟩

/-- The scan from place k finds the first 1 bit of the n places from there, or their end. -/
theorem ctzFrom_spec (v : Nat) : ∀ n k, k ≤ ctzFrom v n k ∧ ctzFrom v n k ≤ k + n ∧
    (∀ j, k ≤ j → j < ctzFrom v n k → v.testBit j = false) ∧ (ctzFrom v n k < k + n → v.testBit (ctzFrom v n k) = true) := by
  intro n
  induction n with
  | zero => exact fun k => ⟨le_rfl, le_rfl, fun j h1 h2 => absurd h1 (not_le.mpr h2), fun h => absurd h (lt_irrefl _)⟩
  | succ n ih =>
    intro k
    unfold ctzFrom
    split
    · next hk => exact ⟨le_rfl, by omega, fun j h1 h2 => absurd h1 (not_le.mpr h2), fun _ => hk⟩
    · next hk =>
      obtain ⟨hlow, hhigh, hzero, hone⟩ := ih (k + 1)
      refine ⟨by omega, by omega, fun j h1 h2 => ?_, fun h => hone (by omega)⟩
      obtain rfl | hlt := Nat.eq_or_lt_of_le h1
      · exact Bool.eq_false_iff.mpr hk
      · exact hzero j hlt h2

theorem popNat_eq_countP (v n : Nat) : popNat v n = (List.range n).countP fun k => v.testBit k := by
  induction n with
  | zero => rfl
  | succ n ih => rw [popNat, ih, List.range_succ, List.countP_append, List.countP_singleton]

theorem wordInt_eq_ofInt (v : Int) : wordInt v = BitVec.ofInt 64 v := by
  refine BitVec.eq_of_toNat_eq ?_
  rw [BitVec.toNat_ofInt, wordInt, word, BitVec.toNat_ofNat, wrap]
  have := Int.emod_lt_of_pos v (show (0 : Int) < ((2 ^ 64 : Nat) : Int) by decide)
  omega

/-- The signed value of the low w bits of a word, as that of the bits taken by themselves. -/
theorem signed_toNat_eq_toInt (a : Word) {w : Nat} (hw : 0 < w) : signed w a.toNat = (a.extractLsb' 0 w).toInt := by
  have hpow : 2 ^ w = 2 * 2 ^ (w - 1) := by rw [← Nat.pow_succ', Nat.succ_eq_add_one, Nat.sub_add_cancel hw]
  simp only [signed, BitVec.toInt, BitVec.extractLsb'_toNat, Nat.shiftRight_zero]
  split <;> split <;> omega

theorem sextTo64_eq_signExtend (a : Word) {w : Nat} (hw : 0 < w) :
    sextTo64 w a.toNat = (a.extractLsb' 0 w).signExtend 64 := by
  rw [sextTo64, signed_toNat_eq_toInt a hw, wordInt_eq_ofInt, BitVec.signExtend]

theorem word_mod_eq_zeroExtend (a : Word) (w : Nat) : word (a.toNat % 2 ^ w) = (a.extractLsb' 0 w).zeroExtend 64 := by
  refine BitVec.eq_of_toNat_eq ?_
  rw [BitVec.toNat_setWidth, BitVec.extractLsb'_toNat, Nat.shiftRight_zero, word, BitVec.toNat_ofNat]

theorem Size.width_of_mem {z : Size} {w : Nat} (h : (z, w) ∈ [(Size.b, 8), (Size.h, 16), (Size.w, 32)]) :
    Size.width z = w ∧ 0 < w := by
  revert h
  simp only [List.mem_cons, Prod.mk.injEq, List.not_mem_nil, or_false]
  rintro (⟨rfl, rfl⟩ | ⟨rfl, rfl⟩ | ⟨rfl, rfl⟩) <;> decide

/-- Settles O9: the counts meet their specifications, and the extensions are those of the low bits. -/
theorem aluBitResults : Obligations.AluBitResults := by
  unfold Obligations.AluBitResults
  intro s rd r1 a
  obtain ⟨-, hend, hzero, hone⟩ := ctzFrom_spec a.toNat 64 0
  rw [Nat.zero_add] at hend hone
  refine ⟨⟨clzNat 64 a.toNat, completes_of_finish rfl rfl, clzNat_spec a.isLt⟩,
    ⟨ctzFrom a.toNat 64 0, completes_of_finish rfl rfl, hend, fun k hk => hzero k k.zero_le hk, hone⟩,
    completes_of_finish rfl (congrArg word (popNat_eq_countP a.toNat 64)), fun z w hz => ?_⟩
  obtain ⟨rfl, hpos⟩ := Size.width_of_mem hz
  exact ⟨completes_of_finish rfl (sextTo64_eq_signExtend a hpos), completes_of_finish rfl (word_mod_eq_zeroExtend a _)⟩

/-! ### Immediates (R113, R144) -/

theorem simm_toInt (i : BitVec 16) : (simm i).toInt = i.toInt := BitVec.toInt_signExtend_of_le (by decide)

theorem zimm_toNat (i : BitVec 16) : (zimm i).toNat = i.toNat := BitVec.toNat_setWidth_of_le (by decide)

theorem add_simm (a : Word) (i : BitVec 16) : a + simm i = BitVec.ofInt 64 (a.toInt + i.toInt) := by
  rw [BitVec.ofInt_add, BitVec.ofInt_toInt]
  rfl

theorem and_zimm (a : Word) (i : BitVec 16) : a &&& zimm i = BitVec.ofNat 64 (a.toNat &&& i.toNat) := by
  rw [← zimm_toNat, ← BitVec.toNat_and, ofNat_toNat_word]

theorem or_zimm (a : Word) (i : BitVec 16) : a ||| zimm i = BitVec.ofNat 64 (a.toNat ||| i.toNat) := by
  rw [← zimm_toNat, ← BitVec.toNat_or, ofNat_toNat_word]

theorem xor_zimm (a : Word) (i : BitVec 16) : a ^^^ zimm i = BitVec.ofNat 64 (a.toNat ^^^ i.toNat) := by
  rw [← zimm_toNat, ← BitVec.toNat_xor, ofNat_toNat_word]

theorem lui_eq_ofInt (i : BitVec 16) :
    (i ++ (0 : BitVec 16)).signExtend 64 = BitVec.ofInt 64 (i.toInt * 2 ^ 16) := by
  have h : (i ++ (0 : BitVec 16)).toInt = i.toInt * 2 ^ 16 := by
    have := i.isLt
    simp only [BitVec.toInt, BitVec.toNat_append, BitVec.ofNat_eq_ofNat, BitVec.toNat_zero, Nat.or_zero, Nat.shiftLeft_eq]
    split <;> split <;> omega
  rw [BitVec.signExtend, h]

/-- Settles O10: the operations of O8 and the extensions of the immediate. -/
theorem aluImmediateResults : Obligations.AluImmediateResults := by
  unfold Obligations.AluImmediateResults
  intro s rd r1 imm sh a k
  refine ⟨completes_of_finish rfl (add_simm a imm), completes_of_finish rfl (and_zimm a imm),
    completes_of_finish rfl (or_zimm a imm), completes_of_finish rfl (xor_zimm a imm),
    completes_of_finish rfl ((flag_slt a (simm imm)).trans ?_), completes_of_finish rfl (flag_ult a (simm imm)),
    completes_of_finish rfl (shiftLeft_eq_ofNat a k), completes_of_finish rfl (ushiftRight_eq_ofNat a k),
    completes_of_finish rfl (sshiftRight_eq_ofInt a k), completes_of_finish rfl (rotateLeft_eq_or a sh.isLt),
    completes_of_finish rfl (lui_eq_ofInt imm)⟩
  rw [simm_toInt]

/-! ### Multiply and divide (R142, R145) -/

theorem mul_eq_ofNat (a b : Word) : a * b = BitVec.ofNat 64 (a.toNat * b.toNat) := by
  rw [BitVec.ofNat_mul, ofNat_toNat_word, ofNat_toNat_word]

theorem sdiv_eq_ofInt (a b : Word) : a.sdiv b = BitVec.ofInt 64 (a.toInt.tdiv b.toInt) :=
  BitVec.eq_of_toInt_eq (by rw [BitVec.toInt_sdiv, BitVec.toInt_ofInt])

theorem srem_eq_ofInt (a b : Word) : a.srem b = BitVec.ofInt 64 (a.toInt.tmod b.toInt) := by
  rw [← BitVec.toInt_srem, BitVec.ofInt_toInt]

/-- The quotient that overflows is the most negative number again. -/
theorem divWord_eq (a b : Word) :
    divWord a b = if b = 0 then BitVec.allOnes 64 else BitVec.ofInt 64 (a.toInt.tdiv b.toInt) := by
  unfold divWord
  split
  · rfl
  · split
    · next h => rw [h.1, h.2]; decide
    · exact sdiv_eq_ofInt a b

theorem remWord_eq (a b : Word) : remWord a b = if b = 0 then a else BitVec.ofInt 64 (a.toInt.tmod b.toInt) := by
  unfold remWord
  split
  · rfl
  · split
    · next h => rw [h.1, h.2]; decide
    · exact srem_eq_ofInt a b

theorem divuWord_eq (a b : Word) :
    divuWord a b = if b = 0 then BitVec.allOnes 64 else BitVec.ofNat 64 (a.toNat / b.toNat) := by
  rw [divuWord, ← BitVec.toNat_udiv, ofNat_toNat_word]

theorem remuWord_eq (a b : Word) : remuWord a b = if b = 0 then a else BitVec.ofNat 64 (a.toNat % b.toNat) := by
  rw [remuWord, ← BitVec.toNat_umod, ofNat_toNat_word]

/-- A strand whose result is not delivered does not issue (R142, R164). -/
theorem State.awake_of_muldiv {s : State} {p : CoreId} {t : StrandId} (h : (s.strand p t).muldiv = true) :
    s.awake p t = false := by
  simp only [State.awake, h, Bool.not_true, Bool.and_false, Bool.false_and]

/-- The x registers of two states whose acting strands hold the same. -/
theorem State.reg_congr {s t : State} (h : t.me.x = s.me.x) (q : BitVec 5) : t.reg q = s.reg q := by
  rw [State.reg, State.reg, h]

/-- A result written, the pc past the instruction, and the strand that waits for the delivery (R142). -/
def State.multiplied (s : State) (rd : BitVec 5) (v : Word) (t : State) : Prop :=
  t = s.setMe { s.me with x := t.me.x, poisoned := t.me.poisoned, pc := s.me.pc + 4, muldiv := true } ∧
    s.regsWith rd v t ∧ t.awake s.cur s.str = false

theorem mulDiv_multiplied (f : Word → Word → Word) (rd r1 r2 : BitVec 5) (s : State) :
    s.multiplied rd (f (s.reg r1) (s.reg r2)) (mulDiv f rd r1 r2 s) := by
  obtain ⟨hsame, hpc, hregs⟩ := s.finish_wrote rd (f (s.reg r1) (s.reg r2))
  have hme : (mulDiv f rd r1 r2 s).me = { (aluOp f rd r1 r2 s).me with muldiv := true } := State.me_setMe ..
  have hstrand : (aluOp f rd r1 r2 s).me = { s.me with
      x := (aluOp f rd r1 r2 s).me.x, poisoned := (aluOp f rd r1 r2 s).me.poisoned, pc := s.me.pc + 4 } :=
    hpc ▸ (congrArg State.me hsame).trans (State.me_setMe ..)
  refine ⟨?_, fun q => ?_, State.awake_of_muldiv (congrArg Strand.muldiv hme)⟩
  · calc mulDiv f rd r1 r2 s = s.setMe { (aluOp f rd r1 r2 s).me with muldiv := true } := by
          simp only [mulDiv, aluOp, State.finish_eq, State.setMe_setMe, State.me_setMe]
      _ = _ := by
          rw [hme]
          exact congrArg (fun st : Strand => s.setMe { st with muldiv := true }) hstrand
  · exact (State.reg_congr (by rw [hme, aluOp]) q).trans (hregs q)

theorem completes_of_mulDiv {i : Instr} {f : Word → Word → Word} {s : State} {rd r1 r2 : BitVec 5} {v : Word}
    (hx : exec i s = .next (mulDiv f rd r1 r2 s)) (hv : f (s.reg r1) (s.reg r2) = v) :
    completes i s (s.multiplied rd v) := ⟨_, hx, hv ▸ mulDiv_multiplied f rd r1 r2 s⟩

/-- Settles O11: the values of R145, zero divisors and the overflow included, and the event. -/
theorem multiplyAndDivideResults : Obligations.MultiplyAndDivideResults := by
  unfold Obligations.MultiplyAndDivideResults
  intro s rd r1 r2 p u a b writes
  exact ⟨completes_of_mulDiv rfl (mul_eq_ofNat a b), completes_of_mulDiv rfl (wordInt_eq_ofInt _),
    completes_of_mulDiv rfl rfl, completes_of_mulDiv rfl (divWord_eq a b), completes_of_mulDiv rfl (divuWord_eq a b),
    completes_of_mulDiv rfl (remWord_eq a b), completes_of_mulDiv rfl (remuWord_eq a b), _, rfl, rfl⟩

end Sys2Proof.Machine
end

section
/-! Branches and jumps (R146, R147): the target as the spec computes it, and with it O12 and O13. -/

namespace Sys2Proof.Machine

/-! ### Going on at a target -/

theorem State.setReg_zero (s : State) (v : Word) : s.setReg 0 v = s := by
  rw [State.setReg, Strand.withX, if_pos rfl, State.setMe_me]

/-- A jump leaves what a result written and the pc set leave. -/
theorem State.setReg_setPc_jumped (s : State) (r : BitVec 5) (v a : Word) : s.jumped r v a ((s.setReg r v).setPc a) := by
  obtain ⟨hsame, -, hregs⟩ := s.finish_wrote r v
  have hfinish : (s.setReg r v).setPc a = (s.finish r v).setPc a := by
    simp only [State.finish_eq, State.setPc, State.setReg, State.setMe_setMe, State.me_setMe]
  rw [hfinish]
  refine ⟨?_, ?_, fun q => ?_⟩
  · rw [State.onlyRegs, State.me_setPc]
    calc (s.finish r v).setPc a = s.setMe { (s.finish r v).me with pc := a } := by
          simp only [State.finish_eq, State.setPc, State.setMe_setMe, State.me_setMe]
      _ = _ := congrArg (fun st : Strand => s.setMe { st with pc := a })
        ((congrArg State.me hsame).trans (State.me_setMe ..))
  · rw [State.me_setPc]
  · exact (State.reg_congr (by rw [State.me_setPc]) q).trans (hregs q)

/-- A strand that went on at a target has written x0, which holds nothing. -/
theorem State.setPc_jumped (s : State) (a : Word) : s.jumped 0 0 a (s.setPc a) := by
  have h := s.setReg_setPc_jumped 0 0 a
  rwa [State.setReg_zero] at h

theorem completes_of_jump {i : Instr} {s : State} {r : BitVec 5} {v a b : Word}
    (hx : exec i s = .next ((s.setReg r v).setPc a)) (ha : a = b) : completes i s (s.jumped r v b) :=
  ⟨_, hx, ha ▸ s.setReg_setPc_jumped r v a⟩

/-- Four times an offset of words, in bytes (R146, R147). -/
theorem signExtend_mul_four {w : Nat} (off : BitVec w) :
    off.signExtend 64 * 4 = BitVec.ofInt 64 (4 * off.toInt) := by
  rw [BitVec.ofInt_mul, BitVec.mul_comm]
  rfl

/-! ### Conditional branches (R146) -/

/-- A branch goes where its condition, decided on the operands, sends it. -/
theorem completes_of_branch {i : Instr} {c : Word → Word → Bool} {p : Prop} [Decidable p] {r1 r2 : BitVec 5}
    {off : BitVec 16} {s : State} (hx : exec i s = .next (branch c r1 r2 off s))
    (hc : c (s.reg r1) (s.reg r2) = true ↔ p) :
    completes i s (s.jumped 0 0 (if p then s.me.pc + BitVec.ofInt 64 (4 * off.toInt) else s.me.pc + 4)) := by
  by_cases hp : p
  · rw [if_pos hp, ← signExtend_mul_four]
    exact ⟨_, hx, branch_taken (hc.mpr hp) ▸ s.setPc_jumped _⟩
  · rw [if_neg hp]
    exact ⟨_, hx, branch_not_taken (Bool.eq_false_iff.mpr (mt hc.mp hp)) ▸ s.setPc_jumped _⟩

theorem not_slt_iff (a b : Word) : (!a.slt b) = true ↔ b.toInt ≤ a.toInt := by
  rw [Bool.not_eq_true', BitVec.slt, decide_eq_false_iff_not, not_lt]

theorem not_ult_iff (a b : Word) : (!a.ult b) = true ↔ b.toNat ≤ a.toNat := by
  rw [Bool.not_eq_true', BitVec.ult, decide_eq_false_iff_not, not_lt]

/-- Settles O12: each branch by the condition that it decides; the words are those of format B. -/
theorem branchesGoWhereTheyCompare : Obligations.BranchesGoWhereTheyCompare := by
  unfold Obligations.BranchesGoWhereTheyCompare
  intro s r1 r2 off a b goes
  exact ⟨completes_of_branch rfl beq_iff_eq, completes_of_branch rfl bne_iff_ne,
    completes_of_branch rfl decide_eq_true_iff, completes_of_branch rfl (not_slt_iff a b),
    completes_of_branch rfl decide_eq_true_iff, completes_of_branch rfl (not_ult_iff a b), rfl⟩

/-! ### Jumps (R147) -/

/-- A target is a multiple of 4 where its two low bits are 0. -/
theorem mod_four_eq_zero_iff (t : Word) : t.toNat % 4 = 0 ↔ t.extractLsb' 0 2 = 0 := by
  rw [← BitVec.toNat_inj, BitVec.extractLsb'_toNat, Nat.shiftRight_zero]
  rfl

theorem exec_jalr_aligned {rd r1 : BitVec 5} {imm : BitVec 16} {s : State}
    (h : (s.reg r1 + simm imm).extractLsb' 0 2 = 0) :
    exec (.jalr rd r1 imm) s = .next ((s.setReg rd (s.me.pc + 4)).setPc (s.reg r1 + simm imm)) :=
  if_neg (not_not.mpr ((mod_four_eq_zero_iff _).mpr h))

theorem exec_jalr_misaligned {rd r1 : BitVec 5} {imm : BitVec 16} {s : State}
    (h : (s.reg r1 + simm imm).extractLsb' 0 2 ≠ 0) :
    exec (.jalr rd r1 imm) s = .next (s.trap .align (s.reg r1 + simm imm)) :=
  if_pos (mt (mod_four_eq_zero_iff _).mp h)

/-- Settles O13: JAL and an aligned JALR write the link and go, a misaligned JALR traps. -/
theorem jumpsLinkAndGo : Obligations.JumpsLinkAndGo := by
  unfold Obligations.JumpsLinkAndGo
  intro s rd r1 off imm t
  exact ⟨completes_of_jump rfl (by rw [signExtend_mul_four]), fun h => completes_of_jump (exec_jalr_aligned h) rfl,
    fun h htact => ⟨_, exec_jalr_misaligned h, s.trap_took .align t nofun htact⟩, rfl, rfl⟩

end Sys2Proof.Machine
end

section
/-! The words that the spec writes out (O3) and accesses to the control and status registers (R149 to R153, R161): what a
read gives, what a write stores, and what task level may not do, with O22, O23 and O24. -/

namespace Sys2Proof.Machine

/-- Settles O3: each word is the encoding of a well-formed instruction, which its decoding gives back. -/
theorem wordsOfTheSpecDecode : Obligations.WordsOfTheSpecDecode := by
  unfold Obligations.WordsOfTheSpecDecode
  exact ⟨roundTrip (.lui 5 0x0100) _ rfl rfl, roundTrip (.slli 5 5 16) _ rfl rfl, roundTrip (.div 5 6 7) _ rfl rfl,
    roundTrip (.stf 9 16 0) _ rfl rfl, roundTrip (.fence .dev) _ rfl rfl, roundTrip .vsync _ rfl rfl,
    roundTrip (.cflush 10 11) _ rfl rfl, roundTrip (.seal 10 11) _ rfl rfl, rfl⟩

/-! ### Who may access a register, and when (R140, R150) -/

/-- A queue that is not empty, and whose head has not faulted, keeps the strand waiting. -/
theorem State.drained_waits {s : State} (k : State → State) (hq : s.me.queue ≠ []) (hv : s.me.vfault = none) :
    s.drained k = s.setMe { s.me with wait := some .drain } := by
  obtain ⟨h, -⟩ | ⟨-, h⟩ | ⟨-, -, f, hf, -⟩ := s.drained_cases k
  · exact absurd h hq
  · exact h
  · rw [hv] at hf
    cases hf

theorem State.csrOrdered_now {s : State} {n : Nat} (k : State → State) (h : csrDrains n = false ∨ s.me.queue = []) :
    s.csrOrdered n k = k s := by
  unfold State.csrOrdered
  split
  · next hd => exact s.drained_empty k (h.resolve_left (by rw [hd]; decide))
  · rfl

/-- An access is checked against the level only where the register is not one of task level. -/
theorem State.ite_privileged {s : State} {b : Bool} {i : Instr} (k : State → State) (h : s.isRuntime = true ∨ b = true) :
    (if b then k s else s.privileged i k) = k s := by
  split
  · rfl
  · next hb => exact s.privileged_runtime i k (h.resolve_right hb)

theorem State.isRuntime_of_priv_zero {s : State} (h : s.me.priv = 0) : s.isRuntime = false := by
  rw [State.isRuntime, h]
  rfl

/-! ### The registers as they read (R151, R153) -/

theorem addr50_eq_mul (a : BitVec 50) : addr50 a = a.zeroExtend 64 * 4 := by
  rw [addr50, word, BitVec.ofNat_mul, BitVec.ofNat_toNat]
  rfl

theorem Strand.tstatWord_eq (st : Strand) : st.tstatWord = (0 : BitVec 57) ++ (if st.latch then 1#1 else 0#1) ++
    (0 : BitVec 1) ++ (if st.tact then 1#1 else 0#1) ++ st.ppriv ++ st.priv := by
  unfold Strand.tstatWord
  generalize st.latch = latch, st.tact = tact, st.ppriv = ppriv, st.priv = priv
  decide +revert

theorem Strand.tcauseWord_eq (st : Strand) :
    st.tcauseWord = (if st.causeSw then 1#1 else 0#1) ++ (0 : BitVec 47) ++ st.cause := by
  have hc : st.cause.toNat < 2 ^ 64 := st.cause.isLt.trans (by decide)
  refine BitVec.eq_of_toNat_eq ?_
  simp only [Strand.tcauseWord, BitVec.toNat_or, BitVec.toNat_setWidth, BitVec.toNat_append, Nat.mod_eq_of_lt hc]
  cases st.causeSw with
  | false => exact Nat.lor_comm ..
  | true => exact Nat.lor_comm ..

/-! ### CSRR (R149) -/

/-- Settles O22: the register that the level may read, read at once, and its value field by field. -/
theorem csrReadsGiveTheRegister : Obligations.CsrReadsGiveTheRegister := by
  unfold Obligations.CsrReadsGiveTheRegister
  intro s rd n
  refine ⟨fun _ hlevel hq => ?_, rfl, rfl, rfl, rfl, rfl, rfl, rfl, rfl, rfl, rfl, addr50_eq_mul _, addr50_eq_mul _,
    s.me.tstatWord_eq, s.me.tcauseWord_eq⟩
  have hx : exec (.csrr rd n) s = .next (s.finish rd (s.csr s.cur s.str n.toNat)) :=
    congrArg Host.Outcome.next ((State.ite_privileged _ hlevel).trans (State.csrOrdered_now _ (.inr hq)))
  exact completes_of_finish hx rfl

/-! ### CSRW, CSRS and CSRC (R149) -/

/-- The instruction that accesses a register with an operation. -/
def csrInstr : CsrOp → BitVec 5 → BitVec 12 → Instr
  | .write => .csrw
  | .set => .csrs
  | .clear => .csrc

theorem exec_csrInstr (op : CsrOp) (r1 : BitVec 5) (n : BitVec 12) (s : State) :
    exec (csrInstr op r1 n) s = .next (if csrTaskWrites n.toNat then s.csrWrite n.toNat op (s.reg r1)
      else s.privileged (csrInstr op r1 n) fun a => a.csrWrite n.toNat op (s.reg r1)) := by
  cases op <;> rfl

theorem exec_csrInstr_allowed {op : CsrOp} {r1 : BitVec 5} {n : BitVec 12} {s : State}
    (h : s.isRuntime = true ∨ csrTaskWrites n.toNat = true) :
    exec (csrInstr op r1 n) s = .next (s.csrWrite n.toNat op (s.reg r1)) :=
  (exec_csrInstr op r1 n s).trans (congrArg Host.Outcome.next (State.ite_privileged (fun a => a.csrWrite _ op _) h))

/-- A write that does not change a pool boundary stores at once and goes on. -/
theorem State.csrWrite_stores {s b : State} {n : Nat} {op : CsrOp} {x : Word}
    (hnow : csrDrains n = false ∨ s.me.queue = []) (hpool : poolCsrOf n = none)
    (hw : s.writeCsr s.cur s.str n op x = some b) : s.csrWrite n op x = b.advance := by
  rw [State.csrWrite, State.csrOrdered_now _ hnow]
  simp only [State.poolHeld, hpool, Option.bind_none, hw]

/-- What the write of a register of a strand leaves. -/
theorem State.csrWrite_strand {s : State} {n : Nat} {op : CsrOp} {x : Word} {st : Strand}
    (hnow : csrDrains n = false ∨ s.me.queue = []) (hpool : poolCsrOf n = none)
    (hw : s.writeCsr s.cur s.str n op x = some (s.setMe st)) (hpc : st.pc = s.me.pc) :
    s.csrWrite n op x = s.setMe { st with pc := s.me.pc + 4 } := by
  rw [State.csrWrite_stores hnow hpool hw, State.advance_eq, State.setMe_setMe, State.me_setMe, hpc]

/-- The four format registers (R50), as FMTSET numbers them. -/
theorem State.csrWrite_fmt (s : State) (n : BitVec 2) (x : Word) : s.csrWrite (0x008 + n.toNat) .write x =
    s.setMe { s.me with fmt := s.me.fmt.set n.toFin (x.extractLsb' 0 18), pc := s.me.pc + 4 } := by
  have hreg : csrDrains (0x008 + n.toNat) = false ∧ poolCsrOf (0x008 + n.toNat) = none ∧
      s.writeCsr s.cur s.str (0x008 + n.toNat) .write x =
        some (s.setMe { s.me with fmt := s.me.fmt.set n.toFin (x.extractLsb' 0 18) }) := by
    obtain rfl | rfl | rfl | rfl := eq_two_bits n
    iterate 4 exact ⟨rfl, rfl, rfl⟩
  obtain ⟨hd, hp, hw⟩ := hreg
  exact State.csrWrite_strand (.inl hd) hp hw rfl

/-- CSRS clears no bit of VSTAT: its flags clear where a 1 is written by the other two (R149). -/
theorem Strand.writeCsr_set_vstat (st : Strand) (old v : Word) : st.writeCsr 0x003 .set old v = st := by
  have hnone : ~~~((csrClears .set v).extractLsb' 0 5 &&& 0x1e) = BitVec.allOnes 5 := by
    rw [csrClears]
    decide
  simp only [Strand.writeCsr, hnone, BitVec.and_allOnes]

theorem completes_of_csrWrite {op : CsrOp} {r1 : BitVec 5} {n : BitVec 12} {s : State} {st : Strand}
    (hlevel : s.isRuntime = true ∨ csrTaskWrites n.toNat = true) (hnow : csrDrains n.toNat = false ∨ s.me.queue = [])
    (hpool : poolCsrOf n.toNat = none) (hw : s.writeCsr s.cur s.str n.toNat op (s.reg r1) = some (s.setMe st))
    (hpc : st.pc = s.me.pc) :
    completes (csrInstr op r1 n) s fun t => t = s.setMe { st with pc := s.me.pc + 4 } :=
  ⟨_, exec_csrInstr_allowed hlevel, State.csrWrite_strand hnow hpool hw hpc⟩

theorem completes_of_csrWrite_waits {op : CsrOp} {r1 : BitVec 5} {n : BitVec 12} {s : State}
    (hlevel : s.isRuntime = true ∨ csrTaskWrites n.toNat = true) (hd : csrDrains n.toNat = true)
    (hq : s.me.queue ≠ []) (hv : s.me.vfault = none) :
    completes (csrInstr op r1 n) s fun t => t = s.setMe { s.me with wait := some .drain } :=
  ⟨_, exec_csrInstr_allowed hlevel, by rw [State.csrWrite, State.csrOrdered, if_pos hd, State.drained_waits _ hq hv]⟩

/-! ### Registers of a core (R62, R317) -/

theorem State.strand_setCore {s : State} {p : CoreId} {c : Core} (h : c.strands = (s.core p).strands) (q : CoreId)
    (u : StrandId) : (s.setCore p c).strand q u = s.strand q u := by
  rw [State.strand, State.strand, State.core_setCore_ite]
  split
  · next e =>
    subst e
    simp only [h]
  · rfl

/-- What the write of a register of the core leaves. -/
theorem State.csrWrite_core {s : State} {n : Nat} {op : CsrOp} {x : Word} {c : Core}
    (hnow : csrDrains n = false ∨ s.me.queue = []) (hpool : poolCsrOf n = none)
    (hw : s.writeCsr s.cur s.str n op x = some (s.setMine c)) (hc : c.strands = s.mine.strands) :
    s.csrWrite n op x = (s.setMine c).setMe { s.me with pc := s.me.pc + 4 } := by
  have hme : (s.setMine c).me = s.me := State.strand_setCore hc s.cur s.str
  rw [State.csrWrite_stores hnow hpool hw, State.advance_eq, hme]

/-- Memory of HBM and of every scratchpad, and the boundaries of the scratchpads, say what memory reads as. -/
theorem State.peekHome_congr {s t : State} (hm : t.mem = s.mem) (hc : ∀ q, (t.core q).spad = (s.core q).spad ∧
    (t.core q).poolV = (s.core q).poolV ∧ (t.core q).poolS = (s.core q).poolS) : s.sameBytes t := by
  intro a
  unfold State.peekHome
  split
  · next q off _ =>
    obtain ⟨hspad, hv, hs⟩ := hc q
    rw [Core.spadPlace, Core.spadPlace, hspad, hv, hs]
  · rw [hm]

@[simp] theorem State.mine_setMine (s : State) (c : Core) : (s.setMine c).mine = c := s.core_setCore s.cur c

@[simp] theorem State.setMe_mine_ovt (s : State) (st : Strand) : (s.setMe st).mine.ovt = s.mine.ovt :=
  s.setMe_core_ovt st s.cur

@[simp] theorem State.setMe_mine_capmask (s : State) (st : Strand) : (s.setMe st).mine.capmask = s.mine.capmask :=
  s.setMe_core_capmask st s.cur

/-- A change of a core that leaves its strands, its scratchpad and its boundaries alone, and a pc moved. -/
theorem State.setMine_advanced_keeps {s t : State} {c : Core}
    (ht : t = (s.setMine c).setMe { s.me with pc := s.me.pc + 4 }) (hc : c.strands = s.mine.strands)
    (hs : c.spad = s.mine.spad ∧ c.poolV = s.mine.poolV ∧ c.poolS = s.mine.poolS) :
    s.wentOn t ∧ s.sameRegs t ∧ s.sameStrand t ∧ s.sameOthers t ∧ s.sameBytes t := by
  have hme : t.me = { s.me with pc := s.me.pc + 4 } := ht ▸ State.me_setMe ..
  refine ⟨by rw [State.wentOn, hme], State.reg_congr (by rw [hme]), ⟨by rw [ht]; rfl, by rw [ht]; rfl, by rw [hme]⟩,
    fun p u hne => ?_, State.peekHome_congr (by rw [ht]; rfl) fun q => ?_⟩
  · rw [ht]
    exact (State.strand_setStrand_ne _ _ _ _ _ _ hne.symm).trans (State.strand_setCore hc p u)
  · rw [ht, State.setMe_core_spad, State.setMe_core_poolV, State.setMe_core_poolS, State.setMine, State.core_setCore_ite]
    split
    · next e => exact e ▸ hs
    · exact ⟨rfl, rfl, rfl⟩

/-! ### OVT with its fields of value 3 stored as 0 (R62) -/

theorem getLsbD_ovtMask (k i : Nat) :
    (BitVec.ofNat 16 (3 * 4 ^ k)).getLsbD i = (decide (i < 16) && decide (i / 2 = k)) := by
  have hthree : ∀ j, Nat.testBit 3 j = decide (j < 2) := fun j => Nat.testBit_two_pow_sub_one 2 j
  rw [BitVec.getLsbD_ofNat, show 4 ^ k = 2 ^ (2 * k) by rw [Nat.pow_mul], Nat.testBit_mul_two_pow, hthree]
  congr 1
  rw [← Bool.decide_and, decide_eq_decide]
  omega

/-- One field of OVT, added to those that are stored before it. -/
def ovtAdd (v a : BitVec 16) (k : Nat) : BitVec 16 :=
  if v.extractLsb' (2 * k) 2 = (3 : BitVec 2) then a else a ||| (v &&& BitVec.ofNat 16 (3 * 4 ^ k))

theorem ovtStore_eq_foldl (v : BitVec 16) : ovtStore v = (List.range 8).foldl (ovtAdd v) 0 := rfl

/-- Whether the field that holds a bit is stored with the bit set. -/
def ovtKeeps (v : BitVec 16) (i : Nat) : Bool := decide (v.extractLsb' (2 * (i / 2)) 2 ≠ 3) && v.getLsbD i

theorem getLsbD_ovtAdd (v a : BitVec 16) (k : Nat) {i : Nat} (hi : i < 16) :
    (ovtAdd v a k).getLsbD i = (a.getLsbD i || (decide (i / 2 = k) && ovtKeeps v i)) := by
  unfold ovtAdd
  split
  · next h3 =>
    have hk : (decide (i / 2 = k) && ovtKeeps v i) = false := by
      by_cases hk : i / 2 = k
      · rw [ovtKeeps, hk, decide_eq_false (not_not.mpr h3), Bool.false_and, Bool.and_false]
      · rw [decide_eq_false hk, Bool.false_and]
    rw [hk, Bool.or_false]
  · next h3 =>
    rw [BitVec.getLsbD_or, BitVec.getLsbD_and, getLsbD_ovtMask, decide_eq_true hi, Bool.true_and, Bool.and_comm]
    by_cases hk : i / 2 = k
    · rw [ovtKeeps, hk, decide_eq_true h3, Bool.true_and]
    · rw [decide_eq_false hk, Bool.false_and, Bool.false_and]

theorem getLsbD_foldl_ovtAdd (v : BitVec 16) {i : Nat} (hi : i < 16) (l : List Nat) (a : BitVec 16) :
    (l.foldl (ovtAdd v) a).getLsbD i = (a.getLsbD i || (decide (i / 2 ∈ l) && ovtKeeps v i)) := by
  induction l generalizing a with
  | nil => simp
  | cons k l ih =>
    rw [List.foldl_cons, ih, getLsbD_ovtAdd v a k hi, Bool.or_assoc, ← Bool.and_or_distrib_right, ← Bool.decide_or]
    simp only [List.mem_cons]

theorem getLsbD_ovtStore (v : BitVec 16) {i : Nat} (hi : i < 16) : (ovtStore v).getLsbD i = ovtKeeps v i := by
  have hmem : i / 2 ∈ List.range 8 := List.mem_range.mpr (by omega)
  rw [ovtStore_eq_foldl, getLsbD_foldl_ovtAdd v hi, decide_eq_true hmem, Bool.true_and, BitVec.ofNat_eq_ofNat,
    BitVec.getLsbD_zero, Bool.false_or]

theorem extractLsb'_ovtStore (v : BitVec 16) {k : Nat} (hk : k < 8) : (ovtStore v).extractLsb' (2 * k) 2 =
    if v.extractLsb' (2 * k) 2 = (3 : BitVec 2) then 0 else v.extractLsb' (2 * k) 2 := by
  refine BitVec.eq_of_getLsbD_eq fun j hj => ?_
  rw [BitVec.getLsbD_extractLsb', decide_eq_true hj, Bool.true_and, getLsbD_ovtStore _ (by omega), ovtKeeps,
    show (2 * k + j) / 2 = k by omega]
  split
  · next h =>
    rw [decide_eq_false (not_not.mpr h), Bool.false_and]
    exact BitVec.getLsbD_zero.symm
  · next h => rw [decide_eq_true h, Bool.true_and, BitVec.getLsbD_extractLsb', decide_eq_true hj, Bool.true_and]

theorem extractLsb'_low16 (x : Word) {k : Nat} (hk : k < 8) :
    (x.extractLsb' 0 16).extractLsb' (2 * k) 2 = x.extractLsb' (2 * k) 2 := by
  refine BitVec.eq_of_getLsbD_eq fun j hj => ?_
  have hbit : 2 * k + j < 16 := by omega
  simp only [BitVec.getLsbD_extractLsb', hj, hbit, decide_true, Bool.true_and, Nat.zero_add]

/-- What OVTSET leaves (R161). -/
theorem completes_ovtset {s : State} {r1 : BitVec 5} (h : s.isRuntime = true) : completes (.ovtset r1) s fun t =>
    t = (s.setMine { s.mine with ovt := ovtStore ((s.reg r1).extractLsb' 0 16) }).setMe { s.me with pc := s.me.pc + 4 } :=
  ⟨_, congrArg Host.Outcome.next (s.privileged_runtime _ _ h), State.csrWrite_core (.inl rfl) rfl rfl rfl⟩

/-- Settles O23: each write stores what its operation makes of the old value, or waits for the queue. -/
theorem csrWritesSetClearAndStore : Obligations.CsrWritesSetClearAndStore := by
  unfold Obligations.CsrWritesSetClearAndStore
  intro s r1 n x sets
  have task (op : CsrOp) {c : BitVec 12} {st : Strand} (hc : csrTaskWrites c.toNat = true)
      (hnow : csrDrains c.toNat = false ∨ s.me.queue = []) (hp : poolCsrOf c.toNat = none)
      (hw : s.writeCsr s.cur s.str c.toNat op x = some (s.setMe st)) (hpc : st.pc = s.me.pc) :
      sets (csrInstr op r1 c) st := completes_of_csrWrite (.inr hc) hnow hp hw hpc
  have waits {c : BitVec 12} (hc : csrTaskWrites c.toNat = true) (hd : csrDrains c.toNat = true)
      (hq : s.me.queue ≠ []) (hv : s.me.vfault = none) :
      completes (.csrw r1 c) s fun t => t = s.setMe { s.me with wait := some .drain } :=
    completes_of_csrWrite_waits (op := .write) (.inr hc) hd hq hv
  refine ⟨task .write rfl (.inl rfl) rfl rfl rfl, task .set rfl (.inl rfl) rfl rfl rfl,
    task .clear rfl (.inl rfl) rfl rfl rfl, ⟨_, rfl, State.csrWrite_strand (.inl rfl) rfl rfl rfl⟩,
    ⟨_, rfl, State.csrWrite_fmt s n x⟩, task .write rfl (.inl rfl) rfl rfl rfl,
    fun hq => ⟨task .write rfl (.inr hq) rfl rfl rfl, task .write rfl (.inr hq) rfl rfl rfl,
      List.forall_mem_cons.mpr ⟨task .write rfl (.inr hq) rfl rfl rfl,
        List.forall_mem_cons.mpr ⟨task .clear rfl (.inr hq) rfl rfl rfl, List.forall_mem_nil _⟩⟩,
      task .set rfl (.inr hq) rfl (congrArg (some ∘ s.setMe) (Strand.writeCsr_set_vstat ..)) rfl⟩,
    fun hq hv => ?_, fun hrun => ?_⟩
  · simp only [List.forall_mem_cons]
    exact ⟨waits rfl rfl hq hv, waits rfl rfl hq hv, waits rfl rfl hq hv, nofun⟩
  have runtime (op : CsrOp) {c : BitVec 12} {st : Strand} (hd : csrDrains c.toNat = false)
      (hp : poolCsrOf c.toNat = none) (hw : s.writeCsr s.cur s.str c.toNat op x = some (s.setMe st)) (hpc : st.pc = s.me.pc) :
      sets (csrInstr op r1 c) st := completes_of_csrWrite (.inl hrun) (.inl hd) hp hw hpc
  refine ⟨runtime .write rfl rfl rfl rfl, runtime .write rfl rfl rfl rfl, runtime .write rfl rfl rfl rfl,
    runtime .write rfl rfl rfl rfl,
    ⟨_, exec_csrInstr_allowed (op := .write) (.inl hrun), State.csrWrite_core (.inl rfl) rfl rfl rfl⟩,
    runtime .write rfl rfl rfl rfl, runtime .set rfl rfl rfl rfl, runtime .clear rfl rfl rfl rfl,
    runtime .write rfl rfl rfl rfl, runtime .set rfl rfl rfl rfl, runtime .clear rfl rfl rfl rfl, ?_⟩
  obtain ⟨t, hx, ht⟩ := completes_ovtset (r1 := r1) hrun
  obtain ⟨hpc, hregs, hstrand, hothers, hbytes⟩ := State.setMine_advanced_keeps ht rfl ⟨rfl, rfl, rfl⟩
  have hmine : t.mine.ovt = ovtStore (x.extractLsb' 0 16) ∧ t.mine.capmask = s.mine.capmask := by
    rw [ht, State.setMe_mine_ovt, State.setMe_mine_capmask, State.mine_setMine]
    exact ⟨rfl, rfl⟩
  refine ⟨t, hx, hpc, hregs, fun k hk => ?_, hstrand, hothers, hbytes, hmine.2⟩
  rw [hmine.1, extractLsb'_ovtStore _ hk, extractLsb'_low16 x hk]

/-! ### At task level (R140) -/

theorem completes_of_privileged {i : Instr} {w : IWord} {s : State} {k : State → State}
    (hx : exec i s = .next (s.privileged i k)) (hpriv : s.me.priv = 0) (htact : s.me.tact = false)
    (he : encode i = some w) : completes i s (s.tookTrap false 1 (w.zeroExtend 64) s.me.pc) := by
  refine ⟨_, hx, ?_⟩
  rw [s.privileged_task i k (State.isRuntime_of_priv_zero hpriv), he]
  exact s.trap_took .illegal _ nofun htact

theorem exec_csrr_privileged {rd : BitVec 5} {n : BitVec 12} {s : State} (h : csrTaskReads n.toNat = false) :
    ∃ k, exec (.csrr rd n) s = .next (s.privileged (.csrr rd n) k) :=
  ⟨_, congrArg Host.Outcome.next (if_neg (Bool.eq_false_iff.mp h))⟩

theorem exec_csrInstr_privileged {op : CsrOp} {r1 : BitVec 5} {n : BitVec 12} {s : State}
    (h : csrTaskWrites n.toNat = false) :
    ∃ k, exec (csrInstr op r1 n) s = .next (s.privileged (csrInstr op r1 n) k) :=
  ⟨_, (exec_csrInstr op r1 n s).trans (congrArg Host.Outcome.next (if_neg (Bool.eq_false_iff.mp h)))⟩

/-- Settles O24: each form is privileged, by itself or by its register. -/
theorem taskLevelMayNotRunPrivilegedForms : Obligations.TaskLevelMayNotRunPrivilegedForms := by
  unfold Obligations.TaskLevelMayNotRunPrivilegedForms
  intro s i w rd r1 n hpriv htact he hi
  suffices h : ∃ k, exec i s = .next (s.privileged i k) by
    obtain ⟨k, hx⟩ := h
    exact completes_of_privileged hx hpriv htact he
  simp only [List.mem_cons, List.not_mem_nil, or_false] at hi
  obtain (rfl | rfl | rfl | rfl | rfl) | ⟨hn, rfl⟩ | ⟨hn, rfl | rfl | rfl⟩ := hi
  iterate 5 exact ⟨_, rfl⟩
  · exact exec_csrr_privileged hn
  · exact exec_csrInstr_privileged (op := .write) hn
  · exact exec_csrInstr_privileged (op := .set) hn
  · exact exec_csrInstr_privileged (op := .clear) hn

end Sys2Proof.Machine
end

section
/-! The trap group (R155 to R160): TRAP and BRK, TRET, WFE, HALTC and the double trap; O25, O26, O27, O28, O29. -/

namespace Sys2Proof.Machine

/-! ### What a strand that stops leaves as it was -/

/-- The scratchpad of a core, where its window lies, and the deliveries that its waystation holds. -/
def Core.store (c : Core) : Memory × BitVec 5 × BitVec 5 × List Delivery := (c.spad, c.poolV, c.poolS, c.deliveries)

/-- Memory at home, the strand that acts, deliveries that are held and pre-emptions that wait are as before. -/
structure State.Quiet (s t : State) : Prop where
  cur : t.cur = s.cur
  str : t.str = s.str
  mem : t.mem = s.mem
  store : ∀ q, (t.core q).store = (s.core q).store
  pWait : ∀ c, (t.ctx c).pWait = (s.ctx c).pWait

namespace State.Quiet
variable {s t u : State}

theorem refl (s : State) : s.Quiet s := ⟨rfl, rfl, rfl, fun _ => rfl, fun _ => rfl⟩

theorem trans (h : s.Quiet t) (k : t.Quiet u) : s.Quiet u :=
  ⟨k.cur.trans h.cur, k.str.trans h.str, k.mem.trans h.mem, fun q => (k.store q).trans (h.store q),
    fun c => (k.pWait c).trans (h.pWait c)⟩

theorem me (h : s.Quiet t) : t.me = t.strand s.cur s.str := by rw [State.me, h.cur, h.str]

theorem deliveries (h : s.Quiet t) (q : CoreId) : (t.core q).deliveries = (s.core q).deliveries :=
  congrArg (fun x => x.2.2.2) (h.store q)

theorem sameBytes (h : s.Quiet t) : s.sameBytes t :=
  State.peekHome_congr h.mem fun q => ⟨congrArg (·.1) (h.store q), congrArg (·.2.1) (h.store q),
    congrArg (·.2.2.1) (h.store q)⟩

theorem setCore {p : CoreId} {c : Core} (h : c.store = (s.core p).store) : s.Quiet (s.setCore p c) := by
  refine ⟨rfl, rfl, rfl, fun q => ?_, fun _ => rfl⟩
  rw [State.core_setCore_ite]
  split
  · next e => rw [h, e]
  · rfl

theorem setStrand (s : State) (p : CoreId) (t : StrandId) (st : Strand) : s.Quiet (s.setStrand p t st) := setCore rfl

theorem setMe (s : State) (st : Strand) : s.Quiet (s.setMe st) := setStrand s _ _ st

theorem setCtx {c : CtxId} {k : Ctx} (h : k.pWait = (s.ctx c).pWait) : s.Quiet (s.setCtx c k) := by
  refine ⟨rfl, rfl, rfl, fun _ => rfl, fun d => ?_⟩
  by_cases e : c = d
  · rw [← e, State.ctx_setCtx, h]
  · rw [State.ctx_setCtx_ne _ _ _ _ e]

end State.Quiet

/-! ### Lanes given and released (R105, R106) -/

theorem Core.strands_set (v : Vector Strand 8) (u t : StrandId) (st : Strand) :
    (v.set u st)[t] = if u = t then st else v[t] := by
  simp only [Fin.getElem_fin, Vector.getElem_set, Fin.val_inj]

/-- The strand is as before but for its lanes, its wait for them and the mark that they are due. -/
def Strand.sameButLanes (a b : Strand) : Prop :=
  b = { a with cls := b.cls, part := b.part, vlen := b.vlen, wait := b.wait, lanesDue := b.lanesDue }

theorem Strand.sameButLanes_trans {a b c : Strand} (h : a.sameButLanes b) (k : b.sameButLanes c) :
    a.sameButLanes c := by
  unfold Strand.sameButLanes at h k ⊢
  rw [k, h]

/-- What HALTC reads of a strand is the same where its lanes alone differ. -/
theorem Strand.sameButLanes_fields {a b : Strand} (h : a.sameButLanes b) : b.x = a.x ∧ b.pc = a.pc ∧
    b.queue = a.queue ∧ b.firing = a.firing ∧ b.asyncTraps = a.asyncTraps ∧ b.serving = a.serving := by
  rw [Strand.sameButLanes] at h
  rw [h]
  exact ⟨rfl, rfl, rfl, rfl, rfl, rfl⟩

/-- A change of a core that changes of a strand its lanes alone. -/
def Core.lanesMove (t : StrandId) (c d : Core) : Prop := c.strands[t].sameButLanes d.strands[t] ∧ d.store = c.store

/-- Loans that take effect. -/
theorem Core.loansTake_lanesMove (c : Core) (l : List ArrayId) (t : StrandId) : c.lanesMove t (c.loansTake l) := by
  refine foldl_keeps (Core.lanesMove t c) _ (fun d a hd => ?_) l c ⟨rfl, rfl⟩
  have grant (u : StrandId) (k : LaneClass) (part : List ArrayId) (uses : List (ArrayId × ArrayUse)) :
      c.lanesMove t { d with uses := uses, strands := d.strands.set u (d.strands[u].grant k part) } := by
    refine ⟨Strand.sameButLanes_trans hd.1 ?_, hd.2⟩
    rw [Core.strands_set]
    split
    · next e =>
      subst e
      rfl
    · rfl
  split
  · exact grant _ _ _ _
  · exact grant _ _ _ _
  · exact hd

/-- What a release is: loans that take effect, and then no lanes for the strand and no request for some. -/
theorem Core.release_eq (c : Core) (t : StrandId) : ∃ d : Core, c.lanesMove t d ∧ (c.release t).store = d.store ∧
    (c.release t).strands = d.strands.set t { d.strands[t] with cls := .noLanes, part := [], vlen := 0 } ∧
      (c.release t).laneReqs = c.laneReqs.filter fun r => r.1 ≠ t :=
  ⟨_, Core.loansTake_lanesMove { c with whole := c.whole.filter fun w => w.2 ≠ t } _ t, rfl, rfl, rfl⟩

/-- A request that is served changes no strand but the one that asked. -/
theorem Core.grantOne_spec {c : Core} {t : StrandId} (n : Nat) (h : ∀ r ∈ c.laneReqs, r.1 ≠ t) :
    (c.grantOne n).strands[t] = c.strands[t] ∧ (c.grantOne n).store = c.store ∧
      ∀ r ∈ (c.grantOne n).laneReqs, r.1 ≠ t := by
  unfold Core.grantOne
  split
  · exact ⟨rfl, rfl, h⟩
  · next u k rest hreqs =>
    rw [hreqs] at h
    obtain ⟨hu, hrest⟩ := List.forall_mem_cons.mp h
    have other (st : Strand) : (c.strands.set u st)[t] = c.strands[t] := (Core.strands_set ..).trans (if_neg hu)
    dsimp only
    split
    · exact ⟨rfl, rfl, hrest⟩
    · split
      · exact ⟨other _, rfl, hrest⟩
      · split
        · exact ⟨rfl, rfl, hrest⟩
        · exact ⟨rfl, rfl, hreqs ▸ h⟩
    · split
      · exact ⟨rfl, rfl, hreqs ▸ h⟩
      · exact ⟨other _, rfl, hrest⟩

theorem State.strand_setCore_self (s : State) (p : CoreId) (c : Core) (t : StrandId) :
    (s.setCore p c).strand p t = c.strands[t] := by
  simp only [State.strand, State.core_setCore]

theorem State.serveLanes_spec {p : CoreId} {t : StrandId} (n : Nat) {s : State}
    (h : ∀ r ∈ (s.core p).laneReqs, r.1 ≠ t) :
    s.Quiet (s.serveLanes p n) ∧ (s.serveLanes p n).strand p t = s.strand p t := by
  induction n generalizing s with
  | zero => exact ⟨.refl s, rfl⟩
  | succ n ih =>
    obtain ⟨hstrand, hstore, hreqs⟩ := Core.grantOne_spec (s.longcl p) h
    unfold State.serveLanes
    dsimp only
    split
    · obtain ⟨hquiet, hkept⟩ := ih (s := s.setCore p ((s.core p).grantOne (s.longcl p))) (by rwa [State.core_setCore])
      exact ⟨(State.Quiet.setCore hstore).trans hquiet, hkept.trans ((s.strand_setCore_self p _ t).trans hstrand)⟩
    · exact ⟨.refl s, rfl⟩

/-- The strand is as before but for its lanes, of which it holds none. -/
def Strand.laneless (a b : Strand) : Prop := a.sameButLanes b ∧ b.part = [] ∧ b.cls = .noLanes ∧ b.vlen = 0

/-- The lanes of a strand released, and the requests that wait for some served. -/
theorem State.lanesReleased_spec (s : State) (p : CoreId) (t : StrandId) (n : Nat) :
    s.Quiet ((s.releaseLanes p t).serveLanes p n) ∧
      (s.strand p t).laneless (((s.releaseLanes p t).serveLanes p n).strand p t) := by
  obtain ⟨d, ⟨hsame, hmoved⟩, hstore, hstrands, hreqs⟩ := (s.core p).release_eq t
  have hnone : ∀ r ∈ ((s.releaseLanes p t).core p).laneReqs, r.1 ≠ t := by
    rw [State.releaseLanes, State.core_setCore, hreqs]
    exact fun r hr => of_decide_eq_true (List.mem_filter.mp hr).2
  obtain ⟨hquiet, hkept⟩ := State.serveLanes_spec n hnone
  have hreleased : (s.releaseLanes p t).strand p t = { d.strands[t] with cls := .noLanes, part := [], vlen := 0 } := by
    rw [State.releaseLanes, State.strand_setCore_self]
    simp only [hstrands, Core.strands_set, if_true]
  refine ⟨(State.Quiet.setCore (hstore.trans hmoved)).trans hquiet, ?_⟩
  rw [hkept, hreleased]
  exact ⟨Strand.sameButLanes_trans hsame rfl, rfl, rfl, rfl⟩

/-! ### A strand that stops where nothing is outstanding (R382, R398) -/

theorem State.unpark_quiet (s : State) (p : CoreId) (t : StrandId) : s.Quiet (s.unpark p t) :=
  State.Quiet.trans (t := { s with
    waiters := s.waiters.filter fun w => !decide (w.core = p ∧ w.strand = t)
    retries := s.retries.filter fun w => !decide (w.core = p ∧ w.strand = t) })
    ⟨rfl, rfl, rfl, fun _ => rfl, fun _ => rfl⟩ (State.Quiet.setStrand ..)

/-- A strand's requests for lanes withdrawn. -/
def State.withoutReqs (s : State) (p : CoreId) (t : StrandId) : State :=
  s.setCore p { s.core p with laneReqs := (s.core p).laneReqs.filter fun r => r.1 ≠ t }

/-- A strand that does not wait is as it was once it has left its wait. -/
theorem State.leaveWait_spec {s : State} {p : CoreId} {t : StrandId} (h : (s.strand p t).wait = none) :
    s.Quiet (s.leaveWait p t) ∧ (s.leaveWait p t).strand p t = s.strand p t := by
  have hstrand : (s.unpark p t).strand p t = s.strand p t := by
    rw [State.unpark, State.strand_setStrand, ← h]
  unfold State.leaveWait
  simp only [h]
  have hnone : ∀ r ∈ (((s.unpark p t).withoutReqs p t).core p).laneReqs, r.1 ≠ t := by
    rw [State.withoutReqs, State.core_setCore]
    exact fun r hr => of_decide_eq_true (List.mem_filter.mp hr).2
  obtain ⟨hquiet, hkept⟩ := State.serveLanes_spec 16 hnone
  have hquiet' : (s.unpark p t).Quiet ((s.unpark p t).withoutReqs p t) := State.Quiet.setCore rfl
  exact ⟨((s.unpark_quiet p t).trans hquiet').trans hquiet,
    hkept.trans ((State.strand_setCore_self ..).trans hstrand)⟩

theorem State.withdrawVwait_empty {s : State} {p : CoreId} {t : StrandId} (h : (s.strand p t).queue = []) :
    s.withdrawVwait p t = s := by
  simp only [State.withdrawVwait, h, List.getLast?_nil]

theorem State.retryHeld_none {s : State} {p : CoreId} (h : (s.core p).deliveries = []) : s.retryHeld p = s := by
  unfold State.retryHeld
  split
  · simp only [h, State.retryDeliveries]
  · rfl

theorem State.strand_of_cores {s t : State} (h : t.cores = s.cores) (p : CoreId) (u : StrandId) :
    t.strand p u = s.strand p u := by
  rw [State.strand, State.core, h, State.strand, State.core]

/-- A notification that is complete changes the record of its context. -/
theorem State.noteDone_spec (s : State) (c : CtxId) : s.Quiet (s.noteDone c) ∧ (s.noteDone c).cores = s.cores := by
  unfold State.noteDone
  dsimp only
  split
  · exact ⟨State.Quiet.setCtx rfl, rfl⟩
  · exact ⟨.refl s, rfl⟩

/-! ### TRAP and BRK (R156, R398) -/

theorem exec_trap_empty {s : State} {r1 : BitVec 5} (hq : s.me.queue = []) : exec (.trap r1) s =
    .next (s.trapEntry ((s.reg r1).extractLsb' 0 16) true (s.reg r1) (s.me.pc + 4)) :=
  congrArg Host.Outcome.next (s.drained_empty _ hq)

theorem exec_brk_empty {s : State} (hq : s.me.queue = []) : exec .brk s =
    .next (if s.mine.dbg.arm.getLsbD s.str.val then s.debugHalt s.cur s.str else s.trap .brk 0) :=
  congrArg Host.Outcome.next (s.drained_empty _ hq)

/-- A calm strand has nothing to deliver or to perform before it stops. -/
theorem State.stopScalar_calm {s : State} (hcalm : s.calm = true) (hm : s.me.muldiv = false) :
    s.stopScalar s.cur s.str = s := by
  obtain ⟨-, -, hrelaxed, -⟩ := State.calm_parts hcalm
  have hme : ({ s.me with muldiv := false } : Strand) = s.me := by rw [← hm]
  rw [State.stopScalar, State.drainRelaxed_none _ _ _ hrelaxed]
  exact (congrArg s.setMe hme).trans s.setMe_me

theorem Strand.xredBusy_empty {st : Strand} (h : st.queue = []) : st.xredBusy = false := by
  simp [Strand.xredBusy, Strand.headInstr, h]

theorem Strand.awaitsAnswer_none {st : Strand} (h : st.wait = none) : st.awaitsAnswer = false := by
  rw [Strand.awaitsAnswer, h]

/-- A strand that neither waits nor holds an entry stops as it is. -/
theorem State.haltWait_spec {s : State} {p : CoreId} {t : StrandId} (hw : (s.strand p t).wait = none)
    (hq : (s.strand p t).queue = []) : s.Quiet (s.haltWait p t) ∧ (s.haltWait p t).strand p t = s.strand p t := by
  obtain ⟨hleft, hstrand⟩ := State.leaveWait_spec hw
  have hhalt : s.haltWait p t = s.leaveWait p t := by
    rw [State.haltWait, hw]
    exact State.withdrawVwait_empty (by rw [hstrand, hq])
  rw [hhalt]
  exact ⟨hleft, hstrand⟩

/-- A calm strand halts for the debugger at once. -/
theorem State.debugHalt_calm {s : State} (hcalm : s.calm = true) (hm : s.me.muldiv = false)
    (hd : s.mine.deliveries = []) :
    s.Quiet (s.debugHalt s.cur s.str) ∧ (s.debugHalt s.cur s.str).me = s.me.dbgStop := by
  obtain ⟨hwait, hqueue, -, hext, -⟩ := State.calm_parts hcalm
  have hbusy : (s.strand s.cur s.str).xredBusy = false := Strand.xredBusy_empty hqueue
  have hanswer : (s.strand s.cur s.str).awaitsAnswer = false := Strand.awaitsAnswer_none hwait
  have hidle : ((s.strand s.cur s.str).xredBusy || s.outstanding s.cur s.str) = false := by
    rw [hbusy, State.outstanding, hanswer, hext]
    rfl
  obtain ⟨hleft, hstrand⟩ := State.haltWait_spec hwait hqueue
  set e := (s.haltWait s.cur s.str).setStrand s.cur s.str s.me.dbgStop with he_def
  have hstop : s.Quiet e := hleft.trans (State.Quiet.setStrand ..)
  have hme : e.strand s.cur s.str = s.me.dbgStop := State.strand_setStrand ..
  unfold State.debugHalt
  simp only [State.stopScalar_calm hcalm hm, hidle, Bool.false_eq_true, if_false, hstrand]
  rw [← State.me, ← he_def, State.retryHeld_none ((hstop.deliveries s.cur).trans hd)]
  split
  · next c _ =>
    obtain ⟨hdone, hcores⟩ := e.noteDone_spec c
    exact ⟨hstop.trans hdone, by rw [(hstop.trans hdone).me, State.strand_of_cores hcores, hme]⟩
  · exact ⟨hstop, by rw [hstop.me, hme]⟩

/-- Settles O25: with an empty queue TRAP and BRK go on to the handler, or BRK to the debugger's halt. -/
theorem trapAndBreakpointEnterTheHandler : Obligations.TrapAndBreakpointEnterTheHandler := by
  unfold Obligations.TrapAndBreakpointEnterTheHandler
  intro s r1
  refine ⟨fun hq htact => ⟨⟨_, exec_trap_empty hq, s.trapEntry_took _ _ _ _ htact⟩, fun harm => ?_⟩,
    fun hcalm hm hd harm => ?_, fun hq hv => ?_⟩
  · exact ⟨_, (exec_brk_empty hq).trans (congrArg Host.Outcome.next (if_neg (Bool.eq_false_iff.mp harm))),
      s.trap_took .brk 0 nofun htact⟩
  · obtain ⟨hquiet, hme⟩ := State.debugHalt_calm hcalm hm hd
    refine ⟨_, (exec_brk_empty (State.calm_parts hcalm).2.1).trans (congrArg Host.Outcome.next (if_pos harm)), ?_⟩
    exact ⟨by rw [hme, Strand.dbgStop], by rw [hme, Strand.dbgStop], State.reg_congr (by rw [hme, Strand.dbgStop]),
      hquiet.sameBytes⟩
  · exact List.forall_mem_cons.mpr ⟨⟨_, rfl, State.drained_waits _ hq hv⟩,
      List.forall_mem_cons.mpr ⟨⟨_, rfl, State.drained_waits _ hq hv⟩, List.forall_mem_nil _⟩⟩

/-! ### TRET (R157) -/

theorem State.payPush_none {s : State} (k : State → State) (h : s.me.counted = []) : s.payPush k = k s := by
  simp [State.payPush, h, State.payPushes]

theorem State.payServing_none {s : State} (h : s.me.serving = none) : s.payServing = s := by
  rw [State.payServing, h]

/-- A strand that nothing is owed or held for goes on as it returns. -/
theorem State.payPush_return {s : State} {st : Strand} (hr : st.replay = []) (hc : st.counted = [])
    (hv : st.serving = none) :
    (s.setMe st).payPush (fun a => (a.setMe a.me.startRecommit).payServing) = s.setMe st := by
  have hheld : st.startRecommit = st := if_pos hr
  rw [State.payPush_none _ (by rw [State.me_setMe, hc]), State.me_setMe, hheld, State.setMe_setMe,
    State.payServing_none (by rw [State.me_setMe, hv])]

/-- Settles O26: TRET restores the level and goes on at TEPC, and completes nothing else. -/
theorem trapReturnRestoresTheLevel : Obligations.TrapReturnRestoresTheLevel := by
  unfold Obligations.TrapReturnRestoresTheLevel
  intro s hrun hr hc hv
  refine ⟨_, congrArg Host.Outcome.next (s.privileged_runtime _ _ hrun), ?_⟩
  rw [← addr50_eq_mul]
  exact State.payPush_return hr hc hv

/-! ### WFE (R159) -/

/-- Settles O27: WFE tests the latch, which it clears where it goes on. -/
theorem waitForEventTestsTheLatch : Obligations.WaitForEventTestsTheLatch := by
  unfold Obligations.WaitForEventTestsTheLatch
  intro s
  refine ⟨fun h => ⟨_, congrArg Host.Outcome.next (if_pos h), ?_⟩,
    fun h => ⟨_, congrArg Host.Outcome.next (if_neg (Bool.eq_false_iff.mp h)), rfl⟩⟩
  rw [State.advance_eq, State.setMe_setMe, State.me_setMe]

/-! ### HALTC (R160, R387) -/

/-- Lanes that were due are released. -/
theorem State.lanesPaid_spec (s : State) (p : CoreId) (t : StrandId) :
    s.Quiet (s.lanesPaid p t) ∧ (s.strand p t).sameButLanes ((s.lanesPaid p t).strand p t) := by
  unfold State.lanesPaid
  dsimp only
  split
  · obtain ⟨hquiet, hsame, -⟩ :=
      State.lanesReleased_spec (s.setStrand p t { s.strand p t with lanesDue := false }) p t 16
    rw [State.strand_setStrand] at hsame
    exact ⟨(State.Quiet.setStrand ..).trans hquiet, hsame⟩
  · exact ⟨.refl s, rfl⟩

/-- A strand that holds no entries discards none. -/
theorem State.dropReplay_none {s : State} {p : CoreId} {t : StrandId} (hr : (s.strand p t).replay = [])
    (hw : (s.strand p t).wait = none) : s.dropReplay p t = s.lanesPaid p t := by
  have hkept : ({ s.strand p t with replay := [], wait := none } : Strand) = s.strand p t := by rw [← hr, ← hw]
  simp only [State.dropReplay, Strand.discardReplay, hr, hw, List.filter_nil, List.foldl_nil, ite_self, hkept,
    State.setStrand_self]

theorem State.endFiring_none {s : State} (h : s.me.firing = none) : s.endFiring = s := by
  rw [State.endFiring, h]

/-- Of a strand that was asked for no trap nothing passes to another. -/
theorem State.askAnother_none {s : State} (ha : s.me.asyncTraps = []) (hv : s.me.serving = none)
    (hd : s.mine.deliveries = []) : s.askAnother = s := by
  have hme : ({ s.me with asyncTraps := [], serving := none } : Strand) = s.me := by rw [← ha, ← hv]
  simp only [State.askAnother, hme, State.setMe_me, ha, hv, Option.toList_none, List.append_nil, List.any_nil,
    State.retryHeld_none hd, Bool.false_eq_true, if_false]

theorem State.retryPreempts_none {s : State} (h : ∀ c, (s.ctx c).pWait = none) : s.retryPreempts = s := by
  refine foldl_keeps (· = s) _ (fun a c ha => ?_) allCtxs s rfl
  subst ha
  rw [h c]

/-- The strand halted, with its pc past the HALTC. -/
def Strand.ended (st : Strand) : Strand := { st with pc := st.pc + 4, halted := true, dbgStep := false }

/-- A strand outside a firing that nothing was asked of ends without lanes. -/
theorem State.haltc_spec {s : State} (hf : s.me.firing = none) (ha : s.me.asyncTraps = []) (hv : s.me.serving = none)
    (hd : s.mine.deliveries = []) (hp : ∀ c, (s.ctx c).pWait = none) :
    s.Quiet s.haltc ∧ ∃ b, s.me.laneless b ∧ s.haltc.me = b.ended := by
  obtain ⟨hquiet, hnone⟩ := s.lanesReleased_spec s.cur s.str 16
  set a := (s.releaseLanes s.cur s.str).serveLanes s.cur 16 with ha_def
  rw [← hquiet.me, ← State.me] at hnone
  obtain ⟨-, -, -, -, htraps, hserving⟩ := Strand.sameButLanes_fields hnone.1
  set e := a.setMe a.me.ended with he_def
  have hend : s.Quiet e := hquiet.trans (State.Quiet.setMe a a.me.ended)
  have heme : e.me = a.me.ended := State.me_setMe ..
  have hask : e.askAnother = e :=
    State.askAnother_none (by rw [heme, Strand.ended, htraps, ha]) (by rw [heme, Strand.ended, hserving, hv])
      ((hend.deliveries _).trans (hquiet.cur ▸ hd))
  obtain ⟨hdone, hcores⟩ := e.noteDone_spec e.myCtx
  have hall := hend.trans hdone
  have hhaltc : s.haltc = e.noteDone e.myCtx := by
    rw [State.haltc, State.endFiring_none hf]
    simp only [← ha_def, State.advance_eq, State.me_setMe, State.setMe_setMe]
    show (e.askAnother.noteDone e.askAnother.myCtx).retryPreempts = _
    rw [hask, State.retryPreempts_none fun c => (hall.pWait c).trans (hp c)]
  rw [hhaltc]
  refine ⟨hall, a.me, hnone, ?_⟩
  rw [hdone.me, State.strand_of_cores hcores, ← State.me, heme]

/-- Settles O28: the strand leaves its lanes and ends; nothing else was owed to it. -/
theorem haltcEndsTheStrand : Obligations.HaltcEndsTheStrand := by
  unfold Obligations.HaltcEndsTheStrand
  intro s hrun hcalm hf hr ha hv hd hp
  obtain ⟨hwait, hqueue, -⟩ := State.calm_parts hcalm
  obtain ⟨hpaid, hsame⟩ := s.lanesPaid_spec s.cur s.str
  set a := s.lanesPaid s.cur s.str with ha_def
  rw [← hpaid.me, ← State.me] at hsame
  obtain ⟨-, -, hqueue', hfiring', htraps', hserving'⟩ := Strand.sameButLanes_fields hsame
  have hx : exec .haltc s = .next a.haltc := by
    refine congrArg Host.Outcome.next ((s.privileged_runtime _ _ hrun).trans ?_)
    rw [State.dropReplay_none hr hwait, ← ha_def, State.haltcWaits, hfiring', hf,
      State.drained_empty _ _ (hqueue'.trans hqueue)]
    rfl
  obtain ⟨hquiet, b, ⟨hlanes, hpart, hcls, hvlen⟩, hme⟩ := State.haltc_spec (hfiring'.trans hf) (htraps'.trans ha)
    (hserving'.trans hv) ((hpaid.deliveries _).trans (hpaid.cur ▸ hd)) fun c => (hpaid.pWait c).trans (hp c)
  obtain ⟨hregs, hpc, -⟩ := Strand.sameButLanes_fields (Strand.sameButLanes_trans hsame hlanes)
  refine ⟨_, hx, by rw [hme, Strand.ended], ?_, by rw [hme, Strand.ended, hpart], by rw [hme, Strand.ended, hcls],
    by rw [hme, Strand.ended, hvlen], State.reg_congr (by rw [hme, Strand.ended, hregs]),
    (hpaid.trans hquiet).sameBytes⟩
  rw [State.wentOn, hme, Strand.ended, hpc]

/-! ### A second trap in a handler (R157, R402, R403) -/

theorem State.machineCheck_core (s : State) (kind : Nat) (c : Option CtxId) (p : CoreId) (t : Option StrandId)
    (cause : BitVec 16) (addr pc : Word) (q : CoreId) : (s.machineCheck kind c p t cause addr pc).core q = s.core q := by
  simp only [State.core, State.machineCheck, State.signal]

/-- A machine check counts its record; the strand that acts stays the same. -/
theorem State.machineCheck_counts (s : State) (kind : Nat) (c : Option CtxId) (p : CoreId) (t : Option StrandId)
    (cause : BitVec 16) (addr pc : Word) :
    (s.machineCheck kind c p t cause addr pc).cur = s.cur ∧ (s.machineCheck kind c p t cause addr pc).str = s.str ∧
      (s.machineCheck kind c p t cause addr pc).mcCount = s.mcCount + 1 := by
  simp only [State.machineCheck, State.signal, and_self]

/-- The first word of a record of kind 1 says so, and names the cause. -/
theorem record_fields (c : CtxId) (p : CoreId) (t : StrandId) (cause : BitVec 16) :
    let w0 := word (1 * 2 ^ 56 + (c.val * 2 ^ 50 + 2 ^ 49) + p.val * 2 ^ 40 + (t.val * 2 ^ 37 + 2 ^ 36) + cause.toNat)
    w0.extractLsb' 56 8 = 1 ∧ w0.extractLsb' 0 16 = cause := by
  have hc := c.isLt
  have hp := p.isLt
  have ht := t.isLt
  have hcause := cause.isLt
  refine ⟨BitVec.eq_of_toNat_eq ?_, BitVec.eq_of_toNat_eq ?_⟩
  · rw [BitVec.extractLsb'_toNat, word, BitVec.toNat_ofNat, Nat.shiftRight_eq_div_pow]
    show _ = 1
    omega
  · rw [BitVec.extractLsb'_toNat, word, BitVec.toNat_ofNat, Nat.shiftRight_zero]
    omega

theorem State.abortCtx_core (s : State) (c : CtxId) (n : Nat) (p : CoreId) (h : (s.core p).serves = some c) :
    (s.abortCtx c n).core p = { (s.core p).giveUp with strands := (s.core p).strands.map Strand.abort } := by
  simp only [State.abortCtx, State.setCtx, State.core, Fin.getElem_fin, Vector.getElem_map]
  exact if_pos h

theorem State.abortCtx_strand (s : State) (c : CtxId) (n : Nat) (p : CoreId) (u : StrandId)
    (h : (s.core p).serves = some c) : (s.abortCtx c n).strand p u = (s.strand p u).abort := by
  rw [State.strand, State.abortCtx_core s c n p h]
  simp only [Fin.getElem_fin, Vector.getElem_map, State.strand]

theorem State.abortCtx_ctx (s : State) (c : CtxId) (n : Nat) :
    ((s.abortCtx c n).ctx c).aborted = true ∧ ((s.abortCtx c n).ctx c).recNo = BitVec.ofNat 32 n := by
  rw [State.abortCtx, State.ctx_setCtx]
  exact ⟨rfl, rfl⟩

theorem State.abortCtx_cur (s : State) (c : CtxId) (n : Nat) : (s.abortCtx c n).cur = s.cur := by
  simp only [State.abortCtx, State.setCtx, State.orphanExt]

theorem State.abortCtx_str (s : State) (c : CtxId) (n : Nat) : (s.abortCtx c n).str = s.str := by
  simp only [State.abortCtx, State.setCtx, State.orphanExt]

theorem State.abortCtx_mcCount (s : State) (c : CtxId) (n : Nat) : (s.abortCtx c n).mcCount = s.mcCount := by
  simp only [State.abortCtx, State.setCtx, State.orphanExt]

theorem State.abortCtx_machineChecks (s : State) (c : CtxId) (n : Nat) :
    (s.abortCtx c n).machineChecks = s.machineChecks := by
  simp only [State.abortCtx, State.setCtx, State.orphanExt]

/-- The trap registers outlive the abort of a strand. -/
theorem Strand.abort_trapRegs (st : Strand) :
    st.abort.cause = st.cause ∧ st.abort.tval = st.tval ∧ st.abort.tepc = st.tepc := by
  refine foldl_keeps (fun x : Strand => x.cause = st.cause ∧ x.tval = st.tval ∧ x.tepc = st.tepc) _
    (fun x r hx => ?_) st.readq st ⟨rfl, rfl, rfl⟩
  split
  · split
    · exact hx
    · rwa [Strand.withX_cause, Strand.withX_tval, Strand.withX_tepc]
  · exact hx

theorem State.machineCheck_last (s : State) (kind : Nat) (c : CtxId) (p : CoreId) (t : StrandId)
    (cause : BitVec 16) (addr pc : Word) :
    ∃ r, (s.machineCheck kind (some c) p (some t) cause addr pc).machineChecks.getLast? = some r ∧ r.w0 =
      word (kind * 2 ^ 56 + (c.val * 2 ^ 50 + 2 ^ 49) + p.val * 2 ^ 40 + (t.val * 2 ^ 37 + 2 ^ 36) + cause.toNat) := by
  refine ⟨⟨_, addr, pc, word s.cycles⟩, ?_, rfl⟩
  simp only [State.machineCheck, State.signal]
  rw [List.getLast?_drop, if_neg (by rw [List.length_append, List.length_singleton]; omega), List.getLast?_concat]
  rfl

/-- The parts of a double trap of a core that serves a context: its record, then the abort. -/
theorem State.doubleTrap_eq {s : State} {c : CtxId} (cause : BitVec 16) (tval : Word) (h : s.mine.serves = some c) :
    s.doubleTrap cause tval =
      (s.machineCheck 1 (some c) s.cur (some s.str) cause tval s.me.pc).abortCtx c s.mcCount := by
  simp only [State.doubleTrap, h]

section doubleTrap
variable {s : State} {c : CtxId} (cause : BitVec 16) (tval : Word) (h : s.mine.serves = some c)
include h

theorem State.doubleTrap_ctx : ((s.doubleTrap cause tval).ctx c).aborted = true ∧
    ((s.doubleTrap cause tval).ctx c).recNo = BitVec.ofNat 32 s.mcCount := by
  rw [State.doubleTrap_eq cause tval h]
  exact State.abortCtx_ctx _ c _

theorem State.doubleTrap_mcCount : (s.doubleTrap cause tval).mcCount = s.mcCount + 1 := by
  rw [State.doubleTrap_eq cause tval h, State.abortCtx_mcCount]
  exact (State.machineCheck_counts ..).2.2

theorem State.doubleTrap_record : ∃ r, (s.doubleTrap cause tval).machineChecks.getLast? = some r ∧
    r.w0.extractLsb' 56 8 = 1 ∧ r.w0.extractLsb' 0 16 = cause := by
  obtain ⟨r, hlast, hw0⟩ := s.machineCheck_last 1 c s.cur s.str cause tval s.me.pc
  refine ⟨r, ?_, hw0 ▸ record_fields c s.cur s.str cause⟩
  rw [State.doubleTrap_eq cause tval h, State.abortCtx_machineChecks, hlast]

theorem State.doubleTrap_strand {p : CoreId} (u : StrandId) (hp : (s.core p).serves = some c) :
    (s.doubleTrap cause tval).strand p u = (s.strand p u).abort := by
  rw [State.doubleTrap_eq cause tval h, State.abortCtx_strand _ _ _ _ _ (by rw [State.machineCheck_core, hp]),
    State.strand, State.machineCheck_core, State.strand]

theorem State.doubleTrap_me : (s.doubleTrap cause tval).me = s.me.abort := by
  have hcur : (s.doubleTrap cause tval).cur = s.cur := by
    rw [State.doubleTrap_eq cause tval h, State.abortCtx_cur]
    exact (State.machineCheck_counts ..).1
  have hstr : (s.doubleTrap cause tval).str = s.str := by
    rw [State.doubleTrap_eq cause tval h, State.abortCtx_str]
    exact (State.machineCheck_counts ..).2.1
  rw [State.me, hcur, hstr, State.doubleTrap_strand cause tval h s.str h, State.me]

end doubleTrap

/-- Settles O29: the trap is a double one, whose record and abort leave what is stated. -/
theorem trapInAHandlerAbortsTheContext : Obligations.TrapInAHandlerAbortsTheContext := by
  unfold Obligations.TrapInAHandlerAbortsTheContext
  intro s r1 c hq htact hc
  have hx : exec (.trap r1) s = .next (s.doubleTrap ((s.reg r1).extractLsb' 0 16) (s.reg r1)) := by
    rw [exec_trap_empty hq, State.trapEntry_double _ _ _ _ _ htact]
  obtain ⟨haborted, hrec⟩ := State.doubleTrap_ctx ((s.reg r1).extractLsb' 0 16) (s.reg r1) hc
  obtain ⟨hcause, htval, htepc⟩ := s.me.abort_trapRegs
  have hme := State.doubleTrap_me ((s.reg r1).extractLsb' 0 16) (s.reg r1) hc
  rw [← hme] at hcause htval htepc
  exact ⟨_, hx, haborted, hrec, State.doubleTrap_mcCount _ _ hc, hcause, htval, htepc, State.doubleTrap_record _ _ hc,
    fun p u hp => congrArg Strand.halted (State.doubleTrap_strand _ _ hc u hp)⟩

end Sys2Proof.Machine
end

section
/-! Issue, retirement and delivery (R162 to R168): the instruction whose word is at hand runs, a finished head leaves
its queue, and the first value of the read queue reaches its register, with O5 and O37. -/

namespace Sys2Proof.Machine

/-! ### The instruction at hand (R164, R165) -/

/-- Which registers of failed loads an instruction reads is the same once the strand is the one that issues. -/
theorem State.issued_spoiled (s : State) (p : CoreId) (t : StrandId) (i : Instr) :
    (s.issued p t).me.spoiled i = (s.strand p t).spoiled i := by
  rw [State.issued_me]
  rfl

theorem State.blocked_of_mayIssue {s : State} {p : CoreId} {t : StrandId} {w : IWord} {i : Instr}
    (hx : decode w = .ok i) (hm : s.mayIssue p t w i = true) : s.blocked p t (some w) = false := by
  simp only [State.blocked, hx, hm, Bool.not_true]

theorem State.issueWord_ok {s : State} {p : CoreId} {t : StrandId} {w : IWord} {i : Instr} (hx : decode w = .ok i) :
    s.issueWord p t (some w) = s.issueInstr p t w i := by
  simp only [State.issueWord, hx]

/-- An instruction that reads no register of a failed load runs, and keeps its word where it has not completed. -/
theorem State.issueInstr_unspoiled {s : State} {p : CoreId} {t : StrandId} {i : Instr} (w : IWord)
    (h : (s.strand p t).spoiled i = none) : s.issueInstr p t w i =
      andThen (exec i (s.issued p t)) fun a => .next (a.keepIssued p t (s.strand p t).pc w i) := by
  simp only [State.issueInstr, s.issued_spoiled, h, s.issued_pc]
  cases exec i (s.issued p t) <;> rfl

/-- Settles O5: the step lets the strand issue, whose word decodes and does not keep it waiting. -/
theorem stepRunsTheDecodedInstruction : Obligations.StepRunsTheDecodedInstruction := by
  unfold Obligations.StepRunsTheDecodedInstruction
  intro s p t rest i w s1 pc ha ht hb hw hc hn hx hm hspoiled hd
  have hissue : s1.issue p t = s1.issueWord p t (some w) :=
    State.issue_word (State.saving_of_turn ht) hb hw hc hd hn (State.blocked_of_mayIssue hx hm)
  have hstep : step s = s1.issue p t := step_issue_of_turn ha ht
  rw [hstep, hissue, State.issueWord_ok hx, State.issueInstr_unspoiled w hspoiled]
  cases exec i (s1.issued p t) <;> rfl

/-! ### What retirement leaves of a core (R61, R105, R167) -/

theorem Core.clearArrived_none {c : Core} {e : QEntry} (h : e.chans = 0) : c.clearArrived e = c := if_pos h

/-- Loans change who uses the arrays and the lanes of strands. -/
theorem Core.loansTake_rest (c : Core) (l : List ArrayId) :
    ∃ u v, c.loansTake l = { c with uses := u, strands := v } := by
  refine foldl_keeps (fun d : Core => ∃ u v, d = { c with uses := u, strands := v }) _ (fun d a hd => ?_) l c
    ⟨c.uses, c.strands, rfl⟩
  obtain ⟨u, v, rfl⟩ := hd
  split
  · exact ⟨_, _, rfl⟩
  · exact ⟨_, _, rfl⟩
  · exact ⟨u, v, rfl⟩

/-- Loans that settle are some that take effect. -/
theorem Core.loansSettle_eq (c : Core) (t : StrandId) : ∃ l, c.loansSettle t = c.loansTake l := by
  unfold Core.loansSettle
  dsimp only
  split
  · exact ⟨[], rfl⟩
  · exact ⟨_, rfl⟩

theorem Core.loansSettle_channels (c : Core) (t : StrandId) : (c.loansSettle t).channels = c.channels := by
  obtain ⟨l, hl⟩ := c.loansSettle_eq t
  obtain ⟨u, v, hrest⟩ := c.loansTake_rest l
  rw [hl, hrest]

theorem Core.loansSettle_lanesMove (c : Core) (t u : StrandId) : c.lanesMove u (c.loansSettle t) := by
  obtain ⟨l, hl⟩ := c.loansSettle_eq t
  rw [hl]
  exact c.loansTake_lanesMove l u

/-- With no loan begun none settles. -/
theorem Core.loansSettle_none {c : Core} (t : StrandId) (h : ∀ u ∈ c.uses, ∀ b, u.2 ≠ .leaving b) :
    c.loansSettle t = c := by
  unfold Core.loansSettle
  dsimp only
  split
  · rfl
  · rw [List.filter_eq_nil_iff.mpr fun u hu => ?_]
    · rfl
    · have hu := h u hu
      cases hleft : u.2 with
      | leaving b => exact absurd hleft (hu b)
      | short _ | lending _ | returned => simp

theorem State.landDeposits_none {s : State} {p : CoreId} (h : (s.core p).channels = []) : s.landDeposits p = s := by
  have : ({ s.core p with channels := [] } : Core) = s.core p := by rw [← h]
  rw [State.landDeposits, h, State.landAll, this, State.setCore_core]

theorem State.entryReleases_none {s : State} {p : CoreId} {t : StrandId} {e : QEntry} (h : e.releases = false) :
    s.entryReleases p t e = s := by
  simp [State.entryReleases, h]

/-- An entry that releases its lanes and ends no firing makes them due. -/
theorem State.entryReleases_due {s : State} {p : CoreId} {t : StrandId} {e : QEntry} (h : e.releases = true)
    (he : e.ending = []) : s.entryReleases p t e = s.setStrand p t { s.strand p t with lanesDue := true } := by
  simp [State.entryReleases, h, he]

theorem QEntry.releases_lanerel {e : QEntry} (h : e.instr = some .lanerel) : e.releases = true := by
  simp [QEntry.releases, h]

theorem State.lanesPaid_none {s : State} {p : CoreId} {t : StrandId} (h : (s.strand p t).lanesDue = false) :
    s.lanesPaid p t = s := by
  simp [State.lanesPaid, h]

/-- Lanes that are due and that no held entry keeps are given up. -/
theorem State.lanesPaid_due {s : State} {p : CoreId} {t : StrandId} (h : (s.strand p t).lanesDue = true)
    (hk : (s.strand p t).heldLeft = false) :
    s.Quiet (s.lanesPaid p t) ∧ (s.strand p t).laneless ((s.lanesPaid p t).strand p t) := by
  obtain ⟨hquiet, hsame, hnone⟩ :=
    State.lanesReleased_spec (s.setStrand p t { s.strand p t with lanesDue := false }) p t 16
  rw [State.strand_setStrand] at hsame
  have hpaid : s.lanesPaid p t =
      ((s.setStrand p t { s.strand p t with lanesDue := false }).releaseLanes p t).serveLanes p 16 := by
    simp [State.lanesPaid, h, hk]
  rw [hpaid]
  exact ⟨(State.Quiet.setStrand ..).trans hquiet, hsame, hnone⟩

/-! ### The strand whose head retires (R40, R167, R168) -/

/-- The strand once its head has left the queue. -/
def Strand.headRetired (st : Strand) (e : QEntry) (rest : List QEntry) (h : HeadRun) : Strand :=
  { st with
    queue := rest
    head := none
    vicount := st.vicount + 1
    readq := match e.dest with
      | some _ => fillSlot (h.result.getD 0) st.readq
      | none => st.readq }

theorem Strand.headRetired_readq (st : Strand) (e : QEntry) (rest : List QEntry) (h : HeadRun) :
    (st.headRetired e rest h).readq = if e.dest.isSome then fillSlot (h.result.getD 0) st.readq else st.readq := by
  unfold Strand.headRetired
  cases e.dest <;> rfl

/-- The strand once what waited for the retirement goes on: entries that are held, and an instruction that waits for
the queue to drain. -/
def Strand.afterRetire (st : Strand) : Strand :=
  let st1 := if st.wait = some .slot then st.recommit 33 else st
  if st1.wait = some .drain ∧ st1.queue = [] then { st1 with wait := none } else st1

theorem Strand.afterRetire_noSlot {st : Strand} (h : st.wait ≠ some .slot) :
    st.afterRetire = { st with wait := if st.wait = some .drain ∧ st.queue = [] then none else st.wait } := by
  simp only [Strand.afterRetire, if_neg h]
  split <;> rfl

/-- With no entries held there is none to join the queue again. -/
theorem Strand.recommit_none {st : Strand} (h : st.replay = []) (n : Nat) :
    st.recommit (n + 1) = { st with wait := if st.wait = some .slot then none else st.wait } := by
  unfold Strand.recommit
  split
  · rfl
  · next hheld => exact absurd (h.symm.trans hheld) nofun

/-- What goes on after a retirement leaves its wait, and with no entries held nothing else changes. -/
theorem Strand.afterRetire_rest {st : Strand} (h : st.replay = []) :
    st.afterRetire = { st with wait := st.afterRetire.wait } := by
  unfold Strand.afterRetire
  dsimp only
  rw [Strand.recommit_none h]
  split <;> split <;> rfl

section retire
variable {s : State} {p : CoreId} {t : StrandId} {e : QEntry} {rest : List QEntry} {h : HeadRun}
  (hq : (s.strand p t).queue = e :: rest) (hh : (s.strand p t).head = some h) (hf : h.finished = true)
  (hc : e.chans = 0)
include hq hh hf hc

/-- A retirement settles loans, lands deposits and pays the lanes that are due, and the strand goes on. -/
theorem State.retireHead_eq {s1 s2 : State} (h1 : s1 = s.setStrand p t ((s.strand p t).headRetired e rest h))
    (h2 : s2 = (((s1.setCore p ((s1.core p).loansSettle t)).landDeposits p).entryReleases p t e).lanesPaid p t) :
    s.retireHead p t = s2.setStrand p t (s2.strand p t).afterRetire := by
  subst h1 h2
  unfold State.retireHead
  simp only [hq, hh, hf, Core.clearArrived_none hc, if_pos hc, State.setCore_core, Bool.not_true, Bool.false_eq_true,
    if_false]
  rfl

/-- Where no loan, no deposit and no release is due, the strand alone changes. -/
theorem State.retireHead_plain (hchannels : (s.core p).channels = [])
    (huses : ∀ u ∈ (s.core p).uses, ∀ b, u.2 ≠ .leaving b) (hdue : (s.strand p t).lanesDue = false)
    (hrel : e.releases = false) :
    s.retireHead p t = s.setStrand p t ((s.strand p t).headRetired e rest h).afterRetire := by
  obtain ⟨s1, hs1⟩ : ∃ s1, s1 = s.setStrand p t ((s.strand p t).headRetired e rest h) := ⟨_, rfl⟩
  have hst1 : s1.strand p t = (s.strand p t).headRetired e rest h := by rw [hs1, State.strand_setStrand]
  have hloans : (s1.core p).loansSettle t = s1.core p :=
    Core.loansSettle_none t (by rw [hs1, State.setStrand_core_uses]; exact huses)
  have hdeposits : (s1.core p).channels = [] := by rw [hs1, State.setStrand_core_channels, hchannels]
  have hkept : s1 =
      (((s1.setCore p ((s1.core p).loansSettle t)).landDeposits p).entryReleases p t e).lanesPaid p t := by
    rw [hloans, State.setCore_core, State.landDeposits_none hdeposits, State.entryReleases_none hrel,
      State.lanesPaid_none (by rw [hst1]; exact hdue)]
  rw [State.retireHead_eq hq hh hf hc hs1 hkept, hst1, hs1, State.setStrand_setStrand]

/-- An entry that releases its lanes, with no entry held, leaves the strand none. -/
theorem State.retireHead_releasing (hchannels : (s.core p).channels = []) (hreplay : (s.strand p t).replay = [])
    (hagain : rest.any (·.again) = false) (hrel : e.releases = true) (hend : e.ending = []) :
    ∃ s2 : State, s.retireHead p t = s2.setStrand p t (s2.strand p t).afterRetire ∧
      ((s.strand p t).headRetired e rest h).laneless (s2.strand p t) ∧ s2.mem = s.mem := by
  obtain ⟨s1, hs1⟩ : ∃ s1, s1 = s.setStrand p t ((s.strand p t).headRetired e rest h) := ⟨_, rfl⟩
  obtain ⟨s2, hs2⟩ : ∃ s2, s2 = s1.setCore p ((s1.core p).loansSettle t) := ⟨_, rfl⟩
  obtain ⟨s3, hs3⟩ : ∃ s3, s3 = s2.setStrand p t { s2.strand p t with lanesDue := true } := ⟨_, rfl⟩
  have hst1 : s1.strand p t = (s.strand p t).headRetired e rest h := by rw [hs1, State.strand_setStrand]
  have hst3 : s3.strand p t = { s2.strand p t with lanesDue := true } := by rw [hs3, State.strand_setStrand]
  have hsame : ((s.strand p t).headRetired e rest h).sameButLanes (s3.strand p t) := by
    refine Strand.sameButLanes_trans (b := s2.strand p t) ?_ (by rw [hst3]; rfl)
    rw [hs2, State.strand_setCore_self, ← hst1]
    exact ((s1.core p).loansSettle_lanesMove t t).1
  have hheld : (s3.strand p t).heldLeft = false := by
    rw [hsame]
    simp [Strand.heldLeft, Strand.headRetired, hreplay, hagain]
  have hdeposits : (s2.core p).channels = [] := by
    rw [hs2, State.core_setCore, Core.loansSettle_channels, hs1, State.setStrand_core_channels, hchannels]
  have hpaid : s3.lanesPaid p t =
      (((s1.setCore p ((s1.core p).loansSettle t)).landDeposits p).entryReleases p t e).lanesPaid p t := by
    rw [← hs2, State.landDeposits_none hdeposits, State.entryReleases_due hrel hend, ← hs3]
  obtain ⟨hquiet, hsame', hnone⟩ := State.lanesPaid_due (congrArg Strand.lanesDue hst3) hheld
  refine ⟨_, State.retireHead_eq hq hh hf hc hs1 hpaid, ⟨Strand.sameButLanes_trans hsame hsame', hnone⟩, ?_⟩
  rw [hquiet.mem, hs3, State.setStrand_mem, hs2, State.setCore_mem, hs1, State.setStrand_mem]

end retire

/-! ### The first value of the read queue (R168) -/

/-- A register is written whatever the read queue holds. -/
theorem Strand.withX_withReadq (st : Strand) (l : List ReadSlot) (r : BitVec 5) (x : Word) :
    ({ st with readq := l } : Strand).withX r x = { st.withX r x with readq := l } := by
  unfold Strand.withX
  split <;> rfl

theorem State.deliverRead_value {s : State} {p : CoreId} {t : StrandId} {r : ReadSlot} {l : List ReadSlot} {x : Word}
    (hr : (s.strand p t).readq = r :: l) (hv : r.value = some x) (hd : r.dropped = false)
    (hw : (s.strand p t).wait ≠ some .slot) :
    s.deliverRead p t = s.setStrand p t { (s.strand p t).withX r.rd x with readq := l } := by
  have hwait : ((s.strand p t).withX r.rd x).wait ≠ some .slot := by
    rwa [Strand.withX_wait]
  unfold State.deliverRead
  simp only [hr, hv, hd, Bool.false_eq_true, if_false, if_neg hwait, Strand.withX_withReadq]

/-- Settles O37: a plain retirement changes the strand alone, a LANEREL gives up its lanes, and a value that is there is
delivered. -/
theorem queueRetirementAndDelivery : Obligations.QueueRetirementAndDelivery := by
  unfold Obligations.QueueRetirementAndDelivery
  intro s p t e rest h r l x st
  refine ⟨fun hq hh hf hc hreplay hchannels hslot hagain =>
    ⟨fun huses hdue hrel => ?_, fun hinstr hend hreqs => ?_⟩, fun hreadq hvalue hdropped hslot => ?_⟩
  · refine completes_of_next_eq rfl (State.retireHead_plain hq hh hf hc hchannels huses hdue hrel) ?_
    rw [Strand.afterRetire_noSlot (st := st.headRetired e rest h) hslot, ← st.headRetired_readq e rest h]
    rfl
  · obtain ⟨s2, hretired, ⟨hsame, hpart, hcls, hvlen⟩, hmem⟩ :=
      State.retireHead_releasing hq hh hf hc hchannels hreplay hagain (QEntry.releases_lanerel hinstr) hend
    refine completes_of_next_eq rfl hretired ?_
    rw [State.strand_setStrand, Strand.afterRetire_rest (by rw [hsame]; exact hreplay)]
    exact ⟨(congrArg Strand.queue hsame :), (congrArg Strand.vicount hsame :), hpart, hcls, hvlen,
      (congrArg Strand.x hsame :), hmem⟩
  · exact completes_of_next_eq rfl (State.deliverRead_value hreadq hvalue hdropped hslot) rfl

end Sys2Proof.Machine
end

section
/-! What an access from a core that holds no copy leaves of every core: all but its copies, whatever it loads or stores
(R271 to R275), and a store changes the bytes it writes and no other. -/

namespace Sys2Proof.Machine

/-! ### Cores that differ in their copies alone -/

/-- A core apart from the copies that it holds. -/
def Core.besideCopies (c : Core) : Core := { c with copies := [] }

/-- Every core is as before, but for its copies. -/
def State.copiesMove (s t : State) : Prop := ∀ q, (t.core q).besideCopies = (s.core q).besideCopies

namespace State.copiesMove
variable {s t u : State}

theorem refl (s : State) : s.copiesMove s := fun _ => rfl

theorem trans (h : s.copiesMove t) (k : t.copiesMove u) : s.copiesMove u := fun q => (k q).trans (h q)

theorem of_cores (h : t.cores = s.cores) : s.copiesMove t := fun q => by rw [State.core, h, State.core]

theorem store (h : s.copiesMove t) (q : CoreId) : (t.core q).store = (s.core q).store := (congrArg Core.store (h q) :)

theorem lanes (h : s.copiesMove t) (q : CoreId) : (t.core q).lanes = (s.core q).lanes := (congrArg Core.lanes (h q) :)

theorem parityBad (h : s.copiesMove t) (q : CoreId) : (t.core q).parityBad = (s.core q).parityBad :=
  (congrArg Core.parityBad (h q) :)

theorem strand (h : s.copiesMove t) (p : CoreId) (u : StrandId) : t.strand p u = s.strand p u :=
  (congrArg (fun c : Core => c.strands[u]) (h p) :)

theorem setCore {p : CoreId} {c : Core} (h : c.besideCopies = (s.core p).besideCopies) :
    s.copiesMove (s.setCore p c) := fun q => by
  rw [State.core_setCore_ite]
  split
  · next e => rw [h, e]
  · rfl

theorem mapCopies (s : State) (f : CoreId → List Copy → List Copy) : s.copiesMove (s.mapCopies f) := fun q => by
  rw [State.core_mapCopies]
  rfl

end State.copiesMove

/-! ### What accesses leave of every core -/

theorem State.loseDirty_none {s : State} (f : CoreId → Copy → Bool) (hb : s.badCopies = []) : s.loseDirty f = s := by
  simp [State.loseDirty, hb]

theorem State.recall_copiesMove {s : State} (l : List Nat) (k : Option CoreId) (hb : s.badCopies = []) :
    s.copiesMove (s.recall l k) := by
  rw [State.recall, State.loseDirty_none _ hb]
  exact State.copiesMove.mapCopies s _

theorem State.downgrade_copiesMove {s : State} (p : CoreId) (l : List Nat) (hb : s.badCopies = []) :
    s.copiesMove (s.downgrade p l) := by
  rw [State.downgrade, State.loseDirty_none _ hb]
  exact State.copiesMove.mapCopies s _

theorem State.downgrade_none {s : State} (p : CoreId) (l : List Nat) (hb : s.badCopies = [])
    (hc : (s.core p).copies = []) : ((s.downgrade p l).core p).copies = [] := by
  rw [State.downgrade, State.loseDirty_none _ hb, State.core_mapCopies, hc]
  rfl

theorem State.placeCopies_copiesMove {s : State} (p : CoreId) (vec : Bool) (pa g : Nat) (k : CopyKind) (va : Word)
    (new : List (Nat × List Byte)) (hc : (s.core p).copies = []) :
    s.copiesMove (s.placeCopies p vec pa g k va new) := by
  have rooms (l : List Nat) : l.foldl (fun (a : State) n => a.scalarRoom p n) s = s :=
    foldl_keeps (· = s) _ (fun a n ha => by rw [ha, State.scalarRoom_none p n hc]) l s rfl
  have hroom := State.poolRoom_none p (pa / 512) hc
  unfold State.placeCopies
  simp only [rooms, hroom]
  refine .trans ?_ (.setCore rfl)
  exact .of_cores rfl

theorem State.fillCopies_copiesMove {s : State} (p : CoreId) (vec : Bool) (pa g : Nat) (k : CopyKind)
    (hc : (s.core p).copies = []) : s.copiesMove (s.fillCopies p vec pa g k) := by
  unfold State.fillCopies
  simp only [State.writeBackOwn_none p _ hc]
  split
  · exact State.placeCopies_copiesMove _ _ _ _ _ _ _ hc
  · exact State.placeCopies_copiesMove _ _ _ _ _ _ _ hc

/-- A load of a core that holds no copy moves copies alone. -/
theorem State.loadHbm_copiesMove {s : State} (p : CoreId) (pa n g : Nat) (r : Req) (vec : Bool)
    (hc : (s.core p).copies = []) (hx : s.comb = []) (hb : s.badCopies = []) :
    s.copiesMove (s.loadHbm p pa n g r vec).2 := by
  have tracked (l : List Nat) (g' : Nat) : s.copiesMove
      (((((s.recordGrain pa g).combSettle l).writeBackOwn p l).downgrade p l).fillCopies p vec pa g' .tracked) := by
    obtain ⟨-, -, hcores, hcomb, hbad⟩ := State.recordGrain_mem s pa g
    have hc' : ((s.recordGrain pa g).core p).copies = [] := by rw [State.core, hcores]; exact hc
    rw [State.combSettle_none l (hcomb.trans hx), State.writeBackOwn_none p l hc']
    exact .trans (.of_cores hcores) (.trans (State.downgrade_copiesMove p l (hbad.trans hb))
      (State.fillCopies_copiesMove p vec pa g' _ (State.downgrade_none p l (hbad.trans hb) hc')))
  unfold State.loadHbm
  simp only [State.refetch_none p pa n hc, State.loadHit_none p pa r hc]
  split
  · next hhit => exact absurd hhit nofun
  · rw [State.combSettle_none _ hx, State.writeBackOwn_none p _ hc]
    exact .refl s
  · rw [State.combSettle_none _ hx, State.writeBackOwn_none p _ hc, State.dropOwn_none p _ hc, ite_self]
    exact State.fillCopies_copiesMove p vec pa _ _ hc
  · exact tracked _ _

/-- A load by its address: what home holds comes, copies alone move, and memory stays as it is. -/
theorem State.loadAt_spec {s : State} (p : CoreId) (pa n g : Nat) (dev : Bool) (r : Req) (vec : Bool)
    (hc : (s.core p).copies = []) (hx : s.comb = []) (hb : s.badCopies = []) :
    (s.loadAt p pa n g dev r vec).1 = s.peekHome pa n ∧ (s.loadAt p pa n g dev r vec).2.mem = s.mem ∧
      s.copiesMove (s.loadAt p pa n g dev r vec).2 := by
  unfold State.loadAt
  split
  · next a ha =>
    obtain ⟨hbytes, hmem⟩ := State.loadHbm_bytes p pa n g (if dev then .u else r) vec hc hx hb
    refine ⟨hbytes.trans ?_, hmem, State.loadHbm_copiesMove p pa n g _ vec hc hx hb⟩
    rw [State.peekHome, ha]
  · rw [State.combSettle_none _ hx]
    exact ⟨rfl, rfl, .refl s⟩

/-! ### Where addresses lie (R8, R267) -/

theorem region_hbm_eq {pa a : Nat} (h : region pa = .hbm a) : a = pa := by
  unfold region at h
  split_ifs at h
  exact (Region.hbm.inj h).symm

/-- The address of an offset in the scratchpad of a core. -/
theorem region_spad_eq {pa : Nat} {q : CoreId} {off : Nat} (h : region pa = .spad q off) :
    pa = spadBase + 2 ^ 24 * q.val + off := by
  unfold region at h
  split_ifs at h with _ _ hin
  simp only [Region.spad.injEq, Fin.ext_iff] at h
  omega

/-- An access that the device itself performs needs nothing beyond the package. -/
theorem isExternal_of_onDevice {pa : Nat} (h : onDevice pa = true) : isExternal pa = false := by
  unfold onDevice at h
  unfold isExternal
  cases hr : region pa <;> simp_all

/-! ### Bytes written at home -/

theorem Memory.read_one (m : Memory) (a : Nat) : m.read a 1 = [m.get a] := rfl

/-- What memory reads as depends on HBM and on what each core keeps of its scratchpad. -/
theorem State.peekHome_of_store {s t : State} (hm : t.mem = s.mem)
    (hstore : ∀ q, (t.core q).store = (s.core q).store) (pa n : Nat) : t.peekHome pa n = s.peekHome pa n := by
  unfold State.peekHome
  split
  · next q off _ =>
    have hspad : (t.core q).spad = (s.core q).spad := congrArg (·.1) (hstore q)
    have hv : (t.core q).poolV = (s.core q).poolV := congrArg (·.2.1) (hstore q)
    have hs : (t.core q).poolS = (s.core q).poolS := congrArg (·.2.2.1) (hstore q)
    rw [Core.spadPlace, Core.spadPlace, hspad, hv, hs]
  · rw [hm]

theorem State.peekHome_setStrand (s : State) (p : CoreId) (t : StrandId) (st : Strand) (pa n : Nat) :
    (s.setStrand p t st).peekHome pa n = s.peekHome pa n :=
  State.peekHome_of_store (s.setStrand_mem p t st) (State.Quiet.setStrand s p t st).store pa n

theorem State.copiesMove.peekHome {s t : State} (h : s.copiesMove t) (hm : t.mem = s.mem) (pa n : Nat) :
    t.peekHome pa n = s.peekHome pa n :=
  State.peekHome_of_store hm h.store pa n

theorem State.memOk_of_store {s t : State} (hm : t.mem = s.mem)
    (hstore : ∀ q, (t.core q).store = (s.core q).store) (h : s.memOk) : t.memOk :=
  State.memOk_of_eq hm (fun q => congrArg (·.1) (hstore q)) h

/-- The bytes written at home read back there, and every other byte reads as before. -/
def State.putAt (s : State) (pa : Nat) (bs : List Byte) (t : State) : Prop :=
  t.peekHome pa bs.length = bs ∧ s.sameBytesBut pa bs.length t

/-- Only memory and the scratchpads say what was written. -/
theorem State.putAt_congr {s t s' t' : State} {pa : Nat} {bs : List Byte} (hs : s.mem = s'.mem)
    (hs' : ∀ q, (s.core q).store = (s'.core q).store) (ht : t'.mem = t.mem)
    (ht' : ∀ q, (t'.core q).store = (t.core q).store) (h : s.putAt pa bs t) : s'.putAt pa bs t' := by
  refine ⟨(State.peekHome_of_store ht ht' _ _).trans h.1, fun a ha => ?_⟩
  rw [State.peekHome_of_store ht ht', h.2 a ha, State.peekHome_of_store hs hs']

section putHome
variable {s : State} {pa : Nat} (bs : List Byte)

theorem State.putHome_hbm {a : Nat} (hr : region pa = .hbm a) : s.putHome pa bs = s.homeWrite pa bs := by
  rw [State.putHome, hr, region_hbm_eq hr]

theorem State.putHome_spad {q : CoreId} {off place : Nat} (hr : region pa = .spad q off)
    (hp : (s.core q).spadPlace off = some place) : ∃ w b, s.putHome pa bs =
      { s.setCore q { s.core q with spad := (s.core q).spad.write place bs } with watches := w, badWords := b } := by
  unfold State.putHome
  rw [hr]
  dsimp only
  rw [hp]
  exact ⟨_, _, rfl⟩

/-- With no snapshot active bytes written at home are those of one memory alone. -/
theorem State.homeWrite_cores (hs : s.snap = none) : (s.homeWrite pa bs).cores = s.cores := by
  simp [State.homeWrite, hs]

theorem State.putHome_core (hs : s.snap = none) (q : CoreId) :
    ∃ m, (s.putHome pa bs).core q = { s.core q with spad := m } := by
  rcases s.putHome_cases pa bs with h | ⟨p, place, w, b, h⟩ | ⟨a, h⟩
  · exact ⟨(s.core q).spad, by rw [h]⟩
  · have hcore : (s.putHome pa bs).core q =
        (s.setCore p { s.core p with spad := (s.core p).spad.write place bs }).core q := by rw [h]; rfl
    rw [hcore, State.core_setCore_ite]
    split
    · next e => exact ⟨_, by rw [e]⟩
    · exact ⟨(s.core q).spad, rfl⟩
  · exact ⟨(s.core q).spad, by rw [h, State.core, State.homeWrite_cores bs hs, State.core]⟩

theorem State.putHome_strand (hs : s.snap = none) (q : CoreId) (u : StrandId) :
    (s.putHome pa bs).strand q u = s.strand q u := by
  obtain ⟨m, hm⟩ := State.putHome_core (s := s) (pa := pa) bs hs q
  rw [State.strand, hm, State.strand]

theorem State.putHome_lanes (hs : s.snap = none) (q : CoreId) :
    ((s.putHome pa bs).core q).lanes = (s.core q).lanes := by
  obtain ⟨m, hm⟩ := State.putHome_core (s := s) (pa := pa) bs hs q
  rw [hm]

theorem State.homeWrite_putAt {a : Nat} (hok : s.memOk) (hs : s.snap = none) (hr : region pa = .hbm a) :
    s.putAt pa bs (s.homeWrite pa bs) := by
  have hmem := State.homeWrite_mem pa bs hs
  refine ⟨?_, fun b hb => ?_⟩
  · rw [State.peekHome, hr]
    simp only [hmem]
    exact Memory.read_write pa bs hok.1
  · unfold State.peekHome
    split
    · rw [State.core, State.homeWrite_cores bs hs, State.core]
    · rw [hmem, Memory.read_one, Memory.get_write_out pa b bs hok.1 hb, Memory.read_one]

/-- Bytes written through a window lie at their places in the scratchpad alone. -/
theorem State.spadWrite_putAt {t : State} {q : CoreId} {off place : Nat} (hok : s.memOk) (hr : region pa = .spad q off)
    (hp : (s.core q).spadPlace off = some place) (hm : t.mem = s.mem)
    (ht : ∀ p, t.core p = if q = p then { s.core q with spad := (s.core q).spad.write place bs } else s.core p) :
    s.putAt pa bs t := by
  have hq : t.core q = { s.core q with spad := (s.core q).spad.write place bs } := by rw [ht, if_pos rfl]
  refine ⟨?_, fun b hb => ?_⟩
  · have hplace : (t.core q).spadPlace off = some place := by rw [hq]; exact hp
    have hspad : (t.core q).spad = (s.core q).spad.write place bs := by rw [hq]
    rw [State.peekHome, hr]
    simp only [hplace, hspad]
    exact Memory.read_write place bs (hok.2 q)
  · unfold State.peekHome
    split
    · next p o hb' =>
      by_cases e : q = p
      · subst e
        have hplaces : (t.core q).spadPlace o = (s.core q).spadPlace o := by rw [hq]; rfl
        rw [hplaces]
        split
        · next place' hp' =>
          have hout : place' < place ∨ place + bs.length ≤ place' := by
            have h1 := region_spad_eq hr
            have h2 := region_spad_eq hb'
            unfold Core.spadPlace at hp hp'
            split_ifs at hp hp'
            simp only [Option.some.injEq] at hp hp'
            omega
          rw [hq, Memory.read_one, Memory.get_write_out place place' bs (hok.2 q) hout, Memory.read_one]
        · rfl
      · rw [ht, if_neg e]
    · rw [hm]

theorem State.putHome_putAt (hok : s.memOk) (hs : s.snap = none) (hdev : onDevice pa = true)
    (hplace : ∀ c off, region pa = .spad c off → ((s.core c).spadPlace off).isSome = true) :
    s.putAt pa bs (s.putHome pa bs) := by
  unfold onDevice at hdev
  cases hr : region pa with
  | hbm a =>
    rw [State.putHome_hbm bs hr]
    exact State.homeWrite_putAt bs hok hs hr
  | spad q off =>
    obtain ⟨place, hp⟩ := Option.isSome_iff_exists.mp (hplace q off hr)
    obtain ⟨w, b, hput⟩ := State.putHome_spad bs hr hp
    rw [hput]
    exact State.spadWrite_putAt bs hok hr hp rfl fun p => State.core_setCore_ite ..
  | feStore _ | mmio _ | host _ | peer _ _ | nowhere => simp [hr] at hdev

end putHome

/-! ### Stores and atomics at home (R273, R351) -/

/-- With nothing of a grain in a copy or in a combining store, an untracked store is one at home once other cores'
copies are recalled. -/
theorem State.storeAt_eq {s : State} (p : CoreId) {pa : Nat} (bs : List Byte) (g : Nat) (dev vec : Bool)
    (hc : (s.core p).copies = []) (hx : s.comb = []) (hb : s.badCopies = []) (hdev : onDevice pa = true) :
    ∃ s', s.storeAt p pa bs g dev .u vec = s'.putHome pa bs ∧ s.copiesMove s' ∧ s'.mem = s.mem ∧ s'.snap = s.snap := by
  unfold onDevice at hdev
  unfold State.storeAt
  cases hr : region pa with
  | hbm a =>
    obtain ⟨hmem, hsnap, -⟩ := State.recall_eq (grainSectors pa (s.grainAt pa g)) none hb
    refine ⟨_, ?_, State.recall_copiesMove _ _ hb, hmem, hsnap⟩
    rw [State.putHome_hbm bs hr]
    simp only [State.storeHbm, ite_self, State.combSettle_none _ hx, State.writeBackOwn_none p _ hc,
      State.dropOwn_none p _ hc]
  | spad q off =>
    refine ⟨s, ?_, .refl s, rfl, rfl⟩
    simp only [State.pokeHome, State.combSettle_none _ hx, hr]
  | feStore _ | mmio _ | host _ | peer _ _ | nowhere => simp [hr] at hdev

theorem State.prepareAtomic_spec {s : State} (p : CoreId) (pa g : Nat) (hc : (s.core p).copies = [])
    (hb : s.badCopies = []) : s.copiesMove (s.prepareAtomic p pa g) ∧ (s.prepareAtomic p pa g).mem = s.mem ∧
      (s.prepareAtomic p pa g).snap = s.snap := by
  simp only [State.prepareAtomic, State.writeBackOwn_none p _ hc, State.dropOwn_none p _ hc]
  obtain ⟨hmem, hsnap, -⟩ := State.recall_eq (grainSectors pa (s.grainAt pa g)) none hb
  exact ⟨State.recall_copiesMove _ _ hb, hmem, hsnap⟩

end Sys2Proof.Machine
end

section
/-! Lanes of a partition: what one holds once another has been written, one by one or in a list, and what a regenerated
row leaves (R204). -/

namespace Sys2Proof.Machine

/-! ### One lane written -/

/-- Writes of lanes change the lanes of the core alone. -/
theorem Core.setLane_rest (c : Core) (part : List ArrayId) (i : Nat) (l : Lane) :
    c.setLane part i l = { c with lanes := (c.setLane part i l).lanes } := by
  unfold Core.setLane
  split <;> rfl

theorem Core.setLane_wf {c : Core} (part : List ArrayId) (i : Nat) (l : Lane)
    (h : mapWfFrom Lane.zero 0 c.lanes = true) : mapWfFrom Lane.zero 0 (c.setLane part i l).lanes = true := by
  unfold Core.setLane
  split
  · exact mapSet_wf _ _ h
  · exact h

/-- The lanes that a core holds say what each lane of a partition is. -/
theorem Core.lane_congr {c d : Core} (h : d.lanes = c.lanes) (part : List ArrayId) (i : Nat) :
    d.lane part i = c.lane part i := by
  unfold Core.lane Core.laneAt
  rw [h]

/-- An array and a column are told by the place of their lane. -/
theorem laneKey_inj {a b x y : Nat} (hx : x < 256) (hy : y < 256) (h : 256 * a + x = 256 * b + y) : a = b ∧ x = y := by
  omega

/-- A lane of a partition without a repeated array is as it was written, and no other lane changes. -/
theorem Core.lane_setLane {c : Core} {part : List ArrayId} {i j : Nat} (l : Lane)
    (hw : mapWfFrom Lane.zero 0 c.lanes = true) (hn : part.Nodup) (hi : i < 256 * part.length)
    (hj : j < 256 * part.length) : (c.setLane part i l).lane part j = if j = i then l else c.lane part j := by
  have hi' : i / 256 < part.length := Nat.div_lt_of_lt_mul hi
  have hj' : j / 256 < part.length := Nat.div_lt_of_lt_mul hj
  have hset : c.setLane part i l = c.setLaneAt part[i / 256] (i % 256) l := by
    rw [Core.setLane, List.getElem?_eq_getElem hi']
  have hget (d : Core) : d.lane part j = mapGet Lane.zero d.lanes (256 * part[j / 256] + j % 256) := by
    simp only [Core.lane, List.getElem?_eq_getElem hj', Core.laneAt]
  rw [hset, hget, hget]
  unfold Core.setLaneAt
  split
  · next e =>
    subst e
    exact mapGet_mapSet_from _ _ hw
  · next e =>
    refine mapGet_mapSet_ne_from _ _ _ hw fun hkey => e ?_
    obtain ⟨harray, hcol⟩ := laneKey_inj (Nat.mod_lt j (by decide)) (Nat.mod_lt i (by decide)) hkey
    have hpos : j / 256 = i / 256 := (hn.getElem_inj_iff).mp harray
    omega

/-! ### A list of lanes written -/

section list
variable {α : Type} (part : List ArrayId) (at' : α → Nat) (f : α → Lane → Lane)

/-- Each lane that a list names, changed in turn. -/
def Core.updateLanes (c : Core) (l : List α) : Core :=
  l.foldl (fun (d : Core) x => d.setLane part (at' x) (f x (d.lane part (at' x)))) c

theorem Core.updateLanes_rest (c : Core) (l : List α) :
    c.updateLanes part at' f l = { c with lanes := (c.updateLanes part at' f l).lanes } := by
  refine foldl_keeps (fun d : Core => d = { c with lanes := d.lanes }) _ (fun d x hd => ?_) l c rfl
  rw [Core.setLane_rest, hd]

/-- Lanes that are named once each are changed from what they were, and no other lane changes. -/
theorem Core.lane_updateLanes {part} (hn : part.Nodup) {l : List α} {c : Core}
    (hw : mapWfFrom Lane.zero 0 c.lanes = true) (hl : ∀ x ∈ l, at' x < 256 * part.length) (hd : (l.map at').Nodup)
    {j : Nat} (hj : j < 256 * part.length) :
    (c.updateLanes part at' f l).lane part j =
      (l.find? fun x => decide (at' x = j)).elim (c.lane part j) fun x => f x (c.lane part j) := by
  induction l generalizing c with
  | nil => rfl
  | cons x l ih =>
    obtain ⟨hx, hl⟩ := List.forall_mem_cons.mp hl
    obtain ⟨hfresh, hd⟩ := List.nodup_cons.mp hd
    have hfirst := Core.lane_setLane (f x (c.lane part (at' x))) hw hn hx hj
    rw [Core.updateLanes, List.foldl_cons, ← Core.updateLanes, ih (Core.setLane_wf _ _ _ hw) hl hd, hfirst,
      List.find?_cons]
    by_cases e : at' x = j
    · have hnone : (l.find? fun x => decide (at' x = j)) = none := by
        refine List.find?_eq_none.mpr fun y hy hyj => hfresh (List.mem_map.mpr ⟨y, hy, ?_⟩)
        rw [of_decide_eq_true hyj, e]
      simp [hnone, e]
    · simp [e, Ne.symm e]

end list

/-! ### Rows regenerated -/

/-- Rows regenerated change what is noted of parity mismatches alone. -/
theorem Core.regen_rest (c : Core) (part : List ArrayId) (rows : List (Nat × Nat)) (sel : Nat → Bool) :
    ∃ b m, c.regen part rows sel = { c with parityBad := b, mismatched := m } := by
  unfold Core.regen
  split
  · exact ⟨_, _, rfl⟩
  · exact ⟨_, _, rfl⟩

theorem Core.regen_lanes (c : Core) (part : List ArrayId) (rows : List (Nat × Nat)) (sel : Nat → Bool) :
    (c.regen part rows sel).lanes = c.lanes := by
  obtain ⟨b, m, h⟩ := c.regen_rest part rows sel
  rw [h]

theorem Core.regen_strands (c : Core) (part : List ArrayId) (rows : List (Nat × Nat)) (sel : Nat → Bool) :
    (c.regen part rows sel).strands = c.strands := by
  obtain ⟨b, m, h⟩ := c.regen_rest part rows sel
  rw [h]

theorem Core.regen_store (c : Core) (part : List ArrayId) (rows : List (Nat × Nat)) (sel : Nat → Bool) :
    (c.regen part rows sel).store = c.store := by
  obtain ⟨b, m, h⟩ := c.regen_rest part rows sel
  rw [h]
  rfl

end Sys2Proof.Machine
end

section
/-! Fetches, relaxed loads and load elements that perform (R162, R163, R272, R288, R305): a fill of the fetch buffer,
the value of a relaxed load, and what a load element reads at home. -/

namespace Sys2Proof.Machine

/-! ### The fill of a fetch buffer (R162, R163) -/

theorem State.fetchable_line (s : State) (p : CoreId) (a : Nat) : s.fetchable p (a / 64 * 64) = s.fetchable p a := by
  unfold State.fetchable
  rw [Nat.mul_div_cancel _ (by decide)]

/-- The strand with a line in its fetch buffer, marked where its fill met an error. -/
def Strand.holdsLine (st : Strand) (line : Nat) (x : Option Nat) : Strand := { st with fetchBuf := some (line, x) }

section fill
variable {s : State} {p : CoreId} {t : StrandId} (hf : s.fetchable p (s.strand p t).pc.toNat = true)
include hf

theorem State.fetchFill_cached {x : Nat} (hc : (s.core p).cachedLine ((s.strand p t).pc.toNat / 64) = some x) :
    s.fetchFill p t = s.setStrand p t ((s.strand p t).holdsLine ((s.strand p t).pc.toNat / 64) (some x)) := by
  simp only [State.fetchFill, State.fetchable_line, hf, Bool.not_true, Bool.false_eq_true, if_false, hc,
    Strand.holdsLine]

variable (hc : (s.core p).cachedLine ((s.strand p t).pc.toNat / 64) = none)
include hc

theorem State.fetchFill_error (hbad : s.isBad ((s.strand p t).pc.toNat / 64 * 64) 64 = true) :
    s.fetchFill p t = s.setStrand p t ((s.strand p t).holdsLine ((s.strand p t).pc.toNat / 64) none) := by
  simp only [State.fetchFill, State.fetchable_line, hf, Bool.not_true, Bool.false_eq_true, if_false, hc, hbad, if_true,
    Strand.holdsLine]

theorem State.fetchFill_home {x : Nat} (hbad : s.isBad ((s.strand p t).pc.toNat / 64 * 64) 64 = false)
    (hx : x = fromLe (s.peekHome ((s.strand p t).pc.toNat / 64 * 64) 64)) :
    s.fetchFill p t = (s.setCore p ((s.core p).keepLine ((s.strand p t).pc.toNat / 64) x)).setStrand p t
      ((s.strand p t).holdsLine ((s.strand p t).pc.toNat / 64) (some x)) := by
  have hst : (s.setCore p ((s.core p).keepLine ((s.strand p t).pc.toNat / 64) x)).strand p t = s.strand p t := by
    rw [State.strand_setCore_self]
    rfl
  simp only [State.fetchFill, State.fetchable_line, hf, Bool.not_true, Bool.false_eq_true, if_false, hc, hbad, ← hx,
    hst, Strand.holdsLine]

end fill

theorem Core.keepLine_last (c : Core) (line x : Nat) : (c.keepLine line x).icache.getLast? = some (line, x) := by
  rw [Core.keepLine, List.getLast?_concat]

theorem Core.mem_keepLine {c : Core} {line x : Nat} {y : Nat × Nat} (h : y ∈ (c.keepLine line x).icache) :
    y = (line, x) ∨ y ∈ c.icache := by
  rcases List.mem_append.mp h with hy | hy
  · exact .inr (List.mem_filter.mp hy).1
  · exact .inl (List.mem_singleton.mp hy)

/-- A line of another set of the instruction cache stays: the one that leaves is of the new line's set. -/
theorem Core.keepLine_otherSet {c : Core} {line : Nat} (x : Nat) {y : Nat × Nat} (h : y ∈ c.icache)
    (hy : y.1 % 256 ≠ line % 256) : y ∈ (c.keepLine line x).icache := by
  refine List.mem_append_left _ (List.mem_filter.mpr ⟨h, decide_eq_true fun hout => ?_⟩)
  split at hout
  · cases hout
  · obtain ⟨z, hz, hzy⟩ := Option.map_eq_some_iff.mp hout.symm
    have hset := of_decide_eq_true (List.mem_filter.mp (List.mem_of_mem_head? hz)).2
    exact hy (hzy ▸ hset)

/-! ### Bytes as numbers -/

theorem fromLe_lt (bs : List Byte) : fromLe bs < 256 ^ bs.length := by
  induction bs with
  | nil => decide
  | cons b bs ih =>
    have hb := b.isLt
    rw [fromLe, List.length_cons, Nat.pow_succ]
    omega

/-- Bytes are those of the number that they make. -/
theorem leBytes_fromLe (bs : List Byte) : leBytes bs.length (fromLe bs) = bs := by
  induction bs with
  | nil => rfl
  | cons b bs ih =>
    have hb := b.isLt
    have hdiv : (b.toNat + 256 * fromLe bs) / 256 = fromLe bs := by omega
    have hmod : BitVec.ofNat 8 (b.toNat + 256 * fromLe bs) = b := by
      refine BitVec.eq_of_toNat_eq ?_
      rw [BitVec.toNat_ofNat]
      omega
    rw [List.length_cons, fromLe, leBytes, hdiv, ih, hmod]

theorem State.peekHome_length (s : State) (pa n : Nat) : (s.peekHome pa n).length = n := by
  unfold State.peekHome
  split
  · split
    · exact Memory.read_length _ _ _
    · exact List.length_replicate
  · exact Memory.read_length _ _ _

theorem pow_256_bytes {w : Nat} (h : w % 8 = 0) : 256 ^ (w / 8) = 2 ^ w := by
  rw [show 256 = 2 ^ 8 from rfl, ← Nat.pow_mul, Nat.mul_div_cancel' (Nat.dvd_of_mod_eq_zero h)]

/-- What memory reads as in whole bytes is below the power of their width. -/
theorem State.fromLe_peekHome_lt (s : State) (pa : Nat) {w : Nat} (h : w % 8 = 0) :
    fromLe (s.peekHome pa (w / 8)) < 2 ^ w := by
  have := fromLe_lt (s.peekHome pa (w / 8))
  rwa [State.peekHome_length, pow_256_bytes h] at this

theorem touched_zero {w : Nat} (h : w % 8 = 0) : touched 0 w = w / 8 := by
  unfold touched
  omega

/-- The low bits of a number, as a signed word. -/
theorem sextTo64_ofNat (n : Nat) {w : Nat} (hw : 0 < w) : sextTo64 w n = (BitVec.ofNat w n).signExtend 64 := by
  have hpow : 2 ^ w = 2 * 2 ^ (w - 1) := by rw [← Nat.pow_succ', Nat.succ_eq_add_one, Nat.sub_add_cancel hw]
  have hsigned : signed w n = (BitVec.ofNat w n).toInt := by
    simp only [signed, BitVec.toInt, BitVec.toNat_ofNat]
    split <;> split <;> omega
  rw [sextTo64, hsigned, wordInt_eq_ofInt, BitVec.signExtend]

/-! ### Errors of words that are read (R401) -/

theorem State.isBadFor_none {s : State} (p : CoreId) (pa n : Nat) (r : Req) (hc : (s.core p).copies = [])
    (hb : s.badCopies = []) : s.isBadFor p pa n r = s.isBad pa n := by
  simp [State.isBadFor, State.loadHit_none p pa r hc, hb]

theorem State.isBad_setStrand (s : State) (p : CoreId) (t : StrandId) (st : Strand) (pa n : Nat) :
    (s.setStrand p t st).isBad pa n = s.isBad pa n := by
  simp [State.isBad]

/-! ### A relaxed load (R272, R288) -/

theorem RelaxedAcc.length_eq (a : RelaxedAcc) : a.length = Size.bytes a.size := by
  unfold RelaxedAcc.length
  cases a.size <;> rfl

/-- A relaxed load that meets no error writes what it loads to its register. -/
theorem State.performRelaxed_load {s : State} {p : CoreId} {t : StrandId} {a : RelaxedAcc} (hl : a.isStore = false)
    (hdev : onDevice a.pa = true) (hbad : s.isBad a.pa a.length = false) (hc : (s.core p).copies = [])
    (hx : s.comb = []) (hb : s.badCopies = []) {s1 : State} {bs : List Byte}
    (h1 : s.loadAt p a.pa a.length a.grain a.dev a.req false = (bs, s1)) :
    s.performRelaxed p t a =
      s1.setStrand p t ((s1.strand p t).withX a.r (sextTo64 (8 * a.length) (fromLe bs))) := by
  unfold onDevice at hdev
  unfold State.loadAt at h1
  unfold State.performRelaxed
  cases hr : region a.pa with
  | hbm _ =>
    simp only [hr] at h1
    simp only [hl, State.isBadFor_none p _ _ _ hc hb, hbad, h1, Bool.false_eq_true, if_false]
  | spad _ _ =>
    simp only [hr, State.combSettle_none _ hx, Prod.mk.injEq] at h1
    obtain ⟨rfl, rfl⟩ := h1
    simp only [hl, hbad, Bool.false_eq_true, if_false]
  | feStore _ | mmio _ | host _ | peer _ _ | nowhere => simp [hr] at hdev

theorem RelaxedAcc.length_pos (a : RelaxedAcc) : 0 < a.length := by
  unfold RelaxedAcc.length
  cases a.size <;> decide

/-- The strand's n-th relaxed access, a load without an error, performs. -/
theorem State.completes_scalarLoad {s : State} {p : CoreId} {t : StrandId} {n : Nat} {a : RelaxedAcc}
    (ha : (s.strand p t).relaxed[n]? = some a) (hl : a.isStore = false) (hdev : onDevice a.pa = true)
    (hbad : s.isBad a.pa a.length = false) (hc : (s.core p).copies = []) (hx : s.comb = []) (hb : s.badCopies = []) :
    completes (.scalarAccessPerform p t n) s fun b =>
      b.strand p t = ({ s.strand p t with relaxed := (s.strand p t).relaxed.eraseIdx n } : Strand).withX a.r
        ((BitVec.ofNat (8 * a.length) (fromLe (s.peekHome a.pa a.length))).signExtend 64) ∧ s.sameBytes b := by
  obtain ⟨s0, hs0⟩ : ∃ s0, s0 = s.setStrand p t
      { s.strand p t with relaxed := (s.strand p t).relaxed.eraseIdx n } := ⟨_, rfl⟩
  have hread (pa m : Nat) : s0.peekHome pa m = s.peekHome pa m := by rw [hs0, State.peekHome_setStrand]
  have hc0 : (s0.core p).copies = [] := by rw [hs0, State.setStrand_core_copies, hc]
  have hbad0 : s0.isBad a.pa a.length = false := by rw [hs0, State.isBad_setStrand, hbad]
  have hx0 : s0.comb = [] := by rw [hs0]; exact hx
  have hb0 : s0.badCopies = [] := by rw [hs0]; exact hb
  obtain ⟨bs, s1, h1⟩ : ∃ bs s1, s0.loadAt p a.pa a.length a.grain a.dev a.req false = (bs, s1) := ⟨_, _, rfl⟩
  obtain ⟨hbytes, hmem, hmove⟩ := State.loadAt_spec (s := s0) p a.pa a.length a.grain a.dev a.req false hc0 hx0 hb0
  rw [h1] at hbytes hmem hmove
  have hnth : s.performNth p t n = s0.performRelaxed p t a := by
    rw [hs0]
    simp only [State.performNth, ha]
  have hst : s1.strand p t = { s.strand p t with relaxed := (s.strand p t).relaxed.eraseIdx n } := by
    rw [hmove.strand, hs0, State.strand_setStrand]
  refine completes_of_next_eq rfl (hnth.trans (State.performRelaxed_load hl hdev hbad0 hc0 hx0 hb0 h1)) ⟨?_, ?_⟩
  · rw [State.strand_setStrand, hst, show bs = s.peekHome a.pa a.length from hbytes.trans (hread _ _),
      sextTo64_ofNat _ (Nat.mul_pos (by decide) a.length_pos)]
  · exact fun b => (s1.peekHome_setStrand ..).trans ((hmove.peekHome hmem b 1).trans (hread b 1))

/-! ### A load element at home (R305) -/

theorem QEntry.instr_of_decode {e : QEntry} {i : Instr} (h : decode e.word = .ok i) : e.instr = some i := by
  simp only [QEntry.instr, h]

/-- The n-th request of the head that may perform does. -/
theorem State.homeAccess_eq {s : State} {p : CoreId} {t : StrandId} {n : Nat} {e : QEntry} {rest : List QEntry}
    {h : HeadRun} {i : Instr} {r : VReq} (hq : (s.strand p t).queue = e :: rest) (hi : decode e.word = .ok i)
    (hh : (s.strand p t).head = some h) (hf : h.finished = false) (hr : nthEligible n [] h.reqs = some r) :
    s.homeAccess p t n = s.performReq p t e i h r := by
  simp only [State.homeAccess, hq, hh, hf, QEntry.instr_of_decode hi, hr, Bool.false_eq_true, if_false]

/-- A field of whole bytes reads as the number that home holds. -/
theorem State.readField_spec {s : State} (p : CoreId) {r : VReq} (hbit : r.bit = 0) (hw : r.width % 8 = 0)
    (hc : (s.core p).copies = []) (hx : s.comb = []) (hb : s.badCopies = []) :
    ∃ s1, s.readField p r = (fromLe (s.peekHome r.pa (r.width / 8)), s1) ∧ s1.mem = s.mem ∧ s.copiesMove s1 := by
  obtain ⟨hbytes, hmem, hmove⟩ := State.loadAt_spec (s := s) p r.pa (r.width / 8) r.grain r.dev r.req true hc hx hb
  refine ⟨_, ?_, hmem, hmove⟩
  simp only [State.readField, hbit, touched_zero hw, hbytes, Nat.shiftRight_zero,
    Nat.mod_eq_of_lt (s.fromLe_peekHome_lt r.pa hw)]

theorem State.gotValue_eq {s : State} {p : CoreId} {t : StrandId} {h : HeadRun}
    (hh : (s.strand p t).head = some h) (key x : Nat) : s.gotValue p t key x = s.setHead p t { h with
      reqs := h.reqs.map fun (r : VReq) => if r.key = key then { r with got := some x, sent := false } else r } := by
  simp only [State.gotValue, hh]

/-- A load element without an error keeps what it reads for its group. -/
theorem State.performReq_load {s : State} {p : CoreId} {t : StrandId} (e : QEntry) (o : VMemArgs) (h : HeadRun)
    {r : VReq} (hop : r.op = .load) (hdev : onDevice r.pa = true) (hbit : r.bit = 0) (hw : r.width % 8 = 0)
    (hbad : s.isBad r.pa (r.width / 8) = false) (hc : (s.core p).copies = []) (hb : s.badCopies = []) {x : Nat}
    {s1 : State} (h1 : s.readField p r = (x, s1)) : s.performReq p t e (.vld o) h r = s1.gotValue p t r.key x := by
  simp only [State.performReq, isExternal_of_onDevice hdev, hop, State.isBadFor_none p _ _ _ hc hb, hbit,
    touched_zero hw, hbad, h1, Bool.false_and, Bool.false_eq_true, if_false]

theorem State.completes_homeLoad {s : State} {p : CoreId} {t : StrandId} {n : Nat} {e : QEntry} {rest : List QEntry}
    {h : HeadRun} {r : VReq} {o : VMemArgs} (hq : (s.strand p t).queue = e :: rest)
    (hi : decode e.word = .ok (.vld o)) (hh : (s.strand p t).head = some h) (hf : h.finished = false)
    (hr : nthEligible n [] h.reqs = some r) (hop : r.op = .load) (hdev : onDevice r.pa = true)
    (hc : (s.core p).copies = []) (hx : s.comb = []) (hb : s.badCopies = [])
    (hbad : s.isBad r.pa (r.width / 8) = false) (hw : r.width % 8 = 0) (hbit : r.bit = 0) :
    completes (.homeAccess p t n) s fun b => ∃ w : HeadRun, (b.strand p t).head = some w ∧
      w.reqs = h.reqs.map (fun (y : VReq) => if y.key = r.key then
        { y with got := some (fromLe (s.peekHome r.pa (r.width / 8))), sent := false } else y) ∧
      (b.strand p t).x = (s.strand p t).x ∧ (b.core p).lanes = (s.core p).lanes ∧ s.sameBytes b := by
  obtain ⟨s1, h1, hmem, hmove⟩ := State.readField_spec p hbit hw hc hx hb
  have hh1 : (s1.strand p t).head = some h := by rw [hmove.strand, hh]
  have hread := (State.homeAccess_eq hq hi hh hf hr).trans
    ((State.performReq_load e o h hop hdev hbit hw hbad hc hb h1).trans (State.gotValue_eq hh1 ..))
  refine completes_of_next_eq rfl hread
    ⟨_, congrArg Strand.head (State.strand_setStrand ..), rfl, ?_, ?_, ?_⟩
  · rw [State.setHead, State.strand_setStrand, hmove.strand]
  · rw [State.setHead, State.setStrand_core_lanes, hmove.lanes]
  · exact fun a => (s1.peekHome_setStrand ..).trans (hmove.peekHome hmem a 1)

end Sys2Proof.Machine
end

section
/-! Element groups that arrive, and elements that are stored or changed at home (R286, R303, R348 to R351): what each
leaves in its lanes, in memory and among the head's requests. -/

namespace Sys2Proof.Machine

/-! ### A head that has settled -/

/-- A head with requests left waits for them. -/
theorem State.headSettle_left {s : State} {p : CoreId} {t : StrandId} {h : HeadRun}
    (hh : (s.strand p t).head = some h) (hr : h.reqs ≠ []) : s.headSettle p t = s := by
  simp only [State.headSettle, hh, if_pos hr]

/-- Where nothing is acquired and no fault waits, a head whose requests have all performed is done. -/
theorem State.headSettle_done {s : State} {p : CoreId} {t : StrandId} {h : HeadRun} {i : Instr}
    (hh : (s.strand p t).head = some h) (hr : h.reqs = []) (hf : h.fault = none)
    (hi : (s.strand p t).headInstr = some i) (ha : s.amoAcquire p i = s) :
    s.headSettle p t =
      s.setStrand p t { s.strand p t with head := some { h with finished := true, result := none } } := by
  have hflags : (s.strand p t).vstat ||| (0 : VFlags) = (s.strand p t).vstat := BitVec.or_zero
  simp only [State.headSettle, hh, hr, ne_eq, not_true_eq_false, if_false, hf, hi, ha, State.headDone,
    Option.getD_some, hflags]

/-- The head of a strand and its x registers once the request of some key has performed: the others are left, and it is
finished once none is. -/
def Strand.settledWithout (st : Strand) (h : HeadRun) (key : Nat) (st' : Strand) : Prop :=
  (st'.head.map fun (q : HeadRun) => (q.reqs, q.finished)) =
    some (h.reqs.filter fun (q : VReq) => decide (q.key ≠ key),
      (h.reqs.filter fun (q : VReq) => decide (q.key ≠ key)).isEmpty) ∧ st'.x = st.x

/-- A request that has performed leaves the head of its strand, and nothing else changes. -/
theorem State.dropReq_settles {s : State} {p : CoreId} {t : StrandId} {h : HeadRun} {i : Instr}
    (key : Nat) (hh : (s.strand p t).head = some h) (hfin : h.finished = false) (hf : h.fault = none)
    (hi : (s.strand p t).headInstr = some i) (ha : ∀ a : State, a.amoAcquire p i = a) :
    ∃ st', (s.dropReq p t key).headSettle p t = s.setStrand p t st' ∧ (s.strand p t).settledWithout h key st' := by
  unfold Strand.settledWithout
  obtain ⟨l, hl⟩ : ∃ l, l = h.reqs.filter fun (q : VReq) => decide (q.key ≠ key) := ⟨_, rfl⟩
  obtain ⟨st1, hst1⟩ : ∃ st1 : Strand, st1 = { s.strand p t with head := some { h with reqs := l } } := ⟨_, rfl⟩
  have hdrop : s.dropReq p t key = s.setStrand p t st1 := by
    rw [hst1, hl]
    simp only [State.dropReq, hh, State.setHead]
  have hst : (s.setStrand p t st1).strand p t = st1 := State.strand_setStrand ..
  have hhead : ((s.setStrand p t st1).strand p t).head = some { h with reqs := l } := by rw [hst, hst1]
  rw [hdrop, ← hl]
  by_cases hr : l = []
  · have hinstr : ((s.setStrand p t st1).strand p t).headInstr = some i := by
      rw [hst, hst1]
      exact hi
    refine ⟨_, (State.headSettle_done hhead hr hf hinstr (ha _)).trans (State.setStrand_setStrand ..), ?_, ?_⟩
    · rw [hr]
      rfl
    · rw [hst, hst1]
  · refine ⟨_, State.headSettle_left hhead hr, ?_, ?_⟩
    · rw [hst1, List.isEmpty_eq_false_iff.mpr hr]
      simp only [Option.map_some, hfin]
    · rw [hst1]

/-! ### An element group that arrives (R286, R305) -/

theorem landElem_vld {v : VEnv} {r : VReq} (o : VMemArgs) (l : Lane) (x : Nat) (hop : r.op = .load)
    (hs : v.cfg.scaled = false) : landElem v (.vld o) l r x = l.withRows (32 * o.v.toNat) v.w x := by
  simp [landElem, hop, hs]

/-- The loads of a group, landed in turn, write each its value to its lane. -/
theorem foldl_landElem_vld {v : VEnv} (o : VMemArgs) (part : List ArrayId) {mine : List VReq} (c : Core)
    (hs : v.cfg.scaled = false) (hmine : ∀ x ∈ mine, x.op = .load ∧ x.elem < 2 ^ 17) :
    mine.foldl (fun (c : Core) (r : VReq) => c.setLane part (r.elem % 2 ^ 17)
      (landElem v (.vld o) (c.lane part (r.elem % 2 ^ 17)) r (r.got.getD 0))) c =
    c.updateLanes part (fun (x : VReq) => x.elem) (fun x l => l.withRows (32 * o.v.toNat) v.w (x.got.getD 0)) mine := by
  refine List.foldl_ext _ _ _ fun d x hx => ?_
  obtain ⟨hop, hlt⟩ := hmine x hx
  simp only [Nat.mod_eq_of_lt hlt, landElem_vld o _ _ hop hs]

section arrival
variable {s : State} {p : CoreId} {t : StrandId} {g : Nat} {e : QEntry} {rest : List QEntry} {h : HeadRun}
  {o : VMemArgs} {mine : List VReq} (hmine : mine = h.reqs.filter fun (x : VReq) => decide (x.group = g))
  (hq : (s.strand p t).queue = e :: rest) (hi : decode e.word = .ok (.vld o)) (hh : (s.strand p t).head = some h)
  (hf : h.finished = false) (hsome : mine ≠ [])
  (hready : ∀ x ∈ mine, x.got.isSome = true ∧ x.op = .load ∧ x.elem < e.vlen.toNat)
  (hbelow : ∀ x ∈ h.reqs, x.group < g → x.got.isSome = true ∨ isExternal x.pa = false)
  (hfault : h.fault = none ∨ ∀ x ∈ h.reqs, g ≤ x.group) (hscaled : (s.headEnv p t e).cfg.scaled = false)
include hmine hq hi hh hf hsome hready hbelow hfault hscaled

/-- A group with all its values writes each to its lane, and its requests leave the head. -/
theorem State.groupArrive_vld : ∃ c h', s.groupArrive p t g = ((s.setCore p c).setHead p t h').headSettle p t ∧
    h'.reqs = (h.reqs.filter fun (x : VReq) => decide (x.group ≠ g)) ∧ c.strands = (s.core p).strands ∧
    c.lanes = ((s.core p).updateLanes e.part (fun (x : VReq) => x.elem) (fun x l =>
      l.withRows (32 * o.v.toNat) (s.headEnv p t e).w (x.got.getD 0)) mine).lanes := by
  have hgot : (mine.any fun (x : VReq) => x.got.isNone) = false := by
    refine List.any_eq_false.mpr fun x hx => ?_
    have := (hready x hx).1
    simp [Option.isSome_iff_ne_none.mp this]
  have hlow : (h.reqs.any fun (x : VReq) => decide (x.group < g) && x.got.isNone && isExternal x.pa) = false := by
    refine List.any_eq_false.mpr fun x hx => ?_
    by_cases hlt : x.group < g
    · rcases hbelow x hx hlt with hval | hin
      · simp [Option.isSome_iff_ne_none.mp hval]
      · simp [hin]
    · simp [hlt]
  have hwhole (b : Bool) (hb : h.fault = none → b = true) :
      (!b && h.reqs.any fun (x : VReq) => decide (x.group < g)) = false := by
    rcases hfault with hnone | hall
    · rw [hb hnone]
      rfl
    · have : (h.reqs.any fun (x : VReq) => decide (x.group < g)) = false :=
        List.any_eq_false.mpr fun x hx => by simpa using hall x hx
      rw [this, Bool.and_false]
  have hfold := foldl_landElem_vld o e.part (s.core p) hscaled fun x hx =>
    ⟨(hready x hx).2.1, (hready x hx).2.2.trans e.vlen.isLt⟩
  have hlands : landsInGroups (.vld o) = true := rfl
  have hempty : mine.isEmpty = false := List.isEmpty_eq_false_iff.mpr hsome
  unfold State.groupArrive
  simp only [hq, hh, QEntry.instr_of_decode hi, ← hmine, hf, hlands, hempty, hgot, hlow, Bool.not_true, Bool.or_false,
    hfold]
  rw [hwhole]
  · refine ⟨_, _, rfl, rfl, ?_, Core.regen_lanes ..⟩
    rw [Core.regen_strands, Core.updateLanes_rest]
  · intro hnone
    rw [hnone]

theorem State.completes_groupArrival (hdistinct : (mine.map (·.elem)).Nodup) (hleft : mine ≠ h.reqs)
    (hw : mapWfFrom Lane.zero 0 (s.core p).lanes = true) (hn : e.part.Nodup)
    (hlen : e.vlen.toNat ≤ 256 * e.part.length) :
    completes (.elementGroupArrival p t g) s fun b => (b.strand p t).x = (s.strand p t).x ∧ b.mem = s.mem ∧
      ∀ j < 256 * e.part.length, (b.core p).lane e.part j =
        (mine.find? fun (x : VReq) => decide (x.elem = j)).elim ((s.core p).lane e.part j) fun x =>
          ((s.core p).lane e.part j).withRows (32 * o.v.toNat) (s.headEnv p t e).w (x.got.getD 0) := by
  obtain ⟨c, h', harrive, hreqs, hstrands, hlanes⟩ :=
    State.groupArrive_vld hmine hq hi hh hf hsome hready hbelow hfault hscaled
  have hst : (s.setCore p c).strand p t = s.strand p t := by
    rw [State.strand_setCore_self, hstrands]
    rfl
  have hothers : h'.reqs ≠ [] := by
    rw [hreqs]
    intro hnil
    refine hleft (hmine.trans (List.filter_eq_self.mpr fun x hx => decide_eq_true ?_))
    simpa using List.filter_eq_nil_iff.mp hnil x hx
  have hsettled : ((s.setCore p c).setHead p t h').headSettle p t = (s.setCore p c).setHead p t h' :=
    State.headSettle_left (congrArg Strand.head (State.strand_setStrand ..)) hothers
  refine completes_of_next_eq rfl (harrive.trans hsettled) ⟨?_, rfl, fun j hj => ?_⟩
  · rw [State.setHead, State.strand_setStrand, hst]
  · have hfinal : (((s.setCore p c).setHead p t h').core p).lanes = c.lanes := by
      rw [State.setHead, State.setStrand_core_lanes, State.core_setCore]
    rw [Core.lane_congr (hfinal.trans hlanes)]
    exact Core.lane_updateLanes _ _ hn hw (fun x hx => (hready x hx).2.2.trans_le hlen) hdistinct hj

end arrival

/-! ### A store element at home (R303) -/

theorem Strand.headInstr_eq {st : Strand} {e : QEntry} {rest : List QEntry} {i : Instr} (hq : st.queue = e :: rest)
    (hi : decode e.word = .ok i) : st.headInstr = some i := by
  rw [Strand.headInstr, hq, List.head?_cons, Option.bind_some, QEntry.instr_of_decode hi]

theorem State.snapHold_none {s : State} (pa n : Nat) (h : s.snap = none) : s.snapHold pa n = none := by
  simp only [State.snapHold, h]

/-- Bytes written at home from a core that keeps its copies out of the way are written for the device. -/
theorem State.copiesMove.putHome_putAt {s s' : State} (h : s.copiesMove s') (hm : s'.mem = s.mem)
    (hs : s'.snap = none) (hok : s.memOk) {pa : Nat} (hdev : onDevice pa = true)
    (hplace : ∀ c off, region pa = .spad c off → ((s.core c).spadPlace off).isSome = true) (bs : List Byte) :
    s.putAt pa bs (s'.putHome pa bs) := by
  have hplace' (c : CoreId) (off : Nat) (hr : region pa = .spad c off) :
      ((s'.core c).spadPlace off).isSome = true := by
    rw [show (s'.core c).spadPlace off = (s.core c).spadPlace off from
      (congrArg (fun k : Core => k.spadPlace off) (h c) :)]
    exact hplace c off hr
  exact State.putAt_congr hm h.store rfl (fun _ => rfl)
    (State.putHome_putAt bs (State.memOk_of_store hm h.store hok) hs hdev hplace')

section home
variable {s : State} {p : CoreId} {t : StrandId} {n : Nat} {e : QEntry} {rest : List QEntry} {h : HeadRun} {i : Instr}
  {r : VReq} (hq : (s.strand p t).queue = e :: rest) (hi : decode e.word = .ok i)
  (hh : (s.strand p t).head = some h) (hf : h.finished = false) (hfault : h.fault = none)
  (hr : nthEligible n [] h.reqs = some r) (hdev : onDevice r.pa = true) (hc : (s.core p).copies = [])
  (hx : s.comb = []) (hwait : s.combWait = []) (hb : s.badCopies = []) (hs : s.snap = none) (hok : s.memOk)
  (hplace : ∀ c off, region r.pa = .spad c off → ((s.core c).spadPlace off).isSome = true)
  (ha : ∀ a : State, a.amoAcquire p i = a)

section
include hdev hc hx hb hs hok hplace

/-- A store element writes its bytes and leaves the head. -/
theorem State.performReq_store {x : Nat} (hw : 8 ≤ r.width) (hop : r.op = .store x) (hreq : r.req = .u) :
    ∃ s2, s.performReq p t e i h r = (s2.dropReq p t r.key).headSettle p t ∧ s2.strand p t = s.strand p t ∧
      (s2.core p).lanes = (s.core p).lanes ∧ s.putAt r.pa (leBytes (r.width / 8) x) s2 := by
  obtain ⟨s1, hstore, hmove, hmem, hsnap⟩ :=
    State.storeAt_eq p (leBytes (r.width / 8) x) r.grain r.dev true hc hx hb hdev
  rw [hs] at hsnap
  refine ⟨s1.putHome r.pa (leBytes (r.width / 8) x), ?_, ?_, ?_, ?_⟩
  · simp only [State.performReq, isExternal_of_onDevice hdev, hop, State.snapHold_none _ _ hs, State.writeField,
      Nat.not_lt.mpr hw, hreq, hstore, Bool.false_and, Bool.false_eq_true, if_false]
  · rw [State.putHome_strand _ hsnap, hmove.strand]
  · rw [State.putHome_lanes _ hsnap, hmove.lanes]
  · exact hmove.putHome_putAt hmem hsnap hok hdev hplace _

end

include hq hi hh hf hfault hr hdev hc hx hb hs hok hplace ha

theorem State.completes_homeStore {x : Nat} (hw : 8 ≤ r.width) (hop : r.op = .store x) (hreq : r.req = .u) :
    completes (.homeAccess p t n) s fun b => (s.strand p t).settledWithout h r.key (b.strand p t) ∧
      s.putAt r.pa (leBytes (r.width / 8) x) b ∧ (b.core p).lanes = (s.core p).lanes := by
  obtain ⟨s2, hperform, hst, hlanes, hput⟩ :=
    State.performReq_store (p := p) (t := t) (e := e) (i := i) (h := h) hdev hc hx hb hs hok hplace hw hop hreq
  obtain ⟨st', hsettle, hsettled⟩ := State.dropReq_settles (s := s2) (p := p) (t := t) r.key (by rw [hst, hh]) hf hfault
    (by rw [hst]; exact Strand.headInstr_eq hq hi) ha
  rw [hst] at hsettled
  refine completes_of_next_eq rfl ((State.homeAccess_eq hq hi hh hf hr).trans (hperform.trans hsettle)) ⟨?_, ?_, ?_⟩
  · rw [State.strand_setStrand]
    exact hsettled
  · exact State.putAt_congr rfl (fun _ => rfl) (State.setStrand_mem ..) (State.Quiet.setStrand ..).store hput
  · rw [State.setStrand_core_lanes, hlanes]

end home

/-! ### What an integer atomic leaves at home (R348, R351) -/

/-- A number below 2^w as a signed one of w bits. -/
def signedBelow (w k : Nat) : Int := if 2 ^ (w - 1) ≤ k then (k : Int) - 2 ^ w else k

theorem signed_eq_signedBelow {w k : Nat} (hw : 0 < w) (hk : k < 2 ^ w) : signed w k = signedBelow w k := by
  simp only [signed, signedBelow, Nat.mod_eq_of_lt hk, ne_eq, hw.ne', not_false_eq_true, true_and, Nat.cast_pow,
    Nat.cast_ofNat]

/-- The new value of an integer atomic: x is its operand, or the value that a compare-and-swap expects, y the one that
it stores. -/
def amoLeaves (op : AmoOp) (w old x y : Nat) : Nat :=
  match op with
  | .add => (old + x) % 2 ^ w
  | .and => old &&& x
  | .or => old ||| x
  | .xor => old ^^^ x
  | .min => if signedBelow w x < signedBelow w old then x else old
  | .max => if signedBelow w old < signedBelow w x then x else old
  | .minu => min old x
  | .maxu => max old x
  | .cas => if old = x then y else old
  | _ => x

/-- Whether an operation is one of integers. -/
def intAmo : AmoOp → Bool
  | .fadd | .fmin | .fmax => false
  | _ => true

/-- An integer atomic of one lane gives the lane the old value and home the new one, and sets no flag. -/
theorem amoChain_int (v : VEnv) {op : AmoOp} {w old x : Nat} (j y : Nat) (hop : intAmo op = true) (hw : 0 < w)
    (hold : old < 2 ^ w) (hx : x < 2 ^ w) :
    amoChain v op w old [(j, x, y)] = ([(j, old)], amoLeaves op w old x y, 0) := by
  have hmin : (if x < old then x else old) = min old x := by rw [Nat.min_def]; split <;> split <;> omega
  have hmax : (if old < x then x else old) = max old x := by rw [Nat.max_def]; split <;> split <;> omega
  cases op with
  | fadd | fmin | fmax => cases hop
  | min | max =>
    simp [amoChain, amoInt, amoLeaves, signed_eq_signedBelow hw hold, signed_eq_signedBelow hw hx]
  | minu => simp [amoChain, amoInt, amoLeaves, hmin]
  | maxu => simp [amoChain, amoInt, amoLeaves, hmax]
  | add | and | or | xor | swap | cas => simp [amoChain, amoInt, amoLeaves]

/-- With nothing in a combining store an address finds room there. -/
theorem State.combReady_none {s : State} (pa : Nat) (hx : s.comb = []) (hwait : s.combWait = []) :
    s.combReady pa = some { s with comb := [⟨pa / 8, true, [], none, false, none⟩] } := by
  simp [State.combReady, State.combRoom, hx, hwait]

/-- What is noted of a word in a combining store is noted there alone. -/
theorem State.combUsed_rest (s : State) (pa : Nat) (old : Word) (c : Option CtxId) :
    ∃ l, s.combUsed pa old c = { s with comb := l } := by
  unfold State.combUsed
  split
  · exact ⟨s.comb, rfl⟩
  · exact ⟨_, rfl⟩

/-- The lanes of a core alone say which it has once one of a partition is written. -/
theorem Core.setLane_congr {c d : Core} (h : d.lanes = c.lanes) (part : List ArrayId) (i : Nat) (l : Lane) :
    (d.setLane part i l).lanes = (c.setLane part i l).lanes := by
  unfold Core.setLane
  split
  · simp only [Core.setLaneAt, h]
  · exact h

section atomic
variable {s : State} {p : CoreId} {t : StrandId} {n : Nat} {e : QEntry} {rest : List QEntry} {h : HeadRun} {i : Instr}
  {r : VReq} (hq : (s.strand p t).queue = e :: rest) (hi : decode e.word = .ok i)
  (hh : (s.strand p t).head = some h) (hf : h.finished = false) (hfault : h.fault = none)
  (hr : nthEligible n [] h.reqs = some r) (ha : ∀ a : State, a.amoAcquire p i = a) (hdev : onDevice r.pa = true)
  (hc : (s.core p).copies = []) (hx : s.comb = []) (hwait : s.combWait = [])
  (hb : s.badCopies = []) (hs : s.snap = none) (hok : s.memOk)
  (hplace : ∀ c off, region r.pa = .spad c off → ((s.core c).spadPlace off).isSome = true)
  {op : AmoOp} {j x y old : Nat} (hop : r.op = .atomic op [(j, x, y)]) (hint : intAmo op = true)
  (hbad : s.isBad r.pa (r.width / 8) = false) (hw : r.width = 32 ∨ r.width = 64)
  (hold : old = fromLe (s.peekHome r.pa (r.width / 8))) (hx' : x < 2 ^ r.width)

section
include hdev hc hx hwait hb hs hok hplace hop hint hbad hw hold hx'

/-- An atomic element leaves the new value at home, and the old one goes to its lane. -/
theorem State.performReq_atomic : ∃ s2, s.performReq p t e i h r =
      s2.amoReturn p t e i r ([(j, old)], amoLeaves op r.width old x y, 0) ∧ s2.strand p t = s.strand p t ∧
      (s2.core p).lanes = (s.core p).lanes ∧
      s.putAt r.pa (leBytes (r.width / 8) (amoLeaves op r.width old x y)) s2 := by
  have hbytes : r.width % 8 = 0 := by omega
  have hlt : old < 2 ^ r.width := hold ▸ s.fromLe_peekHome_lt r.pa hbytes
  obtain ⟨s0, hs0⟩ : ∃ s0 : State, s0 = { s with comb := [⟨r.pa / 8, true, [], none, false, none⟩] } := ⟨_, rfl⟩
  have hready : s.combReady r.pa = some s0 := hs0 ▸ State.combReady_none r.pa hx hwait
  have hmove0 : s.copiesMove s0 := .of_cores (by rw [hs0])
  obtain ⟨hmove, hmem, hsnap⟩ := State.prepareAtomic_spec (s := s0) p r.pa r.grain (by rw [hs0]; exact hc)
    (by rw [hs0]; exact hb)
  obtain ⟨s1, hs1⟩ : ∃ s1, s1 = s0.prepareAtomic p r.pa r.grain := ⟨_, rfl⟩
  rw [← hs1] at hmove hmem hsnap
  replace hmove := hmove0.trans hmove
  replace hmem : s1.mem = s.mem := hmem.trans (by rw [hs0])
  replace hsnap : s1.snap = none := hsnap.trans (by rw [hs0]; exact hs)
  have hread : fromLe (s1.peekHome r.pa (r.width / 8)) = old := by rw [hmove.peekHome hmem, hold]
  obtain ⟨s2, hs2⟩ : ∃ s2, s2 = if op = .cas ∧ amoLeaves op r.width old x y = old then s1
      else s1.putHome r.pa (leBytes (r.width / 8) (amoLeaves op r.width old x y)) := ⟨_, rfl⟩
  have hkept : s2.strand p t = s.strand p t ∧ (s2.core p).lanes = (s.core p).lanes ∧
      s.putAt r.pa (leBytes (r.width / 8) (amoLeaves op r.width old x y)) s2 := by
    rw [hs2]
    split
    · next hsame =>
      refine ⟨hmove.strand p t, hmove.lanes p, ?_, fun a _ => hmove.peekHome hmem a 1⟩
      have hback := leBytes_fromLe (s.peekHome r.pa (r.width / 8))
      rw [State.peekHome_length, ← hold] at hback
      rw [leBytes_length, hmove.peekHome hmem, hsame.2, hback]
    · exact ⟨by rw [State.putHome_strand _ hsnap, hmove.strand], by rw [State.putHome_lanes _ hsnap, hmove.lanes],
        hmove.putHome_putAt hmem hsnap hok hdev hplace _⟩
  obtain ⟨l, hl⟩ := s2.combUsed_rest r.pa (s1.homeWord (r.pa / 8 * 8)) (s2.core p).serves
  obtain ⟨hst, hlanes, hput⟩ := hkept
  refine ⟨{ s2 with comb := l }, ?_, hst, hlanes, hput⟩
  have hchain := amoChain_int (s.headEnv p t e) j y hint (by omega) hlt hx'
  simp only [State.performReq, isExternal_of_onDevice hdev, hop, hbad, State.snapHold_none _ _ hs, hready, ← hs1, hread,
    hchain, ← hs2, hl, Option.isSome_none, Bool.false_and, Bool.false_eq_true, if_false]

end

/-- What an atomic element of one lane returns goes to the rows of its destination there, and the element leaves the
head. -/
theorem State.amoReturn_one (s : State) (p : CoreId) (t : StrandId) (e : QEntry) (r : VReq) (i : Instr)
    (j old nw : Nat) : ∃ c : Core, s.amoReturn p t e i r ([(j, old)], nw, 0) =
      (((s.setCore p c).setStrand p t (s.strand p t)).dropReq p t r.key).headSettle p t ∧
      c.store = (s.core p).store ∧ c.lanes = ((s.core p).setLane e.part j (((s.core p).lane e.part j).withRows
        (32 * (amoDest i).toNat) r.width old)).lanes := by
  obtain ⟨d, hd⟩ : ∃ d, d = (s.core p).setLane e.part j (((s.core p).lane e.part j).withRows
      (32 * (amoDest i).toNat) r.width old) := ⟨_, rfl⟩
  have hrest : d = { s.core p with lanes := d.lanes } := hd ▸ Core.setLane_rest ..
  obtain ⟨c, hc⟩ : ∃ c, c = d.regen e.part [(32 * (amoDest i).toNat, r.width)]
      fun k => [(j, old)].any fun (l : Nat × Nat) => decide (l.1 = k) := ⟨_, rfl⟩
  have hst : (s.setCore p c).strand p t = s.strand p t := by
    rw [State.strand_setCore_self, hc, Core.regen_strands, hrest]
    rfl
  have hflags : (s.strand p t).vstat ||| (0 : VFlags) = (s.strand p t).vstat := BitVec.or_zero
  refine ⟨c, ?_, ?_, ?_⟩
  · simp only [State.amoReturn, List.foldl_cons, List.foldl_nil, ← hd, ← hc, hst, hflags]
  · rw [hc, Core.regen_store, hrest]
    rfl
  · rw [← hd, hc, Core.regen_lanes]

include hq hi hh hf hfault hr hdev hc hx hwait hb hs hok hplace ha hop hint hbad hw hold hx'

theorem State.completes_homeAtomic (hlanes : mapWfFrom Lane.zero 0 (s.core p).lanes = true) (hn : e.part.Nodup)
    (hj : j < 256 * e.part.length) :
    completes (.homeAccess p t n) s fun b => (s.strand p t).settledWithout h r.key (b.strand p t) ∧
      s.putAt r.pa (leBytes (r.width / 8) (amoLeaves op r.width old x y)) b ∧
      ∀ k < 256 * e.part.length, (b.core p).lane e.part k = if k = j then
        ((s.core p).lane e.part k).withRows (32 * (amoDest i).toNat) r.width old else (s.core p).lane e.part k := by
  obtain ⟨s2, hperform, hst2, hlanes2, hput⟩ := State.performReq_atomic (p := p) (t := t) (e := e) (h := h) (i := i)
    hdev hc hx hwait hb hs hok hplace hop hint hbad hw hold hx'
  obtain ⟨c, hreturn, hstore, hc'⟩ := s2.amoReturn_one p t e r i j old (amoLeaves op r.width old x y)
  obtain ⟨s3, hs3⟩ : ∃ s3, s3 = (s2.setCore p c).setStrand p t (s2.strand p t) := ⟨_, rfl⟩
  have hst : s3.strand p t = s.strand p t := by rw [hs3, State.strand_setStrand, hst2]
  obtain ⟨st', hsettle, hsettled⟩ := State.dropReq_settles (s := s3) (p := p) (t := t) r.key (by rw [hst, hh]) hf hfault
    (by rw [hst]; exact Strand.headInstr_eq hq hi) ha
  rw [hst] at hsettled
  rw [hreturn, ← hs3] at hperform
  refine completes_of_next_eq rfl ((State.homeAccess_eq hq hi hh hf hr).trans (hperform.trans hsettle))
    ⟨?_, ?_, fun k hk => ?_⟩
  · rw [State.strand_setStrand]
    exact hsettled
  · refine State.putAt_congr rfl (fun _ => rfl) ?_ ?_ hput
    · rw [State.setStrand_mem, hs3, State.setStrand_mem]
      rfl
    · intro q
      rw [(State.Quiet.setStrand ..).store, hs3, (State.Quiet.setStrand ..).store, State.core_setCore_ite]
      split
      · next hpq => rw [← hpq, hstore]
      · rfl
  · have hend : ((s3.setStrand p t st').core p).lanes = ((s.core p).setLane e.part j
        (((s.core p).lane e.part j).withRows (32 * (amoDest i).toNat) r.width old)).lanes := by
      rw [State.setStrand_core_lanes, hs3, State.setStrand_core_lanes, State.core_setCore, hc',
        Core.lane_congr hlanes2]
      exact Core.setLane_congr hlanes2 ..
    rw [Core.lane_congr hend, Core.lane_setLane _ hlanes hn hj hk]
    split
    · next hkj => rw [hkj]
    · rfl

end atomic

end Sys2Proof.Machine
end

section
/-! What a probe pass leaves of a strand: a strand without relaxed accesses still has none, since the copies, combining
stores and tables that a translation may change or lose leave the strands alone, or abort a context with all that its
strands hold (R304). -/

namespace Sys2Proof.Machine

/-- The strand has no relaxed access left to perform. -/
def State.unrelaxed (s : State) (p : CoreId) (t : StrandId) : Prop := (s.strand p t).relaxed = []

namespace State.unrelaxed
variable {s : State} {p : CoreId} {t : StrandId}

/-- The strands of the cores alone say it. -/
theorem of_strands {s' : State} (hs : ∀ q, (s'.core q).strands = (s.core q).strands) (h : s.unrelaxed p t) :
    s'.unrelaxed p t := by
  unfold State.unrelaxed State.strand at *
  rw [hs, h]

/-- The state that an operation gives beside its result. -/
theorem of_result {α : Type} {x : α} {s' : State} {z : α × State} (h : z.2.unrelaxed p t) (hz : z = (x, s')) :
    s'.unrelaxed p t := by
  rw [hz] at h
  exact h

theorem setCore {q : CoreId} {c : Core} (hc : c.strands = (s.core q).strands) (h : s.unrelaxed p t) :
    (s.setCore q c).unrelaxed p t := by
  refine of_strands (fun k => ?_) h
  rw [State.core_setCore_ite]
  split
  · next e => rw [hc, e]
  · rfl

theorem mapCopies (f : CoreId → List Copy → List Copy) (h : s.unrelaxed p t) : (s.mapCopies f).unrelaxed p t :=
  of_strands (fun q => by rw [State.core_mapCopies]) h

theorem machineCheck (k : Nat) (c : Option CtxId) (q : CoreId) (u : Option StrandId) (cause : BitVec 16) (a pc : Word)
    (h : s.unrelaxed p t) : (s.machineCheck k c q u cause a pc).unrelaxed p t :=
  of_strands (fun _ => by rw [State.machineCheck_core]) h

/-- A strand that is aborted gives up its relaxed accesses. -/
theorem abortCtx (c : CtxId) (n : Nat) (h : s.unrelaxed p t) : (s.abortCtx c n).unrelaxed p t := by
  simp only [State.unrelaxed, State.strand, State.abortCtx, State.setCtx, State.core, Fin.getElem_fin,
    Vector.getElem_map]
  split
  · simp only [Vector.getElem_map, Strand.abort]
  · exact h

/-! ### Copies and combining stores -/

theorem snapBlock (b : Nat) (h : s.unrelaxed p t) : (s.snapBlock b).unrelaxed p t := by
  unfold State.snapBlock
  split
  · exact h
  · split
    · exact h
    · exact h

theorem homeWrite (pa : Nat) (bs : List Byte) (h : s.unrelaxed p t) : (s.homeWrite pa bs).unrelaxed p t := by
  unfold State.homeWrite
  exact foldl_keeps (State.unrelaxed · p t) (fun (a : State) b => a.snapBlock b) (fun _ b h => snapBlock b h) _ s h

theorem lostDirty (q : CoreId) (c : Copy) (h : s.unrelaxed p t) : (s.lostDirty q c).unrelaxed p t := by
  unfold State.lostDirty
  dsimp only
  split
  · exact abortCtx _ _ (machineCheck _ _ _ _ _ _ _ h)
  · exact machineCheck _ _ _ _ _ _ _ h

theorem loseDirty (f : CoreId → Copy → Bool) (h : s.unrelaxed p t) : (s.loseDirty f).unrelaxed p t := by
  refine foldl_keeps (State.unrelaxed · p t) _ (fun a x ha => ?_) _ _ h
  split
  · split
    · exact lostDirty _ _ ha
    · exact ha
  · exact ha

theorem recallCopies (l : List Nat) (k : Option CoreId) (h : s.unrelaxed p t) : (s.recall l k).unrelaxed p t :=
  mapCopies _ (loseDirty _ h)

theorem writeBack (q : CoreId) (c : Copy) (h : s.unrelaxed p t) : (s.writeBack q c).unrelaxed p t := by
  unfold State.writeBack
  split
  · exact h
  · split
    · exact setCore rfl (lostDirty _ _ h)
    · refine setCore rfl ?_
      split
      · exact h
      · split
        · exact foldl_keeps (State.unrelaxed · p t) _ (fun _ _ h => homeWrite _ _ h) _ _ (recallCopies _ _ h)
        · exact h

theorem writeBackOwn (q : CoreId) (l : List Nat) (h : s.unrelaxed p t) : (s.writeBackOwn q l).unrelaxed p t :=
  foldl_keeps (State.unrelaxed · p t) _ (fun _ c h => writeBack q c h) _ _ h

theorem restoreWord (pa : Nat) (w : Word) (h : s.unrelaxed p t) : (s.restoreWord pa w).unrelaxed p t := by
  unfold State.restoreWord
  split
  · split
    · exact setCore rfl h
    · exact h
  · exact h

theorem combOut (x : CombEntry) (h : s.unrelaxed p t) : (s.combOut x).unrelaxed p t := by
  unfold State.combOut
  dsimp only
  split
  · split
    · exact abortCtx _ _ (machineCheck _ _ _ _ _ _ _ (restoreWord _ _ h))
    · exact machineCheck _ _ _ _ _ _ _ (restoreWord _ _ h)
  · exact h

theorem combSettle (l : List Nat) (h : s.unrelaxed p t) : (s.combSettle l).unrelaxed p t :=
  foldl_keeps (State.unrelaxed · p t) _ (fun _ x h => combOut x h) _ _ h

/-! ### Translation -/

theorem pteAt (q : CoreId) (c : CtxId) (pa : Nat) (h : s.unrelaxed p t) : (s.pteAt q c pa).2.unrelaxed p t := by
  unfold State.pteAt
  split
  · split
    · exact h
    · exact writeBackOwn _ _ (combSettle _ h)
  · split
    · exact h
    · split <;> exact h
  iterate 2
    · dsimp only
      split
      · split
        · exact h
        · exact setCore rfl h
      · exact setCore rfl h
      · split
        · exact h
        · exact h
  · exact h

theorem walk (q : CoreId) (c : CtxId) (va : Nat) : ∀ (l node : Nat) {s : State}, s.unrelaxed p t →
    (s.walk q c va l node).2.unrelaxed p t
  | 0, _, _, h => h
  | l + 1, node, s, h => by
    have hpte := fun a => pteAt q c a h
    unfold State.walk
    dsimp only
    split
    · exact walk q c va l _ h
    · split
      · next s1 he => exact of_result (hpte _) he
      · next e s1 he =>
        have h1 : s1.unrelaxed p t := of_result (hpte _) he
        split
        · exact h1
        · exact h1
        · exact walk q c va l _ (setCore rfl h1)

theorem lookup (q : CoreId) (c : CtxId) (root : Nat) (va : Word) (b : Option ArrayId) (h : s.unrelaxed p t) :
    (s.lookup q c root va b).2.unrelaxed p t := by
  have hwalk := walk q c va.toNat 5 root h
  unfold State.lookup
  split
  · exact h
  · split
    · exact h
    · split
      · exact h
      · split
        · next he => exact of_result hwalk he
        · next s1 he =>
          have h1 : s1.unrelaxed p t := of_result hwalk he
          exact setCore rfl h1

theorem place (q : CoreId) (c : CtxId) (r v : Bool) (va : Word) (n : Nat) (k : Acc) (b : Option ArrayId) (nar : Bool)
    (h : s.unrelaxed p t) : (s.place q c r v va n k b nar).2.unrelaxed p t := by
  have hlookup := lookup q c (s.core q).ptroot va b h
  unfold State.place
  split
  · next he => exact of_result hlookup he
  · next he =>
    dsimp only
    split_ifs <;> exact of_result hlookup he

theorem probeOne (q : CoreId) (c : CtxId) (req : Req) (b : Option ArrayId) (x : Plan) (h : s.unrelaxed p t) :
    (s.probeOne q c req b x).2.unrelaxed p t := by
  have hplace := place q c false true x.va (touched x.bit x.width) x.op.acc b (x.op.narrow x.width) h
  unfold State.probeOne
  split
  · exact h
  · split
    · next he => exact of_result hplace he
    · next he =>
      have hs := of_result hplace he
      split_ifs <;> exact hs

theorem probePass (q : CoreId) (c : CtxId) (req : Req) (i : Instr) (part : List ArrayId) (f : Word → Word) :
    ∀ (l : List Plan) {s : State}, s.unrelaxed p t → (s.probePass q c req i part f l).2.2.unrelaxed p t
  | [], _, h => h
  | x :: xs, s, h => by
    have hone := probeOne q c req (bankOf i part x) x h
    unfold State.probePass
    split
    · next he =>
      dsimp only
      split
      · exact foldl_keeps (State.unrelaxed · p t) _ (fun _ _ ha => probeOne _ _ _ _ _ ha) _ _ (of_result hone he)
      · exact of_result hone he
    · next he => exact probePass q c req i part f xs (of_result hone he)

end State.unrelaxed

/-! ### What the requests of a probe pass do -/

/-- A request does what its plan says. -/
theorem State.probeOne_op {s s1 : State} {p : CoreId} {c : CtxId} {req : Req} {b : Option ArrayId} {x : Plan} {r : VReq}
    (h : s.probeOne p c req b x = (.ok r, s1)) : r.op = x.op := by
  unfold State.probeOne at h
  split at h
  · cases h
  · split at h
    · cases h
    · split_ifs at h <;> cases h <;> rfl

/-- A pass without a fault gives the requests of its plan in order. -/
theorem State.probePass_ops {p : CoreId} {c : CtxId} {req : Req} {i : Instr} {part : List ArrayId} {f : Word → Word} :
    ∀ {l : List Plan} {s s1 : State} {rs : List VReq}, s.probePass p c req i part f l = (rs, none, s1) →
      rs.map (·.op) = l.map (·.op)
  | [], _, _, _, h => by cases h; rfl
  | x :: xs, s, s1, rs, h => by
    unfold State.probePass at h
    split at h
    · cases h
    · next r s0 he =>
      obtain ⟨⟨rs', f', s2⟩, hrest⟩ : ∃ z, z = s0.probePass p c req i part f xs := ⟨_, rfl⟩
      rw [← hrest] at h
      cases h
      rw [List.map_cons, List.map_cons, State.probeOne_op he, State.probePass_ops hrest.symm]

/-- A pass without a fault asks for no TVAL. -/
theorem State.probePass_tval {p : CoreId} {c : CtxId} {req : Req} {i : Instr} {part : List ArrayId} {f : Word → Word}
    (g : Word → Word) : ∀ {l : List Plan} {s s1 : State} {rs : List VReq},
      s.probePass p c req i part f l = (rs, none, s1) → s.probePass p c req i part g l = (rs, none, s1)
  | [], _, _, _, h => h
  | x :: xs, s, s1, rs, h => by
    unfold State.probePass at h ⊢
    split at h
    · cases h
    · next r s0 he =>
      obtain ⟨⟨rs', f', s2⟩, hrest⟩ : ∃ z, z = s0.probePass p c req i part f xs := ⟨_, rfl⟩
      rw [← hrest] at h
      cases h
      simp only [State.probePass_tval g hrest.symm]

/-! ### Requests that no other joins and none has performed early -/

/-- Loads and stores are not joined. -/
theorem joinReqs_plain {rs : List VReq} (h : ∀ r ∈ rs, ∀ op l, r.op ≠ .atomic op l) : joinReqs rs = rs := by
  induction rs with
  | nil => rfl
  | cons r rs ih =>
    obtain ⟨hr, hrs⟩ := List.forall_mem_cons.mp h
    unfold joinReqs
    split
    · next he => exact absurd he (hr _ _)
    · rw [ih hrs]

/-- Requests of distinct addresses are not joined. -/
theorem joinReqs_distinct {rs : List VReq} (h : (rs.map (·.va)).Nodup) : joinReqs rs = rs := by
  induction rs with
  | nil => rfl
  | cons r rs ih =>
    obtain ⟨hfresh, hrs⟩ := List.nodup_cons.mp h
    have hnone : (rs.find? fun (x : VReq) => decide (x.va = r.va)) = none :=
      List.find?_eq_none.mpr fun x hx hva => hfresh (List.mem_map.mpr ⟨x, hx, of_decide_eq_true hva⟩)
    simp only [joinReqs, ih hrs, hnone]
    split <;> rfl

theorem withoutEarly_nil (rs : List VReq) : withoutEarly [] rs = rs := by
  simp [withoutEarly]

/-! ### A head that asks for elements -/

/-- The vector accesses and atomics that ask for elements of their lanes at addresses of their own (R302, R349). -/
def asksElements : Instr → Bool
  | .vld _ | .vlds _ | .vldx _ | .vldt _ | .vst _ | .vsts _ | .vstx _ | .vstt _
  | .vamoadd _ | .vamomin _ | .vamomax _ | .vamoand _ | .vamoor _ | .vamoxor _ | .vamoswap _ | .vamocas _ => true
  | _ => false

/-- None of them is bounded by a slot. -/
theorem withinSlot_asksElements {i : Instr} (hi : asksElements i = true) (l : List Plan) :
    withinSlot i 0 0 l = (l, none) := by
  cases i with
  | vldsb _ _ _ _ => cases hi
  | _ => rfl

/-- Without a bad row or a failed array no mismatch is found. -/
theorem State.memoryParity_none {s : State} (p : CoreId) (t : StrandId) (e : QEntry) (i : Instr)
    (hbad : (s.core p).parityBad = []) (hfailed : (s.core p).failed = []) : s.memoryParity p t e i = none := by
  have hclean : (s.headEnv p t e).parityError i (vspec i (s.headEnv p t e).cfg) (firstElem e i) = none :=
    if_pos ⟨hbad, hfailed⟩
  simp only [State.memoryParity, hclean, ite_self]

section
variable {s : State} {p : CoreId} {t : StrandId} {e : QEntry} {i : Instr}

/-- One that may begin begins its accesses. -/
theorem State.mayRun.beginHead (h : s.mayRun p t e i) (hi : asksElements i = true) :
    s.beginHead p t = s.beginAccess p t e i 0 0 := by
  obtain ⟨hq, hdecode, hhead, hfault, hdbg, hsave, hall, hbad, hfailed, -⟩ := h
  have hmemory := State.memoryParity_none p t e i hbad hfailed
  obtain ⟨rest, hrest⟩ : ∃ rest, (s.strand p t).queue = e :: rest := List.head?_eq_some_iff.mp hq
  have hinstr := QEntry.instr_of_decode hdecode
  have hready : ((s.strand p t).head.isSome || (s.strand p t).vfault.isSome || (s.strand p t).dbgHalted ||
      s.saving p || !(s.core p).arrivedAll e) = false := by
    simp only [hhead, hfault, hdbg, hsave, hall, Option.isSome_none, Bool.or_false, Bool.not_true]
  unfold asksElements at hi
  split at hi
  case h_17 => cases hi
  all_goals simp only [State.beginHead, hrest, hready, hinstr, hmemory, Bool.false_eq_true, if_false]

/-- Its requests become the head's, where none joins another and no relaxed access or early one stands before them. -/
theorem State.beginAccess_requests {rs : List VReq} {s1 : State} {f : Word → Word} (hi : asksElements i = true)
    (hrelease : amoRelease i = none) (hrelaxed : (s.strand p t).relaxed = []) (hearly : e.early = []) (hne : rs ≠ [])
    (hjoin : joinReqs rs = rs)
    (hpass : s.probePass p ((s.core p).serves.getD 0) (planReq i) i e.part f
      ((s.headEnv p t e).plan i e.vstart.toNat 0) = (rs, none, s1)) :
    s.beginAccess p t e i 0 0 = s1.setHead p t { HeadRun.start with reqs := rs } := by
  have hfree : s1.unrelaxed p t := by
    have hkept := State.unrelaxed.probePass p ((s.core p).serves.getD 0) (planReq i) i e.part f
      ((s.headEnv p t e).plan i e.vstart.toNat 0) hrelaxed
    rwa [hpass] at hkept
  have hperformed : rs.foldl (fun (a : State) (r : VReq) => a.performSame p t r.pa (touched r.bit r.width)) s1 = s1 :=
    foldl_keeps (· = s1) _ (fun a r ha => by rw [ha, State.performSame_none _ _ _ _ _ hfree]) rs s1 rfl
  have hhead : ((s1.setHead p t { HeadRun.start with reqs := rs }).strand p t).head =
      some { HeadRun.start with reqs := rs } := congrArg Strand.head (State.strand_setStrand ..)
  simp only [State.beginAccess, withinSlot_asksElements hi, State.probePass_tval _ hpass, hrelease, hearly, hjoin,
    withoutEarly_nil, Option.any_none, Bool.false_eq_true, if_false, Bool.not_true, hperformed]
  exact State.headSettle_left hhead hne

theorem State.completes_begin {rs : List VReq} {s1 : State} {f : Word → Word} (hrun : s.mayRun p t e i)
    (hi : asksElements i = true) (hrelease : amoRelease i = none) (hrelaxed : (s.strand p t).relaxed = [])
    (hearly : e.early = []) (hne : rs ≠ []) (hjoin : joinReqs rs = rs)
    (hpass : s.probePass p ((s.core p).serves.getD 0) (planReq i) i e.part f
      ((s.headEnv p t e).plan i e.vstart.toNat 0) = (rs, none, s1)) :
    completes (.vqEntryExecute p t) s fun b => b = s1.setHead p t { HeadRun.start with reqs := rs } :=
  completes_of_next_eq rfl ((hrun.beginHead hi).trans
    (State.beginAccess_requests hi hrelease hrelaxed hearly hne hjoin hpass)) rfl

end

/-! ### The accesses of R302 -/

/-- A container of whole bytes divides the address space. -/
theorem sewBits_bytes {m : Nat} (hm : m < 8) (hw : 8 ≤ sewBits m) :
    ∃ z, sewBits m = 8 * z ∧ 0 < z ∧ z ∣ 2 ^ 64 := by
  have h2 : 2 ≤ m := by
    by_contra h
    have : 2 ^ (m + 1) ≤ 2 ^ 2 := Nat.pow_le_pow_right (by decide) (by omega)
    unfold sewBits at hw
    omega
  refine ⟨2 ^ (m - 2), ?_, Nat.two_pow_pos _, Nat.pow_dvd_pow 2 (by omega)⟩
  rw [sewBits, show m + 1 = 3 + (m - 2) by omega, Nat.pow_add]

/-- Elements one after another stand as their base does. -/
theorem word_add_mod (base : Word) (k : Nat) {z : Nat} (hz : z ∣ 2 ^ 64) :
    (base + word (k * z)).toNat % z = base.toNat % z := by
  rw [word, BitVec.toNat_add, BitVec.toNat_ofNat, Nat.mod_mod_of_dvd _ hz, Nat.add_mod, Nat.mod_mod_of_dvd _ hz,
    Nat.mul_mod_left, Nat.add_zero, Nat.mod_mod]

/-- Unit accesses of whole bytes are those of one element after another. -/
theorem VEnv.unitPlan_bytes (v : VEnv) (base : Word) (vm : BitVec 3) (n : Nat) (op : Nat → VOp)
    (hw : 8 ≤ v.cfg.container) :
    v.unitPlan base vm n op = v.bytePlan (fun k => base + word (k * v.cfg.container / 8)) vm n op := by
  obtain ⟨z, hz, hpos, hdvd⟩ := sewBits_bytes (BitVec.isLt _) hw
  change v.cfg.container = 8 * z at hz
  refine List.map_congr_left fun k _ => ?_
  have hoff : k * (8 * z) = 8 * (k * z) := Nat.mul_left_comm ..
  simp only [hz, atBit, hoff, Nat.mul_mod_right, Nat.mul_div_cancel_left _ (show 0 < 8 by decide),
    Nat.max_eq_right hpos, word_add_mod base k hdvd]

theorem VEnv.indexed_eq (v : VEnv) (base : Word) (q : BitVec 5) :
    v.indexed base q = fun k => base + (BitVec.ofNat 32 (v.index q k)).signExtend 64 :=
  funext fun k => by rw [VEnv.indexed, sextTo64_ofNat _ (by decide)]

/-- The vector loads and stores with the addresses of their elements, and what they ask for. -/
def VEnv.accesses (v : VEnv) (o : VMemArgs) : List (Instr × (Nat → Word) × (Nat → VOp)) :=
  let unit (k : Nat) : Word := v.cfg.x1 + word (k * v.cfg.container / 8)
  let step := strided v.cfg.x1 v.cfg.x2
  let index (k : Nat) : Word := v.cfg.x1 + (BitVec.ofNat 32 (v.index o.r2 k)).signExtend 64
  let tiled := v.tiled v.cfg.x1 v.cfg.x2
  [(.vld o, unit, fun _ => .load), (.vlds o, step, fun _ => .load), (.vldx o, index, fun _ => .load),
    (.vldt o, tiled, fun _ => .load), (.vst o, unit, v.stored o.v), (.vsts o, step, v.stored o.v),
    (.vstx o, index, v.stored o.v), (.vstt o, tiled, v.stored o.v)]

/-- What the model makes of one of the vector loads and stores. -/
structure VEnv.IsAccess (v : VEnv) (o : VMemArgs) (q : Instr × (Nat → Word) × (Nat → VOp)) : Prop where
  asks : asksElements q.1 = true
  release : amoRelease q.1 = none
  acquire : ∀ (a : State) (p : CoreId), a.amoAcquire p q.1 = a
  req : planReq q.1 = o.req
  plan : 8 ≤ v.cfg.container → ∀ n, v.plan q.1 n 0 = v.bytePlan q.2.1 o.vm n q.2.2
  plain : ∀ k op l, q.2.2 k ≠ .atomic op l

theorem VEnv.isAccess {v : VEnv} {o : VMemArgs} : ∀ q ∈ v.accesses o, v.IsAccess o q := by
  have hload (k : Nat) (op : AmoOp) (l : List (Nat × Nat × Nat)) : VOp.load ≠ .atomic op l := nofun
  have hstore (k : Nat) (op : AmoOp) (l : List (Nat × Nat × Nat)) : v.stored o.v k ≠ .atomic op l := nofun
  simp only [VEnv.accesses, List.forall_mem_cons, List.not_mem_nil, false_implies, implies_true, and_true]
  exact ⟨⟨rfl, rfl, fun _ _ => rfl, rfl, fun hw n => v.unitPlan_bytes _ _ _ _ hw, hload⟩,
    ⟨rfl, rfl, fun _ _ => rfl, rfl, fun _ _ => rfl, hload⟩,
    ⟨rfl, rfl, fun _ _ => rfl, rfl, fun _ n => congrArg (v.bytePlan · o.vm n fun _ => .load) (v.indexed_eq _ _), hload⟩,
    ⟨rfl, rfl, fun _ _ => rfl, rfl, fun _ _ => rfl, hload⟩,
    ⟨rfl, rfl, fun _ _ => rfl, rfl, fun hw n => v.unitPlan_bytes _ _ _ _ hw, hstore⟩,
    ⟨rfl, rfl, fun _ _ => rfl, rfl, fun _ _ => rfl, hstore⟩,
    ⟨rfl, rfl, fun _ _ => rfl, rfl, fun _ n => congrArg (v.bytePlan · o.vm n (v.stored o.v)) (v.indexed_eq _ _),
      hstore⟩,
    ⟨rfl, rfl, fun _ _ => rfl, rfl, fun _ _ => rfl, hstore⟩⟩

/-! ### The atomics of R349 -/

/-- The vector atomics of an integer type with their operations. -/
def VEnv.atomics (v : VEnv) (am : VAmoArgs) : List (Instr × AmoOp) :=
  let mins : AmoOp × AmoOp := if v.sgn then (.min, .max) else (.minu, .maxu)
  [(.vamoadd am, .add), (.vamoand am, .and), (.vamoor am, .or), (.vamoxor am, .xor), (.vamoswap am, .swap),
    (.vamomin am, mins.1), (.vamomax am, mins.2), (.vamocas am, .cas)]

/-- What the model makes of one of the vector atomics. -/
structure VEnv.IsAtomic (v : VEnv) (am : VAmoArgs) (q : Instr × AmoOp) : Prop where
  asks : asksElements q.1 = true
  release : am.rel = false → amoRelease q.1 = none
  acquire : am.acq = false → ∀ (a : State) (p : CoreId), a.amoAcquire p q.1 = a
  req : planReq q.1 = .o
  dest : amoDest q.1 = am.vs3
  int : intAmo q.2 = true
  plan : v.cfg.isFp = false → ∀ n, v.plan q.1 n 0 = v.bytePlan
    (fun k => v.cfg.x1 + (BitVec.ofNat 32 (v.index am.vs2 k)).signExtend 64) am.vm n fun k =>
      .atomic q.2 [(k, v.elem am.vs3.toNat k, if q.2 = .cas then v.elem (am.vs3.toNat + v.cfg.g) k else 0)]

theorem VEnv.IsAtomic.of {v : VEnv} {am : VAmoArgs} {i : Instr} {op : AmoOp} {second : Nat → Nat}
    (asks : asksElements i = true) (release : amoRelease i = if am.rel then some am.scope else none)
    (acquire : ∀ (a : State) (p : CoreId), a.amoAcquire p i = if am.acq then a.acquire p am.scope else a)
    (req : planReq i = .o) (dest : amoDest i = am.vs3)
    (plan : ∀ n, v.plan i n 0 = v.bytePlan (v.indexed v.cfg.x1 am.vs2) am.vm n fun k =>
      .atomic (v.amoOp i) [(k, v.elem am.vs3.toNat k, second k)])
    (operation : v.cfg.isFp = false → v.amoOp i = op) (int : intAmo op = true)
    (hsecond : ∀ k, second k = if op = .cas then v.elem (am.vs3.toNat + v.cfg.g) k else 0) : v.IsAtomic am (i, op) where
  asks := asks
  release h := by rw [release, h]; rfl
  acquire h a p := by rw [acquire, h]; rfl
  req := req
  dest := dest
  int := int
  plan h n := by rw [plan, operation h, VEnv.indexed_eq, funext hsecond]

theorem VEnv.isAtomic {v : VEnv} {am : VAmoArgs} : ∀ q ∈ v.atomics am, v.IsAtomic am q := by
  obtain ⟨mins, hmins⟩ : ∃ m : AmoOp × AmoOp, m = if v.sgn then (.min, .max) else (.minu, .maxu) := ⟨_, rfl⟩
  obtain ⟨hint, hcas⟩ : (intAmo mins.1 = true ∧ intAmo mins.2 = true) ∧ mins.1 ≠ .cas ∧ mins.2 ≠ .cas := by
    rw [hmins]
    split
    · exact ⟨⟨rfl, rfl⟩, nofun, nofun⟩
    · exact ⟨⟨rfl, rfl⟩, nofun, nofun⟩
  have hops (h : v.cfg.isFp = false) : v.amoOp (.vamoadd am) = .add ∧ v.amoOp (.vamomin am) = mins.1 ∧
      v.amoOp (.vamomax am) = mins.2 := by
    simp only [VEnv.amoOp, h, hmins, Bool.false_eq_true, if_false, apply_ite Prod.fst, apply_ite Prod.snd,
      and_self]
  simp only [VEnv.atomics, ← hmins, List.forall_mem_cons, List.not_mem_nil, false_implies, implies_true, and_true]
  exact ⟨.of rfl rfl (fun _ _ => rfl) rfl rfl (fun _ => rfl) (fun h => (hops h).1) rfl fun _ => rfl,
    .of rfl rfl (fun _ _ => rfl) rfl rfl (fun _ => rfl) (fun _ => rfl) rfl fun _ => rfl,
    .of rfl rfl (fun _ _ => rfl) rfl rfl (fun _ => rfl) (fun _ => rfl) rfl fun _ => rfl,
    .of rfl rfl (fun _ _ => rfl) rfl rfl (fun _ => rfl) (fun _ => rfl) rfl fun _ => rfl,
    .of rfl rfl (fun _ _ => rfl) rfl rfl (fun _ => rfl) (fun _ => rfl) rfl fun _ => rfl,
    .of rfl rfl (fun _ _ => rfl) rfl rfl (fun _ => rfl) (fun h => (hops h).2.1) hint.1 fun _ => (if_neg hcas.1).symm,
    .of rfl rfl (fun _ _ => rfl) rfl rfl (fun _ => rfl) (fun h => (hops h).2.2) hint.2 fun _ => (if_neg hcas.2).symm,
    .of rfl rfl (fun _ _ => rfl) rfl rfl (fun _ => rfl) (fun _ => rfl) rfl fun _ => rfl⟩

/-! ### Accesses that begin -/

section
variable {s : State} {p : CoreId} {t : StrandId} {e : QEntry} {rs : List VReq} {s1 : State}
  (hearly : e.early = []) (hrelaxed : (s.strand p t).relaxed = []) (hne : rs ≠ [])
include hearly hrelaxed hne

/-- A vector load or store of whole bytes asks for its elements as its pass admits them. -/
theorem State.completes_accessBegin {o : VMemArgs} {q : Instr × (Nat → Word) × (Nat → VOp)}
    (hq : q ∈ (s.headEnv p t e).accesses o) (hrun : s.mayRun p t e q.1) (hw : 8 ≤ (s.headEnv p t e).cfg.container)
    (hpass : s.probePass p ((s.core p).serves.getD 0) o.req q.1 e.part id
      ((s.headEnv p t e).bytePlan q.2.1 o.vm e.vstart.toNat q.2.2) = (rs, none, s1)) :
    completes (.vqEntryExecute p t) s fun b => b = s1.setHead p t { HeadRun.start with reqs := rs } := by
  have hacc := VEnv.isAccess q hq
  have hops := State.probePass_ops hpass
  have hplain : ∀ r ∈ rs, ∀ op l, r.op ≠ .atomic op l := by
    intro r hr op l hop
    obtain ⟨x, hx, hxop⟩ := List.mem_map.mp (hops ▸ List.mem_map_of_mem (f := fun r : VReq => r.op) hr)
    obtain ⟨k, -, rfl⟩ := List.mem_map.mp hx
    exact hacc.plain k op l (hxop.trans hop)
  rw [← hacc.req, ← hacc.plan hw] at hpass
  exact State.completes_begin hrun hacc.asks hacc.release hrelaxed hearly hne (joinReqs_plain hplain) hpass

/-- A vector atomic of an integer type with distinct addresses does the same. -/
theorem State.completes_atomicBegin {am : VAmoArgs} {q : Instr × AmoOp} (hq : q ∈ (s.headEnv p t e).atomics am)
    (hrun : s.mayRun p t e q.1) (hint : (s.headEnv p t e).cfg.isFp = false) (hrel : am.rel = false)
    (hdistinct : (rs.map (·.va)).Nodup)
    (hpass : s.probePass p ((s.core p).serves.getD 0) .o q.1 e.part id ((s.headEnv p t e).bytePlan
      (fun k => (s.headEnv p t e).cfg.x1 + (BitVec.ofNat 32 ((s.headEnv p t e).index am.vs2 k)).signExtend 64) am.vm
      e.vstart.toNat fun k => .atomic q.2 [(k, (s.headEnv p t e).elem am.vs3.toNat k,
        if q.2 = .cas then (s.headEnv p t e).elem (am.vs3.toNat + (s.headEnv p t e).cfg.g) k else 0)]) =
      (rs, none, s1)) :
    completes (.vqEntryExecute p t) s fun b => b = s1.setHead p t { HeadRun.start with reqs := rs } := by
  have hatom := VEnv.isAtomic q hq
  rw [← hatom.req, ← hatom.plan hint] at hpass
  exact State.completes_begin hrun hatom.asks (hatom.release hrel) hrelaxed hearly hne (joinReqs_distinct hdistinct)
    hpass

end

end Sys2Proof.Machine
end

section
/-! Vector accesses that begin, and accesses, elements and groups that perform and land one by one (R162, R163, R272,
R286, R288, R302 to R305, R348 to R351): the statement of O40, from the lemmas on each event. -/

namespace Sys2Proof.Machine

/-! ### The statements of O40 -/

/-- A fill from the arena leaves the line in the fetch buffer and last in the instruction cache. -/
theorem State.completes_fetchHome {s : State} {p : CoreId} {t : StrandId} {line here : Nat}
    (hf : s.fetchable p (s.strand p t).pc.toNat = true) (hline : line = (s.strand p t).pc.toNat / 64)
    (hhere : here = fromLe (s.peekHome (line * 64) 64)) (hc : (s.core p).cachedLine line = none)
    (hbad : s.isBad (line * 64) 64 = false) :
    completes (.ifetchFill p t) s fun b =>
      b = (s.setCore p { s.core p with icache := (b.core p).icache }).setStrand p t
        ((s.strand p t).holdsLine line (some here)) ∧
      (b.core p).icache.getLast? = some (line, here) ∧
      (∀ y ∈ (b.core p).icache, y = (line, here) ∨ y ∈ (s.core p).icache) ∧
      ∀ y ∈ (s.core p).icache, y.1 % 256 ≠ line % 256 → y ∈ (b.core p).icache := by
  subst hline
  have hcache : (((s.setCore p ((s.core p).keepLine ((s.strand p t).pc.toNat / 64) here)).setStrand p t
      ((s.strand p t).holdsLine ((s.strand p t).pc.toNat / 64) (some here))).core p).icache =
      ((s.core p).keepLine ((s.strand p t).pc.toNat / 64) here).icache := by
    rw [State.setStrand_core_icache, State.core_setCore]
  refine completes_of_next_eq rfl (State.fetchFill_home hf hc hbad hhere) ?_
  rw [hcache]
  exact ⟨rfl, Core.keepLine_last .., fun _ => Core.mem_keepLine, fun _ => Core.keepLine_otherSet here⟩

/-- Settles O40: each event by the lemma on what it does; a head that may begin asks by its plan, which is that of R302
or R349, and an element that performs at home is read, written or changed there as any access from a core without
copies. -/
theorem memoryRequestsPerformAndLand : Obligations.MemoryRequestsPerformAndLand := by
  unfold Obligations.MemoryRequestsPerformAndLand
  intro s p t n a e rest h r o g am s1 rs i j x y new op st v z w index tiled unit step out accesses mins atomics left
    still mine line here holds
  refine ⟨fun hf => ⟨fun x hc => ?_, fun hc hbad => ?_, fun hc hbad => ?_⟩, ?_, ?_, ?_, ?_, ?_, ?_⟩
  · exact completes_of_next_eq rfl (State.fetchFill_cached hf hc) rfl
  · exact completes_of_next_eq rfl (State.fetchFill_error hf hc hbad) rfl
  · exact State.completes_fetchHome hf rfl rfl hc hbad
  · intro ha hl hdev hbad hc hx hb
    have hz : a.length = z := a.length_eq
    rw [← hz] at hbad ⊢
    exact State.completes_scalarLoad ha hl hdev hbad hc hx hb
  · intro hq hi hh hf hr hop hdev hc hx hb _ hbad hw hbit
    exact State.completes_homeLoad hq hi hh hf hr hop hdev hc hx hb hbad hw hbit
  · intro hq hi hh hf hsome hready hdistinct hleft hbelow hfault hscaled hlanes _ hn hlen
    obtain ⟨b, hb, hx, hmem, hland⟩ := State.completes_groupArrival (mine := mine) rfl hq hi hh hf hsome hready hbelow
      hfault hscaled hdistinct hleft hlanes hn hlen
    refine ⟨b, hb, hx, hmem, fun k hk => ?_⟩
    rw [hland k hk]
    cases mine.find? fun (x : VReq) => decide (x.elem = k) with
    | none => rfl
    | some _ => rfl
  · intro q hq hrun hw hearly hrelaxed hne hpass
    exact State.completes_accessBegin (o := o) hearly hrelaxed hne hq hrun hw hpass
  · intro q hq hrun hint hrel hearly hrelaxed hne hdistinct hpass
    exact State.completes_atomicBegin hearly hrelaxed hne hq hrun hint hrel hdistinct hpass
  · intro hq hi hh hf hfault hr hdev hstill hok hbit hwidth halign hplace others
    obtain ⟨hc, hx, hwait, hb, hs⟩ := hstill
    refine ⟨fun hacc hop hreq hgrain => ?_, fun hatom hacq hop hw hgrain hbad hj hn hlanes _ hnew hxw hyw => ?_⟩
    · obtain ⟨q, hq', rfl⟩ := hacc
      have hacq := (VEnv.isAccess (v := v) (o := o) q hq').acquire
      have hbyte : 8 ≤ r.width := by
        simp only [List.mem_cons, List.not_mem_nil, or_false] at hwidth
        omega
      obtain ⟨b, hstep, hleft, ⟨hback, hrest⟩, hsame⟩ := State.completes_homeStore hq hi hh hf hfault hr hdev hc hx hb
        hs hok hplace (fun a => hacq a p) hbyte hop hreq
      rw [leBytes_length] at hback hrest
      exact ⟨b, hstep, hleft, hback, hrest, hsame⟩
    · have hatom := VEnv.isAtomic (v := v) (am := am) (i, op) hatom
      obtain ⟨b, hstep, hleft, ⟨hback, hrest⟩, hland⟩ := State.completes_homeAtomic hq hi hh hf hfault hr
        (fun a => hatom.acquire hacq a p) hdev hc hx hwait hb hs hok hplace hop hatom.int hbad hw rfl hxw hlanes hn hj
      rw [leBytes_length] at hback hrest
      rw [hatom.dest] at hland
      have hnew' : new = amoLeaves op r.width (fromLe (s.peekHome r.pa (r.width / 8))) x y := hnew
      rw [← hnew'] at hback
      exact ⟨b, hstep, hleft, hback, hrest, hland⟩

end Sys2Proof.Machine
end

section
/-! The words of nodes at home (R21, R268 to R270, R287): what the checks of a node word answer and change, and what the
operations on full/empty words do for a strand whose core holds no copy and on whose words nobody waits. -/

namespace Sys2Proof.Machine

/-! ### Translations that are found again (R282, R283) -/

/-- A core with other translations, nodes and table entries held. -/
def Core.holding (k : Core) (l : List TlbEntry) (n : List NodeEntry) (b : List (Nat × BusStatus × Word)) : Core :=
  { k with tlb := l, nodes := n, tables := b }

/-- The entry maps an address of a context, by whole pages. -/
def TlbEntry.maps (e : TlbEntry) (c : CtxId) (va : Nat) : Prop :=
  e.ctx = c ∧ e.base ≤ va ∧ va < e.base + e.size ∧ e.base % 4096 = 0 ∧ e.frame % 4096 = 0 ∧ isGrain e.grain = true

theorem pageSize_multiple {code size lv : Nat} (h : pageSize code = some (size, lv)) : 0 < size ∧ size % 4096 = 0 := by
  unfold pageSize at h
  split at h
  case h_14 => cases h
  all_goals
    simp only [Option.some.injEq, Prod.mk.injEq] at h
    obtain ⟨rfl, -⟩ := h
    decide

theorem pteStep_maps {c : CtxId} {va level : Nat} {w : Word} {e : TlbEntry} (h : pteStep c va level w = .ok (.inl e)) :
    e.maps c va := by
  unfold pteStep at h
  dsimp only at h
  split at h
  · cases h
  · split at h
    · split at h
      · cases h
      · split at h
        · cases h
        · next size lv hsize =>
          obtain ⟨hpos, hmul⟩ := pageSize_multiple hsize
          split_ifs at h with hbad
          simp only [Except.ok.injEq, Sum.inl.injEq] at h
          subst h
          simp only [Bool.or_eq_true, not_or, bne_iff_ne, ne_eq, not_not] at hbad
          have hdvd : 4096 ∣ size := Nat.dvd_of_mod_eq_zero hmul
          refine ⟨rfl, Nat.div_mul_le_self va size, Nat.lt_div_mul_add hpos, Nat.mod_eq_zero_of_dvd (hdvd.mul_left _),
            Nat.mod_eq_zero_of_dvd (hdvd.trans (Nat.dvd_of_mod_eq_zero hbad.2)), ?_⟩
          dsimp only
          split <;> rfl
    · split_ifs at h
      cases h

/-- An entry of a table that is at hand is read without a change but to what is held of the tables. -/
theorem State.pteAt_ok {s t : State} {p : CoreId} {c : CtxId} {pa : Nat} {w : Word} (hc : (s.core p).copies = [])
    (hx : s.comb = []) (h : s.pteAt p c pa = (.ok w, t)) :
    ∃ b, t = s.setCore p ((s.core p).holding (s.core p).tlb (s.core p).nodes b) := by
  have same : s = s.setCore p ((s.core p).holding (s.core p).tlb (s.core p).nodes (s.core p).tables) :=
    (s.setCore_self p).symm
  unfold State.pteAt at h
  split at h
  · simp only [State.combSettle_none _ hx, State.writeBackOwn_none p _ hc] at h
    split_ifs at h <;> simp only [Prod.mk.injEq, reduceCtorEq, false_and] at h
    exact ⟨_, h.2.symm.trans same⟩
  · split_ifs at h <;> simp only [Prod.mk.injEq, reduceCtorEq, false_and] at h
    exact ⟨_, h.2.symm.trans same⟩
  iterate 2
    · dsimp only at h
      split at h <;> simp only [Prod.mk.injEq, reduceCtorEq, false_and] at h
      obtain ⟨-, rfl⟩ := h
      split_ifs
      · exact ⟨_, same⟩
      · exact ⟨_, rfl⟩
  · simp only [Prod.mk.injEq, reduceCtorEq, false_and] at h

theorem State.walk_ok {p : CoreId} {c : CtxId} {va : Nat} :
    ∀ {l node : Nat} {s t : State} {e : TlbEntry}, (s.core p).copies = [] → s.comb = [] →
      s.walk p c va l node = (.ok e, t) →
        e.maps c va ∧ ∃ n b, t = s.setCore p ((s.core p).holding (s.core p).tlb n b)
  | 0, _, _, _, _, _, _, h => by simp only [State.walk, Prod.mk.injEq, reduceCtorEq, false_and] at h
  | l + 1, node, s, t, e, hc, hx, h => by
    unfold State.walk at h
    dsimp only at h
    split at h
    · exact State.walk_ok hc hx h
    · split at h
      · simp only [Prod.mk.injEq, reduceCtorEq, false_and] at h
      · next w s1 hw =>
        obtain ⟨b, rfl⟩ := State.pteAt_ok hc hx hw
        split at h
        · simp only [Prod.mk.injEq, reduceCtorEq, false_and] at h
        · next y hy =>
          simp only [Prod.mk.injEq, Except.ok.injEq] at h
          obtain ⟨rfl, rfl⟩ := h
          exact ⟨pteStep_maps hy, _, _, rfl⟩
        · obtain ⟨hmaps, n', b', ht⟩ := State.walk_ok (by simpa [Core.holding] using hc) (by simpa using hx) h
          refine ⟨hmaps, n', b', ?_⟩
          rw [ht]
          simp [Core.holding]

/-- Whether an entry held in the TLB itself serves an address of a context. -/
def TlbEntry.serves (bank : Option ArrayId) (c : CtxId) (va : Word) (e : TlbEntry) : Bool :=
  decide (e.bank = bank ∧ e.ctx = c ∧ e.base ≤ va.toNat ∧ va.toNat < e.base + e.size)

theorem mem_holdEntry {l : List TlbEntry} {e x : TlbEntry} (h : x ∈ holdEntry l e) : x = e ∨ x ∈ l := by
  unfold holdEntry at h
  simp only [List.mem_cons, List.mem_append] at h
  rcases h with (h | h) | h
  · exact .inl h
  · exact .inr (List.mem_of_mem_filter (List.mem_of_mem_take h))
  · exact .inr (List.mem_of_mem_filter h)

/-- A translation that succeeds is held from then on. -/
theorem State.lookup_ok {s t : State} {p : CoreId} {c : CtxId} {root : Nat} {va : Word} {bank : Option ArrayId}
    {e : TlbEntry} (hc : (s.core p).copies = []) (hx : s.comb = []) (h : s.lookup p c root va bank = (.ok e, t)) :
    (bit va 63 || decide (field va 63 56 ≠ 0)) = false ∧ (t.core p).tlb.find? (TlbEntry.serves bank c va) = some e ∧
      (∃ l n b, t = s.setCore p ((s.core p).holding l n b)) ∧
      (s.tlbOk → t.tlbOk ∧ e.base % 4096 = 0 ∧ e.frame % 4096 = 0) := by
  unfold State.lookup at h
  split at h
  · simp only [Prod.mk.injEq, reduceCtorEq, false_and] at h
  · next htop =>
    split at h
    · next y hfind =>
      simp only [Prod.mk.injEq, Except.ok.injEq] at h
      obtain ⟨rfl, rfl⟩ := h
      refine ⟨by simpa using htop, hfind, ⟨_, _, _, (s.setCore_self p).symm⟩, fun hok => ?_⟩
      obtain ⟨hbase, hframe, -⟩ := hok.1 p _ (List.mem_of_find?_eq_some hfind)
      exact ⟨hok, hbase, hframe⟩
    · split at h
      · simp only [Prod.mk.injEq, reduceCtorEq, false_and] at h
      · split at h
        · simp only [Prod.mk.injEq, reduceCtorEq, false_and] at h
        · next y s1 hwalk =>
          obtain ⟨⟨hctx, hlo, hhi, hbase, hframe, hgrain⟩, n, b, rfl⟩ := State.walk_ok hc hx hwalk
          simp only [Prod.mk.injEq, Except.ok.injEq] at h
          obtain ⟨rfl, rfl⟩ := h
          simp only [State.core_setCore, State.setCore_setCore]
          refine ⟨by simpa using htop, ?_, ⟨_, _, _, rfl⟩, fun hok => ⟨⟨fun q x hq => ?_, hok.2⟩, hbase, hframe⟩⟩
          · simp [holdEntry, TlbEntry.serves, hctx, hlo, hhi]
          · rw [State.core_setCore_ite] at hq
            split at hq
            · next e =>
              subst e
              rcases mem_holdEntry hq with rfl | hx
              · exact ⟨hbase, hframe, hgrain⟩
              · exact hok.1 _ _ hx
            · exact hok.1 _ _ hq

end Sys2Proof.Machine
end

section
namespace Sys2Proof.Machine

/-- A core replaced by one with the same strands. -/
theorem State.strand_setCore_same {s : State} {p : CoreId} {k : Core} (h : k.strands = (s.core p).strands) (q : CoreId)
    (u : StrandId) : (s.setCore p k).strand q u = s.strand q u := by
  by_cases e : p = q
  · subst e
    exact (State.strand_setCore_self ..).trans (congrArg (fun v : Vector Strand 8 => v[u]) h)
  · rw [State.strand, State.core_setCore_ne _ _ _ _ e, State.strand]

/-! ### Checks of a node word that pass (R21, R287) -/

/-- What the checks of an address read of a core, its translations apart. -/
def Core.checked (k : Core) : Option CtxId × BitVec 5 × BitVec 5 × Vector (Option (CtxId × Bool)) 16 :=
  (k.serves, k.poolV, k.poolS, k.wayTag)

/-- The checks of an address read the same, translations apart. -/
structure State.sameChecks (s t : State) : Prop where
  cur : t.cur = s.cur
  priv : t.me.priv = s.me.priv
  ctxs : t.ctxs = s.ctxs
  seals : t.seals = s.seals
  snap : t.snap = s.snap
  devnum : t.devnum = s.devnum
  core : ∀ p, (t.core p).checked = (s.core p).checked

namespace State.sameChecks
variable {s t u : State}

theorem refl (s : State) : s.sameChecks s := ⟨rfl, rfl, rfl, rfl, rfl, rfl, fun _ => rfl⟩

theorem trans (h : s.sameChecks t) (k : t.sameChecks u) : s.sameChecks u :=
  ⟨k.cur.trans h.cur, k.priv.trans h.priv, k.ctxs.trans h.ctxs, k.seals.trans h.seals, k.snap.trans h.snap,
    k.devnum.trans h.devnum, fun p => (k.core p).trans (h.core p)⟩

theorem serves (h : s.sameChecks t) (p : CoreId) : (t.core p).serves = (s.core p).serves := congrArg (·.1) (h.core p)

theorem spadPlace (h : s.sameChecks t) (p : CoreId) (off : Nat) : (t.core p).spadPlace off = (s.core p).spadPlace off := by
  have hv : (t.core p).poolV = (s.core p).poolV := congrArg (·.2.1) (h.core p)
  have hs : (t.core p).poolS = (s.core p).poolS := congrArg (·.2.2.1) (h.core p)
  rw [Core.spadPlace, Core.spadPlace, hv, hs]

theorem spadFor (h : s.sameChecks t) (c : CtxId) (p : CoreId) (off : Nat) : t.spadFor c p off = s.spadFor c p off := by
  have htag : (t.core p).wayTag = (s.core p).wayTag := congrArg (·.2.2.2) (h.core p)
  simp only [State.spadFor, h.spadPlace, Core.tagAt, htag, h.serves]

theorem myCtx (h : s.sameChecks t) : t.myCtx = s.myCtx := by
  rw [State.myCtx, State.mine, h.cur, h.serves, State.myCtx, State.mine]

theorem isRuntime (h : s.sameChecks t) : t.isRuntime = s.isRuntime := by rw [State.isRuntime, h.priv, State.isRuntime]

theorem inArena (h : s.sameChecks t) (pa : Nat) : t.inArena pa = s.inArena pa := by
  rw [State.inArena, h.ctxs, State.inArena]

theorem isSealed (h : s.sameChecks t) (pa : Nat) : t.isSealed pa = s.isSealed pa := by
  rw [State.isSealed, h.seals, h.snap, State.isSealed]

theorem setCore {p : CoreId} {k : Core} (hk : k.checked = (s.core p).checked) (hs : k.strands = (s.core p).strands) :
    s.sameChecks (s.setCore p k) := by
  refine ⟨rfl, ?_, rfl, rfl, rfl, rfl, fun q => ?_⟩
  · rw [State.me, State.strand_setCore_same hs]
    rfl
  · rw [State.core_setCore_ite]
    split
    · next e => rw [hk, e]
    · rfl

theorem setMe {st : Strand} (h : st.priv = s.me.priv) : s.sameChecks (s.setMe st) := by
  refine ⟨rfl, ?_, rfl, rfl, rfl, rfl, fun q => ?_⟩
  · rw [State.me_setMe, h]
  · simp only [State.setMe, State.setStrand, State.core_setCore_ite]
    split
    · next e => subst e; rfl
    · rfl

end State.sameChecks

variable {s t t0 : State} {p : CoreId} {c : CtxId} {r v : Bool} {va : Word} {n : Nat} {k : Acc} {pl : Place}

/-- An address whose checks have passed passes them again wherever they read the same, without a further change. -/
theorem State.place_again (hc : (s.core p).copies = []) (hx : s.comb = []) (hs : s.sameChecks t)
    (htlb : (t.core p).tlb = (t0.core p).tlb) (h : s.place p c r v va n k = (.ok pl, t0)) :
    t.place p c r v va n k = (.ok pl, t) := by
  unfold State.place at h ⊢
  split at h
  · simp only [Prod.mk.injEq, reduceCtorEq, false_and] at h
  · next e s1 hlook =>
    obtain ⟨htop, hfind, -, -⟩ := State.lookup_ok hc hx hlook
    have hs1 : s1 = t0 := by
      dsimp only at h
      split_ifs at h <;> simp only [Prod.mk.injEq, reduceCtorEq, false_and] at h
      exact h.2
    have hagain : t.lookup p c (t.core p).ptroot va none = (.ok e, t) := by
      have hfind' : (t.core p).tlb.find? (TlbEntry.serves none c va) = some e := by rw [htlb, ← hs1, hfind]
      unfold State.lookup
      unfold TlbEntry.serves at hfind'
      simp only [htop, hfind', if_false, Bool.false_eq_true]
    rw [hagain]
    simp only [hs.spadFor, hs.devnum, hs.inArena, hs.isSealed] at h ⊢
    split_ifs at h ⊢ <;> simp_all

theorem State.place_window {q : CoreId} {off : Nat} (h : s.place p c r v va n k = (.ok pl, t))
    (hr : region pl.pa = .spad q off) : ((s.core q).spadPlace off).isSome = true := by
  unfold State.place at h
  split at h
  · simp only [Prod.mk.injEq, reduceCtorEq, false_and] at h
  · next e s1 hlook =>
    dsimp only at h
    split_ifs at h with hmap _ _ <;> simp only [Prod.mk.injEq, reduceCtorEq, false_and, Except.ok.injEq] at h
    obtain ⟨rfl, -⟩ := h
    dsimp only at hr
    simp only [hr, Bool.or_eq_true, Bool.not_eq_true', not_or, Bool.not_eq_false, Bool.and_eq_true] at hmap
    have hsome := hmap.1.1
    unfold State.spadFor at hsome
    cases hp : (s.core q).spadPlace off with
    | none => rw [hp] at hsome; simp at hsome
    | some _ => rfl

/-- A word of HBM data, or of the scratchpad window of a core. -/
def State.isWord (s : State) (pa : Nat) : Prop :=
  pa % 8 = 0 ∧ onDevice pa = true ∧ ∀ q off, region pa = .spad q off → ((s.core q).spadPlace off).isSome = true

variable {a : Nat}

theorem State.nodeWord_ok (h : s.nodeWord a k = (.ok pl, t)) :
    nodeOk (a / 32 * 32) = true ∧ s.place s.cur s.myCtx s.isRuntime false (word a) 8 k = (.ok pl, t) := by
  unfold State.nodeWord at h
  dsimp only at h
  split at h
  · simp only [Prod.mk.injEq, reduceCtorEq, false_and] at h
  · next hok =>
    refine ⟨by simpa using hok, ?_⟩
    split at h
    · next hplace =>
      rw [hplace]
      simpa only [Prod.mk.injEq, Except.ok.injEq] using h
    · simp only [Prod.mk.injEq, reduceCtorEq, false_and] at h

theorem nodeOk_iff {a : Nat} : nodeOk a = true ↔ a % 32 = 0 ∧ a < 2 ^ 48 ∧ 32 ≤ a := decide_eq_true_iff

theorem word_toNat {a : Nat} (h : a < 2 ^ 64) : (word a).toNat = a := by
  rw [word, BitVec.toNat_ofNat, Nat.mod_eq_of_lt h]

theorem State.nodeWord_lt (h : s.nodeWord a k = (.ok pl, t)) : a < 2 ^ 48 := by
  have := nodeOk_iff.mp (State.nodeWord_ok h).1
  omega

/-- The checks of a node word that pass change what the core holds of the page tables alone, and pass again. -/
theorem State.nodeWord_holds (hc : s.mine.copies = []) (hx : s.comb = []) (h : s.nodeWord a k = (.ok pl, t)) :
    (∃ l n b, t = s.setMine (s.mine.holding l n b)) ∧ (s.tlbOk → t.tlbOk ∧ pl.pa % 4096 = a % 4096) := by
  obtain ⟨e, hlook, hpa, -⟩ := State.place_ok (State.nodeWord_ok h).2
  obtain ⟨-, hfind, hstate, hok⟩ := State.lookup_ok hc hx hlook
  refine ⟨hstate, fun ht => ⟨(hok ht).1, ?_⟩⟩
  obtain ⟨-, hbase, hframe⟩ := hok ht
  have hserves := List.find?_some hfind
  simp only [TlbEntry.serves, decide_eq_true_eq] at hserves
  have hlo := hserves.2.2.1
  rw [word_toNat (by have := State.nodeWord_lt h; omega)] at hpa hlo
  omega

theorem State.nodeWord_again (hc : s.mine.copies = []) (hx : s.comb = []) (hs : s.sameChecks t)
    (htlb : t.mine.tlb = t0.mine.tlb) (hcur : t0.cur = s.cur) (h : s.nodeWord a k = (.ok pl, t0)) :
    t.nodeWord a k = (.ok pl, t) := by
  obtain ⟨hok, hplace⟩ := State.nodeWord_ok h
  rw [State.mine, hs.cur, State.mine, hcur] at htlb
  have hagain := State.place_again hc hx hs htlb hplace
  rw [State.nodeWord, hs.cur, hs.myCtx, hs.isRuntime]
  simp only [hok, hagain, Bool.not_true, if_false, Bool.false_eq_true]

theorem State.nodeWord_isWord (h : s.nodeWord a k = (.ok pl, t)) (hd : onDevice pl.pa = true) (ha : pl.pa % 8 = 0) :
    s.isWord pl.pa := ⟨ha, hd, fun _ _ => State.place_window (State.nodeWord_ok h).2⟩

theorem State.isWord_congr (h : s.sameChecks t) {pa : Nat} (hw : s.isWord pa) : t.isWord pa :=
  ⟨hw.1, hw.2.1, fun q off hr => by rw [h.spadPlace]; exact hw.2.2 q off hr⟩

end Sys2Proof.Machine
end

section
namespace Sys2Proof.Machine

/-! ### A strand whose words nobody else has a part in -/

/-- Home alone says what memory holds for the acting strand, and no strand waits for a word. -/
structure State.resting (s : State) : Prop where
  copies : s.mine.copies = []
  snap : s.snap = none
  comb : s.comb = []
  badCopies : s.badCopies = []
  waiters : s.waiters = []
  retries : s.retries = []
  memOk : s.memOk

theorem State.resting_of_calm {s : State} (h : s.calm = true) (hok : s.memOk) (hw : s.waiters = []) (hr : s.retries = []) :
    s.resting := by
  obtain ⟨-, -, -, -, -, hcopies, hsnap, -, -, hcomb, -, hbad⟩ := State.calm_parts h
  exact ⟨hcopies, hsnap, hcomb, hbad, hw, hr, hok⟩

/-- A core apart from what home holds in it and the copies that it holds. -/
def Core.besideHome (k : Core) : Core := { k with copies := [], spad := [], spadFull := [] }

/-- Some words of memory (by address div 8) change their data, and some are filled or emptied; copies leave other cores.
Nothing else changes. -/
structure State.worksOn (D F : List Nat) (s t : State) : Prop where
  rest : t = { s with cores := t.cores, mem := t.mem, badWords := t.badWords, watches := t.watches }
  core : ∀ p, (t.core p).besideHome = (s.core p).besideHome
  copies : ∀ p, (s.core p).copies = [] → (t.core p).copies = []
  memOk : s.memOk → t.memOk
  bad : t.badWords ⊆ s.badWords
  data : ∀ x, onDevice x = true → x / 8 ∉ D → t.peekHome x 1 = s.peekHome x 1
  full : ∀ x, onDevice x = true → x / 8 ∉ F → t.isFull x = s.isFull x

namespace State.worksOn
variable {s t u : State} {D F D' F' : List Nat}

theorem refl (s : State) : s.worksOn [] [] s :=
  ⟨rfl, fun _ => rfl, fun _ h => h, id, fun _ h => h, fun _ _ _ => rfl, fun _ _ _ => rfl⟩

theorem trans (h : s.worksOn D F t) (k : t.worksOn D' F' u) : s.worksOn (D ++ D') (F ++ F') u where
  rest := by
    have hk := k.rest
    rw [h.rest] at hk
    exact hk
  core p := (k.core p).trans (h.core p)
  copies p hp := k.copies p (h.copies p hp)
  memOk hs := k.memOk (h.memOk hs)
  bad := List.Subset.trans k.bad h.bad
  data x hx hn := by
    rw [List.mem_append, not_or] at hn
    rw [k.data x hx hn.2, h.data x hx hn.1]
  full x hx hn := by
    rw [List.mem_append, not_or] at hn
    rw [k.full x hx hn.2, h.full x hx hn.1]

theorem mono (h : s.worksOn D F t) (hD : D ⊆ D') (hF : F ⊆ F') : s.worksOn D' F' t :=
  { h with data := fun x hx hn => h.data x hx fun e => hn (hD e), full := fun x hx hn => h.full x hx fun e => hn (hF e) }

theorem cur (h : s.worksOn D F t) : t.cur = s.cur := (congrArg State.cur h.rest :)
theorem str (h : s.worksOn D F t) : t.str = s.str := (congrArg State.str h.rest :)
theorem ctxs (h : s.worksOn D F t) : t.ctxs = s.ctxs := (congrArg State.ctxs h.rest :)
theorem waiters (h : s.worksOn D F t) : t.waiters = s.waiters := (congrArg State.waiters h.rest :)
theorem retries (h : s.worksOn D F t) : t.retries = s.retries := (congrArg State.retries h.rest :)
theorem snap (h : s.worksOn D F t) : t.snap = s.snap := (congrArg State.snap h.rest :)
theorem seals (h : s.worksOn D F t) : t.seals = s.seals := (congrArg State.seals h.rest :)
theorem devnum (h : s.worksOn D F t) : t.devnum = s.devnum := (congrArg State.devnum h.rest :)
theorem comb (h : s.worksOn D F t) : t.comb = s.comb := (congrArg State.comb h.rest :)
theorem badCopies (h : s.worksOn D F t) : t.badCopies = s.badCopies := (congrArg State.badCopies h.rest :)
theorem ctx (h : s.worksOn D F t) (c : CtxId) : t.ctx c = s.ctx c := by rw [State.ctx, h.ctxs, State.ctx]

/-- What is neither home's nor a copy of a core is as before. -/
theorem ofCore {β : Type} (h : s.worksOn D F t) (f : Core → β) (p : CoreId)
    (hf : ∀ k, f (Core.besideHome k) = f k := by intro _; rfl) : f (t.core p) = f (s.core p) := by
  rw [← hf (t.core p), h.core p, hf]

theorem strand (h : s.worksOn D F t) (p : CoreId) (v : StrandId) : t.strand p v = s.strand p v :=
  h.ofCore (fun k => k.strands[v]) p

theorem me (h : s.worksOn D F t) : t.me = s.me := by rw [State.me, h.cur, h.str, h.strand, State.me]

theorem ofMine {β : Type} (h : s.worksOn D F t) (f : Core → β)
    (hf : ∀ k, f (Core.besideHome k) = f k := by intro _; rfl) : f t.mine = f s.mine := by
  rw [State.mine, h.cur]
  exact h.ofCore f s.cur hf

theorem mine_copies (h : s.worksOn D F t) (hc : s.mine.copies = []) : t.mine.copies = [] := by
  rw [State.mine, h.cur]
  exact h.copies _ hc

theorem myCtx (h : s.worksOn D F t) : t.myCtx = s.myCtx := by rw [State.myCtx, h.ofMine Core.serves, State.myCtx]

theorem sameOthers (h : s.worksOn D F t) : s.sameOthers t := fun p v _ => h.strand p v

theorem sameSpecial (h : s.worksOn D F t) : s.sameSpecial t := fun p =>
  ⟨h.ofCore Core.capmask p, h.ofCore Core.ovt p, h.ofCore Core.poolV p, h.ofCore Core.poolS p, h.ofCore Core.poolC p,
    h.ofCore Core.npool p, h.ofCore Core.cpyshare p⟩

theorem resting (h : s.worksOn D F t) (hs : s.resting) : t.resting :=
  ⟨h.mine_copies hs.copies, h.snap.trans hs.snap, h.comb.trans hs.comb, h.badCopies.trans hs.badCopies,
    h.waiters.trans hs.waiters, h.retries.trans hs.retries, h.memOk hs.memOk⟩

theorem sameChecks (h : s.worksOn D F t) : s.sameChecks t :=
  ⟨h.cur, by rw [h.me], h.ctxs, h.seals, h.snap, h.devnum, h.ofCore Core.checked⟩

theorem isWord (h : s.worksOn D F t) {pa : Nat} (hw : s.isWord pa) : t.isWord pa := State.isWord_congr h.sameChecks hw

theorem isBad (h : s.worksOn D F t) (hs : s.resting) {pa n : Nat} (hb : s.isBad pa n = false) : t.isBad pa n = false := by
  simp only [State.isBad, hs.badCopies, hs.comb, h.badCopies, h.comb, List.any_nil, Bool.or_false, List.any_eq_false] at hb ⊢
  exact fun w hw => hb w (h.bad hw)

end State.worksOn

/-! ### Words and their bytes -/

theorem Memory.read_eq_flatMap (m : Memory) (a n : Nat) :
    m.read a n = (List.range n).flatMap fun i => [m.get (a + i)] := by
  induction n generalizing a with
  | zero => rfl
  | succ n ih =>
    rw [Memory.read, ih, List.range_succ_eq_map, List.flatMap_cons, List.flatMap_map]
    exact congrArg (m.get a :: ·) (List.flatMap_congr fun i _ => by rw [Nat.add_assoc, Nat.add_comm 1 i])

/-- The addresses of a node lie in one region. -/
theorem region_hbm_add {pa x : Nat} (hr : region pa = .hbm x) {i : Nat} (hi : pa % 32 + i < 32) :
    pa + i < feBase ∧ region (pa + i) = .hbm (pa + i) := by
  unfold region at hr
  split_ifs at hr with hlt
  have hbase : feBase % 32 = 0 := rfl
  have hlt' : pa + i < feBase := by omega
  exact ⟨hlt', by rw [region, if_pos hlt']⟩

theorem region_spad_off {pa : Nat} {q : CoreId} {off : Nat} (h : region pa = .spad q off) : off < 2 ^ 24 := by
  unfold region at h
  split_ifs at h
  simp only [Region.spad.injEq] at h
  omega

/-- The offsets of a node lie beside each other in the window of a scratchpad. -/
theorem region_spad_add {pa : Nat} {q : CoreId} {off : Nat} (hr : region pa = .spad q off) {i : Nat}
    (hi : pa % 32 + i < 32) : off % 32 = pa % 32 ∧ region (pa + i) = .spad q (off + i) := by
  unfold region at hr
  split_ifs at hr with h1 h2 h3
  simp only [Region.spad.injEq, Fin.ext_iff] at hr
  have hbase : spadBase % 32 = 0 := rfl
  have h4 : ¬(pa + i < feBase) := by omega
  have h5 : ¬(pa + i < hbmEnd) := by omega
  have h6 : spadBase ≤ pa + i ∧ pa + i < spadBase + 384 * 2 ^ 24 := by omega
  refine ⟨by omega, ?_⟩
  rw [region, if_neg h4, if_neg h5, if_pos h6]
  have hq : (pa + i - spadBase) / 2 ^ 24 % 384 = q.val := by omega
  have ho : (pa + i - spadBase) % 2 ^ 24 = off + i := by omega
  exact congrArg₂ Region.spad (Fin.ext hq) ho

theorem Core.spadPlace_add (k : Core) {off i : Nat} (hi : off % 32 + i < 32) :
    k.spadPlace (off + i) = (k.spadPlace off).map (· + i) := by
  unfold Core.spadPlace
  by_cases hw : off < 2 ^ 20 * (k.poolS.toNat - k.poolV.toNat)
  · rw [if_pos hw, if_pos (by omega)]
    exact congrArg some (Nat.add_assoc ..).symm
  · rw [if_neg hw, if_neg (by omega)]
    rfl

/-- The words of a node are words of one region. -/
theorem State.isWord_add {s : State} {pa : Nat} (hw : s.isWord pa) {i : Nat} (hi : pa % 32 + i < 32) (h8 : i % 8 = 0) :
    s.isWord (pa + i) := by
  obtain ⟨ha, hd, hplace⟩ := hw
  unfold onDevice at hd
  refine ⟨by omega, ?_⟩
  cases hr : region pa with
  | hbm x =>
    have hi' := (region_hbm_add hr hi).2
    exact ⟨by rw [onDevice, hi'], fun q off hq => by rw [hi'] at hq; cases hq⟩
  | spad q off =>
    obtain ⟨ho, hi'⟩ := region_spad_add hr hi
    refine ⟨by rw [onDevice, hi'], fun r o hq => ?_⟩
    rw [hi'] at hq
    cases hq
    rw [Core.spadPlace_add _ (by omega), Option.isSome_map]
    exact hplace q off hr
  | feStore _ | mmio _ | host _ | peer _ _ | nowhere => simp [hr] at hd

/-- The bytes of a word are those of its eight addresses. -/
theorem State.peekHome_bytes (s : State) {pa : Nat} (ha : pa % 8 = 0) (hd : onDevice pa = true) :
    s.peekHome pa 8 = (List.range 8).flatMap fun i => s.peekHome (pa + i) 1 := by
  unfold onDevice at hd
  cases hr : region pa with
  | hbm x =>
    have hx := region_hbm_eq hr
    subst hx
    rw [State.peekHome, hr]
    refine (Memory.read_eq_flatMap ..).trans (List.flatMap_congr fun i h => ?_)
    rw [State.peekHome, (region_hbm_add hr (by have := List.mem_range.mp h; omega)).2]
    rfl
  | spad q off =>
    rw [State.peekHome, hr]
    cases hp : (s.core q).spadPlace off with
    | none =>
      refine Eq.trans (b := (List.range 8).flatMap fun _ => [0]) (by simp only [hp]; rfl)
        (List.flatMap_congr fun i h => ?_)
      have hlt := List.mem_range.mp h
      obtain ⟨ho, hi⟩ := region_spad_add (i := i) hr (by omega)
      simp only [State.peekHome, hi, Core.spadPlace_add _ (show off % 32 + i < 32 by omega), hp, Option.map_none]
      rfl
    | some place =>
      simp only [hp]
      refine (Memory.read_eq_flatMap ..).trans (List.flatMap_congr fun i h => ?_)
      have hlt := List.mem_range.mp h
      obtain ⟨ho, hi⟩ := region_spad_add (i := i) hr (by omega)
      simp only [State.peekHome, hi, Core.spadPlace_add _ (show off % 32 + i < 32 by omega), hp, Option.map_some, Memory.read_one]
  | feStore _ | mmio _ | host _ | peer _ _ | nowhere => simp [hr] at hd

/-- The eight addresses of a word of the device are on the device. -/
theorem onDevice_add {pa : Nat} (ha : pa % 8 = 0) (hd : onDevice pa = true) {i : Nat} (hi : i < 8) :
    onDevice (pa + i) = true := by
  unfold onDevice at hd ⊢
  cases hr : region pa with
  | hbm x => rw [(region_hbm_add hr (by omega)).2]
  | spad q off => rw [(region_spad_add hr (by omega)).2]
  | feStore _ | mmio _ | host _ | peer _ _ | nowhere => simp [hr] at hd

theorem State.worksOn.homeWord {s t : State} {D F : List Nat} (h : s.worksOn D F t) {pa : Nat} (ha : pa % 8 = 0)
    (hd : onDevice pa = true) (hn : pa / 8 ∉ D) : t.homeWord pa = s.homeWord pa := by
  have hbytes : t.peekHome pa 8 = s.peekHome pa 8 := by
    rw [t.peekHome_bytes ha hd, s.peekHome_bytes ha hd]
    refine List.flatMap_congr fun i hi => ?_
    have hi := List.mem_range.mp hi
    exact h.data _ (onDevice_add ha hd hi) (by rwa [show (pa + i) / 8 = pa / 8 by omega])
  rw [State.homeWord, hbytes, State.homeWord]

end Sys2Proof.Machine
end

section
namespace Sys2Proof.Machine

/-! ### What the operations on words at home do (R268 to R270, R273) -/

variable {s : State}

/-- What a core keeps of which words of its scratchpad are full, and where its window lies. -/
def Core.marks (k : Core) : List Nat × BitVec 5 × BitVec 5 := (k.spadFull, k.poolV, k.poolS)

/-- Which words are full depends on HBM and on what each core keeps of its scratchpad. -/
theorem State.isFull_congr {t : State} (hm : t.mem = s.mem) (hc : ∀ p, (t.core p).marks = (s.core p).marks) (pa : Nat) :
    t.isFull pa = s.isFull pa := by
  unfold State.isFull
  split
  · next q off _ =>
    have hfull : (t.core q).spadFull = (s.core q).spadFull := congrArg (·.1) (hc q)
    have hv : (t.core q).poolV = (s.core q).poolV := congrArg (·.2.1) (hc q)
    have hs : (t.core q).poolS = (s.core q).poolS := congrArg (·.2.2) (hc q)
    rw [Core.spadPlace, Core.spadPlace, hfull, hv, hs]
  · rw [hm]

/-- Copies have left some cores. -/
def State.recalled (s t : State) : Prop := ∃ f : CoreId → Copy → Bool, t = s.mapCopies fun p cs => cs.filter (f p)

theorem State.recalled_worksOn {t : State} (h : s.recalled t) : s.worksOn [] [] t := by
  obtain ⟨f, rfl⟩ := h
  have hcopies := State.copiesMove.mapCopies s fun p cs => cs.filter (f p)
  refine ⟨by simp only [State.mapCopies], fun p => ?_, fun p hp => ?_, State.mapCopies_memOk _,
    by simp [State.mapCopies], fun x _ _ => ?_, fun x _ _ => ?_⟩
  · rw [State.core_mapCopies]
    rfl
  · rw [State.core_mapCopies, hp]
    rfl
  · exact hcopies.peekHome (s.mem_mapCopies _) x 1
  · exact State.isFull_congr (s.mem_mapCopies _) (fun p => by rw [State.core_mapCopies]; rfl) x

theorem State.recalled_sameBytes {t : State} (h : s.recalled t) : s.sameBytes t := by
  obtain ⟨f, rfl⟩ := h
  exact fun x => (State.copiesMove.mapCopies s _).peekHome (s.mem_mapCopies _) x 1

theorem State.recall_recalled (l : List Nat) (k : Option CoreId) (hb : s.badCopies = []) : s.recalled (s.recall l k) := by
  rw [State.recall, State.loseDirty_none _ hb]
  exact ⟨_, rfl⟩

theorem State.prepareHome_recalled (h : s.resting) (pa g : Nat) : s.recalled (s.prepareHome s.cur pa g) := by
  rw [State.prepareHome, State.combSettle_none _ h.comb, State.prepareAtomic]
  simp only [State.writeBackOwn_none s.cur _ h.copies, State.dropOwn_none s.cur _ h.copies]
  exact State.recall_recalled _ _ h.badCopies

/-- Bytes of a word written at home change that word alone, and no full/empty bit. -/
theorem State.putHome_worksOn {bs : List Byte} {pa : Nat} (hs : s.snap = none) (hok : s.memOk) (hw : s.isWord pa)
    (hlen : bs.length = 8) : s.worksOn [pa / 8] [] (s.putHome pa bs) := by
  obtain ⟨ha, hd, hplace⟩ := hw
  have hput := State.putHome_putAt bs hok hs hd hplace
  have hdata (x : Nat) (hx : x / 8 ∉ [pa / 8]) : (s.putHome pa bs).peekHome x 1 = s.peekHome x 1 := by
    rw [List.mem_singleton] at hx
    exact hput.2 x (by omega)
  unfold onDevice at hd
  cases hr : region pa with
  | hbm a =>
    have hlt := (region_hbm_add hr (i := 7) (by omega)).1
    have hmem := State.homeWrite_mem pa bs hs
    have hcores := State.homeWrite_cores (s := s) (pa := pa) bs hs
    rw [State.putHome_hbm bs hr] at hdata ⊢
    refine ⟨by simp [State.homeWrite, hs], fun p => by rw [State.core, hcores, State.core],
      fun p hp => by rwa [State.core, hcores], State.homeWrite_memOk pa bs, ?_, fun x _ hx => hdata x hx,
      fun x hx _ => ?_⟩
    · simp only [State.homeWrite, hs, Option.isNone_none, if_true, List.foldl_nil]
      exact fun w hw => List.mem_of_mem_filter hw
    · unfold State.isFull
      split
      · rw [State.core, hcores, State.core]
      · have hfar : (fePlace x).1 < pa ∨ pa + bs.length ≤ (fePlace x).1 := by unfold fePlace; omega
        rw [hmem, Memory.get_write_out pa _ bs hok.1 hfar]
  | spad q off =>
    obtain ⟨place, hp⟩ := Option.isSome_iff_exists.mp (hplace q off hr)
    have heq : s.putHome pa bs = { s.setCore q { s.core q with spad := (s.core q).spad.write place bs } with
        watches := s.wakeWatches pa bs.length
        badWords := s.badWords.filter fun w => !decide (pa ≤ w * 8 ∧ w * 8 + 8 ≤ pa + bs.length) } := by
      unfold State.putHome
      rw [hr]
      simp only [hp]
    have hcore (p : CoreId) : (s.putHome pa bs).core p =
        if q = p then { s.core q with spad := (s.core q).spad.write place bs } else s.core p := by
      rw [heq]
      exact State.core_setCore_ite ..
    refine ⟨by rw [heq]; rfl, fun p => ?_, fun p hc => ?_, State.putHome_memOk pa bs, ?_, fun x _ hx => hdata x hx,
      fun x hx _ => ?_⟩
    · rw [hcore]
      split
      · next e => rw [← e]; rfl
      · rfl
    · rw [hcore]
      split
      · next e => rw [← e] at hc; exact hc
      · exact hc
    · rw [heq]
      exact fun w hw => List.mem_of_mem_filter hw
    · refine State.isFull_congr (by rw [heq]; rfl) (fun p => ?_) x
      rw [hcore]
      split
      · next e => rw [← e]; rfl
      · rfl
  | feStore _ | mmio _ | host _ | peer _ _ | nowhere => simp [hr] at hd

theorem State.homeWord_of_bytes {v : Word} {pa : Nat} (h : s.peekHome pa 8 = leBytes 8 v.toNat) : s.homeWord pa = v := by
  rw [State.homeWord, h, fromLe_leBytes, word, Nat.mod_eq_of_lt (by have := v.isLt; omega), BitVec.ofNat_toNat,
    BitVec.setWidth_eq]

/-- A word written at home. -/
theorem State.pokeWord_spec {pa : Nat} (h : s.resting) (hw : s.isWord pa) (v : Word) :
    s.worksOn [pa / 8] [] (s.pokeWord pa v) ∧ (s.pokeWord pa v).homeWord pa = v ∧ (s.pokeWord pa v).isFull pa = s.isFull pa := by
  have hlen := leBytes_length 8 v.toNat
  have hput : ∃ s', s.pokeWord pa v = s'.putHome pa (leBytes 8 v.toNat) ∧ s.recalled s' := by
    rw [State.pokeWord, State.pokeHome, State.combSettle_none _ h.comb]
    split
    · exact ⟨_, rfl, State.recall_recalled _ _ h.badCopies⟩
    · refine ⟨s, rfl, fun _ _ => true, ?_⟩
      simp [State.mapCopies, State.core]
  obtain ⟨s', heq, hrec⟩ := hput
  have hwork := State.recalled_worksOn hrec
  have hs' := hwork.resting h
  have hw' := hwork.isWord hw
  have hstep : s.worksOn [pa / 8] [] (s.pokeWord pa v) := by
    rw [heq]
    exact hwork.trans (State.putHome_worksOn hs'.snap hs'.memOk hw' hlen)
  refine ⟨hstep, ?_, hstep.full pa hw.2.1 List.not_mem_nil⟩
  have hback := (State.putHome_putAt (leBytes 8 v.toNat) hs'.memOk hs'.snap hw'.2.1 hw'.2.2).1
  rw [hlen] at hback
  rw [heq]
  exact State.homeWord_of_bytes hback

theorem mem_insertNat {a b : Nat} {l : List Nat} : a ∈ insertNat b l ↔ a = b ∨ a ∈ l := by
  induction l with
  | nil => simp [insertNat]
  | cons k l ih =>
    unfold insertNat
    split_ifs with h1 h2
    · simp
    · subst h2; simp
    · simp [ih]; tauto

/-- The byte of the full/empty store with the bit of one word filled or emptied (R270). -/
def feMark (x : Byte) (k : Nat) (full : Bool) : Byte :=
  if full then x &&& ~~~(BitVec.ofNat 8 (2 ^ k)) else x ||| BitVec.ofNat 8 (2 ^ k)

theorem getLsbD_feMark (x : Byte) {j : Nat} (k : Nat) (hj : j < 8) (full : Bool) :
    (!(feMark x k full).getLsbD j) = if j = k then full else !x.getLsbD j := by
  have hbit : (BitVec.ofNat 8 (2 ^ k)).getLsbD j = decide (j = k) := by
    rw [BitVec.getLsbD_ofNat, Nat.testBit_two_pow]
    simp [hj, eq_comm]
  cases full <;> by_cases e : j = k <;> simp [feMark, hj, e] <;> simp_all

/-- A core with a word of its scratchpad, by its place div 8, filled or emptied (R268). -/
def Core.mark (k : Core) (w : Nat) (full : Bool) : Core :=
  { k with spadFull := if full then insertNat w k.spadFull else k.spadFull.filter (· ≠ w) }

theorem Core.mem_mark (k : Core) (w v : Nat) (full : Bool) :
    decide (v ∈ (k.mark w full).spadFull) = if v = w then full else decide (v ∈ k.spadFull) := by
  by_cases e : v = w <;> cases full <;> simp [Core.mark, mem_insertNat, e]

section setFull
variable {pa : Nat} (full : Bool)

theorem State.setFull_hbm {a : Nat} (hr : region pa = .hbm a) : s.setFull pa full =
    { s with mem := s.mem.set (feBase + pa / 64) (feMark (s.mem.get (feBase + pa / 64)) (pa / 8 % 8) full) } := by
  rw [State.setFull, hr]
  rfl

theorem State.setFull_spad {q : CoreId} {off place : Nat} (hr : region pa = .spad q off)
    (hp : (s.core q).spadPlace off = some place) : s.setFull pa full = s.setCore q ((s.core q).mark (place / 8) full) := by
  rw [State.setFull, hr]
  simp only [hp]
  rfl

theorem State.isFull_hbm {a : Nat} (hr : region pa = .hbm a) :
    s.isFull pa = !(s.mem.get (feBase + pa / 64)).getLsbD (pa / 8 % 8) := by
  rw [State.isFull, hr]
  rfl

theorem State.isFull_spad {q : CoreId} {off : Nat} (hr : region pa = .spad q off) :
    s.isFull pa = ((s.core q).spadPlace off).elim false fun place => decide (place / 8 ∈ (s.core q).spadFull) := by
  rw [State.isFull, hr]
  cases h : (s.core q).spadPlace off <;> simp [h]

theorem hbm_lt {x y : Nat} (hr : region x = .hbm y) : x < feBase := by
  unfold region at hr
  split_ifs at hr
  assumption

/-- A word is full as it was made, and every other word as it was. -/
theorem State.isFull_setFull (hok : s.memOk) (hw : s.isWord pa) {x : Nat} (hx : onDevice x = true) :
    (s.setFull pa full).isFull x = if x / 8 = pa / 8 then full else s.isFull x := by
  obtain ⟨-, hd, hplace⟩ := hw
  unfold onDevice at hd hx
  cases hr : region pa with
  | hbm a =>
    have hlt := hbm_lt hr
    cases hy : region x with
    | hbm y =>
      rw [State.isFull_hbm hy, State.isFull_hbm hy, State.setFull_hbm full hr]
      by_cases hbyte : x / 64 = pa / 64
      · rw [hbyte, Memory.get_set _ _ hok.1, getLsbD_feMark _ _ (by omega)]
        congr 1
        exact propext (by omega)
      · rw [Memory.get_set_ne _ hok.1 (by omega), if_neg (by omega)]
    | spad q off =>
      have hxa := region_spad_eq hy
      have hbase : feBase ≤ spadBase := by decide
      have hmod : feBase % 8 = 0 := rfl
      rw [State.isFull_spad hy, State.isFull_spad hy, State.setFull_hbm full hr, if_neg (by omega)]
      rfl
    | feStore _ | mmio _ | host _ | peer _ _ | nowhere => simp [hy] at hx
  | spad q off =>
    obtain ⟨place, hp⟩ := Option.isSome_iff_exists.mp (hplace q off hr)
    have hpa := region_spad_eq hr
    have hbase : spadBase % 8 = 0 := rfl
    rw [State.setFull_spad full hr hp]
    cases hy : region x with
    | hbm y =>
      have hlt := hbm_lt hy
      have hbelow : feBase ≤ spadBase := by decide
      rw [State.isFull_hbm hy, State.isFull_hbm hy, if_neg (by unfold feBase spadBase at *; omega)]
      rfl
    | spad r o =>
      have hxa := region_spad_eq hy
      rw [State.isFull_spad hy, State.isFull_spad hy, State.core_setCore_ite]
      by_cases e : q = r
      · subst e
        rw [if_pos rfl, show ((s.core q).mark (place / 8) full).spadPlace o = (s.core q).spadPlace o from rfl]
        cases hp' : (s.core q).spadPlace o with
        | none =>
          have hne : x / 8 ≠ pa / 8 := by
            unfold Core.spadPlace at hp hp'
            split_ifs at hp hp'
            omega
          rw [if_neg hne]
          rfl
        | some place' =>
          have hsame : place' / 8 = place / 8 ↔ x / 8 = pa / 8 := by
            unfold Core.spadPlace at hp hp'
            split_ifs at hp hp'
            simp only [Option.some.injEq] at hp hp'
            omega
          simp only [Option.elim_some, Core.mem_mark, hsame]
      · have hne : x / 8 ≠ pa / 8 := by
          have h1 := region_spad_off hr
          have h2 := region_spad_off hy
          have h3 : q.val ≠ r.val := fun h => e (Fin.ext h)
          omega
        rw [if_neg e, if_neg hne]
    | feStore _ | mmio _ | host _ | peer _ _ | nowhere => simp [hy] at hx
  | feStore _ | mmio _ | host _ | peer _ _ | nowhere => simp [hr] at hd

/-- Filling or emptying a word changes no data. -/
theorem State.peekHome_setFull (hok : s.memOk) (hw : s.isWord pa) {x : Nat} (hx : onDevice x = true) :
    (s.setFull pa full).peekHome x 1 = s.peekHome x 1 := by
  obtain ⟨-, hd, hplace⟩ := hw
  unfold onDevice at hd hx
  cases hr : region pa with
  | hbm a =>
    rw [State.setFull_hbm full hr]
    cases hy : region x with
    | hbm y =>
      have hlt := hbm_lt hy
      simp only [State.peekHome, hy, Memory.read_one]
      rw [Memory.get_set_ne _ hok.1 (by omega)]
    | spad q off =>
      simp only [State.peekHome, hy]
      rfl
    | feStore _ | mmio _ | host _ | peer _ _ | nowhere => simp [hy] at hx
  | spad q off =>
    obtain ⟨place, hp⟩ := Option.isSome_iff_exists.mp (hplace q off hr)
    rw [State.setFull_spad full hr hp]
    refine State.peekHome_of_store (s := s) (t := s.setCore q _) rfl (fun p => ?_) x 1
    rw [State.core_setCore_ite]
    split
    · next e => rw [← e]; rfl
    · rfl
  | feStore _ | mmio _ | host _ | peer _ _ | nowhere => simp [hr] at hd

/-- A word that is filled or emptied keeps its data, and every other word is as it was. -/
theorem State.setFull_spec (hok : s.memOk) (hw : s.isWord pa) :
    s.worksOn [] [pa / 8] (s.setFull pa full) ∧ (s.setFull pa full).isFull pa = full := by
  have hfull (x : Nat) (hx : onDevice x = true) := State.isFull_setFull full hok hw hx
  refine ⟨?_, (hfull pa hw.2.1).trans (if_pos rfl)⟩
  have hdata (x : Nat) (hx : onDevice x = true) (_ : x / 8 ∉ []) := State.peekHome_setFull full hok hw hx
  have hothers (x : Nat) (hx : onDevice x = true) (hn : x / 8 ∉ [pa / 8]) : (s.setFull pa full).isFull x = s.isFull x := by
    rw [hfull x hx, if_neg (by simpa using hn)]
  have hmem := State.setFull_memOk (s := s) pa full
  rcases s.setFull_cases pa full with e | ⟨p, l, e⟩ | ⟨a, x, e⟩
  · exact ⟨by rw [e], fun _ => by rw [e], fun _ h => by rwa [e], hmem, by rw [e]; exact fun _ h => h, hdata, hothers⟩
  · refine ⟨by rw [e]; rfl, fun q => ?_, fun q h => ?_, hmem, by rw [e]; exact fun _ h => h, hdata, hothers⟩
    · rw [e, State.core_setCore_ite]
      split
      · next hq => rw [← hq]; rfl
      · rfl
    · rw [e, State.core_setCore_ite]
      split
      · next hq => rw [← hq] at h; exact h
      · exact h
  · exact ⟨by rw [e], fun _ => by rw [e]; rfl, fun _ h => by rw [e]; exact h, hmem, by rw [e]; exact fun _ h => h, hdata,
      hothers⟩

end setFull

end Sys2Proof.Machine
end

section
namespace Sys2Proof.Machine

variable {s : State}

/-- A word on which nobody waits serves nobody. -/
theorem State.serve_none (hw : s.waiters = []) (pa : Nat) : s.serve pa = s := by
  have hself : { s with waiters := [] } = s := by rw [← hw]
  unfold State.serve
  rw [hw]
  simp only [State.serveRounds, hw, List.filter_nil, List.foldl_nil, List.find?_nil, hself,
    ite_self]

/-- A store that fills a word. -/
theorem State.fillWord_spec {pl : Place} (h : s.resting) (hw : s.isWord pl.pa) (v : Word) :
    s.worksOn [pl.pa / 8] [pl.pa / 8] (s.fillWord pl v) ∧ (s.fillWord pl v).homeWord pl.pa = v ∧
      (s.fillWord pl v).isFull pl.pa = true := by
  have h1 := State.recalled_worksOn (State.prepareHome_recalled h pl.pa pl.grain)
  obtain ⟨h2, hv, -⟩ := State.pokeWord_spec (h1.resting h) (h1.isWord hw) v
  have h12 := h1.trans h2
  obtain ⟨h3, hfull⟩ := State.setFull_spec true (h12.resting h).memOk (h12.isWord hw)
  rw [State.fillWord, State.serve_none ((h12.trans h3).waiters.trans h.waiters)]
  exact ⟨h12.trans h3, (h3.homeWord hw.1 hw.2.1 List.not_mem_nil).trans hv, hfull⟩

theorem State.acquire_none {p : CoreId} (sc : Scope) (h : (s.core p).copies = []) : s.acquire p sc = s := by
  have hnone : ((s.core p).copies.filter fun c => !(decide (c.kind = .untracked) && decide (c.dirty = []))) =
      (s.core p).copies := by
    rw [h]
    rfl
  unfold State.acquire
  split
  · rfl
  · rw [hnone]
    exact State.setCore_self s p

theorem State.acquireAt_none (sc : Scope) (h : s.mine.copies = []) : s.acquireAt sc = s := State.acquire_none sc h

/-! ### Nodes written whole (R190, R194) -/

/-- The words of a node, by their addresses div 8. -/
def nodeCells (pa : Nat) : List Nat := [pa / 8, (pa + 8) / 8, (pa + 16) / 8, (pa + 24) / 8]

theorem mem_nodeCells {pa x : Nat} (ha : pa % 32 = 0) : x / 8 ∈ nodeCells pa ↔ x / 32 = pa / 32 := by
  simp only [nodeCells, List.mem_cons, List.not_mem_nil, or_false]
  omega

theorem State.fillNode_spec {pl : Place} (h : s.resting) (hw : s.isWord pl.pa) (ha : pl.pa % 32 = 0)
    (w0 w1 w2 w3 : Word) :
    s.worksOn (nodeCells pl.pa) (nodeCells pl.pa) (s.fillNode pl w0 w1 w2 w3) ∧
      (∀ i < 4, (s.fillNode pl w0 w1 w2 w3).homeWord (pl.pa + 8 * i) = [w0, w1, w2, w3].getD i 0) ∧
      ∀ i < 4, (s.fillNode pl w0 w1 w2 w3).isFull (pl.pa + 8 * i) = true := by
  have hword (i : Nat) (hi : i < 4) := State.isWord_add (i := 8 * i) hw (by omega) (by omega)
  obtain ⟨k0, v0, f0⟩ := State.fillWord_spec h hw w0
  obtain ⟨k1, v1, f1⟩ := State.fillWord_spec (pl := { pl with pa := pl.pa + 8 }) (k0.resting h) (k0.isWord (hword 1 (by decide))) w1
  have k01 := k0.trans k1
  obtain ⟨k2, v2, f2⟩ := State.fillWord_spec (pl := { pl with pa := pl.pa + 16 }) (k01.resting h)
    (k01.isWord (hword 2 (by decide))) w2
  have k012 := k01.trans k2
  obtain ⟨k3, v3, f3⟩ := State.fillWord_spec (pl := { pl with pa := pl.pa + 24 }) (k012.resting h)
    (k012.isWord (hword 3 (by decide))) w3
  have k12 := k1.trans k2
  have k123 := k12.trans k3
  have k23 := k2.trans k3
  dsimp only at *
  have apart (l : List Nat) (i : Nat) (hl : ∀ y ∈ l, (pl.pa + 8 * i) / 8 ≠ y) : (pl.pa + 8 * i) / 8 ∉ l := fun hm => hl _ hm rfl
  refine ⟨k012.trans k3, fun i hi => ?_, fun i hi => ?_⟩
  all_goals
    have hi' := hword i hi
    rw [State.fillNode]
    obtain rfl | rfl | rfl | rfl : i = 0 ∨ i = 1 ∨ i = 2 ∨ i = 3 := by omega
  · exact (k123.homeWord hi'.1 hi'.2.1 (apart _ 0 (by simp; omega))).trans v0
  · exact (k23.homeWord hi'.1 hi'.2.1 (apart _ 1 (by simp; omega))).trans v1
  · exact (k3.homeWord hi'.1 hi'.2.1 (apart _ 2 (by simp; omega))).trans v2
  · exact v3
  · exact (k123.full _ hi'.2.1 (apart _ 0 (by simp; omega))).trans f0
  · exact (k23.full _ hi'.2.1 (apart _ 1 (by simp; omega))).trans f1
  · exact (k3.full _ hi'.2.1 (apart _ 2 (by simp; omega))).trans f2
  · exact f3

/-! ### Full/empty operations that find their word (R269) -/

variable {pl : Place}

/-- An operation that waits for a full word performs on one, once the other cores' copies of it are recalled. -/
theorem State.feOperate_full {op : FeOp} (h : s.resting) (hw : s.isWord pl.pa) (hwant : op.wantsFull = true)
    (hfull : s.isFull pl.pa = true) (hbad : s.isBad pl.pa 8 = false) (va : Word) :
    ∃ s', s.recalled s' ∧ s.feOperate pl va op =
      if op.changes then (s'.completeFe s.cur s.str pl.pa op).serve pl.pa else s'.completeFe s.cur s.str pl.pa op := by
  have hrec := State.prepareHome_recalled h pl.pa pl.grain
  have hk := State.recalled_worksOn hrec
  refine ⟨_, hrec, ?_⟩
  have hfull' := (hk.full pl.pa hw.2.1 List.not_mem_nil).trans hfull
  unfold State.feOperate
  simp only [hfull', hwant, hk.isBad h hbad, BEq.rfl, if_true, Bool.and_false, Bool.false_eq_true, if_false]

/-- One that finds its word empty parks the strand, which waits at the word. -/
theorem State.feOperate_empty {op : FeOp} (h : s.resting) (hw : s.isWord pl.pa) (hwant : op.wantsFull = true)
    (hempty : s.isFull pl.pa = false) (hwatch : s.watches = []) (va : Word) :
    ∃ s', s.recalled s' ∧ s.feOperate pl va op =
      { s'.setMe { s.me with wait := some .fullEmpty } with waiters := [⟨s.cur, s.str, pl.pa, pl.grain, op⟩] } := by
  have hrec := State.prepareHome_recalled h pl.pa pl.grain
  have hk := State.recalled_worksOn hrec
  refine ⟨_, hrec, ?_⟩
  have hempty' := (hk.full pl.pa hw.2.1 List.not_mem_nil).trans hempty
  have hwatch' : (s.prepareHome s.cur pl.pa pl.grain).watches = [] := by
    obtain ⟨f, hf⟩ := hrec
    rw [hf, State.mapCopies, hwatch]
  have hwait' := hk.waiters.trans h.waiters
  unfold State.feOperate
  have hne : ((false == true) = true) = False := by decide
  simp only [hempty', hwant, hne, if_false, State.park, hk.me]
  unfold State.enterWaiter State.tableFree
  simp [hwatch', hwait']

/-- A strand that leaves a wait at the next instruction. -/
def Strand.goesOn (st : Strand) : Strand := { st with wait := none, pc := st.pc + 4 }

theorem Strand.withX_goesOn {st : Strand} (h : st.wait = none) (r : BitVec 5) (v : Word) :
    st.goesOn.withX r v = { st.withX r v with pc := st.pc + 4 } := by
  unfold Strand.goesOn Strand.withX
  split
  · rw [← h]
  · simp only [← h]

theorem State.completeFe_take {op : FeOp} {rd : BitVec 5} (hop : op = .ntake rd ∨ op = .ldfT rd) (p : CoreId)
    (t : StrandId) (pa : Nat) : s.completeFe p t pa op =
      ((s.setFull pa false).setStrand p t ((s.strand p t).goesOn.withX rd (s.homeWord pa))).acquire p .dev := by
  rcases hop with rfl | rfl <;> rfl

theorem State.completeFe_keep (rd : BitVec 5) (p : CoreId) (t : StrandId) (pa : Nat) : s.completeFe p t pa (.ldfK rd) =
    (s.setStrand p t ((s.strand p t).goesOn.withX rd (s.homeWord pa))).acquire p .dev := rfl

/-- The acting strand with a new value of its own, as the acquire of an operation leaves it. -/
theorem State.acquired_setStrand {D F : List Nat} {s' : State} (hk : s.worksOn D F s') (h : s.resting) (st : Strand) :
    (s'.setStrand s.cur s.str st).acquire s.cur .dev = s'.setMe st := by
  rw [← hk.cur, ← hk.str]
  exact State.acquire_none _ ((State.setStrand_core_copies ..).trans (hk.mine_copies h.copies))

/-- LDF.t and NTAKE of a full word. -/
theorem State.feOperate_take {op : FeOp} {rd : BitVec 5} (hop : op = .ntake rd ∨ op = .ldfT rd) (h : s.resting)
    (hw : s.isWord pl.pa) (hwait : s.me.wait = none) (hfull : s.isFull pl.pa = true) (hbad : s.isBad pl.pa 8 = false)
    (va : Word) : ∃ s', s.worksOn [] [pl.pa / 8] s' ∧ s'.isFull pl.pa = false ∧
      s.feOperate pl va op = s'.finish rd (s.homeWord pl.pa) := by
  obtain ⟨s1, hrec, heq⟩ := State.feOperate_full (op := op) h hw (by rcases hop with rfl | rfl <;> rfl) hfull hbad va
  have hk := State.recalled_worksOn hrec
  obtain ⟨hset, hempty⟩ := State.setFull_spec false (hk.resting h).memOk (hk.isWord hw)
  have hkset := hk.trans hset
  have hdone : s1.completeFe s.cur s.str pl.pa op = (s1.setFull pl.pa false).finish rd (s.homeWord pl.pa) := by
    rw [State.completeFe_take hop, State.acquired_setStrand hkset h, hk.strand, State.finish_eq, hkset.me,
      hk.homeWord hw.1 hw.2.1 List.not_mem_nil]
    exact congrArg _ (Strand.withX_goesOn hwait ..)
  refine ⟨_, hkset, hempty, ?_⟩
  rw [heq, hdone, State.serve_none (by simpa [State.finish_eq] using (hkset.resting h).waiters), ite_self]

/-- NHDR and LDF.k of a full word. -/
theorem State.feOperate_keep {rd : BitVec 5} (h : s.resting) (hw : s.isWord pl.pa) (hwait : s.me.wait = none)
    (hfull : s.isFull pl.pa = true) (hbad : s.isBad pl.pa 8 = false) (va : Word) :
    ∃ s', s.recalled s' ∧ s.feOperate pl va (.ldfK rd) = s'.finish rd (s.homeWord pl.pa) := by
  obtain ⟨s1, hrec, heq⟩ := State.feOperate_full (op := .ldfK rd) h hw rfl hfull hbad va
  have hk := State.recalled_worksOn hrec
  refine ⟨s1, hrec, heq.trans ?_⟩
  refine (if_neg Bool.false_ne_true).trans ?_
  rw [State.completeFe_keep, State.acquired_setStrand hk h, hk.strand, State.finish_eq, hk.me,
    hk.homeWord hw.1 hw.2.1 List.not_mem_nil]
  exact congrArg _ (Strand.withX_goesOn hwait ..)

theorem State.portOp_ok {a : Nat} {op : FeOp} {t : State} (hrel : t.me.relaxed = [])
    (hn : s.nodeWord a (if op.changes then .change else .peek) = (.ok pl, t)) :
    s.portOp a op = t.feOperate pl (word a) op := by
  rw [State.portOp, hn]
  simp only [State.performSame_none _ _ _ _ _ hrel]

end Sys2Proof.Machine
end

section
namespace Sys2Proof.Machine

/-! ### Frames of what works on words (R141, R185 to R190) -/

/-- The acting core holds other translations, nodes and table entries. -/
def State.looked (s t : State) : Prop := ∃ l n b, t = s.setMine (s.mine.holding l n b)

namespace State.looked
variable {s t u : State}

theorem trans (h : s.looked t) (k : t.looked u) : s.looked u := by
  obtain ⟨l, n, b, rfl⟩ := h
  obtain ⟨l', n', b', rfl⟩ := k
  exact ⟨l', n', b', by simp [State.setMine, State.mine, Core.holding]⟩

theorem cur (h : s.looked t) : t.cur = s.cur := by obtain ⟨l, n, b, rfl⟩ := h; rfl
theorem str (h : s.looked t) : t.str = s.str := by obtain ⟨l, n, b, rfl⟩ := h; rfl
theorem ctxs (h : s.looked t) : t.ctxs = s.ctxs := by obtain ⟨l, n, b, rfl⟩ := h; rfl
theorem mem (h : s.looked t) : t.mem = s.mem := by obtain ⟨l, n, b, rfl⟩ := h; rfl
theorem ext (h : s.looked t) : t.ext = s.ext := by obtain ⟨l, n, b, rfl⟩ := h; rfl
theorem waiters (h : s.looked t) : t.waiters = s.waiters := by obtain ⟨l, n, b, rfl⟩ := h; rfl
theorem retries (h : s.looked t) : t.retries = s.retries := by obtain ⟨l, n, b, rfl⟩ := h; rfl
theorem watches (h : s.looked t) : t.watches = s.watches := by obtain ⟨l, n, b, rfl⟩ := h; rfl

/-- What no translation says of a core is as before. -/
theorem ofCore {β : Type} (h : s.looked t) (f : Core → β) (p : CoreId)
    (hf : ∀ k l n b, f (Core.holding k l n b) = f k := by intros; rfl) : f (t.core p) = f (s.core p) := by
  obtain ⟨l, n, b, rfl⟩ := h
  rw [State.setMine, State.core_setCore_ite]
  split
  · next e => rw [hf, ← e, State.mine]
  · rfl

theorem strand (h : s.looked t) (p : CoreId) (v : StrandId) : t.strand p v = s.strand p v :=
  h.ofCore (fun k => k.strands[v]) p

theorem me (h : s.looked t) : t.me = s.me := by rw [State.me, h.cur, h.str, h.strand, State.me]

theorem reg (h : s.looked t) (r : BitVec 5) : t.reg r = s.reg r := by rw [State.reg, h.me, State.reg]

theorem ofMine {β : Type} (h : s.looked t) (f : Core → β)
    (hf : ∀ k l n b, f (Core.holding k l n b) = f k := by intros; rfl) : f t.mine = f s.mine := by
  rw [State.mine, h.cur]
  exact h.ofCore f s.cur hf

theorem ctx (h : s.looked t) (c : CtxId) : t.ctx c = s.ctx c := by rw [State.ctx, h.ctxs, State.ctx]

theorem myCtx (h : s.looked t) : t.myCtx = s.myCtx := by rw [State.myCtx, h.ofMine Core.serves, State.myCtx]

theorem peekHome (h : s.looked t) (pa n : Nat) : t.peekHome pa n = s.peekHome pa n :=
  State.peekHome_of_store h.mem (h.ofCore Core.store) pa n

theorem homeWord (h : s.looked t) (pa : Nat) : t.homeWord pa = s.homeWord pa := by
  rw [State.homeWord, h.peekHome, State.homeWord]

theorem isFull (h : s.looked t) (pa : Nat) : t.isFull pa = s.isFull pa :=
  State.isFull_congr h.mem (h.ofCore Core.marks) pa

theorem isBad (h : s.looked t) (pa n : Nat) : t.isBad pa n = s.isBad pa n := by
  have hcopies (q : CoreId) : (t.core q).copies = (s.core q).copies := h.ofCore Core.copies q
  have hrest : t.badWords = s.badWords ∧ t.badCopies = s.badCopies ∧ t.comb = s.comb := by
    obtain ⟨l, m, b, rfl⟩ := h
    exact ⟨rfl, rfl, rfl⟩
  simp only [State.isBad, hcopies, hrest]

theorem calm (h : s.looked t) : t.calm = s.calm := by
  have hdirty : t.windowDirty s.cur = s.windowDirty s.cur := by
    rw [State.windowDirty, h.ext, h.ofCore Core.copies, State.windowDirty]
  have hrelaxed : t.extRelaxed s.cur s.str = s.extRelaxed s.cur s.str := by rw [State.extRelaxed, h.ext, State.extRelaxed]
  rw [State.calm, h.me, h.cur, h.str, hdirty, hrelaxed, h.ofMine Core.copies, h.ofMine Core.copyFault, State.calm]
  obtain ⟨l, n, b, rfl⟩ := h
  rfl

theorem memOk (h : s.looked t) (hok : s.memOk) : t.memOk := State.memOk_of_eq h.mem (h.ofCore Core.spad) hok

theorem sameChecks (h : s.looked t) : s.sameChecks t := by
  obtain ⟨l, n, b, rfl⟩ := h
  exact State.sameChecks.setCore rfl rfl

theorem sameStrand (h : s.looked t) (k : t.sameStrand u) : s.sameStrand u := by
  obtain ⟨hcur, hstr, hme⟩ := k
  rw [h.me] at hme
  exact ⟨hcur.trans h.cur, hstr.trans h.str, hme⟩

theorem sameOthers (h : s.looked t) (k : t.sameOthers u) : s.sameOthers u := fun p v hv => by
  rw [k p v (by rwa [h.cur, h.str]), h.strand]

theorem sameSpecial (h : s.looked t) (k : t.sameSpecial u) : s.sameSpecial u := fun p => by
  obtain ⟨h1, h2, h3, h4, h5, h6, h7⟩ := k p
  exact ⟨h1.trans (h.ofCore Core.capmask p), h2.trans (h.ofCore Core.ovt p), h3.trans (h.ofCore Core.poolV p),
    h4.trans (h.ofCore Core.poolS p), h5.trans (h.ofCore Core.poolC p), h6.trans (h.ofCore Core.npool p),
    h7.trans (h.ofCore Core.cpyshare p)⟩

end State.looked

variable {s t : State} {D F : List Nat} {st : Strand}

@[simp] theorem State.peekHome_setMe (s : State) (st : Strand) (pa n : Nat) : (s.setMe st).peekHome pa n = s.peekHome pa n :=
  s.peekHome_setStrand _ _ st pa n

@[simp] theorem State.homeWord_setMe (s : State) (st : Strand) (pa : Nat) : (s.setMe st).homeWord pa = s.homeWord pa := by
  rw [State.homeWord, State.peekHome_setMe, State.homeWord]

@[simp] theorem State.isFull_setMe (s : State) (st : Strand) (pa : Nat) : (s.setMe st).isFull pa = s.isFull pa := by
  refine State.isFull_congr (s := s) (t := s.setMe st) rfl (fun p => ?_) pa
  rw [State.setMe, State.setStrand, State.core_setCore_ite]
  split
  · next e => rw [← e]; rfl
  · rfl

theorem State.reg_of_x {a b : State} (h : a.me.x = b.me.x) (r : BitVec 5) : a.reg r = b.reg r := by
  rw [State.reg, State.reg, h]

theorem State.sameOthers_setMe (s : State) (st : Strand) : s.sameOthers (s.setMe st) := fun _ _ h =>
  State.strand_setStrand_ne _ _ _ _ _ _ fun e => h e.symm

theorem State.sameSpecial_setMe (s : State) (st : Strand) : s.sameSpecial (s.setMe st) := fun p => by simp

/-- After work on some words, the acting strand with other registers and past its instruction. -/
theorem State.worksOn.setMe_frame (h : s.worksOn D F t) (hst : st = { s.me with x := st.x, poisoned := st.poisoned, pc := s.me.pc + 4 }) :
    s.sameStrand (t.setMe st) ∧ s.sameOthers (t.setMe st) ∧ s.wentOn (t.setMe st) ∧ s.sameSpecial (t.setMe st) := by
  have hme : (t.setMe st).me = st := State.me_setMe ..
  refine ⟨⟨h.cur, h.str, ?_⟩, fun p u hp => ?_, ?_, fun p => ?_⟩
  · rw [hme, hst]
  · rw [State.sameOthers_setMe t st p u (by rwa [h.cur, h.str]), h.strand]
  · rw [State.wentOn, hme, hst]
  · obtain ⟨h1, h2, h3, h4, h5, h6, h7⟩ := State.sameSpecial_setMe t st p
    obtain ⟨k1, k2, k3, k4, k5, k6, k7⟩ := h.sameSpecial p
    exact ⟨h1.trans k1, h2.trans k2, h3.trans k3, h4.trans k4, h5.trans k5, h6.trans k6, h7.trans k7⟩

theorem State.worksOn.finish_frame (h : s.worksOn D F t) (rd : BitVec 5) (v : Word) :
    s.sameStrand (t.finish rd v) ∧ s.sameOthers (t.finish rd v) ∧ s.wentOn (t.finish rd v) ∧ s.sameSpecial (t.finish rd v) ∧
      s.regsWith rd v (t.finish rd v) := by
  have hregs : s.regsWith rd v (t.finish rd v) := fun q => by
    rw [State.reg_finish, State.reg_of_x (a := t) (b := s) (by rw [h.me])]
  rw [State.finish_eq, h.me] at hregs ⊢
  obtain ⟨h1, h2, h3, h4⟩ := h.setMe_frame (st := { s.me.withX rd v with pc := s.me.pc + 4 }) (by
    unfold Strand.withX
    split <;> rfl)
  exact ⟨h1, h2, h3, h4, hregs⟩

theorem State.worksOn.advance_frame (h : s.worksOn D F t) :
    s.sameStrand t.advance ∧ s.sameOthers t.advance ∧ s.wentOn t.advance ∧ s.sameSpecial t.advance ∧ s.sameRegs t.advance := by
  have hregs : s.sameRegs t.advance := fun q => State.reg_of_x (by rw [State.me_advance, h.me]) q
  rw [State.advance, State.setPc, h.me] at hregs ⊢
  obtain ⟨h1, h2, h3, h4⟩ := h.setMe_frame (st := { s.me with pc := s.me.pc + 4 }) rfl
  exact ⟨h1, h2, h3, h4, hregs⟩

end Sys2Proof.Machine
end

section
/-! The port-word instructions (R181, R185 to R191): NTAKE, NHDR, NLINK, NSETH and NFREE; O43. -/

namespace Sys2Proof.Machine

variable {s t : State}

/-! ### Pairs that a strand pushes (R191) -/

/-- A core into whose saddlebag a pair has gone, at the cold or the hot end: strands that wait for one test again. -/
def Core.taken (k : Core) (x : Pair) (cold : Bool) : Core :=
  { k with bag := if cold then x :: k.bag else k.bag ++ [x] }.wakeFor .pair

/-- The record of a context in which a pair has been pushed. -/
def Ctx.raised (k : Ctx) (count : Bool) : Ctx :=
  { k with count := if count then k.count + 1 else k.count, gen := k.gen + 1 }

/-- The acting strand's push has found room. -/
def State.pushed (s : State) (x : Pair) (cold count : Bool) : State :=
  (s.setMine (s.mine.taken x cold)).setCtx s.myCtx ((s.ctx s.myCtx).raised count)

theorem State.enterBag_room {p : CoreId} (h : (s.core p).bag.length < 1024) (c : CtxId) (x : Pair) (cold : Bool) :
    s.enterBag p c x cold =
      some (s.setCore p { s.core p with bag := if cold then x :: (s.core p).bag else (s.core p).bag ++ [x] }) := by
  simp [State.enterBag, h]

theorem State.entered_taken {p : CoreId} {c : CtxId} (h : (s.ctx c).hungrySet = []) (x : Pair) (cold : Bool) :
    ((s.setCore p { s.core p with bag := if cold then x :: (s.core p).bag else (s.core p).bag ++ [x] }).wakePairs p).entered p c =
      (s.setCore p ((s.core p).taken x cold)).setCtx c { s.ctx c with gen := (s.ctx c).gen + 1 } := by
  refine (State.entered_noneHungry ?_).trans ?_
  · exact h
  · rw [State.wakePairs, State.core_setCore, State.setCore_setCore]
    rfl

theorem State.push_room {x : Pair} {cold count : Bool} (k : State → State) (hc : s.mine.copies = [])
    (hb : s.mine.bag.length < 1024) (hh : (s.ctx s.myCtx).hungrySet = []) :
    s.push x cold count k = k (s.pushed x cold count) := by
  have counted : (if count then s.countUp s.myCtx 1 else s) =
      s.setCtx s.myCtx { s.ctx s.myCtx with count := if count then (s.ctx s.myCtx).count + 1 else (s.ctx s.myCtx).count } := by
    cases count
    · exact (s.setCtx_ctx s.myCtx).symm
    · rfl
  generalize hn : (if count then (s.ctx s.myCtx).count + 1 else (s.ctx s.myCtx).count) = n at counted
  have hsame : s.pushed x cold count =
      ((s.setCtx s.myCtx { s.ctx s.myCtx with count := n }).setCore s.cur (s.mine.taken x cold)).setCtx s.myCtx
        { s.ctx s.myCtx with count := n, gen := (s.ctx s.myCtx).gen + 1 } := by
    rw [State.setCore_setCtx, State.setCtx_setCtx, ← hn]
    rfl
  rw [State.push]
  simp only [State.releaseCopies_none s.cur .dev hc, counted]
  rw [State.enterBag_room (s := s.setCtx s.myCtx _) hb]
  dsimp only
  rw [State.entered_taken (by rw [State.ctx_setCtx]; exact hh), State.ctx_setCtx, hsame]
  rfl

theorem Core.wakeFor_strand {k : Core} {w : Wait} {u : StrandId} (h : k.strands[u].wait ≠ some w) :
    (k.wakeFor w).strands[u] = k.strands[u] := by
  simp only [Core.wakeFor, Fin.getElem_fin, Vector.getElem_map]
  exact if_neg h

theorem State.me_pushed {x : Pair} {cold count : Bool} (h : s.me.wait = none) : (s.pushed x cold count).me = s.me := by
  have hwait : s.mine.strands[s.str].wait ≠ some .pair := fun e => by
    have : s.me.wait = some .pair := e
    rw [h] at this
    cases this
  exact (State.strand_setCore_self s s.cur _ s.str).trans (Core.wakeFor_strand hwait)

theorem State.peekHome_pushed (s : State) (x : Pair) (cold count : Bool) (pa n : Nat) :
    (s.pushed x cold count).peekHome pa n = s.peekHome pa n := by
  refine State.peekHome_of_store (s := s) (t := s.pushed x cold count) rfl (fun p => ?_) pa n
  show ((s.setMine (s.mine.taken x cold)).core p).store = _
  rw [State.setMine, State.core_setCore_ite]
  split
  · next e => rw [← e]; rfl
  · rfl

theorem State.isFull_pushed (s : State) (x : Pair) (cold count : Bool) (pa : Nat) :
    (s.pushed x cold count).isFull pa = s.isFull pa := by
  refine State.isFull_congr (s := s) (t := s.pushed x cold count) rfl (fun p => ?_) pa
  show ((s.setMine (s.mine.taken x cold)).core p).marks = _
  rw [State.setMine, State.core_setCore_ite]
  split
  · next e => rw [← e]; rfl
  · rfl

theorem State.mine_pushed (s : State) (x : Pair) (cold count : Bool) :
    (s.pushed x cold count).mine = s.mine.taken x cold := State.core_setCore ..

theorem State.ctx_pushed (s : State) (x : Pair) (cold count : Bool) :
    (s.pushed x cold count).ctx s.myCtx = (s.ctx s.myCtx).raised count := State.ctx_setCtx ..

theorem State.sameSpecial_pushed (s : State) (x : Pair) (cold count : Bool) : s.sameSpecial (s.pushed x cold count) := by
  intro p
  have hcore : (s.pushed x cold count).core p = if s.cur = p then s.mine.taken x cold else s.core p :=
    State.core_setCore_ite ..
  rw [hcore]
  split
  · next e => subst e; exact ⟨rfl, rfl, rfl, rfl, rfl, rfl, rfl⟩
  · exact ⟨rfl, rfl, rfl, rfl, rfl, rfl, rfl⟩

/-! ### Words that pass their checks (R181) -/

/-- What holds where the checks of a node word have passed. -/
structure State.atNode (s s1 : State) (a : Nat) (pl : Place) : Prop where
  looked : s.looked s1
  resting : s1.resting
  calm : s1.calm = true
  tlbOk : s1.tlbOk
  word : s1.isWord pl.pa
  offset : pl.pa % 4096 = a % 4096

theorem State.nodeWord_atNode {a : Nat} {k : Acc} {pl : Place} {s1 : State} (hcalm : s.calm = true) (hok : s.memOk)
    (htlb : s.tlbOk) (hw : s.waiters = []) (hr : s.retries = []) (ha : a % 8 = 0) (hd : onDevice pl.pa = true)
    (h : s.nodeWord a k = (.ok pl, s1)) : s.atNode s1 a pl := by
  have hrest := State.resting_of_calm hcalm hok hw hr
  obtain ⟨hstate, hsound⟩ := State.nodeWord_holds hrest.copies hrest.comb h
  have hlook : s.looked s1 := hstate
  obtain ⟨htlb1, hoff⟩ := hsound htlb
  have hcalm1 := hlook.calm.trans hcalm
  exact ⟨hlook, State.resting_of_calm hcalm1 (hlook.memOk hok) (hlook.waiters.trans hw) (hlook.retries.trans hr), hcalm1,
    htlb1, State.isWord_congr hlook.sameChecks (State.nodeWord_isWord h hd (by omega)), hoff⟩

end Sys2Proof.Machine
end

section
namespace Sys2Proof.Machine

variable {s s1 s2 : State} {u v : Place}

/-! ### Fields of port words (R22, R23) -/

theorem field_eq (w : Word) (hi lo : Nat) : field w hi lo = w.toNat / 2 ^ lo % 2 ^ (hi + 1 - lo) := by
  rw [field, Nat.shiftRight_eq_div_pow]

/-- A port word with another link keeps its bits above it (R186). -/
theorem linked_fields {w : Word} {link : Nat} (h : link < 2 ^ 46) :
    field (word (field w 63 46 * 2 ^ 46 + link)) 45 0 = link ∧
      field (word (field w 63 46 * 2 ^ 46 + link)) 63 46 = field w 63 46 := by
  have hw := w.isLt
  have hlt : field w 63 46 * 2 ^ 46 + link < 2 ^ 64 := by rw [field_eq]; omega
  simp only [field_eq] at hlt ⊢
  rw [word_toNat hlt]
  omega

/-- The link to a port word, by the fields of its address. -/
theorem linkTo_eq {b : Word} (h : b.toNat < 2 ^ 48) :
    linkTo (b.toNat / 8 % 4) (b.toNat / 32 * 32) = field b 4 3 * 2 ^ 44 + field b 47 5 * 2 := by
  simp only [linkTo, field_eq]
  omega

theorem link_lt (b : Word) : field b 4 3 * 2 ^ 44 + field b 47 5 * 2 < 2 ^ 46 := by
  simp only [field_eq]
  omega

/-! ### NTAKE and NHDR (R185, R187) -/

theorem exec_ntake {rd r1 : BitVec 5} (ha : (s.reg r1).toNat % 8 = 0) :
    exec (.ntake rd r1) s = .next (s.portOp (s.reg r1).toNat (.ntake rd)) :=
  congrArg Host.Outcome.next (if_neg (not_not_intro ha))

theorem exec_nhdr {rd r1 : BitVec 5} (ha : (s.reg r1).toNat % 32 = 0) :
    exec (.nhdr rd r1) s = .next (s.portOp (s.reg r1).toNat (.ldfK rd)) :=
  congrArg Host.Outcome.next (if_neg (not_not_intro ha))

/-- What the acting strand was doing is done: it differs in its registers and pc alone, and every other strand and the
special registers are as before. -/
def State.donePlain (s t : State) : Prop := (s.sameStrand t ∧ s.sameOthers t ∧ s.wentOn t) ∧ s.sameSpecial t

theorem State.looked.donePlain {t : State} (h : s.looked s1) (k : s1.donePlain t) : s.donePlain t := by
  obtain ⟨⟨h1, h2, h3⟩, h4⟩ := k
  exact ⟨⟨h.sameStrand h1, h.sameOthers h2, by rw [State.wentOn, h3, h.me]⟩, h.sameSpecial h4⟩

theorem State.completes_ntake_full {rd r1 : BitVec 5} (hn : s.nodeWord (s.reg r1).toNat .change = (.ok u, s1))
    (hat : s.atNode s1 (s.reg r1).toNat u) (ha : (s.reg r1).toNat % 8 = 0) (hbad : s.isBad u.pa 8 = false)
    (hfull : s.isFull u.pa = true) : completes (.ntake rd r1) s fun t => s.donePlain t ∧
      s.regsWith rd (s.homeWord u.pa) t ∧ s.sameData t ∧ t.isFull u.pa = false ∧ s.sameFullBut u.pa t := by
  obtain ⟨hwait, -, hrel, -⟩ := State.calm_parts hat.calm
  have hl := hat.looked
  obtain ⟨s', hk, hempty, heq⟩ := State.feOperate_take (op := .ntake rd) (.inl rfl) hat.resting hat.word hwait
    ((hl.isFull _).trans hfull) ((hl.isBad _ _).trans hbad) (word (s.reg r1).toNat)
  obtain ⟨h1, h2, h3, h4, h5⟩ := hk.finish_frame rd (s1.homeWord u.pa)
  refine completes_of_next_eq (exec_ntake ha) ((State.portOp_ok hrel hn).trans heq)
    ⟨hl.donePlain ⟨⟨h1, h2, h3⟩, h4⟩, fun q => ?_, fun x hx => ?_, ?_, fun x hx hne => ?_⟩
  · rw [h5 q, hl.homeWord, hl.reg]
  · rw [State.finish_eq, State.peekHome_setMe, hk.data x hx List.not_mem_nil, hl.peekHome]
  · rw [State.finish_eq, State.isFull_setMe, hempty]
  · rw [State.finish_eq, State.isFull_setMe, hk.full x hx (by simpa using hne), hl.isFull]

theorem State.completes_ntake_empty {rd r1 : BitVec 5} (hn : s.nodeWord (s.reg r1).toNat .change = (.ok u, s1))
    (hat : s.atNode s1 (s.reg r1).toNat u) (ha : (s.reg r1).toNat % 8 = 0) (hempty : s.isFull u.pa = false)
    (hwatch : s.watches = []) : completes (.ntake rd r1) s fun t => t.me = { s.me with wait := some .fullEmpty } ∧
      t.waiters = [⟨s.cur, s.str, u.pa, u.grain, .ntake rd⟩] ∧ s.sameOthers t ∧ s.sameData t ∧ t.isFull u.pa = false := by
  obtain ⟨-, -, hrel, -⟩ := State.calm_parts hat.calm
  have hl := hat.looked
  obtain ⟨s', hrec, heq⟩ := State.feOperate_empty (op := .ntake rd) hat.resting hat.word rfl
    ((hl.isFull _).trans hempty) (hl.watches.trans hwatch) (word (s.reg r1).toNat)
  have hk := State.recalled_worksOn hrec
  refine completes_of_next_eq (exec_ntake ha) ((State.portOp_ok hrel hn).trans heq) ⟨?_, ?_, ?_, fun x hx => ?_, ?_⟩
  · rw [← hl.me]
    exact State.me_setMe ..
  · rw [← hl.cur, ← hl.str]
  · refine hl.sameOthers fun p w hp => ?_
    exact (State.sameOthers_setMe s' _ p w (by rwa [hk.cur, hk.str])).trans (hk.strand p w)
  · exact ((State.peekHome_setMe ..).trans (hk.data x hx List.not_mem_nil)).trans (hl.peekHome x 1)
  · exact ((State.isFull_setMe ..).trans (hk.full _ hat.word.2.1 List.not_mem_nil)).trans ((hl.isFull _).trans hempty)

theorem State.completes_nhdr {rd r1 : BitVec 5} (hn : s.nodeWord (s.reg r1).toNat .peek = (.ok u, s1))
    (hat : s.atNode s1 (s.reg r1).toNat u) (ha : (s.reg r1).toNat % 32 = 0) (hbad : s.isBad u.pa 8 = false)
    (hfull : s.isFull u.pa = true) : completes (.nhdr rd r1) s fun t => s.donePlain t ∧
      s.regsWith rd (s.homeWord u.pa) t ∧ s.sameBytes t := by
  obtain ⟨hwait, -, hrel, -⟩ := State.calm_parts hat.calm
  have hl := hat.looked
  obtain ⟨s', hrec, heq⟩ := State.feOperate_keep (rd := rd) hat.resting hat.word hwait ((hl.isFull _).trans hfull)
    ((hl.isBad _ _).trans hbad) (word (s.reg r1).toNat)
  have hk := State.recalled_worksOn hrec
  obtain ⟨h1, h2, h3, h4, h5⟩ := hk.finish_frame rd (s1.homeWord u.pa)
  refine completes_of_next_eq (exec_nhdr ha) ((State.portOp_ok hrel hn).trans heq)
    ⟨hl.donePlain ⟨⟨h1, h2, h3⟩, h4⟩, fun q => ?_, fun x => ?_⟩
  · rw [h5 q, hl.homeWord, hl.reg]
  · rw [State.finish_eq, State.peekHome_setMe, State.recalled_sameBytes hrec, hl.peekHome]

end Sys2Proof.Machine
end

section
namespace Sys2Proof.Machine

variable {s s1 s2 : State} {u v : Place}

/-! ### NLINK (R186) -/

theorem State.putLink_spec (h : s.resting) (hw : s.isWord u.pa) {link : Nat} (hlt : link < 2 ^ 46) :
    s.worksOn [u.pa / 8] [u.pa / 8] (s.putLink u link) ∧ field ((s.putLink u link).homeWord u.pa) 45 0 = link ∧
      field ((s.putLink u link).homeWord u.pa) 63 46 = field (s.homeWord u.pa) 63 46 ∧
        (s.putLink u link).isFull u.pa = true := by
  have hk := State.recalled_worksOn (State.prepareHome_recalled h u.pa u.grain)
  have hold := hk.homeWord hw.1 hw.2.1 List.not_mem_nil
  obtain ⟨h1, hword, hfull⟩ := State.fillWord_spec (hk.resting h) (hk.isWord hw)
    (word (field ((s.prepareHome s.cur u.pa u.grain).homeWord u.pa) 63 46 * 2 ^ 46 + link))
  rw [State.putLink]
  rw [hword, hold]
  exact ⟨hk.trans (hold ▸ h1), (linked_fields hlt).1, (linked_fields hlt).2, hold ▸ hfull⟩

/-- Two port words link to each other, and are full. -/
def State.linkedTo (s t : State) (u v : Place) (link link' : Nat) : Prop :=
  field (t.homeWord u.pa) 45 0 = link ∧ field (t.homeWord u.pa) 63 46 = field (s.homeWord u.pa) 63 46 ∧
    field (t.homeWord v.pa) 45 0 = link' ∧ field (t.homeWord v.pa) 63 46 = field (s.homeWord v.pa) 63 46 ∧
    t.isFull u.pa = true ∧ t.isFull v.pa = true

theorem State.putLinks_spec (h : s.resting) (hu : s.isWord u.pa) (hv : s.isWord v.pa) (hne : u.pa ≠ v.pa)
    {link link' : Nat} (hlt : link < 2 ^ 46) (hlt' : link' < 2 ^ 46) :
    s.worksOn [u.pa / 8, v.pa / 8] [u.pa / 8, v.pa / 8] ((s.putLink u link).putLink v link') ∧
      s.linkedTo ((s.putLink u link).putLink v link') u v link link' := by
  have hu8 := hu.1
  have hv8 := hv.1
  have huv : u.pa / 8 ∉ [v.pa / 8] := by simp; omega
  have hvu : v.pa / 8 ∉ [u.pa / 8] := by simp; omega
  obtain ⟨k1, l1, r1, f1⟩ := State.putLink_spec h hu hlt
  obtain ⟨k2, l2, r2, f2⟩ := State.putLink_spec (k1.resting h) (k1.isWord hv) hlt'
  have hkept := k2.homeWord hu.1 hu.2.1 huv
  refine ⟨k1.trans k2, ?_, ?_, l2, ?_, (k2.full _ hu.2.1 huv).trans f1, f2⟩
  · rw [hkept, l1]
  · rw [hkept, r1]
  · rw [r2, k1.homeWord hv.1 hv.2.1 hvu]

theorem exec_nlink {r1 r2 : BitVec 5} (ha : (s.reg r1).toNat % 8 = 0) (hb : (s.reg r2).toNat % 8 = 0) :
    exec (.nlink r1 r2) s = .next (s.nlink (s.reg r1).toNat (s.reg r2).toNat) :=
  congrArg Host.Outcome.next ((if_neg (not_not_intro ha)).trans (if_neg (not_not_intro hb)))

/-- NLINK of two words without an error: the links, and for two principal ports the push of their pair. -/
theorem State.nlink_eq {a b : Nat} (hn : s.nodeWord a .change = (.ok u, s1)) (hn' : s1.nodeWord b .change = (.ok v, s2))
    (hcalm : s2.calm = true) (hu : s2.isBad u.pa 8 = false) (hv : s2.isBad v.pa 8 = false) :
    s.nlink a b =
      let s3 := (s2.putLink u (linkTo (b / 8 % 4) (b / 32 * 32))).putLink v (linkTo (a / 8 % 4) (a / 32 * 32))
      if a / 8 % 4 = 0 ∧ b / 8 % 4 = 0 ∧ a ≠ b then
        s3.push ⟨BitVec.ofNat 48 a, BitVec.ofNat 48 b, 0⟩ false true State.advance
      else s3.advance := by
  rw [State.nlink]
  dsimp only
  rw [State.portPlaces, hn]
  dsimp only
  rw [State.portPlaces, hn']
  dsimp only
  rw [State.portPlaces]
  simp only [List.reverse_cons, List.reverse_nil, List.nil_append, List.cons_append, State.afterRelease_calm .dev _ hcalm,
    hu, hv, Bool.false_eq_true, if_false]

/-- Two words that lie at different places have different addresses. -/
theorem State.nodeWord_apart {a b : Nat} (hc : s.mine.copies = []) (hx : s.comb = [])
    (hn : s.nodeWord a .change = (.ok u, s1)) (hl : s.looked s1) (hn' : s1.nodeWord b .change = (.ok v, s2))
    (hne : u.pa ≠ v.pa) : a ≠ b := by
  rintro rfl
  have hagain := State.nodeWord_again hc hx hl.sameChecks rfl hl.cur hn
  rw [hn'] at hagain
  simp only [Prod.mk.injEq, Except.ok.injEq] at hagain
  exact hne (congrArg Place.pa hagain.1.symm)

/-- No other data and no other full/empty bit changes. -/
def State.elseSame (s t : State) (u v : Place) : Prop :=
  ∀ x, onDevice x = true → x / 8 ≠ u.pa / 8 → x / 8 ≠ v.pa / 8 → t.peekHome x 1 = s.peekHome x 1 ∧ t.isFull x = s.isFull x

theorem State.worksOn.elseSame {t : State} (h : s.worksOn [u.pa / 8, v.pa / 8] [u.pa / 8, v.pa / 8] t) :
    s.elseSame t u v := fun x hx hu hv =>
  have hn : x / 8 ∉ [u.pa / 8, v.pa / 8] := by simp [hu, hv]
  ⟨h.data x hx hn, h.full x hx hn⟩

/-- The hypotheses of two node words that NLINK writes. -/
structure State.linkPlaces (s s1 s2 : State) (a b : Nat) (u v : Place) : Prop where
  first : s.nodeWord a .change = (.ok u, s1)
  second : s1.nodeWord b .change = (.ok v, s2)
  atFirst : s.atNode s1 a u
  atSecond : s1.atNode s2 b v
  badFirst : s.isBad u.pa 8 = false
  badSecond : s.isBad v.pa 8 = false
  apart : u.pa ≠ v.pa

section linkPlaces
variable {r1 r2 : BitVec 5} (h : s.linkPlaces s1 s2 (s.reg r1).toNat (s.reg r2).toNat u v)
include h

theorem State.linkPlaces.looked : s.looked s2 := h.atFirst.looked.trans h.atSecond.looked

/-- The state in which both words are linked. -/
theorem State.linkPlaces.links {link link' : Nat} (hlink : link = field (s.reg r2) 4 3 * 2 ^ 44 + field (s.reg r2) 47 5 * 2)
    (hlink' : link' = field (s.reg r1) 4 3 * 2 ^ 44 + field (s.reg r1) 47 5 * 2) :
    ∃ s3, s2.worksOn [u.pa / 8, v.pa / 8] [u.pa / 8, v.pa / 8] s3 ∧ s2.linkedTo s3 u v link link' ∧
      s.nlink (s.reg r1).toNat (s.reg r2).toNat =
        if field (s.reg r1) 4 3 = 0 ∧ field (s.reg r2) 4 3 = 0 then
          s3.push ⟨BitVec.ofNat 48 (s.reg r1).toNat, BitVec.ofNat 48 (s.reg r2).toNat, 0⟩ false true State.advance
        else s3.advance := by
  have hl := h.looked
  obtain ⟨hk, hlinked⟩ := State.putLinks_spec h.atSecond.resting
    (State.isWord_congr h.atSecond.looked.sameChecks h.atFirst.word) h.atSecond.word h.apart
    (hlink ▸ link_lt (s.reg r2)) (hlink' ▸ link_lt (s.reg r1))
  have hne := State.nodeWord_apart (s := s) ?_ ?_ h.first h.atFirst.looked h.second h.apart
  · refine ⟨_, hk, hlinked, (State.nlink_eq h.first h.second h.atSecond.calm ((hl.isBad ..).trans h.badFirst)
      ((hl.isBad ..).trans h.badSecond)).trans ?_⟩
    have ha := linkTo_eq (b := s.reg r1) (State.nodeWord_lt h.first)
    have hb := linkTo_eq (b := s.reg r2) (State.nodeWord_lt h.second)
    rw [ha, hb, ← hlink, ← hlink']
    simp only [hne, ne_eq, not_false_eq_true, and_true, field_eq]
    rfl
  · rw [← h.atFirst.looked.ofMine Core.copies]
    exact h.atFirst.resting.copies
  · have := h.atFirst.resting.comb
    obtain ⟨l, n, b, rfl⟩ := h.atFirst.looked
    exact this

end linkPlaces

end Sys2Proof.Machine
end

section
namespace Sys2Proof.Machine

variable {s s1 s2 s3 : State} {u v : Place}

theorem State.linkedTo.congr {t t' : State} {link link' : Nat} (h : s.linkedTo t u v link link')
    (hs : ∀ pa, s.homeWord pa = s1.homeWord pa) (ht : ∀ pa, t'.homeWord pa = t.homeWord pa)
    (hf : ∀ pa, t'.isFull pa = t.isFull pa) : s1.linkedTo t' u v link link' := by
  simpa only [State.linkedTo, hs, ht, hf] using h

theorem State.elseSame.congr {t t' : State} (h : s.elseSame t u v) (hs : ∀ pa, s.peekHome pa 1 = s1.peekHome pa 1)
    (hsf : ∀ pa, s.isFull pa = s1.isFull pa) (ht : ∀ pa, t'.peekHome pa 1 = t.peekHome pa 1)
    (hf : ∀ pa, t'.isFull pa = t.isFull pa) : s1.elseSame t' u v := by
  simpa only [State.elseSame, hs, hsf, ht, hf] using h

/-- NLINK has written both links, and no other data or full/empty bit. -/
def State.linkDone (s t : State) (u v : Place) (a b : Word) : Prop :=
  s.linkedTo t u v (field b 4 3 * 2 ^ 44 + field b 47 5 * 2) (field a 4 3 * 2 ^ 44 + field a 47 5 * 2) ∧ s.elseSame t u v

section linkPlaces
variable {r1 r2 : BitVec 5} (h : s.linkPlaces s1 s2 (s.reg r1).toNat (s.reg r2).toNat u v)
  (ha : (s.reg r1).toNat % 8 = 0) (hb : (s.reg r2).toNat % 8 = 0)
include h ha hb

theorem State.linkPlaces.completes_link (hport : ¬(field (s.reg r1) 4 3 = 0 ∧ field (s.reg r2) 4 3 = 0)) :
    completes (.nlink r1 r2) s fun t => s.donePlain t ∧ s.sameRegs t ∧ s.linkDone t u v (s.reg r1) (s.reg r2) := by
  have hl := h.looked
  obtain ⟨s3, hk, hlinked, heq⟩ := h.links rfl rfl
  obtain ⟨h1, h2, h3, h4, h5⟩ := hk.advance_frame
  exact completes_of_next_eq (exec_nlink ha hb) (heq.trans (if_neg hport)) ⟨hl.donePlain ⟨⟨h1, h2, h3⟩, h4⟩,
    fun q => (h5 q).trans (hl.reg q), hlinked.congr hl.homeWord (s3.homeWord_setMe _) (s3.isFull_setMe _),
    hk.elseSame.congr (hl.peekHome · 1) hl.isFull (fun pa => s3.peekHome_setMe _ pa 1) (s3.isFull_setMe _)⟩

theorem State.linkPlaces.completes_principal (hpa : field (s.reg r1) 4 3 = 0) (hpb : field (s.reg r2) 4 3 = 0)
    (hbag : s.mine.bag.length < 1024) (hhungry : (s.ctx s.myCtx).hungrySet = []) :
    completes (.nlink r1 r2) s fun t => (s.sameStrand t ∧ s.wentOn t) ∧ s.sameSpecial t ∧ s.sameRegs t ∧
      s.linkDone t u v (s.reg r1) (s.reg r2) ∧
      t.mine.bag = s.mine.bag ++ [⟨BitVec.ofNat 48 (s.reg r1).toNat, BitVec.ofNat 48 (s.reg r2).toNat, 0⟩] ∧
      (t.ctx s.myCtx).count = (s.ctx s.myCtx).count + 1 ∧ (t.ctx s.myCtx).gen = (s.ctx s.myCtx).gen + 1 := by
  have hl := h.looked
  obtain ⟨s3, hk, hlinked, heq⟩ := h.links rfl rfl
  have hme3 : s3.me = s.me := hk.me.trans hl.me
  have hwait3 : s3.me.wait = none := by
    obtain ⟨hwait, -⟩ := State.calm_parts h.atSecond.calm
    rwa [hk.me]
  have hctx3 : s3.myCtx = s.myCtx := hk.myCtx.trans hl.myCtx
  have hk3 : s3.ctx s.myCtx = s.ctx s.myCtx := (hk.ctx _).trans (hl.ctx _)
  have hbag3 : s3.mine.bag = s.mine.bag := (hk.ofMine Core.bag).trans (hl.ofMine Core.bag)
  generalize hx : (⟨BitVec.ofNat 48 (s.reg r1).toNat, BitVec.ofNat 48 (s.reg r2).toNat, 0⟩ : Pair) = x at heq ⊢
  have hroom := State.push_room (s := s3) (x := x) (cold := false) (count := true) State.advance
    (hk.mine_copies h.atSecond.resting.copies) (by rw [hbag3]; exact hbag) (by rw [hctx3, hk3]; exact hhungry)
  have hme : (s3.pushed x false true).advance.me = { s.me with pc := s.me.pc + 4 } := by
    rw [State.me_advance, State.me_pushed hwait3, hme3]
  have hctx : (s3.pushed x false true).advance.ctx s.myCtx = (s.ctx s.myCtx).raised true := by
    rw [← hk3, ← hctx3]
    exact State.ctx_pushed ..
  refine completes_of_next_eq (exec_nlink ha hb) (heq.trans ((if_pos ⟨hpa, hpb⟩).trans hroom))
    ⟨⟨⟨hk.cur.trans hl.cur, hk.str.trans hl.str, by rw [hme]⟩, by rw [State.wentOn, hme]⟩, ?_, fun q => ?_,
      ⟨hlinked.congr hl.homeWord (fun pa => ?_) (fun pa => ?_), hk.elseSame.congr (hl.peekHome · 1) hl.isFull
        (fun pa => ?_) (fun pa => ?_)⟩, ?_, by rw [hctx]; rfl, by rw [hctx]; rfl⟩
  · refine hl.sameSpecial fun p => ?_
    obtain ⟨a1, a2, a3, a4, a5, a6, a7⟩ := State.sameSpecial_setMe (s3.pushed x false true)
      { (s3.pushed x false true).me with pc := (s3.pushed x false true).me.pc + 4 } p
    obtain ⟨b1, b2, b3, b4, b5, b6, b7⟩ := State.sameSpecial_pushed s3 x false true p
    obtain ⟨c1, c2, c3, c4, c5, c6, c7⟩ := hk.sameSpecial p
    exact ⟨a1.trans (b1.trans c1), a2.trans (b2.trans c2), a3.trans (b3.trans c3), a4.trans (b4.trans c4),
      a5.trans (b5.trans c5), a6.trans (b6.trans c6), a7.trans (b7.trans c7)⟩
  · exact State.reg_of_x (by rw [hme]) q
  · exact (State.homeWord_setMe ..).trans (by rw [State.homeWord, State.peekHome_pushed, State.homeWord])
  · exact (State.isFull_setMe ..).trans (State.isFull_pushed ..)
  · exact (State.peekHome_setMe ..).trans (State.peekHome_pushed ..)
  · exact (State.isFull_setMe ..).trans (State.isFull_pushed ..)
  · have hmine : (s3.pushed x false true).advance.mine.bag = (s3.pushed x false true).mine.bag := by
      simp [State.advance, State.setPc, State.setMe, State.mine]
    rw [hmine, State.mine_pushed, ← hbag3]
    rfl

end linkPlaces

/-! ### NSETH (R188) -/

/-- One port word that is to change, without an error, for a calm strand. -/
theorem State.portPlaces_one {a : Nat} {k : List Place → State → State} (hn : s.nodeWord a .change = (.ok u, s1)) :
    s.portPlaces k [a] [] = k [u] s1 := by
  rw [State.portPlaces, hn]
  rfl

/-- A header with the bits [63:50] and [47:46] of a new one. -/
def headerWith (h old : Word) : Word := (h &&& 0xfffcc00000000000) ||| (old &&& 0x00003fffffffffff)

theorem field_eq_extract (w : Word) (hi lo : Nat) : field w hi lo = (w.extractLsb' lo (hi + 1 - lo)).toNat := by
  rw [BitVec.extractLsb'_toNat]
  rfl

/-- A run of bits of the new header, by what the two masks hold there. -/
theorem headerWith_part (h old : Word) (lo n : Nat) {x y : BitVec n} (hx : (0xfffcc00000000000 : Word).extractLsb' lo n = x)
    (hy : (0x00003fffffffffff : Word).extractLsb' lo n = y) :
    (headerWith h old).extractLsb' lo n = (h.extractLsb' lo n &&& x) ||| (old.extractLsb' lo n &&& y) := by
  rw [headerWith, BitVec.extractLsb'_or, BitVec.extractLsb'_and, BitVec.extractLsb'_and, hx, hy]

theorem headerWith_fields (h old : Word) : field (headerWith h old) 63 50 = field h 63 50 ∧
    field (headerWith h old) 49 48 = 0 ∧ field (headerWith h old) 47 46 = field h 47 46 ∧
    field (headerWith h old) 45 0 = field old 45 0 := by
  have new (lo n : Nat) (hx : (0xfffcc00000000000 : Word).extractLsb' lo n = BitVec.allOnes n)
      (hy : (0x00003fffffffffff : Word).extractLsb' lo n = 0#n) :
      (headerWith h old).extractLsb' lo n = h.extractLsb' lo n := by
    rw [headerWith_part h old lo n hx hy, BitVec.and_allOnes, BitVec.and_zero, BitVec.or_zero]
  simp only [field_eq_extract]
  refine ⟨congrArg _ (new 50 14 (by decide) (by decide)), ?_, congrArg _ (new 46 2 (by decide) (by decide)), ?_⟩
  · rw [headerWith_part h old 48 2 (x := 0#2) (y := 0#2) (by decide) (by decide), BitVec.and_zero, BitVec.and_zero]
    rfl
  · rw [headerWith_part h old 0 46 (x := 0#46) (y := BitVec.allOnes 46) (by decide) (by decide), BitVec.and_allOnes,
      BitVec.and_zero, BitVec.zero_or]

theorem exec_nseth {r1 r2 : BitVec 5} (ha : (s.reg r1).toNat % 32 = 0)
    (hn : s.nodeWord (s.reg r1).toNat .change = (.ok u, s1)) (hcalm : s1.calm = true) (hbad : s1.isBad u.pa 8 = false) :
    exec (.nseth r1 r2) s = .next (((s1.prepareHome s1.cur u.pa u.grain).pokeWord u.pa
      (headerWith (s.reg r2) ((s1.prepareHome s1.cur u.pa u.grain).homeWord u.pa))).advance) := by
  refine congrArg Host.Outcome.next ((if_neg (not_not_intro ha)).trans ((State.portPlaces_one hn).trans ?_))
  refine (State.afterRelease_calm .dev _ hcalm).trans ?_
  rw [hbad]
  rfl

theorem State.completes_nseth {r1 r2 : BitVec 5} (hn : s.nodeWord (s.reg r1).toNat .change = (.ok u, s1))
    (hat : s.atNode s1 (s.reg r1).toNat u) (ha : (s.reg r1).toNat % 32 = 0) (hbad : s.isBad u.pa 8 = false) :
    completes (.nseth r1 r2) s fun t => s.donePlain t ∧ s.sameRegs t ∧
      t.homeWord u.pa = headerWith (s.reg r2) (s.homeWord u.pa) ∧ s.sameDataBut u.pa 8 t ∧
      ∀ x, onDevice x = true → t.isFull x = s.isFull x := by
  have hl := hat.looked
  have hrec := State.recalled_worksOn (State.prepareHome_recalled hat.resting u.pa u.grain)
  have hold : (s1.prepareHome s1.cur u.pa u.grain).homeWord u.pa = s.homeWord u.pa :=
    (hrec.homeWord hat.word.1 hat.word.2.1 List.not_mem_nil).trans (hl.homeWord _)
  obtain ⟨hpoke, hword, -⟩ := State.pokeWord_spec (hrec.resting hat.resting) (hrec.isWord hat.word)
    (headerWith (s.reg r2) (s.homeWord u.pa))
  have hk := hrec.trans hpoke
  obtain ⟨h1, h2, h3, h4, h5⟩ := hk.advance_frame
  refine completes_of_next_eq (exec_nseth ha hn hat.calm ((hl.isBad ..).trans hbad)) (by rw [hold])
    ⟨hl.donePlain ⟨⟨h1, h2, h3⟩, h4⟩, fun q => (h5 q).trans (hl.reg q), ?_, fun x hx hne => ?_, fun x hx => ?_⟩
  · exact (State.homeWord_setMe ..).trans hword
  · have h8 := hat.word.1
    exact ((State.peekHome_setMe ..).trans (hk.data x hx (by simp; omega))).trans (hl.peekHome x 1)
  · exact ((State.isFull_setMe ..).trans (hk.full x hx (by simp))).trans (hl.isFull x)

/-! ### NFREE (R190) -/

theorem State.setNpool_none {p : CoreId} (hw : s.waiters = []) (hr : s.retries = []) (n : BitVec 43) :
    s.setNpool p n = s.setCore p { s.core p with npool := n } := by
  rw [State.setNpool]
  simp [hw, hr]

theorem exec_nfree {r1 : BitVec 5} (ha : (s.reg r1).toNat % 32 = 0)
    (hn : s.nodeWord (s.reg r1).toNat .change = (.ok u, s1)) (hcalm : s1.calm = true) :
    exec (.nfree r1) s = .next (s1.freeNode (s.reg r1).toNat u).advance :=
  congrArg Host.Outcome.next ((if_neg (not_not_intro ha)).trans ((State.portPlaces_one hn).trans
    (State.afterRelease_calm .dev _ hcalm)))

/-- A node at the head of the free list: its words, and the head. -/
theorem State.freeNode_spec {n : Nat} (h : s.resting) (hw : s.isWord u.pa) (ha : u.pa % 32 = 0) : ∃ s',
    s.worksOn (nodeCells u.pa) (nodeCells u.pa) s' ∧
      (∀ i < 4, s'.homeWord (u.pa + 8 * i) = [word (linkTo 0 (s.mine.npool.toNat * 32)), 0, 0, 0].getD i 0) ∧
      (∀ i < 4, s'.isFull (u.pa + 8 * i) = true) ∧
      s.freeNode n u = s'.setMine { s'.mine with npool := BitVec.ofNat 43 (n / 32) } := by
  obtain ⟨hk, hwords, hfull⟩ := State.fillNode_spec h hw ha (word (linkTo 0 (s.mine.npool.toNat * 32))) 0 0 0
  refine ⟨_, hk, hwords, hfull, ?_⟩
  rw [State.freeNode, State.setNpool_none (hk.waiters.trans h.waiters) (hk.retries.trans h.retries), ← hk.cur]
  rfl

end Sys2Proof.Machine
end

section
namespace Sys2Proof.Machine

variable {s s1 s2 : State} {u v : Place}

theorem State.setMine_setMe (s : State) (st : Strand) (n : BitVec 43) :
    (s.setMe st).setMine { (s.setMe st).mine with npool := n } = (s.setMine { s.mine with npool := n }).setMe st := by
  simp [State.setMe, State.setStrand, State.setMine, State.mine, State.setCore_setCore]

/-- A core with another head of its free list differs in nothing else. -/
theorem State.strand_setNpool (s : State) (n : BitVec 43) (p : CoreId) (w : StrandId) :
    (s.setMine { s.mine with npool := n }).strand p w = s.strand p w := State.strand_setCore_same (k := { s.mine with npool := n }) rfl p w

theorem State.peekHome_setNpool (s : State) (n : BitVec 43) (pa k : Nat) :
    (s.setMine { s.mine with npool := n }).peekHome pa k = s.peekHome pa k := by
  refine State.peekHome_of_store (s := s) (t := s.setMine _) rfl (fun p => ?_) pa k
  rw [State.setMine, State.core_setCore_ite]
  split
  · next e => rw [← e]; rfl
  · rfl

theorem State.isFull_setNpool (s : State) (n : BitVec 43) (pa : Nat) :
    (s.setMine { s.mine with npool := n }).isFull pa = s.isFull pa := by
  refine State.isFull_congr (s := s) (t := s.setMine _) rfl (fun p => ?_) pa
  rw [State.setMine, State.core_setCore_ite]
  split
  · next e => rw [← e]; rfl
  · rfl

theorem State.npool_setNpool (s : State) (n : BitVec 43) : (s.setMine { s.mine with npool := n }).mine.npool = n := by
  simp [State.setMine, State.mine]

theorem State.npool_setMe (s : State) (st : Strand) : (s.setMe st).mine.npool = s.mine.npool := by
  simp [State.setMe, State.mine]

theorem State.setNpool_setNpool (s : State) (n m : BitVec 43) :
    (s.setMine { s.mine with npool := n }).setMine { (s.setMine { s.mine with npool := n }).mine with npool := m } =
      s.setMine { s.mine with npool := m } := by
  simp [State.setMine, State.mine]

/-- The first word of a node that heads the list: a link to the node that headed it (R190). -/
theorem word_linkTo (n : BitVec 43) : word (linkTo 0 (n.toNat * 32)) = BitVec.ofNat 64 (n.toNat * 2) := by
  have hn := n.isLt
  rw [word, linkTo]
  exact congrArg _ (by omega)

theorem State.completes_nfree {r1 : BitVec 5} (hn : s.nodeWord (s.reg r1).toNat .change = (.ok u, s1))
    (hat : s.atNode s1 (s.reg r1).toNat u) (ha : (s.reg r1).toNat % 32 = 0) :
    completes (.nfree r1) s fun t => (s.sameStrand t ∧ s.sameOthers t ∧ s.wentOn t) ∧
      s.sameSpecial (t.setMine { t.mine with npool := s.mine.npool }) ∧ s.sameRegs t ∧
      t.mine.npool.toNat = (s.reg r1).toNat / 32 ∧
      (∀ i < 4, t.homeWord (u.pa + 8 * i) = [BitVec.ofNat 64 (s.mine.npool.toNat * 2), 0, 0, 0].getD i 0) ∧
      (∀ i < 4, t.isFull (u.pa + 8 * i) = true) ∧
      s.sameDataBut u.pa 32 t ∧ ∀ x, onDevice x = true → x / 32 ≠ u.pa / 32 → t.isFull x = s.isFull x := by
  have hl := hat.looked
  have hlt := State.nodeWord_lt hn
  have hpa : u.pa % 32 = 0 := by have := hat.offset; omega
  obtain ⟨s2, hk, hwords, hfull, heq⟩ := State.freeNode_spec (n := (s.reg r1).toNat) hat.resting hat.word hpa
  rw [hl.ofMine Core.npool, word_linkTo] at hwords
  generalize hh : BitVec.ofNat 43 ((s.reg r1).toNat / 32) = n at heq
  have hn' : n.toNat = (s.reg r1).toNat / 32 := by
    rw [← hh, BitVec.toNat_ofNat]
    omega
  set t := s2.setMine { s2.mine with npool := n } with ht
  have hme : t.me = s.me := (s2.strand_setNpool n _ _).trans (hk.me.trans hl.me)
  have hback : t.advance.setMine { t.advance.mine with npool := s.mine.npool } = s2.advance := by
    have hnpool : s2.mine.npool = s.mine.npool := (hk.ofMine Core.npool).trans (hl.ofMine Core.npool)
    have hme2 : t.me = s2.me := s2.strand_setNpool n _ _
    rw [State.advance, State.setPc, State.setMine_setMe, ht, State.setNpool_setNpool, ← hnpool, ← ht, hme2]
    exact congrArg (State.setMe · _) (s2.setCore_self s2.cur)
  have hdata (x : Nat) : t.advance.peekHome x 1 = s2.peekHome x 1 :=
    (State.peekHome_setMe ..).trans (s2.peekHome_setNpool ..)
  have hbits (x : Nat) : t.advance.isFull x = s2.isFull x := (State.isFull_setMe ..).trans (s2.isFull_setNpool ..)
  have hcell (x : Nat) : x / 8 ∈ nodeCells u.pa ↔ x / 32 = u.pa / 32 := mem_nodeCells hpa
  refine completes_of_next_eq (exec_nfree ha hn hat.calm) (congrArg State.advance heq)
    ⟨⟨⟨hk.cur.trans hl.cur, hk.str.trans hl.str, by rw [State.me_advance, hme]⟩, fun p w hp => ?_,
      by rw [State.wentOn, State.me_advance, hme]⟩, ?_, fun q => State.reg_of_x (by rw [State.me_advance, hme]) q, ?_,
      fun i hi => ?_, fun i hi => (hbits _).trans (hfull i hi), fun x hx hne => ?_, fun x hx hne => ?_⟩
  · have h1 := State.sameOthers_setMe t { t.me with pc := t.me.pc + 4 } p w
      (by rw [show t.cur = s.cur from hk.cur.trans hl.cur, show t.str = s.str from hk.str.trans hl.str]; exact hp)
    exact h1.trans ((s2.strand_setNpool n p w).trans ((hk.strand p w).trans (hl.strand p w)))
  · rw [hback]
    obtain ⟨-, -, -, h4, -⟩ := hk.advance_frame
    exact hl.sameSpecial h4
  · have h1 : t.advance.mine.npool = t.mine.npool := t.npool_setMe _
    rw [h1, ht, State.npool_setNpool, hn']
  · rw [← hwords i hi]
    exact (State.homeWord_setMe ..).trans (by rw [State.homeWord, ht, State.peekHome_setNpool, State.homeWord])
  · rw [hdata, hk.data x hx (by rw [hcell]; omega), hl.peekHome]
  · rw [hbits, hk.full x hx (by rwa [hcell]), hl.isFull]

/-- Settles O43: each instruction's checks change only what the core holds of the page tables, and each write at home is work on
the words it names. -/
theorem portWordInstructionsComplete : Obligations.PortWordInstructionsComplete := by
  intro s s1 s2 rd r1 r2 u v
  dsimp only
  intro hcalm hok htlb hw hr hd
  refine ⟨fun ha hn hbad => ?_, fun ha hn hbad hfull => ?_, fun ha hb hn hn' hd' hne hbad hbad' => ?_,
    fun ha hn hbad => ?_, fun ha hn => ?_⟩
  · have hat := State.nodeWord_atNode hcalm hok htlb hw hr ha hd hn
    refine ⟨fun hfull => ?_, fun hempty hwatch => State.completes_ntake_empty hn hat ha hempty hwatch⟩
    obtain ⟨t, hx, ⟨hdone, hspecial⟩, hrest⟩ := State.completes_ntake_full (rd := rd) hn hat ha hbad hfull
    exact ⟨t, hx, hdone, hspecial, hrest⟩
  · have hat := State.nodeWord_atNode hcalm hok htlb hw hr (by omega) hd hn
    obtain ⟨t, hx, ⟨hdone, hspecial⟩, hrest⟩ := State.completes_nhdr (rd := rd) hn hat ha hbad hfull
    exact ⟨t, hx, hdone, hspecial, hrest⟩
  · have hat := State.nodeWord_atNode hcalm hok htlb hw hr ha hd hn
    have hat' := State.nodeWord_atNode hat.calm hat.resting.memOk hat.tlbOk hat.resting.waiters hat.resting.retries hb hd' hn'
    have hplaces : s.linkPlaces s1 s2 (s.reg r1).toNat (s.reg r2).toNat u v := ⟨hn, hn', hat, hat', hbad, hbad', hne⟩
    refine ⟨fun hport => ?_, fun hpa hpb hbag hhungry _ => ?_⟩
    · obtain ⟨t, hx, ⟨hdone, hspecial⟩, hregs, ⟨h1, h2, h3, h4, h5, h6⟩, helse⟩ :=
        hplaces.completes_link ha hb (by tauto)
      exact ⟨t, hx, hdone, hspecial, hregs, h1, h2, h3, h4, h5, h6, helse⟩
    · obtain ⟨t, hx, ⟨hstr, hwent⟩, hspecial, hregs, ⟨⟨h1, h2, h3, h4, h5, h6⟩, helse⟩, hrest⟩ :=
        hplaces.completes_principal ha hb hpa hpb hbag hhungry
      exact ⟨t, hx, hstr, hwent, hspecial, hregs, ⟨h1, h2, h3, h4, h5, h6, helse⟩, hrest⟩
  · have hat := State.nodeWord_atNode hcalm hok htlb hw hr (by omega) hd hn
    obtain ⟨t, hx, ⟨hdone, hspecial⟩, hregs, hword, hdata, hbits⟩ := State.completes_nseth (r2 := r2) hn hat ha hbad
    obtain ⟨h1, h2, h3, h4⟩ := headerWith_fields (s.reg r2) (s.homeWord u.pa)
    rw [← hword] at h1 h2 h3 h4
    exact ⟨t, hx, hdone, hspecial, hregs, h1, h2, h3, h4, hdata, hbits⟩
  · have hat := State.nodeWord_atNode hcalm hok htlb hw hr (by omega) hd hn
    obtain ⟨t, hx, hdone, hspecial, hregs, hhead, hwords, hfull, hrest⟩ := State.completes_nfree hn hat ha
    refine ⟨t, hx, hdone, hspecial, hregs, hhead, hwords 0 (by decide), ?_, ?_, hrest⟩
    · simp only [List.forall_mem_cons, List.not_mem_nil, false_implies, implies_true, and_true]
      exact ⟨hwords 1 (by decide), hwords 2 (by decide), hwords 3 (by decide)⟩
    · simp only [List.forall_mem_cons, List.not_mem_nil, false_implies, implies_true, and_true]
      exact ⟨hfull 0 (by decide), hfull 1 (by decide), hfull 2 (by decide), hfull 3 (by decide)⟩

end Sys2Proof.Machine
end

section
/-! Taking nodes, pushing pairs, ending firings and obtaining pairs (R29, R32, R182, R184, R189, R191, R192); O44. -/

namespace Sys2Proof.Machine

/-! ### A core whose free list has another head, and whose acting strand another state -/

/-- The acting core with another head of its free list, and the acting strand with another state. -/
def State.amend (s : State) (n : BitVec 43) (st : Strand) : State :=
  s.setMine { s.mine with npool := n, strands := s.mine.strands.set s.str st }

variable {s t : State} {D F : List Nat} {n m : BitVec 43} {st : Strand}

@[simp] theorem State.mine_amend : (s.amend n st).mine = { s.mine with npool := n, strands := s.mine.strands.set s.str st } :=
  State.core_setCore ..

theorem State.amend_eq_setMe : s.amend n st = (s.setMine { s.mine with npool := n }).setMe st := by
  simp [State.amend, State.setMe, State.setStrand, State.setMine, State.mine]

@[simp] theorem State.me_amend : (s.amend n st).me = st := by rw [State.amend_eq_setMe, State.me_setMe]

@[simp] theorem State.amend_amend {st' : Strand} : (s.amend n st).amend m st' = s.amend m st' := by
  simp [State.amend, State.setMine, State.mine]

@[simp] theorem State.amend_self : s.amend s.mine.npool s.me = s := by
  have hset : s.mine.strands.set s.str s.me = s.mine.strands := by
    simp only [State.me, State.strand, State.mine, Fin.getElem_fin, Vector.set_getElem_self]
  rw [State.amend, hset]
  exact State.setCore_self ..

theorem State.setMe_amend {st' : Strand} : (s.amend n st).setMe st' = s.amend n st' := by
  rw [State.amend_eq_setMe, State.amend_eq_setMe, State.setMe_setMe]

@[simp] theorem State.peekHome_amend (pa k : Nat) : (s.amend n st).peekHome pa k = s.peekHome pa k := by
  rw [State.amend_eq_setMe, State.peekHome_setMe, State.peekHome_setNpool]

@[simp] theorem State.homeWord_amend (pa : Nat) : (s.amend n st).homeWord pa = s.homeWord pa := by
  rw [State.homeWord, State.peekHome_amend, State.homeWord]

@[simp] theorem State.isFull_amend (pa : Nat) : (s.amend n st).isFull pa = s.isFull pa := by
  rw [State.amend_eq_setMe, State.isFull_setMe, State.isFull_setNpool]

/-- What an amended core keeps. -/
theorem State.ofCore_amend {β : Type} (f : Core → β) (p : CoreId)
    (hf : ∀ (k : Core) (x : BitVec 43) (y : Vector Strand 8), f { k with npool := x, strands := y } = f k := by intros; rfl) :
    f ((s.amend n st).core p) = f (s.core p) := by
  rw [State.amend, State.setMine, State.core_setCore_ite]
  split
  · next e => rw [hf, ← e, State.mine]
  · rfl

theorem State.memOk_amend (h : s.memOk) : (s.amend n st).memOk :=
  State.memOk_of_eq (s := s) (t := s.amend n st) rfl (fun p => State.ofCore_amend Core.spad p) h

theorem State.isBad_amend {pa k : Nat} : (s.amend n st).isBad pa k = s.isBad pa k := by
  have hcopies (q : CoreId) : ((s.amend n st).core q).copies = (s.core q).copies := State.ofCore_amend Core.copies q
  simp only [State.isBad, hcopies]
  rfl

theorem State.resting_amend (h : s.resting) : (s.amend n st).resting where
  copies := by rw [State.mine_amend]; exact h.copies
  snap := h.snap
  comb := h.comb
  badCopies := h.badCopies
  waiters := h.waiters
  retries := h.retries
  memOk := State.memOk_amend h.memOk

theorem State.sameChecks_amend (h : st.priv = s.me.priv) : s.sameChecks (s.amend n st) := by
  rw [State.amend_eq_setMe]
  have hk : s.sameChecks (s.setMine { s.mine with npool := n }) := State.sameChecks.setCore rfl rfl
  exact hk.trans (State.sameChecks.setMe (h.trans (congrArg Strand.priv (s.strand_setNpool n s.cur s.str).symm)))

/-- Work on words is the same work beside another head of the free list and another state of the strand. -/
theorem State.worksOn.amend (h : s.worksOn D F t) (n : BitVec 43) (st : Strand) :
    (s.amend n st).worksOn D F (t.amend n st) where
  rest := by
    have hr := h.rest
    have hcur := h.cur
    have hstr := h.str
    cases t
    cases s
    simp only [State.mk.injEq] at hr
    simp only [State.amend, State.setMine, State.setCore, State.mk.injEq]
    exact hr
  core p := by
    simp only [State.amend, State.setMine, State.core_setCore_ite, h.cur, h.str]
    split
    · have hstrands : t.mine.strands = s.mine.strands := h.ofMine Core.strands
      have hmine : t.mine.besideHome = s.mine.besideHome := by
        rw [State.mine, h.cur]
        exact h.core s.cur
      rw [hstrands]
      exact congrArg (fun k : Core => { k with npool := n, strands := s.mine.strands.set s.str st }) hmine
    · exact h.core p
  copies p hp := by
    rw [State.ofCore_amend Core.copies] at hp ⊢
    exact h.copies p hp
  memOk hok := State.memOk_amend (h.memOk (State.memOk_of_eq (s := s.amend n st) rfl
    (fun p => (State.ofCore_amend Core.spad p).symm) hok))
  bad := h.bad
  data x hx hn := by rw [State.peekHome_amend, State.peekHome_amend, h.data x hx hn]
  full x hx hn := by rw [State.isFull_amend, State.isFull_amend, h.full x hx hn]

/-- Work on words of an amended state, seen from the state before. -/
theorem State.worksOn.of_amend {u : State} (h : s.worksOn D F t) {D' F' : List Nat} (k : (t.amend n st).worksOn D' F' u) :
    ∃ t', s.worksOn (D ++ D') (F ++ F') t' ∧ u = t'.amend n st ∧
      (∀ pa, t'.homeWord pa = u.homeWord pa) ∧ ∀ pa, t'.isFull pa = u.isFull pa := by
  have hk := k.amend t.mine.npool t.me
  rw [State.amend_amend, State.amend_self] at hk
  refine ⟨_, h.trans hk, ?_, fun pa => State.homeWord_amend pa, fun pa => State.isFull_amend pa⟩
  have hn : u.mine.npool = n := (k.ofMine Core.npool).trans (by rw [State.mine_amend])
  have hst : u.me = st := k.me.trans State.me_amend
  rw [State.amend_amend, ← hn, ← hst, State.amend_self]

end Sys2Proof.Machine
end

section
namespace Sys2Proof.Machine

variable {s t z : State} {F : List Nat} {n : BitVec 43} {st : Strand} {pl : Place}

/-! ### NALLOC (R189) -/

theorem State.isBad_sub {pa k a j : Nat} (h : s.isBad pa k = false) (hs : s.badCopies = []) (hx : s.comb = [])
    (hlo : pa / 8 ≤ a / 8) (hhi : (a + j - 1) / 8 ≤ (pa + k - 1) / 8) : s.isBad a j = false := by
  simp only [State.isBad, hs, hx, List.any_nil, Bool.or_false, List.any_eq_false, decide_eq_true_eq] at h ⊢
  exact fun w hw hb => h w hw ⟨by omega, by omega⟩

/-- What NALLOC adds to what it has gathered: with the first word the node's address too. -/
def Strand.gather (st : Strand) (n : BitVec 43) (v : Word) : Strand :=
  { st with
    wait := none
    progress := st.progress ++ if st.progress.length % 5 = 0 then [word (n.toNat * 32), v] else [v]
    taken := true }

theorem State.completeFe_nalloc (p : CoreId) (t : StrandId) (pa : Nat) : s.completeFe p t pa .nalloc =
    let s1 := ((s.setFull pa false).setStrand p t ((s.strand p t).gather (s.core p).npool (s.homeWord pa))).acquire p .dev
    if (s.strand p t).progress.length % 5 = 0 then s1.setNpool p ((s.homeWord pa).extractLsb' 1 43) else s1 := by
  unfold State.completeFe Strand.gather
  dsimp only
  by_cases h : (s.strand p t).progress.length % 5 = 0
  · simp only [h, decide_true, if_true]
  · simp only [h, decide_false, if_false, Bool.false_eq_true]

/-- The head of the free list once a word of a node has been taken: with the first word it is the next node. -/
def Strand.nextHead (st : Strand) (n : BitVec 43) (v : Word) : BitVec 43 :=
  if st.progress.length % 5 = 0 then v.extractLsb' 1 43 else n

theorem State.setMe_setNpool {p : CoreId} (hp : s.cur = p) (hw : s.waiters = []) (hr : s.retries = []) :
    (s.setMe st).setNpool p n = s.amend n st := by
  subst hp
  rw [State.setNpool_none (s := s.setMe st) hw hr, State.amend_eq_setMe, ← State.setMine_setMe]
  rfl

theorem State.setMe_eq_amend (s : State) (st : Strand) : s.setMe st = s.amend s.mine.npool st := by
  rw [State.amend_eq_setMe]
  exact congrArg (State.setMe · st) (s.setCore_self s.cur).symm

/-- NALLOC takes a full word of a node. -/
theorem State.feOperate_nalloc (h : s.resting) (hw : s.isWord pl.pa) (hfull : s.isFull pl.pa = true)
    (hbad : s.isBad pl.pa 8 = false) (va : Word) : ∃ t, s.worksOn [] [pl.pa / 8] t ∧ t.isFull pl.pa = false ∧
      s.feOperate pl va .nalloc = t.amend (s.me.nextHead s.mine.npool (s.homeWord pl.pa))
        (s.me.gather s.mine.npool (s.homeWord pl.pa)) := by
  obtain ⟨s1, hrec, heq⟩ := State.feOperate_full (op := .nalloc) h hw rfl hfull hbad va
  have hk := State.recalled_worksOn hrec
  obtain ⟨hset, hempty⟩ := State.setFull_spec false (hk.resting h).memOk (hk.isWord hw)
  have hkset := hk.trans hset
  have hword := hk.homeWord hw.1 hw.2.1 List.not_mem_nil
  have hnpool : (s1.core s.cur).npool = s.mine.npool := hk.ofCore Core.npool s.cur
  have hdone : s1.completeFe s.cur s.str pl.pa .nalloc = (s1.setFull pl.pa false).amend
      (s.me.nextHead s.mine.npool (s.homeWord pl.pa)) (s.me.gather s.mine.npool (s.homeWord pl.pa)) := by
    rw [State.completeFe_nalloc, hk.strand, State.acquired_setStrand hkset h, hword, hnpool, Strand.nextHead]
    dsimp only
    change (if s.me.progress.length % 5 = 0 then _ else _) = _
    split
    · exact State.setMe_setNpool hkset.cur (hkset.waiters.trans h.waiters) (hkset.retries.trans h.retries)
    · rw [← hkset.ofMine Core.npool]
      exact State.setMe_eq_amend ..
  refine ⟨_, hkset, hempty, heq.trans ((if_pos rfl).trans ?_)⟩
  rw [hdone, State.serve_none]
  exact (hkset.resting h).waiters

/-- The four words of a node that NALLOC can take at once. -/
structure State.freeWords (s : State) (a : Nat) (pl : Place) : Prop where
  place : ∀ j < 4, s.nodeWord (a + 8 * j) .change = (.ok { pl with pa := pl.pa + 8 * j }, s)
  isWord : ∀ j < 4, s.isWord (pl.pa + 8 * j)
  full : ∀ j < 4, s.isFull (pl.pa + 8 * j) = true
  bad : ∀ j < 4, s.isBad (pl.pa + 8 * j) 8 = false

/-- The addresses div 8 of the first words of a node. -/
def wordsBelow (pa i : Nat) : List Nat := (List.range i).map fun j => (pa + 8 * j) / 8

theorem wordsBelow_succ (pa i : Nat) : wordsBelow pa (i + 1) = wordsBelow pa i ++ [(pa + 8 * i) / 8] := by
  rw [wordsBelow, List.range_succ, List.map_append]
  rfl

/-- Where NALLOC stands once it has taken i words of its node, in a state that is otherwise as one before. -/
structure State.taken (s : State) (pl : Place) (i : Nat) (t : State) : Prop where
  work : s.worksOn [] (wordsBelow pl.pa i) t
  empty : ∀ j < i, t.isFull (pl.pa + 8 * j) = false

/-- What a strand gathers of a node. -/
def State.gathered (s : State) (a : Nat) (pl : Place) (i : Nat) : List Word :=
  if i = 0 then [] else Machine.word a :: (List.range i).map fun j => s.homeWord (pl.pa + 8 * j)

theorem State.freeWords.nodeWord {a i : Nat} (h : s.freeWords a pl) (hr : s.resting) (hi : i < 4)
    (ht : s.taken pl i t) (hp : st.priv = s.me.priv) :
    (t.amend n st).nodeWord (a + 8 * i) .change = (.ok { pl with pa := pl.pa + 8 * i }, t.amend n st) := by
  refine State.nodeWord_again hr.copies hr.comb (ht.work.sameChecks.trans (State.sameChecks_amend (hp.trans ?_))) ?_ rfl
    (h.place i hi)
  · rw [ht.work.me]
  · rw [State.mine_amend]
    exact ht.work.ofMine Core.tlb

/-- Once more word. -/
theorem State.freeWords.step {a i : Nat} (h : s.freeWords a pl) (hr : s.resting) (hi : i < 4) (ht : s.taken pl i t)
    (hp : st.priv = s.me.priv) (hrel : st.relaxed = []) : ∃ t', s.taken pl (i + 1) t' ∧
      (t.amend n st).portOp (a + 8 * i) .nalloc = t'.amend (st.nextHead n (s.homeWord (pl.pa + 8 * i)))
        (st.gather n (s.homeWord (pl.pa + 8 * i))) := by
  have hw := h.isWord i hi
  have hout : (pl.pa + 8 * i) / 8 ∉ wordsBelow pl.pa i := by
    simp only [wordsBelow, List.mem_map, List.mem_range, not_exists, not_and]
    intro j hj
    omega
  have hcheck := ht.work.sameChecks.trans (State.sameChecks_amend (s := t) (n := n) (hp.trans (by rw [ht.work.me])))
  obtain ⟨u, hu, hempty, heq⟩ := State.feOperate_nalloc (pl := { pl with pa := pl.pa + 8 * i })
    (State.resting_amend (n := n) (st := st) (ht.work.resting hr)) (State.isWord_congr hcheck hw)
    (by rw [State.isFull_amend, ht.work.full _ hw.2.1 hout, h.full i hi])
    (by rw [State.isBad_amend]; exact ht.work.isBad hr (h.bad i hi)) (Machine.word (a + 8 * i))
  obtain ⟨t', ht', rfl, -, hfull'⟩ := ht.work.of_amend hu
  refine ⟨t', ⟨by rw [wordsBelow_succ]; exact ht', fun j hj => ?_⟩, ?_⟩
  · rcases Nat.lt_succ_iff_lt_or_eq.mp hj with hj | rfl
    · have hjw := h.isWord j (by omega)
      rw [hfull', hu.full _ hjw.2.1 (by simp; omega), State.isFull_amend, ht.empty j hj]
    · rw [hfull', hempty]
  · have hrel' : (t.amend n st).me.relaxed = [] := by rw [State.me_amend, hrel]
    have hplace := h.nodeWord (n := n) hr hi ht hp
    have hport := State.portOp_ok (op := .nalloc) hrel' hplace
    rw [hport, heq, State.amend_amend, State.me_amend, State.mine_amend, State.homeWord_amend,
      ht.work.homeWord hw.1 hw.2.1 List.not_mem_nil]

end Sys2Proof.Machine
end

section
namespace Sys2Proof.Machine

variable {s t : State} {n : BitVec 43} {st st0 : Strand} {pl : Place} {a i : Nat}

/-- The head of the free list once i words of its first node have been taken. -/
def State.headAfter (s : State) (pl : Place) (i : Nat) : BitVec 43 :=
  if i = 0 then s.mine.npool else (s.homeWord pl.pa).extractLsb' 1 43

/-- A strand that has gathered i words of a node. -/
def Strand.holdsWords (st0 : Strand) (s : State) (a : Nat) (pl : Place) (i : Nat) (st : Strand) : Prop :=
  st = { st0 with wait := none, progress := s.gathered a pl i, taken := st.taken }

theorem State.gathered_length : (s.gathered a pl i).length = if i = 0 then 0 else i + 1 := by
  unfold State.gathered
  split
  · rfl
  · simp

theorem State.gathered_succ : s.gathered a pl (i + 1) =
    s.gathered a pl i ++ if i = 0 then [word a, s.homeWord (pl.pa + 8 * i)] else [s.homeWord (pl.pa + 8 * i)] := by
  rcases Nat.eq_zero_or_pos i with rfl | hi
  · rfl
  · simp only [State.gathered, Nat.add_eq_zero_iff, one_ne_zero, and_false, if_false, Nat.ne_of_gt hi, List.range_succ,
      List.map_append, List.cons_append, List.map_cons, List.map_nil]

theorem Strand.holdsWords.progress (h : st0.holdsWords s a pl i st) : st.progress = s.gathered a pl i := by
  rw [h]

theorem Strand.holdsWords.first (h : st0.holdsWords s a pl i st) (hi : i < 4) : st.progress.length % 5 = 0 ↔ i = 0 := by
  rw [h.progress, State.gathered_length]
  split <;> omega

theorem Strand.holdsWords.gather (h : st0.holdsWords s a pl i st) (hi : i < 4) (ha : s.mine.npool.toNat * 32 = a) :
    st0.holdsWords s a pl (i + 1) (st.gather (s.headAfter pl i) (s.homeWord (pl.pa + 8 * i))) := by
  have hnew : (if st.progress.length % 5 = 0 then
      [word ((s.headAfter pl i).toNat * 32), s.homeWord (pl.pa + 8 * i)] else [s.homeWord (pl.pa + 8 * i)]) =
      if i = 0 then [word a, s.homeWord (pl.pa + 8 * i)] else [s.homeWord (pl.pa + 8 * i)] := by
    simp only [h.first hi]
    split
    · next e => rw [State.headAfter, if_pos e, ha]
    · rfl
  rw [Strand.holdsWords, Strand.gather, hnew, h.progress, State.gathered_succ, h]

theorem Strand.holdsWords.nextHead (h : st0.holdsWords s a pl i st) (hi : i < 4) :
    st.nextHead (s.headAfter pl i) (s.homeWord (pl.pa + 8 * i)) = s.headAfter pl (i + 1) := by
  simp only [Strand.nextHead, h.first hi, State.headAfter, Nat.add_eq_zero_iff, one_ne_zero, and_false, if_false]
  split
  · next e => rw [e]; rfl
  · rfl

/-- One round of the procedure of R189 on a node that is not yet whole. -/
theorem State.takeNodes_round {none' k : List Word → State → State} {fuel : Nat}
    (hn : t.me.progress.length ≠ 5) (hpool : ¬(t.me.progress.length % 5 = 0 ∧ t.mine.npool = 0)) :
    t.takeNodes 1 none' k (fuel + 1) =
      let a := if t.me.progress.length % 5 = 0 then t.mine.npool.toNat * 32
        else (t.me.progress.getD (t.me.progress.length - t.me.progress.length % 5) 0).toNat + 8 * (t.me.progress.length % 5 - 1)
      let s1 := t.portOp a .nalloc
      if t.me.progress.length < s1.me.progress.length then s1.takeNodes 1 none' k fuel else s1 := by
  rw [State.takeNodes]
  dsimp only
  rw [if_neg (by simpa using hn), if_neg hpool]

theorem State.freeWords.round {none' k : List Word → State → State} {fuel : Nat} (h : s.freeWords a pl) (hr : s.resting)
    (ha : s.mine.npool.toNat * 32 = a) (hpool : s.mine.npool ≠ 0) (hlt : a < 2 ^ 64) (hp : st0.priv = s.me.priv)
    (hrel : st0.relaxed = []) (hi : i < 4) (ht : s.taken pl i t) (hst : st0.holdsWords s a pl i st) :
    ∃ t' st', s.taken pl (i + 1) t' ∧ st0.holdsWords s a pl (i + 1) st' ∧
      (t.amend (s.headAfter pl i) st).takeNodes 1 none' k (fuel + 1) =
        (t'.amend (s.headAfter pl (i + 1)) st').takeNodes 1 none' k fuel := by
  have hpriv : st.priv = s.me.priv := by rw [hst, hp]
  have hrel' : st.relaxed = [] := by rw [hst, hrel]
  obtain ⟨t', ht', heq⟩ := h.step (n := s.headAfter pl i) hr hi ht hpriv hrel'
  rw [hst.nextHead hi] at heq
  refine ⟨t', _, ht', hst.gather hi ha, ?_⟩
  have hlen : st.progress.length = if i = 0 then 0 else i + 1 := by rw [hst.progress, State.gathered_length]
  have hlen' := congrArg List.length (hst.gather hi ha).progress
  rw [State.gathered_length, if_neg (Nat.succ_ne_zero i)] at hlen'
  have haddr : (if st.progress.length % 5 = 0 then (s.headAfter pl i).toNat * 32 else
      (st.progress.getD (st.progress.length - st.progress.length % 5) 0).toNat + 8 * (st.progress.length % 5 - 1)) =
      a + 8 * i := by
    simp only [hst.first hi]
    split
    · next e => rw [State.headAfter, if_pos e, ha, e, Nat.mul_zero, Nat.add_zero]
    · next e =>
      have hmod : st.progress.length % 5 = i + 1 := by
        rw [hlen, if_neg e]
        omega
      have hfirst : st.progress.length - (i + 1) = 0 := by
        rw [hlen, if_neg e]
        omega
      rw [hmod, hfirst, hst.progress, State.gathered, if_neg e, List.getD_cons_zero, word_toNat hlt, Nat.add_sub_cancel]
  rw [State.takeNodes_round]
  · have hmore : st.progress.length < i + 1 + 1 := by
      rw [hlen]
      split <;> omega
    simp only [State.me_amend, State.mine_amend, haddr, heq, hlen', if_pos hmore]
  · rw [State.me_amend, hlen]
    split <;> omega
  · rw [State.me_amend, State.mine_amend, hst.first hi]
    rintro ⟨e, hz⟩
    rw [State.headAfter, if_pos e] at hz
    exact hpool hz

/-- NALLOC takes the four words of the head of the free list. -/
theorem State.freeWords.takeNodes {none' k : List Word → State → State} (h : s.freeWords a pl) (hr : s.resting)
    (ha : s.mine.npool.toNat * 32 = a) (hpool : s.mine.npool ≠ 0) (hlt : a < 2 ^ 64) (hp : st.priv = s.me.priv)
    (hrel : st.relaxed = []) (hwait : st.wait = none) (hprog : st.progress = []) :
    ∃ t' st', s.taken pl 4 t' ∧ st.holdsWords s a pl 4 st' ∧
      (s.setMe st).takeNodes 1 none' k 8 = k (s.gathered a pl 4) (t'.amend (s.headAfter pl 4) st') := by
  have h0 : s.taken pl 0 s := ⟨State.worksOn.refl s, fun j hj => absurd hj (Nat.not_lt_zero j)⟩
  have hst0 : st.holdsWords s a pl 0 st := by
    rw [Strand.holdsWords, ← hwait, State.gathered, if_pos rfl, ← hprog]
  obtain ⟨t1, st1, ht1, hst1, e1⟩ := h.round (none' := none') (k := k) (fuel := 7) hr ha hpool hlt hp hrel (by decide) h0 hst0
  obtain ⟨t2, st2, ht2, hst2, e2⟩ := h.round (none' := none') (k := k) (fuel := 6) hr ha hpool hlt hp hrel (by decide) ht1 hst1
  obtain ⟨t3, st3, ht3, hst3, e3⟩ := h.round (none' := none') (k := k) (fuel := 5) hr ha hpool hlt hp hrel (by decide) ht2 hst2
  obtain ⟨t4, st4, ht4, hst4, e4⟩ := h.round (none' := none') (k := k) (fuel := 4) hr ha hpool hlt hp hrel (by decide) ht3 hst3
  refine ⟨t4, st4, ht4, hst4, ?_⟩
  rw [State.setMe_eq_amend, show s.mine.npool = s.headAfter pl 0 from rfl, e1, e2, e3, e4, State.takeNodes]
  simp only [State.me_amend, hst4.progress, State.gathered_length]
  rfl

end Sys2Proof.Machine
end

section
namespace Sys2Proof.Machine

variable {s t : State} {n : BitVec 43} {st st0 : Strand} {pl : Place} {a i : Nat}

/-- The four words of a node become zero at home. -/
def State.clearNode (s : State) (pa : Nat) : State :=
  (((s.pokeWord pa 0).pokeWord (pa + 8) 0).pokeWord (pa + 16) 0).pokeWord (pa + 24) 0

theorem State.clearNode_spec {pa : Nat} (h : s.resting) (hw : ∀ j < 4, s.isWord (pa + 8 * j)) :
    s.worksOn (nodeCells pa) [] (s.clearNode pa) ∧ ∀ j < 4, (s.clearNode pa).homeWord (pa + 8 * j) = 0 := by
  have h0 := hw 0 (by decide)
  have h1 := hw 1 (by decide)
  have h2 := hw 2 (by decide)
  have h3 := hw 3 (by decide)
  obtain ⟨k0, v0, -⟩ := State.pokeWord_spec h h0 0
  obtain ⟨k1, v1, -⟩ := State.pokeWord_spec (k0.resting h) (k0.isWord h1) 0
  have k01 := k0.trans k1
  obtain ⟨k2, v2, -⟩ := State.pokeWord_spec (k01.resting h) (k01.isWord h2) 0
  have k012 := k01.trans k2
  obtain ⟨k3, v3, -⟩ := State.pokeWord_spec (k012.resting h) (k012.isWord h3) 0
  have k23 := k2.trans k3
  have h8 := h0.1
  refine ⟨k012.trans k3, fun j hj => ?_⟩
  obtain rfl | rfl | rfl | rfl : j = 0 ∨ j = 1 ∨ j = 2 ∨ j = 3 := by omega
  · exact ((k1.trans k23).homeWord h0.1 h0.2.1 (by simp; omega)).trans v0
  · exact (k23.homeWord h1.1 h1.2.1 (by simp; omega)).trans v1
  · exact (k3.homeWord h2.1 h2.2.1 (by simp; omega)).trans v2
  · exact v3

theorem State.nallocDone_eq {rd : BitVec 5} {v : Word} (hn : s.nodeWord v.toNat .change = (.ok pl, t)) :
    s.nallocDone rd v = let s3 := (t.prepareHome t.cur pl.pa pl.grain).clearNode pl.pa
      (s3.setMe { s3.me with progress := [], taken := false }).finish rd v := by
  rw [State.nallocDone, hn]
  rfl

/-- NALLOC that has taken its four words. -/
theorem State.freeWords.done {rd : BitVec 5} (h : s.freeWords a pl) (hr : s.resting) (hlt : a < 2 ^ 64)
    (hp : st.priv = s.me.priv) (ht : s.taken pl 4 t) : ∃ t',
      s.worksOn (nodeCells pl.pa) (nodeCells pl.pa) t' ∧
        (∀ j < 4, t'.homeWord (pl.pa + 8 * j) = 0 ∧ t'.isFull (pl.pa + 8 * j) = false) ∧
        (t.amend n st).nallocDone rd (word a) =
          (t'.amend n { st with progress := [], taken := false }).finish rd (word a) := by
  have hplace : (t.amend n st).nodeWord (word a).toNat .change = (.ok pl, t.amend n st) := by
    rw [word_toNat hlt]
    exact State.nodeWord_again hr.copies hr.comb
      (ht.work.sameChecks.trans (State.sameChecks_amend (hp.trans (by rw [ht.work.me]))))
      (by rw [State.mine_amend]; exact ht.work.ofMine Core.tlb) rfl (h.place 0 (by decide))
  have hrest := State.resting_amend (n := n) (st := st) (ht.work.resting hr)
  have hcheck := ht.work.sameChecks.trans (State.sameChecks_amend (n := n) (hp.trans (by rw [ht.work.me])))
  have hrec := State.recalled_worksOn (State.prepareHome_recalled hrest pl.pa pl.grain)
  obtain ⟨hclear, hzero⟩ := State.clearNode_spec (hrec.resting hrest)
    (fun j hj => hrec.isWord (State.isWord_congr hcheck (h.isWord j hj)))
  obtain ⟨t', ht', heq, hword, hfull⟩ := ht.work.of_amend (hrec.trans hclear)
  refine ⟨t', ht'.mono (by simp) (by simp [wordsBelow, nodeCells, List.range_succ]), fun j hj => ⟨?_, ?_⟩, ?_⟩
  · rw [hword, hzero j hj]
  · rw [hfull, (hrec.trans hclear).full _ (h.isWord j hj).2.1 (by simp), State.isFull_amend, ht.empty j hj]
  · rw [State.nallocDone_eq hplace]
    dsimp only
    rw [heq, State.me_amend, State.setMe_amend]

theorem exec_nalloc {rd : BitVec 5} {k : List Word → State → State} (hst : s.ownProgress = s.setMe st)
    (hk : k = fun pr (a : State) => a.nallocDone rd (pr.getD 0 0)) :
    exec (.nalloc rd) s = .next ((s.setMe st).takeNodes 1 (fun _ a => a.trap .nodePoolEmpty 0) k 8) := by
  rw [← hst, hk]
  rfl

/-- A strand that begins to gather. -/
theorem State.ownProgress_eq (hprog : s.me.progress = []) : ∃ st, s.ownProgress = s.setMe st ∧ st.progress = [] ∧
    st = { s.me with progress := [], progressAt := st.progressAt, taken := st.taken } := by
  rw [State.ownProgress]
  split
  · exact ⟨s.me, (s.setStrand_self s.cur s.str).symm, hprog, by rw [← hprog]⟩
  · exact ⟨_, rfl, rfl, rfl⟩

theorem State.completes_nalloc {rd : BitVec 5} (h : s.freeWords a pl) (hr : s.resting) (hcalm : s.calm = true)
    (ha : s.mine.npool.toNat * 32 = a) (hpool : s.mine.npool ≠ 0) (h32 : pl.pa % 32 = 0) (hprog : s.me.progress = []) :
    completes (.nalloc rd) s fun t => s.wentOn t ∧ s.regsWith rd (word a) t ∧ s.sameOthers t ∧
      t.mine.npool = (s.homeWord pl.pa).extractLsb' 1 43 ∧
      (∀ j < 4, t.homeWord (pl.pa + 8 * j) = 0 ∧ t.isFull (pl.pa + 8 * j) = false) ∧ s.sameDataBut pl.pa 32 t ∧
      ∀ y, onDevice y = true → y / 32 ≠ pl.pa / 32 → t.isFull y = s.isFull y := by
  obtain ⟨hwait, -, hrel, -⟩ := State.calm_parts hcalm
  have hlt : a < 2 ^ 64 := by
    have := s.mine.npool.isLt
    omega
  obtain ⟨st, hown, hempty, hst⟩ := State.ownProgress_eq hprog
  obtain ⟨t4, st4, ht4, hst4, heq⟩ := h.takeNodes (none' := fun _ a => a.trap .nodePoolEmpty 0)
    (k := fun pr a => a.nallocDone rd (pr.getD 0 0)) (st := st) hr ha hpool hlt (by rw [hst]) (by rw [hst]; exact hrel)
    (by rw [hst]; exact hwait) hempty
  obtain ⟨t5, hk, hwords, hdone⟩ := h.done (rd := rd) (n := s.headAfter pl 4) (st := st4) hr hlt (by rw [hst4, hst]) ht4
  have hcell (x : Nat) : x / 8 ∈ nodeCells pl.pa ↔ x / 32 = pl.pa / 32 := mem_nodeCells h32
  set st5 : Strand := { st4 with progress := [], taken := false } with hst5
  have hpc : st5.pc = s.me.pc := by rw [hst5, hst4, hst]
  have hx : st5.x = s.me.x := by rw [hst5, hst4, hst]
  have hfin : (t5.amend (s.headAfter pl 4) st5).finish rd (word a) =
      t5.amend (s.headAfter pl 4) { st5.withX rd (word a) with pc := st5.pc + 4 } := by
    rw [State.finish_eq, State.setMe_amend, State.me_amend]
  refine completes_of_next_eq (exec_nalloc hown rfl) (heq.trans (hdone.trans hfin)) ⟨?_, fun q => ?_, fun p w hp => ?_, ?_,
    fun j hj => ?_, fun x hx hne => ?_, fun x hx hne => ?_⟩
  · rw [State.wentOn, State.me_amend, ← hpc]
  · rw [← hfin, State.reg_finish, State.reg_of_x (b := s) (by rw [State.me_amend, hx])]
  · rw [State.amend_eq_setMe]
    exact (State.sameOthers_setMe _ _ p w (by rw [← hk.cur, ← hk.str] at hp; exact hp)).trans
      ((State.strand_setNpool ..).trans (hk.strand p w))
  · rw [State.mine_amend]
    rfl
  · rw [State.homeWord_amend, State.isFull_amend]
    exact hwords j hj
  · rw [State.peekHome_amend]
    exact hk.data x hx (by rw [hcell]; omega)
  · rw [State.isFull_amend]
    exact hk.full x hx (by rwa [hcell])

end Sys2Proof.Machine
end

section
namespace Sys2Proof.Machine

variable {s t : State} {c : CtxId} {f : Core → Core}

/-! ### The quiescence count (R32, R33, R419) -/

theorem State.core_onServing (s : State) (c : CtxId) (f : Core → Core) (p : CoreId) :
    (s.onServing c f).core p = if (s.core p).serves = some c then f (s.core p) else s.core p := by
  simp only [State.onServing, State.core, Fin.getElem_fin, Vector.getElem_map]
  rfl

/-- What a change of the serving cores leaves of each is left of every core. -/
theorem State.ofCore_onServing {β : Type} (g : Core → β) (hg : ∀ k, g (f k) = g k) (p : CoreId) :
    g ((s.onServing c f).core p) = g (s.core p) := by
  rw [State.core_onServing]
  split
  · rw [hg]
  · rfl

/-- The count of a context has fallen to zero with no replay and no notification: the strands that wait in NEXT fall through. -/
def State.quieted (s : State) (c : CtxId) : State :=
  (s.onServing c Core.fallThrough).setCtx c
    { s.ctx c with count := 0, epoch := (s.ctx c).epoch + 1, hungrySet := [] }

theorem State.countDown_left (h : (s.ctx c).count - 1 ≠ 0) :
    s.countDown c = s.setCtx c { s.ctx c with count := (s.ctx c).count - 1 } := by
  rw [State.countDown]
  dsimp only
  rw [State.ctx_setCtx, if_neg h]

theorem State.quiescent_plain (hrun : (s.ctx c).replay.running = 0) (hnote : (s.ctx c).notifyEn = false) :
    s.quiescent c =
      (s.onServing c Core.fallThrough).setCtx c { s.ctx c with epoch := (s.ctx c).epoch + 1, hungrySet := [] } := by
  have hrun2 : decide ((s.ctx c).replay.running = 2) = false := by rw [hrun]; rfl
  rw [State.quiescent]
  simp only [hrun2, hnote, Bool.false_and, Bool.false_eq_true, if_false, Bool.not_false, if_true]

theorem State.countDown_last (h : (s.ctx c).count = 1) (hrun : (s.ctx c).replay.running = 0)
    (hnote : (s.ctx c).notifyEn = false) : s.countDown c = s.quieted c := by
  have hone : (1 : Word) - 1 = 0 := rfl
  rw [State.countDown]
  dsimp only
  rw [State.ctx_setCtx, h, hone, if_pos rfl, State.quiescent_plain (by rw [State.ctx_setCtx]; exact hrun)
    (by rw [State.ctx_setCtx]; exact hnote), State.ctx_setCtx]
  exact State.setCtx_setCtx (s.onServing c Core.fallThrough) c _ _

theorem State.ctx_quieted (s : State) (c : CtxId) :
    (s.quieted c).ctx c = { s.ctx c with count := 0, epoch := (s.ctx c).epoch + 1, hungrySet := [] } := State.ctx_setCtx ..

theorem State.core_quieted (s : State) (c : CtxId) (p : CoreId) :
    (s.quieted c).core p = if (s.core p).serves = some c then (s.core p).fallThrough else s.core p :=
  s.core_onServing c Core.fallThrough p

theorem Core.fallThrough_strand (k : Core) (u : StrandId) :
    k.fallThrough.strands[u] = if k.strands[u].nextWaits then k.strands[u].fallThrough else k.strands[u] := by
  simp only [Core.fallThrough, Fin.getElem_fin, Vector.getElem_map]

theorem State.strand_quieted (s : State) (c : CtxId) (p : CoreId) (u : StrandId) : (s.quieted c).strand p u =
    if (s.core p).serves = some c ∧ (s.strand p u).nextWaits = true then (s.strand p u).fallThrough else s.strand p u := by
  rw [State.strand, State.core_quieted]
  by_cases h : (s.core p).serves = some c
  · rw [if_pos h, Core.fallThrough_strand]
    simp only [h, true_and]
    rfl
  · rw [if_neg h, if_neg fun e => h e.1, State.strand]

theorem State.me_quieted (hw : s.me.wait = none) : (s.quieted c).me = s.me := by
  have hnot : s.me.nextWaits = false := by simp [Strand.nextWaits, hw]
  refine (s.strand_quieted c s.cur s.str).trans (if_neg ?_)
  rintro ⟨-, h⟩
  exact Bool.false_ne_true (hnot.symm.trans h)

/-- The value of an x register of a strand (R141). -/
def Strand.valueOf (st : Strand) (q : BitVec 5) : Word := if q = 0 then 0 else st.x[q.toFin]

theorem State.reg_eq (s : State) (q : BitVec 5) : s.reg q = s.me.valueOf q := rfl

theorem Strand.valueOf_withX (st : Strand) {r : BitVec 5} (hr : r ≠ 0) (v : Word) (q : BitVec 5) :
    (st.withX r v).valueOf q = if q = r then v else st.valueOf q := by
  unfold Strand.valueOf
  rw [Strand.withX, if_neg hr]
  by_cases e : q = r
  · subst e
    rw [if_neg hr, if_pos rfl]
    simp
  · have : r.toNat ≠ q.toNat := fun x => e (BitVec.eq_of_toNat_eq x.symm)
    simp [e, this]

/-- The x registers of a strand that falls through with Q set (R33). -/
theorem Strand.valueOf_fallThrough (st : Strand) (q : BitVec 5) : st.fallThrough.valueOf q =
    if q = 26 ∨ q = 27 ∨ q = 28 then 0 else if q = 29 then BitVec.ofNat 64 (2 ^ 63) else st.valueOf q := by
  have hx : st.fallThrough.valueOf q =
      ((((st.withX 26 0).withX 27 0).withX 28 0).withX 29 (word (2 ^ 63))).valueOf q := rfl
  rw [hx, Strand.valueOf_withX _ (by decide), Strand.valueOf_withX _ (by decide), Strand.valueOf_withX _ (by decide),
    Strand.valueOf_withX _ (by decide)]
  by_cases h29 : q = 29
  · subst h29
    rfl
  · simp only [h29, if_false]
    grind

end Sys2Proof.Machine
end

section
namespace Sys2Proof.Machine

variable {s t : State} {c : CtxId} {r1 r2 : BitVec 5}

/-! ### NPUSH (R192) -/

/-- The nodes of the pair that an NPUSH names. -/
def State.pairNamed (s : State) (r1 r2 : BitVec 5) (m : BitVec 4) : Pair :=
  ⟨BitVec.ofNat 48 ((s.reg r1).toNat / 32 * 32), BitVec.ofNat 48 (s.reg r2).toNat, m⟩

theorem exec_npush_enters (hcalm : s.calm = true) (hlow : (s.reg r1).toNat / 4 % 8 = 0) (hb : (s.reg r2).toNat % 32 = 0)
    (hok1 : nodeOk ((s.reg r1).toNat / 32 * 32) = true) (hok2 : nodeOk (s.reg r2).toNat = true)
    (hmode : (s.reg r1).toNat % 4 < 2) : exec (.npush r1 r2) s = .next
      (if (s.reg r1).toNat % 4 = 0 then s.push (s.pairNamed r1 r2 0) false true State.advance
        else s.push (s.pairNamed r1 r2 2) false false State.advance) := by
  have hodd : ¬((s.reg r1).toNat % 4 = 3 ∨ (s.reg r1).toNat / 4 % 8 ≠ 0) := by omega
  have hmode2 : ¬(s.reg r1).toNat % 4 = 2 := by omega
  show execNpush r1 r2 s = _
  rw [execNpush, if_neg hodd, if_neg hmode2, if_neg (not_not_intro hb), hok1, hok2, State.afterRelease_calm .dev _ hcalm]
  rfl

theorem exec_npush_lowers (hlow : (s.reg r1).toNat / 4 % 8 = 0) (hmode : (s.reg r1).toNat % 4 = 2) :
    exec (.npush r1 r2) s = .next (s.countDown s.myCtx).advance := by
  have hodd : ¬((s.reg r1).toNat % 4 = 3 ∨ (s.reg r1).toNat / 4 % 8 ≠ 0) := by omega
  exact congrArg Host.Outcome.next ((if_neg hodd).trans (if_pos hmode))

/-- The acting strand has pushed a pair and gone on. -/
theorem State.pushed_advance (x : Pair) (count : Bool) (hw : s.me.wait = none) :
    (s.pushed x false count).advance.mine.bag = s.mine.bag ++ [x] ∧
      (s.pushed x false count).advance.ctx s.myCtx = (s.ctx s.myCtx).raised count ∧
      (s.pushed x false count).advance.me = { s.me with pc := s.me.pc + 4 } ∧
      (s.pushed x false count).advance.mem = s.mem := by
  refine ⟨?_, State.ctx_pushed .., by rw [State.me_advance, State.me_pushed hw], rfl⟩
  have hmine : (s.pushed x false count).advance.mine.bag = (s.pushed x false count).mine.bag := by
    simp [State.advance, State.setPc, State.setMe, State.mine]
  rw [hmine, State.mine_pushed]
  rfl

theorem State.at_quieted_falls {p : CoreId} {u : StrandId} (hserves : (s.core p).serves = some c)
    (hwait : (s.strand p u).wait = some .pair) :
    ((s.quieted c).strand p u).wait = none ∧ ((s.quieted c).strand p u).pc = (s.strand p u).pc + 4 ∧
      ∀ q, ((s.quieted c).strand p u).valueOf q = if q = 26 ∨ q = 27 ∨ q = 28 then 0
        else if q = 29 then BitVec.ofNat 64 (2 ^ 63) else (s.strand p u).valueOf q := by
  have hfall : (s.quieted c).strand p u = (s.strand p u).fallThrough := by
    rw [State.strand_quieted, if_pos ⟨hserves, by simp [Strand.nextWaits, hwait]⟩]
  rw [hfall]
  exact ⟨rfl, by simp [Strand.fallThrough], Strand.valueOf_fallThrough _⟩

/-! ### NDONE (R184) -/

/-- The strand is as before but for its lanes, and waits as before. -/
def Strand.relaned (a b : Strand) : Prop := b = { a with cls := b.cls, part := b.part, vlen := b.vlen }

theorem Strand.relaned.trans {a b d : Strand} (h : a.relaned b) (k : b.relaned d) : a.relaned d := by
  rw [Strand.relaned] at h k ⊢
  rw [k, h]

/-- Loans that take effect give lanes to a strand that does not wait for some without another change of it. -/
theorem Core.loansTake_relaned (k : Core) (l : List ArrayId) (u : StrandId) (h : k.strands[u].wait ≠ some .lanes) :
    k.strands[u].relaned (k.loansTake l).strands[u] := by
  refine foldl_keeps (fun d : Core => k.strands[u].relaned d.strands[u]) _ (fun d a hd => ?_) l k rfl
  have hwait : d.strands[u].wait = k.strands[u].wait := by
    rw [Strand.relaned] at hd
    rw [hd]
  have granted (v : StrandId) (uses : List (ArrayId × ArrayUse)) : k.strands[u].relaned
      { d with uses := uses, strands := d.strands.set v (d.strands[v].grant .short [a]) }.strands[u] := by
    refine Strand.relaned.trans hd ?_
    rw [Core.strands_set]
    split
    · next e =>
      subst e
      rw [Strand.relaned, Strand.grant, hwait, if_neg h, ← hwait]
    · rfl
  split
  · exact granted _ _
  · exact granted _ _
  · exact hd

theorem Core.release_strand (k : Core) (u : StrandId) (h : k.strands[u].wait ≠ some .lanes) :
    (k.release u).strands[u] = { k.strands[u] with cls := .noLanes, part := [], vlen := 0 } := by
  have hloans := Core.loansTake_relaned { k with whole := k.whole.filter fun w => w.2 ≠ u }
    (((k.whole.filter fun w => w.2 = u).map (·.1)).flatMap clusterArrays) u h
  have hset (v : Vector Strand 8) (st : Strand) : (v.set u st)[u] = st := by simp
  refine (hset _ _).trans ?_
  rw [Strand.relaned] at hloans
  refine (congrArg (fun st : Strand => { st with cls := .noLanes, part := [], vlen := 0 }) hloans).trans ?_
  rfl

/-- The lanes of the acting strand released, where no strand waits for some. -/
theorem State.releaseLanes_serve (h : s.mine.laneReqs = []) :
    (s.releaseLanes s.cur s.str).serveLanes s.cur 16 = s.setMine (s.mine.release s.str) := by
  have hreqs : ((s.releaseLanes s.cur s.str).core s.cur).laneReqs = [] := by
    obtain ⟨d, -, -, -, hreqs⟩ := s.mine.release_eq s.str
    rw [State.releaseLanes, State.core_setCore, ← State.mine, hreqs, h]
    rfl
  rw [State.serveLanes, hreqs]
  simp only [Nat.not_lt_zero, List.length_nil, if_false]
  rfl

/-- What NDONE leaves of a strand without queued or held entries before its lanes go. -/
def State.fired (s : State) : State :=
  s.setMe { s.me with vlen := 0, firing := none, resumed := false, rulePair := none }

theorem State.ndone_eq {z : State} (hreplay : s.me.replay = []) (hqueue : s.me.queue = [])
    (hend : s.fired.endLeft s.cur s.str s.me.firing.isSome = z) (hreqs : z.mine.laneReqs = []) :
    s.ndone = (z.setMine (z.mine.release z.str)).advance := by
  rw [State.ndone]
  dsimp only
  rw [if_neg (not_not_intro hreplay), if_neg (not_not_intro hqueue)]
  have hz : (s.setMe { s.me with vlen := 0, firing := none, resumed := false, rulePair := none }).endLeft
      (s.setMe { s.me with vlen := 0, firing := none, resumed := false, rulePair := none }).cur
      (s.setMe { s.me with vlen := 0, firing := none, resumed := false, rulePair := none }).str s.me.firing.isSome = z := hend
  rw [hz, State.releaseLanes_serve hreqs]

/-- The strand once NDONE is done. -/
theorem State.me_ndone {z : State} (hme : z.me = s.fired.me) (hw : s.me.wait = none) :
    (z.setMine (z.mine.release z.str)).advance.me = { s.me with
      firing := none, resumed := false, rulePair := none, cls := .noLanes, part := [], vlen := 0, pc := s.me.pc + 4 } := by
  have hme' := hme.trans (State.me_setMe ..)
  have hwait : z.me.wait ≠ some .lanes := by
    rw [hme']
    show s.me.wait ≠ _
    rw [hw]
    exact nofun
  have hnew : (z.setMine (z.mine.release z.str)).me = { z.me with cls := .noLanes, part := [], vlen := 0 } :=
    (State.strand_setCore_self z z.cur (z.mine.release z.str) z.str).trans (Core.release_strand z.mine z.str hwait)
  rw [State.me_advance, hnew, hme']

end Sys2Proof.Machine
end

section
namespace Sys2Proof.Machine

variable {s t : State} {c : CtxId} {r1 r2 : BitVec 5} {st : Strand}

theorem State.calm_setMe (h : s.calm = true) (hwait : st.wait = s.me.wait) (hqueue : st.queue = s.me.queue)
    (hrel : st.relaxed = s.me.relaxed) (hfault : st.relaxedFault = s.me.relaxedFault) : (s.setMe st).calm = true := by
  have hcopies : ((s.setMe st).core s.cur).copies = (s.core s.cur).copies := by simp [State.setMe]
  have hdirty : (s.setMe st).windowDirty s.cur = s.windowDirty s.cur := by
    rw [State.windowDirty, hcopies, State.windowDirty]
    rfl
  have hfaultC : (s.setMe st).mine.copyFault = s.mine.copyFault := by simp [State.setMe, State.mine]
  have hmine : (s.setMe st).mine.copies = s.mine.copies := hcopies
  rw [State.calm] at h ⊢
  rw [State.me_setMe, hwait, hqueue, hrel, hfault, hmine, hfaultC]
  exact (congrArg (fun b => (s.me.wait.isNone && s.me.queue.isEmpty && s.me.relaxed.isEmpty && !s.extRelaxed s.cur s.str &&
    s.me.relaxedFault.isNone && s.mine.copies.isEmpty && s.snap.isNone && !b && s.mine.copyFault.isNone && s.comb.isEmpty &&
    s.combWait.isEmpty && s.badCopies.isEmpty)) hdirty).trans h

theorem State.endLeft_calm (h : s.calm = true) (hserves : s.mine.serves = some c) :
    s.endLeft s.cur s.str true = s.countDown c := by
  obtain ⟨-, -, hrel, hext, -, hcopies, -, hdirty, -⟩ := State.calm_parts h
  have hready : s.streamRelease s.cur s.str .dev = (true, s) := by
    rw [State.streamRelease, State.drainRelaxed_none _ _ _ hrel, State.releaseCopies_none _ _ hcopies, hext,
      hdirty]
    rfl
  have hserves' : (s.core s.cur).serves = some c := hserves
  simp only [State.endLeft, hserves', hready, if_true]

/-! ### NPUSH and NDONE complete -/

theorem State.completes_npush {m : BitVec 4} {count : Bool} (hcalm : s.calm = true)
    (hbag : s.mine.bag.length < 1024) (hhungry : (s.ctx s.myCtx).hungrySet = [])
    (hexec : exec (.npush r1 r2) s = .next (s.push (s.pairNamed r1 r2 m) false count State.advance)) :
    completes (.npush r1 r2) s fun t => t.mine.bag = s.mine.bag ++ [s.pairNamed r1 r2 m] ∧
      (t.ctx s.myCtx).count = (s.ctx s.myCtx).count + (if count then 1 else 0) ∧
      (t.ctx s.myCtx).gen = (s.ctx s.myCtx).gen + 1 ∧ t.me = { s.me with pc := s.me.pc + 4 } ∧ t.mem = s.mem := by
  obtain ⟨hwait, -, -, -, -, hcopies, -⟩ := State.calm_parts hcalm
  obtain ⟨h1, h2, h3, h4⟩ := State.pushed_advance (s.pairNamed r1 r2 m) count hwait
  refine completes_of_next_eq hexec (State.push_room State.advance hcopies hbag hhungry) ⟨h1, ?_, ?_, h3, h4⟩
  · rw [h2]
    cases count
    · exact (BitVec.add_zero _).symm
    · rfl
  · rw [h2]
    rfl

theorem State.completes_npush_left (hlow : (s.reg r1).toNat / 4 % 8 = 0) (hmode : (s.reg r1).toNat % 4 = 2)
    (hcount : (s.ctx s.myCtx).count - 1 ≠ 0) : completes (.npush r1 r2) s fun t =>
      t = (s.setCtx s.myCtx { s.ctx s.myCtx with count := (s.ctx s.myCtx).count - 1 }).setMe
        { s.me with pc := s.me.pc + 4 } := by
  refine completes_of_next_eq (exec_npush_lowers hlow hmode) (congrArg State.advance (State.countDown_left hcount)) rfl

theorem State.completes_npush_last (hcalm : s.calm = true) (hlow : (s.reg r1).toNat / 4 % 8 = 0)
    (hmode : (s.reg r1).toNat % 4 = 2) (hcount : (s.ctx s.myCtx).count = 1)
    (hrun : (s.ctx s.myCtx).replay.running = 0) (hnote : (s.ctx s.myCtx).notifyEn = false) :
    completes (.npush r1 r2) s fun t => t.me = { s.me with pc := s.me.pc + 4 } ∧ (t.ctx s.myCtx).count = 0 ∧
      (t.ctx s.myCtx).epoch = (s.ctx s.myCtx).epoch + 1 ∧ t.mem = s.mem ∧
      ∀ (p : CoreId) (u : StrandId), (p, u) ≠ (s.cur, s.str) → t.strand p u = (s.quieted s.myCtx).strand p u := by
  obtain ⟨hwait, -⟩ := State.calm_parts hcalm
  have hctx := State.ctx_quieted s s.myCtx
  refine completes_of_next_eq (exec_npush_lowers hlow hmode)
    (congrArg State.advance (State.countDown_last hcount hrun hnote))
    ⟨by rw [State.me_advance, State.me_quieted hwait], congrArg Ctx.count hctx, congrArg Ctx.epoch hctx, rfl,
      fun p u hp => State.sameOthers_setMe _ _ p u hp⟩

theorem exec_ndone : exec .ndone s = .next s.ndone := rfl

/-- The loss of a core's lanes leaves contexts and memory alone. -/
theorem State.completes_ndone_of {z : State} (hcalm : s.calm = true) (hreplay : s.me.replay = [])
    (hend : s.fired.endLeft s.cur s.str s.me.firing.isSome = z) (hreqs : z.mine.laneReqs = []) (hme : z.me = s.fired.me) :
    completes .ndone s fun t => t.me = { s.me with
      firing := none, resumed := false, rulePair := none, cls := .noLanes, part := [], vlen := 0, pc := s.me.pc + 4 } ∧
        (∀ d, t.ctx d = z.ctx d) ∧ t.mem = z.mem := by
  obtain ⟨hwait, hqueue, -⟩ := State.calm_parts hcalm
  exact completes_of_next_eq exec_ndone (State.ndone_eq hreplay hqueue hend hreqs)
    ⟨State.me_ndone hme hwait, fun _ => rfl, rfl⟩

theorem State.mine_fired (s : State) : s.fired.mine.laneReqs = s.mine.laneReqs ∧ s.fired.mine.serves = s.mine.serves := by
  simp [State.fired, State.setMe, State.mine]

theorem State.completes_ndone_fired {x : Pair} (hcalm : s.calm = true) (hfiring : s.me.firing = some x)
    (hserves : s.mine.serves = some s.myCtx) (hreplay : s.me.replay = []) (hreqs : s.mine.laneReqs = [])
    (hrun : (s.ctx s.myCtx).replay.running = 0) (hnote : (s.ctx s.myCtx).notifyEn = false) :
    completes .ndone s fun t => t.me = { s.me with
        firing := none, resumed := false, rulePair := none, cls := .noLanes, part := [], vlen := 0, pc := s.me.pc + 4 } ∧
      (t.ctx s.myCtx).count = (s.ctx s.myCtx).count - 1 ∧ t.mem = s.mem ∧
      (t.ctx s.myCtx).epoch = (s.ctx s.myCtx).epoch + (if (s.ctx s.myCtx).count = 1 then 1 else 0) := by
  obtain ⟨hwait, -⟩ := State.calm_parts hcalm
  have hcalm' : s.fired.calm = true := State.calm_setMe hcalm rfl rfl rfl rfl
  obtain ⟨hreqs', hserves'⟩ := s.mine_fired
  have hend : s.fired.endLeft s.cur s.str s.me.firing.isSome = s.fired.countDown s.myCtx := by
    rw [hfiring]
    exact State.endLeft_calm hcalm' (hserves'.trans hserves)
  have hctx : s.fired.ctx s.myCtx = s.ctx s.myCtx := rfl
  by_cases hcount : (s.ctx s.myCtx).count = 1
  · have hlast := State.countDown_last (s := s.fired) (c := s.myCtx) hcount hrun hnote
    have hquiet : (s.fired.quieted s.myCtx).mine.laneReqs = s.fired.mine.laneReqs :=
      State.ofCore_onServing (f := Core.fallThrough) Core.laneReqs (fun _ => rfl) s.cur
    obtain ⟨t, hx, h1, h2, h3⟩ := State.completes_ndone_of hcalm hreplay (hend.trans hlast)
      (hquiet.trans (hreqs'.trans hreqs)) (State.me_quieted (by rw [State.fired, State.me_setMe]; exact hwait))
    refine ⟨t, hx, h1, ?_, h3, ?_⟩
    · rw [h2, State.ctx_quieted, hcount]
      rfl
    · rw [h2, State.ctx_quieted, hctx, if_pos hcount]
  · have hcount' : (s.ctx s.myCtx).count - 1 ≠ 0 := fun e => hcount (BitVec.sub_eq_iff_eq_add.mp e |>.trans (BitVec.zero_add _))
    have hleft := State.countDown_left (s := s.fired) (c := s.myCtx) hcount'
    obtain ⟨t, hx, h1, h2, h3⟩ := State.completes_ndone_of hcalm hreplay (hend.trans hleft) (hreqs'.trans hreqs) rfl
    refine ⟨t, hx, h1, ?_, h3, ?_⟩
    · rw [h2, State.ctx_setCtx, hctx]
    · rw [h2, State.ctx_setCtx, hctx, if_neg hcount]
      exact (BitVec.add_zero _).symm

theorem State.completes_ndone_idle (hcalm : s.calm = true) (hfiring : s.me.firing = none) (hreplay : s.me.replay = [])
    (hreqs : s.mine.laneReqs = []) : completes .ndone s fun t => t.me = { s.me with
        resumed := false, rulePair := none, cls := .noLanes, part := [], vlen := 0, pc := s.me.pc + 4 } ∧
      t.ctx s.myCtx = s.ctx s.myCtx ∧ t.mem = s.mem := by
  have hend : s.fired.endLeft s.cur s.str s.me.firing.isSome = s.fired := by
    rw [hfiring]
    rfl
  obtain ⟨t, hx, h1, h2, h3⟩ := State.completes_ndone_of hcalm hreplay hend (s.mine_fired.1.trans hreqs) rfl
  exact ⟨t, hx, h1.trans (by rw [← hfiring]), h2 _, h3⟩

end Sys2Proof.Machine
end

section
namespace Sys2Proof.Machine

variable {s t u : State} {p : CoreId} {c : CtxId} {x : Pair}

/-! ### NEXT that falls through or waits (R29, R33, R41, R95) -/

theorem exec_next : exec .next s = .next s.nextRuns := rfl

theorem State.markNext_eq (s : State) (n : Nat) :
    s.markNext n = s.setMe { s.me with nstep := BitVec.ofNat 3 n, nextAt := s.me.pc } := rfl

theorem State.nextObtains_falls (hc : s.mine.copies = []) (h : (s.ctx s.myCtx).count = 0) :
    s.nextObtains = s.setMe { s.me with nstep := BitVec.ofNat 3 2, nextAt := s.me.pc }.fallThrough := by
  have hctx : (s.markNext 2).myCtx = s.myCtx := by simp [State.markNext_eq, State.setMe, State.myCtx, State.mine]
  have hcount : ((s.markNext 2).ctx (s.markNext 2).myCtx).count = 0 := by
    rw [hctx]
    exact h
  rw [State.nextObtains]
  dsimp only
  rw [if_pos hcount, State.nextFalls, State.acquireAt_none _ (by simp [State.markNext_eq, State.setMe, State.mine]; exact hc),
    State.markNext_eq, State.me_setMe, State.setMe_setMe]

/-- Sweeps, messages and hungry sets move; strands, counts, epochs and memory do not. -/
structure State.sweeps (s t : State) : Prop where
  cur : t.cur = s.cur
  str : t.str = s.str
  mem : t.mem = s.mem
  strand : ∀ p u, t.strand p u = s.strand p u
  count : ∀ c, (t.ctx c).count = (s.ctx c).count
  epoch : ∀ c, (t.ctx c).epoch = (s.ctx c).epoch

theorem State.sweeps.refl (s : State) : s.sweeps s := ⟨rfl, rfl, rfl, fun _ _ => rfl, fun _ => rfl, fun _ => rfl⟩

theorem State.sweeps.trans (h : s.sweeps t) (k : t.sweeps u) : s.sweeps u :=
  ⟨k.cur.trans h.cur, k.str.trans h.str, k.mem.trans h.mem, fun p v => (k.strand p v).trans (h.strand p v),
    fun c => (k.count c).trans (h.count c), fun c => (k.epoch c).trans (h.epoch c)⟩

theorem State.sweeps.setCore {k : Core} (h : k.strands = (s.core p).strands) : s.sweeps (s.setCore p k) :=
  ⟨rfl, rfl, rfl, State.strand_setCore_same h, fun _ => rfl, fun _ => rfl⟩

/-- What a new record of a context keeps of the old one is the same in every context. -/
theorem State.ofCtx_setCtx {β : Type} (f : Ctx → β) {k : Ctx} (h : f k = f (s.ctx c)) (d : CtxId) :
    f ((s.setCtx c k).ctx d) = f (s.ctx d) := by
  by_cases e : c = d
  · rw [← e, State.ctx_setCtx, h]
  · rw [State.ctx_setCtx_ne _ _ _ _ e]

theorem State.sweeps.setCtx {k : Ctx} (hc : k.count = (s.ctx c).count) (he : k.epoch = (s.ctx c).epoch) :
    s.sweeps (s.setCtx c k) :=
  ⟨rfl, rfl, rfl, fun _ _ => rfl, State.ofCtx_setCtx Ctx.count hc, State.ofCtx_setCtx Ctx.epoch he⟩

theorem State.sweeps_sendTo (s : State) (c : CtxId) (l : Nat) (m : CoreId → Msg) (h : HeldMsg) :
    s.sweeps (s.sendTo c l m h) := by
  unfold State.sendTo
  dsimp only
  split
  · exact ⟨rfl, rfl, rfl, fun _ _ => rfl, fun _ => rfl, fun _ => rfl⟩
  · exact .setCtx rfl rfl

theorem State.sweeps_askVictim (s : State) (p : CoreId) (c : CtxId) (gen : Nat) (vs : List Nat) :
    s.sweeps (s.askVictim p c gen vs) := by
  unfold State.askVictim
  dsimp only
  split
  · exact (State.sweeps.setCore (by rfl)).trans (State.sweeps_sendTo ..)
  · exact (State.sweeps.setCore (by rfl)).trans (.setCtx (by rfl) (by rfl))

theorem State.sweeps_sweepOn (s : State) (p : CoreId) (c : CtxId) : s.sweeps (s.sweepOn p c) := by
  unfold State.sweepOn
  split
  · exact .refl s
  · dsimp only
    split
    · exact (State.sweeps.setCore (by rfl)).trans (State.sweeps_askVictim ..)
    · exact State.sweeps_askVictim ..

theorem State.sweeps_hunt (s : State) : (s.park .pair).sweeps s.hunt := by
  unfold State.hunt
  dsimp only
  split
  · exact .refl _
  · exact (State.sweeps.setCore (by rfl)).trans (State.sweeps_sweepOn ..)

theorem State.nextRecord_none (h : (s.ctx c).replay.running = 0) (p : CoreId) : s.nextRecord p c = none := by
  rw [State.nextRecord, State.nextRecordAt]
  dsimp only
  rw [h]
  rfl

theorem State.myCtx_markNext (s : State) (n : Nat) : (s.markNext n).myCtx = s.myCtx := by
  simp [State.markNext_eq, State.setMe, State.myCtx, State.mine]

/-- A saddlebag with a pair, or with no batch to refill it, stays. -/
theorem State.refill_kept (h : (s.core p).bag ≠ [] ∨ (s.ctx c).spills (s.core p).lcore.toNat = 0) : s.refill p c = s := by
  rw [State.refill]
  exact if_pos h

theorem State.markNext_refill (n : Nat) (h : s.mine.bag ≠ [] ∨ (s.ctx s.myCtx).spills s.mine.lcore.toNat = 0) :
    (s.markNext n).refill (s.markNext n).cur s.myCtx = s.markNext n := by
  have hbag : ((s.markNext n).core (s.markNext n).cur).bag = s.mine.bag := by simp [State.markNext_eq, State.setMe, State.mine]
  have hlcore : ((s.markNext n).core (s.markNext n).cur).lcore = s.mine.lcore := by
    simp [State.markNext_eq, State.setMe, State.mine]
  exact State.refill_kept (by rw [hbag, hlcore]; exact h)

/-- Step 2 of R29 with a count and no replay. -/
theorem State.nextObtains_plain (h : (s.ctx s.myCtx).count ≠ 0) (hrun : (s.ctx s.myCtx).replay.running = 0)
    (hbag : s.mine.bag ≠ [] ∨ (s.ctx s.myCtx).spills s.mine.lcore.toNat = 0) :
    s.nextObtains = s.mine.bag.getLast?.elim (s.markNext 2).hunt
      fun x => ((s.markNext 2).obtained x s.mine.bag.dropLast).nextFires := by
  have hcount : ((s.markNext 2).ctx s.myCtx).count ≠ 0 := h
  have hnone : (s.markNext 2).nextRecord (s.markNext 2).cur s.myCtx = none :=
    State.nextRecord_none (s := s.markNext 2) hrun _
  have hbag' : (s.markNext 2).mine.bag = s.mine.bag := by simp [State.markNext_eq, State.setMe, State.mine]
  rw [State.nextObtains]
  dsimp only
  rw [State.myCtx_markNext, if_neg hcount, hnone]
  dsimp only
  rw [State.markNext_refill 2 hbag, hbag']
  cases s.mine.bag.getLast? with
  | none => rfl
  | some x => rfl

theorem State.nextObtains_hunts (h : (s.ctx s.myCtx).count ≠ 0) (hrun : (s.ctx s.myCtx).replay.running = 0)
    (hbag : s.mine.bag = []) (hspills : (s.ctx s.myCtx).spills s.mine.lcore.toNat = 0) :
    s.nextObtains = (s.markNext 2).hunt := by
  rw [State.nextObtains_plain h hrun (.inr hspills), hbag]
  rfl

theorem State.nextObtains_takes {bag : List Pair} (h : (s.ctx s.myCtx).count ≠ 0)
    (hrun : (s.ctx s.myCtx).replay.running = 0) (hbag : s.mine.bag = bag ++ [x]) :
    s.nextObtains = ((s.markNext 2).obtained x bag).nextFires := by
  rw [State.nextObtains_plain h hrun (.inl (by simp [hbag])), hbag, List.getLast?_concat, List.dropLast_concat,
    Option.elim_some]

/-- NEXT waits for a pair. -/
theorem State.nextObtains_waits (h : (s.ctx s.myCtx).count ≠ 0) (hrun : (s.ctx s.myCtx).replay.running = 0)
    (hbag : s.mine.bag = []) (hspills : (s.ctx s.myCtx).spills s.mine.lcore.toNat = 0) :
    s.nextObtains.me = { s.me with wait := some .pair, nstep := 2, nextAt := s.me.pc } ∧ s.sameOthers s.nextObtains ∧
      s.nextObtains.mem = s.mem ∧ (∀ c, (s.nextObtains.ctx c).count = (s.ctx c).count) ∧
      ∀ c, (s.nextObtains.ctx c).epoch = (s.ctx c).epoch := by
  rw [State.nextObtains_hunts h hrun hbag hspills]
  have hs := State.sweeps_hunt (s.markNext 2)
  have hpark : (s.markNext 2).park .pair = s.setMe { s.me with wait := some .pair, nstep := 2, nextAt := s.me.pc } := by
    rw [State.park, State.markNext_eq, State.setMe_setMe, State.me_setMe]
    rfl
  rw [hpark] at hs
  refine ⟨?_, fun p u hp => (hs.strand p u).trans (State.sameOthers_setMe _ _ p u hp), hs.mem, hs.count, hs.epoch⟩
  rw [State.me, hs.cur, hs.str, hs.strand]
  exact State.me_setMe ..

/-- NEXT has ended the firing of a calm strand. -/
def State.ended (s : State) : State :=
  s.setMe { s.me with firing := none, resumed := false, rulePair := none, nstep := BitVec.ofNat 3 1, nextAt := s.me.pc }

theorem State.nextRuns_ends (hcalm : s.calm = true) (hfiring : s.me.firing = some x)
    (hat : ¬(s.me.nextAt = s.me.pc ∧ 3 ≤ s.me.nstep.toNat)) :
    s.nextRuns = (s.ended.countDown s.myCtx).nextObtains := by
  have hcalm1 : (s.markNext 1).calm = true := State.calm_setMe hcalm rfl rfl rfl rfl
  obtain ⟨-, hqueue, hrel, -, -, hcopies, -⟩ := State.calm_parts hcalm1
  have hctx : (s.markNext 1).myCtx = s.myCtx := by simp [State.markNext_eq, State.setMe, State.myCtx, State.mine]
  have hfiring1 : (s.markNext 1).me.firing = some x := by
    rw [State.markNext_eq, State.me_setMe]
    exact hfiring
  have hend : (s.markNext 1).endFiring = s.ended.countDown s.myCtx := by
    rw [State.endFiring, hfiring1]
    dsimp only
    rw [State.release, State.drainRelaxed_none _ _ _ hrel, State.releaseCopies_none _ _ hcopies, hctx, State.markNext_eq,
      State.me_setMe, State.setMe_setMe, State.ended]
  rw [State.nextRuns, hfiring, Option.isSome_some, if_pos rfl, if_neg hat, State.afterEnding, State.drained,
    if_pos hqueue, State.afterRelease_calm _ _ hcalm1, hend]

theorem State.nextRuns_obtains (hfiring : s.me.firing = none) : s.nextRuns = s.nextObtains := by
  rw [State.nextRuns, hfiring]
  rfl

end Sys2Proof.Machine
end

section
namespace Sys2Proof.Machine

variable {s t : State} {x : Pair}

/-- The registers of a strand after a fall-through with Q set (R33). -/
def State.fellFrom (s : State) (q : BitVec 5) : Word :=
  if q = 26 ∨ q = 27 ∨ q = 28 then 0 else if q = 29 then BitVec.ofNat 64 (2 ^ 63) else s.reg q

/-- A strand that has fallen through with Q set: its registers, and its pc past NEXT. -/
theorem Strand.fallThrough_values {st : Strand} (hx : st.x = s.me.x) (hpc : st.pc = s.me.pc) :
    st.fallThrough.pc = s.me.pc + 4 ∧ ∀ q, st.fallThrough.valueOf q = s.fellFrom q := by
  refine ⟨by simp [Strand.fallThrough, hpc], fun q => ?_⟩
  rw [Strand.valueOf_fallThrough, State.fellFrom, State.reg_eq, Strand.valueOf, Strand.valueOf, hx]

theorem State.completes_next_falls (hcalm : s.calm = true) (hfiring : s.me.firing = none)
    (hcount : (s.ctx s.myCtx).count = 0) : completes .next s fun t => s.wentOn t ∧ s.sameOthers t ∧ s.sameSpecial t ∧
      s.sameBytes t ∧ t.me.firing = none ∧ ∀ q, t.reg q = s.fellFrom q := by
  obtain ⟨-, -, -, -, -, hcopies, -⟩ := State.calm_parts hcalm
  have hx := State.nextObtains_falls hcopies hcount
  obtain ⟨hpc, hregs⟩ := Strand.fallThrough_values (s := s) (st := { s.me with nstep := BitVec.ofNat 3 2, nextAt := s.me.pc })
    rfl rfl
  refine completes_of_next_eq exec_next ((State.nextRuns_obtains hfiring).trans hx) ⟨?_, State.sameOthers_setMe s _,
    State.sameSpecial_setMe s _, fun a => State.peekHome_setMe .., ?_, fun q => ?_⟩
  · rw [State.wentOn, State.me_setMe, hpc]
  · rw [State.me_setMe]
    simp only [Strand.fallThrough, Strand.withX_firing]
    exact hfiring
  · rw [State.reg_eq, State.me_setMe, hregs]

theorem State.completes_next_waits (hfiring : s.me.firing = none)
    (hcount : (s.ctx s.myCtx).count ≠ 0) (hrun : (s.ctx s.myCtx).replay.running = 0)
    (hbag : s.mine.bag = []) (hspills : (s.ctx s.myCtx).spills s.mine.lcore.toNat = 0) :
    completes .next s fun t => t.me = { s.me with wait := some .pair, nstep := 2, nextAt := s.me.pc } ∧
      t.mem = s.mem ∧ s.sameOthers t := by
  obtain ⟨hme, hothers, hmem, -⟩ := State.nextObtains_waits hcount hrun hbag hspills
  exact completes_of_next_eq exec_next (State.nextRuns_obtains hfiring) ⟨hme, hmem, hothers⟩

theorem State.mine_ended (s : State) : s.ended.mine.bag = s.mine.bag ∧ s.ended.mine.lcore = s.mine.lcore ∧
    s.ended.mine.copies = s.mine.copies ∧ s.ended.myCtx = s.myCtx := by
  simp [State.ended, State.setMe, State.mine, State.myCtx]

theorem State.me_ended (s : State) : s.ended.me = { s.me with
    firing := none, resumed := false, rulePair := none, nstep := BitVec.ofNat 3 1, nextAt := s.me.pc } := State.me_setMe ..

/-- A core where strands fall through keeps no copies if it had none, and serves what it served. -/
theorem State.mine_quieted {c : CtxId} (hcopies : s.mine.copies = []) :
    (s.quieted c).mine.copies = [] ∧ (s.quieted c).myCtx = s.myCtx := by
  have hserves : (s.quieted c).mine.serves = s.mine.serves :=
    State.ofCore_onServing (f := Core.fallThrough) Core.serves (fun _ => rfl) s.cur
  refine ⟨?_, by rw [State.myCtx, hserves, State.myCtx]⟩
  refine (congrArg Core.copies (s.core_quieted c s.cur)).trans ?_
  split
  · have hnone : (s.core s.cur).copies = [] := hcopies
    simp [Core.fallThrough, hnone]
  · exact hcopies

theorem State.completes_next_last (hcalm : s.calm = true) (hfiring : s.me.firing = some x)
    (hat : ¬(s.me.nextAt = s.me.pc ∧ 3 ≤ s.me.nstep.toNat)) (hcount : (s.ctx s.myCtx).count = 1)
    (hrun : (s.ctx s.myCtx).replay.running = 0) (hnote : (s.ctx s.myCtx).notifyEn = false) :
    completes .next s fun t => s.wentOn t ∧ t.me.firing = none ∧ (t.ctx s.myCtx).count = 0 ∧
      (t.ctx s.myCtx).epoch = (s.ctx s.myCtx).epoch + 1 ∧ t.mem = s.mem ∧ ∀ q, t.reg q = s.fellFrom q := by
  obtain ⟨hwait, -, -, -, -, hcopies, -⟩ := State.calm_parts hcalm
  obtain ⟨-, -, hcopies', hctx'⟩ := s.mine_ended
  have hlast := State.countDown_last (s := s.ended) (c := s.myCtx) hcount hrun hnote
  obtain ⟨hcopiesq, hctxq⟩ := State.mine_quieted (s := s.ended) (c := s.myCtx) (hcopies'.trans hcopies)
  have hmeq : (s.ended.quieted s.myCtx).me = s.ended.me := State.me_quieted (by rw [State.me_ended]; exact hwait)
  have hctx := State.ctx_quieted s.ended s.myCtx
  have hx := State.nextObtains_falls (s := s.ended.quieted s.myCtx) hcopiesq
    (by rw [hctxq, hctx', hctx])
  rw [hmeq] at hx
  obtain ⟨hpc, hregs⟩ := Strand.fallThrough_values (s := s)
    (st := { s.ended.me with nstep := BitVec.ofNat 3 2, nextAt := s.ended.me.pc })
    (by rw [s.me_ended]) (by rw [s.me_ended])
  have heq := (State.nextRuns_ends hcalm hfiring hat).trans ((congrArg State.nextObtains hlast).trans hx)
  refine completes_of_next_eq exec_next heq ⟨?_, ?_, congrArg Ctx.count hctx, congrArg Ctx.epoch hctx, rfl, fun q => ?_⟩
  · rw [State.wentOn, State.me_setMe, hpc]
  · rw [State.me_setMe]
    simp only [Strand.fallThrough, Strand.withX_firing]
    rw [s.me_ended]
  · rw [State.reg_eq, State.me_setMe, hregs]

theorem State.completes_next_ends (hcalm : s.calm = true) (hfiring : s.me.firing = some x)
    (hat : ¬(s.me.nextAt = s.me.pc ∧ 3 ≤ s.me.nstep.toNat)) (hcount : (s.ctx s.myCtx).count - 1 ≠ 0)
    (hrun : (s.ctx s.myCtx).replay.running = 0) (hbag : s.mine.bag = [])
    (hspills : (s.ctx s.myCtx).spills s.mine.lcore.toNat = 0) : completes .next s fun t => t.me = { s.me with
        firing := none, resumed := false, rulePair := none, wait := some .pair, nstep := 2, nextAt := s.me.pc } ∧
      (t.ctx s.myCtx).count = (s.ctx s.myCtx).count - 1 ∧ (t.ctx s.myCtx).epoch = (s.ctx s.myCtx).epoch ∧
      t.mem = s.mem ∧ s.sameOthers t := by
  obtain ⟨hbag', hlcore', -, hctx'⟩ := s.mine_ended
  have hleft := State.countDown_left (s := s.ended) (c := s.myCtx) hcount
  set z := s.ended.setCtx s.myCtx { s.ended.ctx s.myCtx with count := (s.ended.ctx s.myCtx).count - 1 } with hz
  have hctxz : z.ctx s.myCtx = { s.ctx s.myCtx with count := (s.ctx s.myCtx).count - 1 } := State.ctx_setCtx ..
  have hmyz : z.myCtx = s.myCtx := hctx'
  have hmez : z.me = s.ended.me := rfl
  have hbagz : z.mine.bag = [] := hbag'.trans hbag
  have hlcorez : z.mine.lcore = s.mine.lcore := hlcore'
  obtain ⟨hme, hothers, hmem, hcounts, hepochs⟩ := State.nextObtains_waits (s := z) (by rw [hmyz, hctxz]; exact hcount)
    (by rw [hmyz, hctxz]; exact hrun) hbagz (by rw [hmyz, hctxz, hlcorez]; exact hspills)
  refine completes_of_next_eq exec_next ((State.nextRuns_ends hcalm hfiring hat).trans (congrArg State.nextObtains hleft))
    ⟨?_, ?_, ?_, hmem, fun p u hp => ?_⟩
  · rw [hme, hmez, State.me_ended]
  · rw [hcounts, hctxz]
  · rw [hepochs, hctxz]
  · exact (hothers p u hp).trans (State.sameOthers_setMe s _ p u hp)

end Sys2Proof.Machine
end

section
namespace Sys2Proof.Machine

variable {s t z : State} {x : Pair} {bag : List Pair} {st : Strand} {u v pl : Place} {a : Nat} {w h : Word}

/-! ### NEXT that obtains a pair (R29, R26) -/

/-- The acting core with another saddlebag, and the acting strand with another state. -/
def State.rebag (s : State) (bag : List Pair) (st : Strand) : State := (s.setMine { s.mine with bag := bag }).setMe st

/-- A strand that has obtained a pair. -/
def Strand.obtains (st : Strand) (x : Pair) : Strand :=
  { st with firing := some x, resumed := false, rulePair := none, nstep := BitVec.ofNat 3 3, nextAt := st.pc }

theorem State.strand_setBag (s : State) (bag : List Pair) (p : CoreId) (r : StrandId) :
    (s.setMine { s.mine with bag := bag }).strand p r = s.strand p r :=
  State.strand_setCore_same (k := { s.mine with bag := bag }) rfl p r

theorem State.logRecord_none {p : CoreId} {c : CtxId} {ws : List (Word × Word)} (hrun : (s.ctx c).replay.running = 0) :
    s.logRecord p c ws = s := by
  rw [State.logRecord, State.logRecordAt]
  exact if_pos (by rw [hrun]; exact nofun)

/-- Without capture or replay, a strand that obtains a pair acquires with it. -/
theorem State.obtained_acquires (hrun : (s.ctx s.myCtx).replay.running = 0) :
    (s.markNext 2).obtained x bag = (s.rebag bag (s.me.obtains x)).acquireAt .dev := by
  have hme : ((s.markNext 2).setMine { (s.markNext 2).mine with bag := bag }).me =
      { s.me with nstep := BitVec.ofNat 3 2, nextAt := s.me.pc } :=
    ((s.markNext 2).strand_setBag bag _ _).trans (State.me_setMe ..)
  have hmove : ((s.markNext 2).setMine { (s.markNext 2).mine with bag := bag }) =
      s.rebag bag { s.me with nstep := BitVec.ofNat 3 2, nextAt := s.me.pc } := by
    simp [State.rebag, State.markNext_eq, State.setMe, State.setStrand, State.setMine, State.mine]
  have hstate : ((((s.markNext 2).setMine { (s.markNext 2).mine with bag := bag }).setMe
      { ((s.markNext 2).setMine { (s.markNext 2).mine with bag := bag }).me with
        firing := some x, resumed := false, rulePair := none }).markNext 3) = s.rebag bag (s.me.obtains x) := by
    rw [State.markNext_eq, State.me_setMe, State.setMe_setMe, hme, hmove, State.rebag, State.setMe_setMe]
    rfl
  have hctx : (s.rebag bag (s.me.obtains x)).myCtx = s.myCtx := by
    simp [State.rebag, State.setMe, State.setMine, State.mine, State.myCtx]
  rw [State.obtained]
  dsimp only
  rw [hstate, hctx]
  exact State.logRecord_none hrun

theorem State.obtained_eq (hcopies : s.mine.copies = []) (hrun : (s.ctx s.myCtx).replay.running = 0) :
    (s.markNext 2).obtained x bag = s.rebag bag (s.me.obtains x) := by
  have hcopies' : (s.rebag bag (s.me.obtains x)).mine.copies = [] := by
    simp [State.rebag, State.setMe, State.setMine, State.mine]
    exact hcopies
  rw [State.obtained_acquires hrun, State.acquireAt_none _ hcopies']

theorem State.recalled_homeWord (hr : s.recalled t) (pa : Nat) : t.homeWord pa = s.homeWord pa := by
  obtain ⟨f, rfl⟩ := hr
  rw [State.homeWord, (State.copiesMove.mapCopies s _).peekHome (s.mem_mapCopies _) pa 8, State.homeWord]

/-- A word that is full and without an error is read, once other cores' copies of it are recalled. -/
theorem State.peekWord_full {k : Word → State → State} (hr : s.resting) (hrel : s.me.relaxed = [])
    (hn : s.nodeWord a .peek = (.ok pl, s)) (hd : onDevice pl.pa = true) (hfull : s.isFull pl.pa = true)
    (hbad : s.isBad pl.pa 8 = false) : ∃ t, s.recalled t ∧ s.peekWord a k = k (s.homeWord pl.pa) t := by
  have hrec := State.prepareHome_recalled hr pl.pa pl.grain
  have hk := State.recalled_worksOn hrec
  refine ⟨_, hrec, ?_⟩
  have hfull' := (hk.full pl.pa hd List.not_mem_nil).trans hfull
  have hacq := State.acquireAt_none .dev (hk.resting hr).copies
  rw [State.peekWord, hn]
  dsimp only
  rw [State.performSame_none _ _ _ _ _ hrel, hfull', hk.isBad hr hbad, hacq, State.recalled_homeWord hrec]
  rfl

/-- A rule that core p's cache answers with. -/
theorem State.lookupRule_cached {p : CoreId} {c : CtxId} {t1 t2 : Nat} (hs : s.lookupRule p c t1 t2 = (some (w, h), s))
    (ht : (t.core p).rules = (s.core p).rules) : t.lookupRule p c t1 t2 = (some (w, h), t) := by
  unfold State.lookupRule at hs ⊢
  dsimp only at hs ⊢
  rw [ht]
  split at hs
  · next r hr =>
    simp only [Prod.mk.injEq] at hs
    rw [hs.1]
  · exfalso
    simp only [Prod.mk.injEq] at hs
    obtain ⟨he, hstate⟩ := hs
    rw [he] at hstate
    have hrules := congrArg (fun y : State => (y.core p).rules.length) hstate
    simp at hrules

theorem lowestMissing_none {need have' : BitVec 128} (hmask : need &&& ~~~have' = 0) : lowestMissing need have' = none := by
  rw [lowestMissing, List.find?_eq_none]
  intro i hi
  have hi := List.mem_range.mp hi
  have hbit := congrArg (fun y : BitVec 128 => y.getLsbD i) hmask
  simp only [BitVec.getLsbD_and, BitVec.getLsbD_not, hi, decide_true, Bool.true_and] at hbit
  simp [hbit]

theorem origin_swapped (sw : Bool) (o : BitVec 4) :
    flagAt sw 4 ||| word o.toNat = BitVec.ofNat 64 ((if sw = true then 16 else 0) + o.toNat) := by
  revert sw o
  decide

end Sys2Proof.Machine
end

section
namespace Sys2Proof.Machine

variable {s t z : State} {x : Pair} {bag : List Pair} {st : Strand} {u v pl : Place} {a : Nat} {w h : Word}

/-- The strand once step 5 of R29 has found its rule: x26, and what steps 7 and 8 need. -/
def Strand.ruled (st : Strand) (x : Pair) (swapped : Bool) (w h : Word) : Strand :=
  { st.withX 26 (word (if swapped then x.node2.toNat else x.node1.toNat)) with
    rulePair := some (word (if swapped then x.node2.toNat else x.node1.toNat),
      word (if swapped then x.node1.toNat else x.node2.toNat), w, addr50 (h.extractLsb' 2 50))
    nstep := BitVec.ofNat 3 7
    nextAt := (st.withX 26 (word (if swapped then x.node2.toNat else x.node1.toNat))).pc }

/-- The strand that enters the handler of a rule, with x27 to x29 as R29 gives them. -/
def Strand.enters (st : Strand) (x : Pair) (second w haddr : Word) (swapped : Bool) : Strand :=
  { ((st.withX 27 second).withX 28 w).withX 29 (flagAt swapped 4 ||| word x.origin.toNat) with
    pc := haddr, nstep := 0, rulePair := none }

theorem Strand.valueOf_ruled (st : Strand) (x : Pair) (swapped : Bool) (w h : Word) (q : BitVec 5) :
    (st.ruled x swapped w h).valueOf q =
      if q = 26 then word (if swapped then x.node2.toNat else x.node1.toNat) else st.valueOf q :=
  st.valueOf_withX (by decide) _ q

theorem Strand.valueOf_enters (st : Strand) (x : Pair) (second w haddr : Word) (swapped : Bool) (q : BitVec 5) :
    (st.enters x second w haddr swapped).valueOf q = if q = 29 then flagAt swapped 4 ||| word x.origin.toNat
      else if q = 28 then w else if q = 27 then second else st.valueOf q := by
  have hx : (st.enters x second w haddr swapped).valueOf q =
      (((st.withX 27 second).withX 28 w).withX 29 (flagAt swapped 4 ||| word x.origin.toNat)).valueOf q := rfl
  rw [hx, Strand.valueOf_withX _ (by decide), Strand.valueOf_withX _ (by decide), Strand.valueOf_withX _ (by decide)]

/-- The first of the two nodes in the rule's order differs from the pair's first where they are swapped. -/
theorem first_swapped {swapped : Bool} (hne : swapped = true → x.node1 ≠ x.node2) :
    decide ((word (if swapped then x.node2.toNat else x.node1.toNat)).toNat ≠ x.node1.toNat) = swapped := by
  have h1 := x.node1.isLt
  have h2 := x.node2.isLt
  cases swapped
  · simp [word_toNat (show x.node1.toNat < 2 ^ 64 by omega)]
  · have hne' : x.node2.toNat ≠ x.node1.toNat := fun e => hne rfl (BitVec.eq_of_toNat_eq e.symm)
    simp [word_toNat (show x.node2.toNat < 2 ^ 64 by omega), hne']

/-- Steps 7 and 8 of R29, for a strand that holds the lanes. -/
theorem State.enterHandler_eq {first second haddr : Word} (hfiring : s.me.firing = some x)
    (hrule : s.me.rulePair = some (first, second, w, haddr))
    (hcls : s.me.cls = (if field w 39 38 = 1 then .long else .short)) (hleaving : s.me.leaving = false) :
    s.enterHandler = s.setMe (s.me.enters x second w haddr (decide (first.toNat ≠ x.node1.toNat))) := by
  have hlanes : s.me.cls = (if field w 39 38 = 1 then LaneClass.long else .short) ∧ (!s.me.leaving) = true := by
    rw [hleaving]
    exact ⟨hcls, rfl⟩
  simp only [State.enterHandler, hfiring, hrule, State.withLanes]
  rw [if_pos hlanes, Strand.enters]

/-- Steps 7 and 8 of R29 for the two nodes in the rule's order, once step 5 has passed. -/
def State.fireFound (s : State) (first second w haddr : Word) : State :=
  let s1 := s.setReg 26 first
  ((s1.setMe { s1.me with rulePair := some (first, second, w, addr50 (haddr.extractLsb' 2 50)) }).markNext 7).enterHandler

/-- Step 5 of R29 with the rest by its name. -/
theorem State.fireRule_eq (s : State) (x : Pair) (t1 t2 : Nat) (w haddr : Word) (hs : List Nat) :
    s.fireRule x t1 t2 w haddr hs =
      (let objs := hs.map fun h => (h, s.object s.myCtx h)
      match objs.find? fun (o : Nat × ObjEntry) => !o.2.valid with
      | some (h, _) => s.pairIllegal x.node1.toNat x.node2.toNat (word (2 ^ 63 + h))
      | none =>
        let need := objs.foldl (fun (m : BitVec 128) o => m ||| o.2.mask) 0
        match lowestMissing need s.mine.capmask with
        | some i => s.capFail x need i
        | none =>
          let swapped := decide (t1 ≠ t2) && decide (t1 ≠ field w 63 52)
          s.fireFound (word (if swapped then x.node2.toNat else x.node1.toNat))
            (word (if swapped then x.node1.toNat else x.node2.toNat)) w haddr) := rfl

theorem State.fireFound_eq {swapped : Bool} (hfiring : s.me.firing = some x) (hne : swapped = true → x.node1 ≠ x.node2)
    (hcls : s.me.cls = (if field w 39 38 = 1 then .long else .short)) (hleaving : s.me.leaving = false) :
    s.fireFound (word (if swapped then x.node2.toNat else x.node1.toNat))
        (word (if swapped then x.node1.toNat else x.node2.toNat)) w h =
      s.setMe ((s.me.ruled x swapped w h).enters x
        (word (if swapped then x.node1.toNat else x.node2.toNat)) w (addr50 (h.extractLsb' 2 50)) swapped) := by
  have hruled : ((s.setReg 26 (word (if swapped then x.node2.toNat else x.node1.toNat))).setMe
      { (s.setReg 26 (word (if swapped then x.node2.toNat else x.node1.toNat))).me with
        rulePair := some (word (if swapped then x.node2.toNat else x.node1.toNat),
          word (if swapped then x.node1.toNat else x.node2.toNat), w, addr50 (h.extractLsb' 2 50)) }).markNext 7 =
      s.setMe (s.me.ruled x swapped w h) := by
    rw [State.markNext_eq, State.me_setMe, State.setMe_setMe, State.me_setReg, State.setReg, State.setMe_setMe,
      Strand.ruled]
  have hleaving' : (s.me.ruled x swapped w h).leaving = false := by
    rw [← hleaving]
    simp only [Strand.leaving, Strand.ruled, Strand.withX_queue, Strand.withX_replay, Strand.withX_lanesDue]
  have henter := State.enterHandler_eq (s := s.setMe (s.me.ruled x swapped w h)) (x := x)
    (first := word (if swapped then x.node2.toNat else x.node1.toNat)) (w := w)
    (second := word (if swapped then x.node1.toNat else x.node2.toNat)) (haddr := addr50 (h.extractLsb' 2 50))
    (by rw [State.me_setMe, Strand.ruled]; simp only [Strand.withX_firing]; exact hfiring)
    (by rw [State.me_setMe, Strand.ruled])
    (by rw [State.me_setMe, Strand.ruled]; simp only [Strand.withX_cls]; exact hcls)
    (by rw [State.me_setMe]; exact hleaving')
  rw [first_swapped hne, State.me_setMe, State.setMe_setMe] at henter
  exact (congrArg State.enterHandler hruled).trans henter

/-- Step 5 of R29 where every handle names a valid object and no class is missing. The handles stay a variable here: on
handles of its own the kernel would evaluate the directory to compare the two sides. -/
theorem State.fireRule_passes {t1 t2 : Nat} {hs : List Nat}
    (hvalid : (hs.map fun h => (h, s.object s.myCtx h)).find? (fun (o : Nat × ObjEntry) => !o.2.valid) = none)
    (hmiss : lowestMissing ((hs.map fun h => (h, s.object s.myCtx h)).foldl
      (fun (m : BitVec 128) o => m ||| o.2.mask) 0) s.mine.capmask = none) :
    s.fireRule x t1 t2 w h hs =
      let swapped := decide (t1 ≠ t2) && decide (t1 ≠ field w 63 52)
      s.fireFound (word (if swapped then x.node2.toNat else x.node1.toNat))
        (word (if swapped then x.node1.toNat else x.node2.toNat)) w h := by
  rw [State.fireRule_eq]
  simp only [hvalid, hmiss]

/-- Step 5 of R29 for a rule whose handle names a valid object, with a mask that the core meets. -/
theorem State.fireRule_enters {t1 t2 : Nat} {o : ObjEntry} {swapped : Bool} (hfiring : s.me.firing = some x)
    (hobject : s.object s.myCtx (field w 35 24) = o) (hvalid : o.valid = true)
    (hmask : o.mask &&& ~~~s.mine.capmask = 0)
    (hswapped : (decide (t1 ≠ t2) && decide (t1 ≠ field w 63 52)) = swapped)
    (hne : swapped = true → x.node1 ≠ x.node2)
    (hcls : s.me.cls = (if field w 39 38 = 1 then .long else .short)) (hleaving : s.me.leaving = false) :
    s.fireRule x t1 t2 w h [field w 35 24] = s.setMe ((s.me.ruled x swapped w h).enters x
      (word (if swapped then x.node1.toNat else x.node2.toNat)) w (addr50 (h.extractLsb' 2 50)) swapped) := by
  have hmap : [field w 35 24].map (fun h => (h, s.object s.myCtx h)) = [(field w 35 24, o)] := by
    rw [List.map_cons, hobject, List.map_nil]
  have hfind : ([(field w 35 24, o)] : List (Nat × ObjEntry)).find? (fun y => !y.2.valid) = none := by
    simp [hvalid]
  have hmiss : lowestMissing ([(field w 35 24, o)].foldl (fun (m : BitVec 128) y => m ||| y.2.mask) 0) s.mine.capmask =
      none := by
    have hzero : 0 ||| o.mask = o.mask := BitVec.zero_or
    rw [List.foldl_cons, List.foldl_nil, hzero]
    exact lowestMissing_none hmask
  have hpass := State.fireRule_passes (s := s) (x := x) (w := w) (h := h) (t1 := t1) (t2 := t2) (hs := [field w 35 24])
    (by rw [hmap]; exact hfind) (by rw [hmap]; exact hmiss)
  dsimp only at hpass
  rw [hswapped] at hpass
  exact hpass.trans (State.fireFound_eq hfiring hne hcls hleaving)

end Sys2Proof.Machine
end

section
namespace Sys2Proof.Machine

variable {s t z : State} {x : Pair} {bag : List Pair} {st : Strand} {u v : Place} {h1 h2 w h : Word}

/-! ### Steps 3 to 8 of R29 for a pair of two nodes with a rule -/

theorem State.fireFrom4_rule {p : CoreId} {c : CtxId} (hn1 : field h1 63 52 ≠ 0xffe) (hn2 : field h2 63 52 ≠ 0xffe)
    (hb1 : bit h1 51 = false) (hb2 : bit h2 51 = false) (hp : s.cur = p) (hc : s.myCtx = c)
    (hrule : s.lookupRule p c (field h1 63 52) (field h2 63 52) = (some (w, h), s)) :
    s.fireFrom4 x h1 h2 = (s.markNext 5).fireRule x (field h1 63 52) (field h2 63 52) w h [field w 35 24] := by
  subst hp hc
  have hprim (k : List Nat → State → State) (z : State) :
      z.primHandles k [(x.node1.toNat, h1), (x.node2.toNat, h2)] [] = k [] z := by
    rw [State.primHandles, hb1, if_neg Bool.false_ne_true, State.primHandles, hb2, if_neg Bool.false_ne_true,
      State.primHandles]
  unfold State.fireFrom4
  rw [if_neg fun e => hn1 e.1, if_neg fun e => hn2 e.1, hrule]
  exact hprim _ _

/-- The strand that enters the handler of its pair's rule, once it has obtained the pair. -/
def Strand.fires (st : Strand) (x : Pair) (swapped : Bool) (w h : Word) : Strand :=
  ((st.obtains x).ruled x swapped w h).enters x (word (if swapped then x.node1.toNat else x.node2.toNat)) w
    (addr50 (h.extractLsb' 2 50)) swapped

theorem Strand.fires_parts (st : Strand) (x : Pair) (swapped : Bool) (w h : Word) :
    (st.fires x swapped w h).pc = addr50 (h.extractLsb' 2 50) ∧ (st.fires x swapped w h).firing = some x ∧
      (st.fires x swapped w h).resumed = false ∧ (st.fires x swapped w h).nstep = 0 := by
  refine ⟨rfl, ?_, ?_, rfl⟩
  · simp only [Strand.fires, Strand.enters, Strand.ruled, Strand.withX_firing, Strand.obtains]
  · simp only [Strand.fires, Strand.enters, Strand.ruled, Strand.withX_resumed, Strand.obtains]

theorem Strand.valueOf_fires (st : Strand) (x : Pair) (swapped : Bool) (w h : Word) (q : BitVec 5) :
    (st.fires x swapped w h).valueOf q =
      if q = 26 then BitVec.ofNat 64 (if swapped = true then x.node2.toNat else x.node1.toNat)
      else if q = 27 then BitVec.ofNat 64 (if swapped = true then x.node1.toNat else x.node2.toNat)
      else if q = 28 then w
      else if q = 29 then BitVec.ofNat 64 ((if swapped = true then 16 else 0) + x.origin.toNat) else st.valueOf q := by
  have hbase : (st.obtains x).valueOf q = st.valueOf q := rfl
  rw [Strand.fires, Strand.valueOf_enters, Strand.valueOf_ruled, origin_swapped, hbase]
  by_cases h26 : q = 26
  · subst h26; rfl
  · by_cases h27 : q = 27
    · subst h27; rfl
    · by_cases h28 : q = 28
      · subst h28; rfl
      · simp only [h26, h27, h28, if_false]

/-- The two headers of a pair can be read, and name a rule of the acting core's cache. -/
structure State.firable (s : State) (x : Pair) (u v : Place) (w h : Word) : Prop where
  calm : s.calm = true
  resting : s.resting
  place1 : s.nodeWord x.node1.toNat .peek = (.ok u, s)
  place2 : s.nodeWord x.node2.toNat .peek = (.ok v, s)
  device1 : onDevice u.pa = true
  device2 : onDevice v.pa = true
  full1 : s.isFull u.pa = true
  full2 : s.isFull v.pa = true
  bad1 : s.isBad u.pa 8 = false
  bad2 : s.isBad v.pa 8 = false
  node1 : field (s.homeWord u.pa) 63 52 ≠ 0xffe
  node2 : field (s.homeWord v.pa) 63 52 ≠ 0xffe
  prim1 : bit (s.homeWord u.pa) 51 = false
  prim2 : bit (s.homeWord v.pa) 51 = false
  rule : s.lookupRule s.cur s.myCtx (field (s.homeWord u.pa) 63 52) (field (s.homeWord v.pa) 63 52) = (some (w, h), s)

/-- A state in which the strand goes through the steps of R29 with its pair: its saddlebag, its own state and copies of other
cores may differ from those before. -/
structure State.onPair (s : State) (bag : List Pair) (st : Strand) (z : State) : Prop where
  work : (s.rebag bag st).worksOn [] [] z
  word : ∀ pa, z.homeWord pa = s.homeWord pa
  bytes : s.sameBytes z

theorem State.homeWord_rebag (pa : Nat) : (s.rebag bag st).homeWord pa = s.homeWord pa ∧
    (s.rebag bag st).peekHome pa 1 = s.peekHome pa 1 := by
  have hstore : ∀ n, (s.rebag bag st).peekHome pa n = s.peekHome pa n := fun n => by
    rw [State.rebag, State.peekHome_setMe]
    refine State.peekHome_of_store (s := s) (t := s.setMine _) rfl (fun p => ?_) pa n
    rw [State.setMine, State.core_setCore_ite]
    split
    · next e => rw [← e]; rfl
    · rfl
  exact ⟨by rw [State.homeWord, hstore, State.homeWord], hstore 1⟩

theorem State.isFull_rebag (pa : Nat) : (s.rebag bag st).isFull pa = s.isFull pa := by
  rw [State.rebag, State.isFull_setMe]
  refine State.isFull_congr (s := s) (t := s.setMine _) rfl (fun p => ?_) pa
  rw [State.setMine, State.core_setCore_ite]
  split
  · next e => rw [← e]; rfl
  · rfl

/-- What another saddlebag and another state of the strand leave of a core. -/
theorem State.ofCore_rebag {β : Type} (f : Core → β) (p : CoreId)
    (hf : ∀ (k : Core) (l : List Pair) (y : Vector Strand 8), f { k with bag := l, strands := y } = f k := by intros; rfl) :
    f ((s.rebag bag st).core p) = f (s.core p) := by
  have heq : s.rebag bag st = s.setMine { s.mine with bag := bag, strands := s.mine.strands.set s.str st } := by
    simp [State.rebag, State.setMe, State.setStrand, State.setMine, State.mine]
  rw [heq, State.setMine, State.core_setCore_ite]
  split
  · next e => rw [hf, ← e, State.mine]
  · rfl

theorem State.memOk_rebag (h : s.memOk) : (s.rebag bag st).memOk :=
  State.memOk_of_eq (s := s) (t := s.rebag bag st) rfl (fun p => State.ofCore_rebag Core.spad p) h

theorem State.sameChecks_rebag (h : st.priv = s.me.priv) : s.sameChecks (s.rebag bag st) := by
  have hk : s.sameChecks (s.setMine { s.mine with bag := bag }) := State.sameChecks.setCore rfl rfl
  exact hk.trans (State.sameChecks.setMe (h.trans (congrArg Strand.priv (s.strand_setBag bag s.cur s.str).symm)))

theorem State.resting_rebag (h : s.resting) : (s.rebag bag st).resting where
  copies := (State.ofCore_rebag Core.copies s.cur).trans h.copies
  snap := h.snap
  comb := h.comb
  badCopies := h.badCopies
  waiters := h.waiters
  retries := h.retries
  memOk := State.memOk_rebag h.memOk

theorem State.onPair.start : s.onPair bag st (s.rebag bag st) :=
  ⟨.refl _, fun pa => (State.homeWord_rebag pa).1, fun a => (State.homeWord_rebag a).2⟩

theorem State.onPair.recalled (h : s.onPair bag st z) (hr : z.recalled t) : s.onPair bag st t :=
  ⟨h.work.trans (State.recalled_worksOn hr), fun pa => (State.recalled_homeWord hr pa).trans (h.word pa),
    fun a => (State.recalled_sameBytes hr a).trans (h.bytes a)⟩

theorem State.onPair.me (h : s.onPair bag st z) : z.me = st := h.work.me.trans (State.me_setMe ..)

theorem State.onPair.sameChecks (h : s.onPair bag st z) (hp : st.priv = s.me.priv) : s.sameChecks z :=
  (State.sameChecks_rebag hp).trans h.work.sameChecks

/-- What neither the pair, nor home, nor copies change of a core. -/
theorem State.onPair.ofCore {β : Type} (h : s.onPair bag st z) (f : Core → β) (p : CoreId)
    (hf : ∀ (k : Core) (l : List Pair) (y : Vector Strand 8), f { k with bag := l, strands := y } = f k := by intros; rfl)
    (hg : ∀ k, f (Core.besideHome k) = f k := by intro _; rfl) : f (z.core p) = f (s.core p) :=
  (h.work.ofCore f p hg).trans (State.ofCore_rebag f p hf)

/-- Step 3 for one node. -/
theorem State.onPair.peek {k : Word → State → State} {a : Nat} {pl : Place} (h : s.onPair bag st z) (hr : s.resting)
    (hp : st.priv = s.me.priv) (hrel : st.relaxed = []) (hn : s.nodeWord a .peek = (.ok pl, s)) (hd : onDevice pl.pa = true)
    (hfull : s.isFull pl.pa = true) (hbad : s.isBad pl.pa 8 = false) :
    ∃ t, s.onPair bag st t ∧ z.peekWord a k = k (s.homeWord pl.pa) t := by
  have hchecks := h.sameChecks hp
  have hrest := h.work.resting (State.resting_rebag (bag := bag) (st := st) hr)
  have hn' : z.nodeWord a .peek = (.ok pl, z) := by
    refine State.nodeWord_again hr.copies hr.comb hchecks ?_ rfl hn
    rw [State.mine, hchecks.cur, h.ofCore Core.tlb, State.mine]
  have hfull' : z.isFull pl.pa = true := by rw [h.work.full _ hd List.not_mem_nil, State.isFull_rebag, hfull]
  have hbad' : z.isBad pl.pa 8 = false := by
    refine h.work.isBad (State.resting_rebag hr) ?_
    have hcopies (q : CoreId) : ((s.rebag bag st).core q).copies = (s.core q).copies := State.ofCore_rebag Core.copies q
    simp only [State.isBad, hcopies] at hbad ⊢
    exact hbad
  obtain ⟨t, hrec, heq⟩ := State.peekWord_full (k := k) hrest (by rw [h.me]; exact hrel) hn' hd
    hfull' hbad'
  exact ⟨t, h.recalled hrec, by rw [heq, h.word]⟩

end Sys2Proof.Machine
end

section
namespace Sys2Proof.Machine

variable {s t z : State} {x : Pair} {bag : List Pair} {st : Strand} {u v : Place} {w h : Word}

/-- The step of NEXT at which a strand stood before step 5 of R29 does not matter after it. -/
theorem Strand.ruled_step (st : Strand) (n : BitVec 3) (a : Word) (x : Pair) (swapped : Bool) (w h : Word) :
    ({ st with nstep := n, nextAt := a } : Strand).ruled x swapped w h = st.ruled x swapped w h := by
  have hr : (26 : BitVec 5) ≠ 0 := by decide
  simp only [Strand.ruled, Strand.withX, if_neg hr]

theorem State.onPair.object (hz : s.onPair bag st z) (c : CtxId) (i : Nat) : z.object c i = s.object c i := by
  have hctx : z.ctx c = s.ctx c := hz.work.ctx c
  simp only [State.object, hctx, hz.word]

/-- Steps 3 to 8 of R29, for a strand that has obtained its pair. -/
theorem State.firable.fires {swapped : Bool} (hs : s.firable x u v w h)
    (hvalid : (s.object s.myCtx (field w 35 24)).valid = true)
    (hmask : (s.object s.myCtx (field w 35 24)).mask &&& ~~~s.mine.capmask = 0)
    (hcls : s.me.cls = (if field w 39 38 = 1 then .long else .short)) (hleaving : s.me.leaving = false)
    (hswapped : (decide (field (s.homeWord u.pa) 63 52 ≠ field (s.homeWord v.pa) 63 52) &&
      decide (field (s.homeWord u.pa) 63 52 ≠ field w 63 52)) = swapped) :
    ∃ z, s.onPair bag (s.me.obtains x) z ∧
      (s.rebag bag (s.me.obtains x)).nextFires = z.setMe (s.me.fires x swapped w h) := by
  obtain ⟨-, -, hrel, -⟩ := State.calm_parts hs.calm
  obtain ⟨z1, hz1, e1⟩ := (State.onPair.start (s := s) (bag := bag) (st := s.me.obtains x)).peek
    (k := fun h1 (s0 : State) => s0.peekWord x.node2.toNat fun h2 (s1 : State) => (s1.markNext 4).fireFrom4 x h1 h2)
    hs.resting rfl hrel hs.place1 hs.device1 hs.full1 hs.bad1
  obtain ⟨z, hz, e2⟩ := hz1.peek (k := fun h2 (s1 : State) => (s1.markNext 4).fireFrom4 x (s.homeWord u.pa) h2)
    hs.resting rfl hrel hs.place2 hs.device2 hs.full2 hs.bad2
  refine ⟨z, hz, ?_⟩
  have hme : (s.rebag bag (s.me.obtains x)).me = s.me.obtains x := State.me_setMe ..
  have hfire : (s.rebag bag (s.me.obtains x)).nextFires = (s.rebag bag (s.me.obtains x)).firePair x := by
    rw [State.nextFires, hme]
    rfl
  have hchecks := hz.sameChecks (st := s.me.obtains x) rfl
  have hcore {β : Type} (f : Core → β) (hf : ∀ (k : Core) (y : Vector Strand 8), f { k with strands := y } = f k)
      (p : CoreId) (n : Nat) : f ((z.markNext n).core p) = f (z.core p) := by
    rw [State.markNext_eq, State.setMe, State.setStrand, State.core_setCore_ite]
    split
    · next e => rw [hf, e]
    · rfl
  have hrules : ((z.markNext 4).core s.cur).rules = (s.core s.cur).rules :=
    (hcore Core.rules (fun _ _ => rfl) s.cur 4).trans (hz.ofCore Core.rules s.cur)
  have hmine : ((z.markNext 4).markNext 5).mine.capmask = s.mine.capmask := by
    have h1 : ((z.markNext 4).markNext 5).mine.capmask = z.mine.capmask := by
      simp [State.markNext_eq, State.setMe, State.mine]
    rw [h1, State.mine, hchecks.cur, hz.ofCore Core.capmask, State.mine]
  have hctx : ((z.markNext 4).markNext 5).myCtx = s.myCtx := by
    rw [State.myCtx_markNext, State.myCtx_markNext, hchecks.myCtx]
  have hobject : ((z.markNext 4).markNext 5).object ((z.markNext 4).markNext 5).myCtx (field w 35 24) =
      s.object s.myCtx (field w 35 24) := by
    rw [hctx, ← hz.object]
    simp only [State.object, State.markNext_eq, State.homeWord_setMe]
    rfl
  have hstep : ((z.markNext 4).markNext 5).me =
      { s.me.obtains x with nstep := BitVec.ofNat 3 5, nextAt := s.me.pc } := by
    rw [State.markNext_eq, State.me_setMe, State.markNext_eq, State.me_setMe, hz.me]
    rfl
  have hne : swapped = true → x.node1 ≠ x.node2 := by
    rintro rfl e
    rw [Bool.and_eq_true, decide_eq_true_eq] at hswapped
    have hplace := hs.place2
    rw [← e, hs.place1] at hplace
    simp only [Prod.mk.injEq, Except.ok.injEq, and_true] at hplace
    exact hswapped.1 (by rw [hplace])
  have henters := State.fireRule_enters (s := (z.markNext 4).markNext 5) (x := x) (w := w) (h := h)
    (by rw [hstep]; rfl) hobject hvalid (by rw [hmine]; exact hmask) hswapped hne (by rw [hstep]; exact hcls)
    (by rw [hstep]; exact hleaving)
  have hrule := State.fireFrom4_rule (s := z.markNext 4) (x := x) hs.node1 hs.node2 hs.prim1 hs.prim2 hchecks.cur
    ((z.myCtx_markNext 4).trans hchecks.myCtx) (State.lookupRule_cached hs.rule hrules)
  rw [hfire, State.firePair, e1, e2, hrule, henters, hstep, Strand.ruled_step, Strand.fires]
  simp only [State.markNext_eq, State.setMe_setMe]

theorem State.firable.completes (hs : s.firable x u v w h) (hfiring : s.me.firing = none)
    (hcount : (s.ctx s.myCtx).count ≠ 0) (hrun : (s.ctx s.myCtx).replay.running = 0) (hbag : s.mine.bag = bag ++ [x])
    (hvalid : (s.object s.myCtx (field w 35 24)).valid = true)
    (hmask : (s.object s.myCtx (field w 35 24)).mask &&& ~~~s.mine.capmask = 0)
    (hcls : s.me.cls = (if field w 39 38 = 1 then .long else .short)) (hleaving : s.me.leaving = false) :
    completes .next s fun t => t.me = s.me.fires x (decide (field (s.homeWord u.pa) 63 52 ≠ field (s.homeWord v.pa) 63 52) &&
        decide (field (s.homeWord u.pa) 63 52 ≠ field w 63 52)) w h ∧ t.mine.bag = bag ∧
      (t.ctx s.myCtx).count = (s.ctx s.myCtx).count ∧ s.sameOthers t ∧ s.sameSpecial t ∧ s.sameBytes t := by
  obtain ⟨z, hz, heq⟩ := hs.fires (bag := bag) hvalid hmask hcls hleaving rfl
  have hstart := (State.nextRuns_obtains hfiring).trans ((State.nextObtains_takes hcount hrun hbag).trans
    ((congrArg State.nextFires (State.obtained_eq hs.resting.copies hrun)).trans heq))
  have hchecks := hz.sameChecks (st := s.me.obtains x) rfl
  have hcur : z.cur = s.cur ∧ z.str = s.str := ⟨hz.work.cur, hz.work.str⟩
  refine completes_of_next_eq exec_next hstart ⟨State.me_setMe .., ?_, congrArg Ctx.count (hz.work.ctx s.myCtx),
    fun p r hp => ?_, fun p => ?_, fun a => (State.peekHome_setMe ..).trans (hz.bytes a)⟩
  · have h1 : (z.setMe (s.me.fires x (decide (field (s.homeWord u.pa) 63 52 ≠ field (s.homeWord v.pa) 63 52) &&
        decide (field (s.homeWord u.pa) 63 52 ≠ field w 63 52)) w h)).mine.bag = z.mine.bag := by
      simp [State.setMe, State.mine]
    rw [h1, hz.work.ofMine Core.bag]
    simp [State.rebag, State.setMe, State.setMine, State.mine]
  · have h1 := State.sameOthers_setMe z (s.me.fires x (decide (field (s.homeWord u.pa) 63 52 ≠ field (s.homeWord v.pa) 63 52) &&
        decide (field (s.homeWord u.pa) 63 52 ≠ field w 63 52)) w h) p r (by rw [hcur.1, hcur.2]; exact hp)
    exact h1.trans ((hz.work.strand p r).trans ((State.sameOthers_setMe (s.setMine _) _ p r hp).trans
      (s.strand_setBag bag p r)))
  · obtain ⟨h1, h2, h3, h4, h5, h6, h7⟩ := State.sameSpecial_setMe z (s.me.fires x
      (decide (field (s.homeWord u.pa) 63 52 ≠ field (s.homeWord v.pa) 63 52) &&
        decide (field (s.homeWord u.pa) 63 52 ≠ field w 63 52)) w h) p
    exact ⟨h1.trans (hz.ofCore Core.capmask p), h2.trans (hz.ofCore Core.ovt p), h3.trans (hz.ofCore Core.poolV p),
      h4.trans (hz.ofCore Core.poolS p), h5.trans (hz.ofCore Core.poolC p), h6.trans (hz.ofCore Core.npool p),
      h7.trans (hz.ofCore Core.cpyshare p)⟩

end Sys2Proof.Machine
end

section
namespace Sys2Proof.Machine

/-- Settles O44: each instruction's run is one of the lemmas above, on the words, the count or the pair that it finds. -/
theorem nodesPairsAndFirings : Obligations.NodesPairsAndFirings := by
  intro s rd r1 r2 pl x bag u v w h
  dsimp only
  intro hcalm hok htlb hwaiters hretries hrun hnote
  have hrest := State.resting_of_calm hcalm hok hwaiters hretries
  obtain ⟨hwait, -⟩ := State.calm_parts hcalm
  refine ⟨fun hpool hprog hd hbad hwords => ?_, fun hb hok1 hok2 hlow hbag hhungry => ⟨fun hmode => ?_, fun hmode => ?_⟩,
    fun hlow hmode hcount => State.completes_npush_left hlow hmode hcount, fun hlow hmode hcount => ?_,
    fun hfiring hserves hreplay hreqs => State.completes_ndone_fired hcalm hfiring hserves hreplay hreqs hrun hnote,
    fun hfiring hreplay hreqs => State.completes_ndone_idle hcalm hfiring hreplay hreqs,
    fun hfiring hcount => State.completes_next_falls hcalm hfiring hcount,
    fun hfiring hat => ⟨fun hcount => State.completes_next_last hcalm hfiring hat hcount hrun hnote,
      fun hcount hbag hspills => State.completes_next_ends hcalm hfiring hat hcount hrun hbag hspills⟩,
    fun hfiring hcount hbag hspills => State.completes_next_waits hfiring hcount hrun hbag hspills,
    fun hfiring hcount hbag hdu hdv hn1 hn2 hf1 hf2 hb1 hb2 ht1 ht2 hp1 hp2 hrule hvalid hmask hcls hleaving => ?_⟩
  · have hplace0 := (hwords 0 (by decide)).1
    obtain ⟨-, hoff⟩ := (State.nodeWord_holds hrest.copies hrest.comb hplace0).2 htlb
    have h32 : pl.pa % 32 = 0 := by
      dsimp only at hoff
      omega
    have hword0 : s.isWord pl.pa := State.nodeWord_isWord hplace0 hd (by omega)
    have hfree : s.freeWords (s.mine.npool.toNat * 32) pl :=
      ⟨fun j hj => (hwords j hj).1, fun j hj => State.isWord_add hword0 (by omega) (by omega), fun j hj => (hwords j hj).2,
        fun j hj => State.isBad_sub hbad hrest.badCopies hrest.comb (by omega) (by omega)⟩
    exact State.completes_nalloc hfree hrest hcalm rfl hpool h32 hprog
  · have hexec := exec_npush_enters hcalm hlow hb hok1 hok2 (by omega)
    rw [if_pos hmode] at hexec
    exact State.completes_npush hcalm hbag hhungry hexec
  · have hexec := exec_npush_enters hcalm hlow hb hok1 hok2 (by omega)
    rw [if_neg (by omega)] at hexec
    exact State.completes_npush hcalm hbag hhungry hexec
  · obtain ⟨t, hx, hme, hcount', hepoch, hmem, hothers⟩ :=
      State.completes_npush_last (r2 := r2) hcalm hlow hmode hcount hrun hnote
    refine ⟨t, hx, hme, hcount', hepoch, hmem, fun p y hp hserves hpair => ?_⟩
    obtain ⟨h1, h2, h3⟩ := State.at_quieted_falls hserves hpair
    rw [← hothers p y hp] at h1 h2 h3
    exact ⟨h1, h2, h3⟩
  · obtain ⟨t, hx, hme, hbag', hcount', hothers, hspecial, hbytes⟩ := State.firable.completes (s := s) (x := x) (u := u) (v := v)
      ⟨hcalm, hrest, hn1, hn2, hdu, hdv, hf1, hf2, hb1, hb2, ht1, ht2, hp1, hp2, hrule⟩ hfiring hcount hrun
      hbag hvalid hmask hcls hleaving
    obtain ⟨h1, h2, h3, h4⟩ := Strand.fires_parts s.me x (decide (field (s.homeWord u.pa) 63 52 ≠ field (s.homeWord v.pa) 63 52) &&
        decide (field (s.homeWord u.pa) 63 52 ≠ field w 63 52)) w h
    rw [← hme] at h1 h2 h3 h4
    refine ⟨t, hx, h1, h2, h3, h4, hbag', hcount', hothers, hspecial, hbytes, fun q => ?_⟩
    rw [State.reg_eq, hme, Strand.valueOf_fires]
    rfl

end Sys2Proof.Machine
end

section
/-! Capture and replay of a context end by an overflow of its log or by a divergence alone, and both leave their flag
(R423, R424): no operation on copies, memory or translations clears the three. -/

namespace Sys2Proof.Machine

/-- A context is under capture or replay, or shows the flag with which one of them ended. -/
def State.onLog (s : State) (c : CtxId) : Prop :=
  (s.ctx c).replay.running ≠ 0 ∨ (s.ctx c).replay.ovf = true ∨ (s.ctx c).replay.diverged = true

variable {s t : State} {c : CtxId}

namespace State.onLog

theorem ofCtxs (h : s.onLog c) (e : t.ctxs = s.ctxs) : t.onLog c := by
  rw [State.onLog, State.ctx, e]
  exact h

/-- A new record of a context with the same replay. -/
theorem setCtx (h : s.onLog c) {d : CtxId} {k : Ctx} (e : k.replay = (s.ctx d).replay) : (s.setCtx d k).onLog c := by
  rw [State.onLog, State.ofCtx_setCtx Ctx.replay e]
  exact h

theorem setCore (h : s.onLog c) (p : CoreId) (k : Core) : (s.setCore p k).onLog c := h.ofCtxs rfl

theorem setStrand (h : s.onLog c) (p : CoreId) (u : StrandId) (st : Strand) : (s.setStrand p u st).onLog c :=
  h.ofCtxs rfl

theorem setMe (h : s.onLog c) (st : Strand) : (s.setMe st).onLog c := h.ofCtxs rfl

theorem foldl {α : Type} (f : State → α → State) (hf : ∀ {a : State} (x : α), a.onLog c → (f a x).onLog c)
    (l : List α) (h : s.onLog c) : (l.foldl f s).onLog c :=
  foldl_keeps (fun a : State => a.onLog c) f (fun _ x h => hf x h) l s h

/-! ### Copies (R273, R276, R401) -/

theorem abortCtx (h : s.onLog c) (d : CtxId) (n : Nat) : (s.abortCtx d n).onLog c := by
  unfold State.abortCtx
  dsimp only
  refine State.onLog.setCtx ?_ ?_
  · exact h.ofCtxs (by simp only [State.orphanExt])
  · simp only [State.orphanExt, State.ctx]

theorem machineCheck (h : s.onLog c) (k : Nat) (d : Option CtxId) (p : CoreId) (u : Option StrandId) (x : BitVec 16)
    (a pc : Word) : (s.machineCheck k d p u x a pc).onLog c :=
  h.ofCtxs (by simp only [State.machineCheck, State.signal])

theorem snapBlock (h : s.onLog c) (b : Nat) : (s.snapBlock b).onLog c := by
  refine h.ofCtxs ?_
  unfold State.snapBlock
  split
  · rfl
  · split <;> rfl

theorem homeWrite (h : s.onLog c) (pa : Nat) (bs : List Byte) : (s.homeWrite pa bs).onLog c :=
  ofCtxs (foldl (fun (a : State) b => a.snapBlock b) (fun b ha => ha.snapBlock b) _ h) rfl

theorem lostDirty (h : s.onLog c) (p : CoreId) (x : Copy) : (s.lostDirty p x).onLog c := by
  unfold State.lostDirty
  dsimp only
  split
  · refine abortCtx (machineCheck ?_ _ _ _ _ _ _ _) _ _
    exact h.ofCtxs rfl
  · refine machineCheck ?_ _ _ _ _ _ _ _
    exact h.ofCtxs rfl

theorem loseDirty (h : s.onLog c) (f : CoreId → Copy → Bool) : (s.loseDirty f).onLog c := by
  refine foldl _ (fun x ha => ?_) _ h
  split
  · split
    · exact ha.lostDirty _ _
    · exact ha
  · exact ha

theorem mapCopies (h : s.onLog c) (f : CoreId → List Copy → List Copy) : (s.mapCopies f).onLog c :=
  h.ofCtxs (by simp only [State.mapCopies])

theorem recallCopies (h : s.onLog c) (l : List Nat) (k : Option CoreId) : (s.recall l k).onLog c :=
  (h.loseDirty _).mapCopies _

theorem downgrade (h : s.onLog c) (p : CoreId) (l : List Nat) : (s.downgrade p l).onLog c :=
  (h.loseDirty _).mapCopies _

theorem writeBack (h : s.onLog c) (p : CoreId) (x : Copy) : (s.writeBack p x).onLog c := by
  unfold State.writeBack
  split
  · exact h
  · split
    · exact (h.lostDirty p x).setCore _ _
    · refine setCore ?_ _ _
      split
      · exact h
      · split
        · exact foldl _ (fun _ ha => ha.homeWrite _ _) _ (h.recallCopies _ _)
        · exact h.ofCtxs rfl

theorem writeBacks (h : s.onLog c) (p : CoreId) (l : List Copy) :
    (l.foldl (fun a x => a.writeBack p x) s).onLog c := foldl _ (fun x ha => ha.writeBack p x) l h

theorem writeBackOwn (h : s.onLog c) (p : CoreId) (l : List Nat) : (s.writeBackOwn p l).onLog c := h.writeBacks p _

theorem dropOwn (h : s.onLog c) (p : CoreId) (l : List Nat) : (s.dropOwn p l).onLog c := h.setCore _ _

theorem leaveCache (h : s.onLog c) (p : CoreId) (f : Copy → Bool) (g : Copy → Copy) : (s.leaveCache p f g).onLog c :=
  (h.writeBacks p _).setCore _ _

theorem scalarRoom (h : s.onLog c) (p : CoreId) (l : Nat) : (s.scalarRoom p l).onLog c := by
  unfold State.scalarRoom
  dsimp only
  split
  · exact h
  · split
    · exact h
    · exact h.leaveCache _ _ _

theorem poolRoom (h : s.onLog c) (p : CoreId) (b : Nat) : (s.poolRoom p b).2.onLog c := by
  unfold State.poolRoom
  dsimp only
  split
  · exact h
  · split
    · exact h
    · split
      · exact h
      · exact h.leaveCache _ _ _

theorem placeCopies (h : s.onLog c) (p : CoreId) (vec : Bool) (pa g : Nat) (k : CopyKind) (va : Word)
    (new : List (Nat × List Byte)) : (s.placeCopies p vec pa g k va new).onLog c := by
  have hl : ∀ l : List Nat, (l.foldl (fun (a : State) l => a.scalarRoom p l) s).onLog c := fun l =>
    foldl _ (fun l ha => ha.scalarRoom p l) l h
  unfold State.placeCopies
  dsimp only
  refine setCore ?_ _ _
  exact ofCtxs ((hl _).poolRoom p _) rfl

theorem fillCopies (h : s.onLog c) (p : CoreId) (vec : Bool) (pa g : Nat) (k : CopyKind) :
    (s.fillCopies p vec pa g k).onLog c := by
  unfold State.fillCopies
  dsimp only
  split
  · exact h.placeCopies _ _ _ _ _ _ _
  · exact (h.writeBackOwn _ _).placeCopies _ _ _ _ _ _ _

theorem useCopy (h : s.onLog c) (p : CoreId) (vec : Bool) (pa : Nat) (x : Copy) : (s.useCopy p vec pa x).onLog c := by
  unfold State.useCopy
  split
  · exact (h.poolRoom _ _).setCore _ _
  · exact h

theorem refetch (h : s.onLog c) (p : CoreId) (pa n : Nat) : (s.refetch p pa n).onLog c := by
  unfold State.refetch
  split
  · split
    · exact h.dropOwn _ _
    · exact h
  · exact h

theorem recordGrain (h : s.onLog c) (pa g : Nat) : (s.recordGrain pa g).onLog c := by
  refine h.ofCtxs ?_
  unfold State.recordGrain
  split <;> rfl

theorem putCopy (h : s.onLog c) (p : CoreId) (pa : Nat) (bs : List Byte) (va : Word) :
    (s.putCopy p pa bs va).onLog c := h.setCore _ _

theorem storeOwned (h : s.onLog c) (p : CoreId) (pa : Nat) (bs : List Byte) : (s.storeOwned p pa bs).onLog c := by
  refine homeWrite (putCopy ?_ _ _ _ _) _ _
  unfold State.newGeneration
  dsimp only
  split
  · exact h
  · exact ((h.snapBlock _).writeBacks p _).setCore _ _

/-! ### Combining stores, and words at home (R268 to R270, R347) -/

theorem restoreWord (h : s.onLog c) (pa : Nat) (w : Word) : (s.restoreWord pa w).onLog c := by
  refine h.ofCtxs ?_
  unfold State.restoreWord
  split
  · split <;> rfl
  · rfl

theorem combOut (h : s.onLog c) (x : CombEntry) : (s.combOut x).onLog c := by
  have h1 : ({ s with comb := s.comb.filter fun y => y.pa ≠ x.pa } : State).onLog c := h.ofCtxs rfl
  unfold State.combOut
  dsimp only
  split
  · split
    · exact ((h1.restoreWord _ _).machineCheck _ _ _ _ _ _ _).abortCtx _ _
    · exact (h1.restoreWord _ _).machineCheck _ _ _ _ _ _ _
  · exact h1

theorem combSettle (h : s.onLog c) (l : List Nat) : (s.combSettle l).onLog c := foldl _ (fun x ha => ha.combOut x) _ h

theorem prepareHome (h : s.onLog c) (p : CoreId) (pa g : Nat) : (s.prepareHome p pa g).onLog c :=
  recallCopies (dropOwn (writeBackOwn (h.combSettle _) _ _) _ _) _ _

theorem acquire (h : s.onLog c) (p : CoreId) (sc : Scope) : (s.acquire p sc).onLog c := by
  refine h.ofCtxs ?_
  unfold State.acquire
  split <;> rfl

theorem acquireAt (h : s.onLog c) (sc : Scope) : (s.acquireAt sc).onLog c := h.acquire _ sc

theorem releaseCopies (h : s.onLog c) (p : CoreId) (sc : Scope) : (s.releaseCopies p sc).onLog c := by
  unfold State.releaseCopies
  split
  · exact h
  · exact h
  · exact h.writeBacks p _

theorem putHome (h : s.onLog c) (pa : Nat) (bs : List Byte) : (s.putHome pa bs).onLog c := by
  rcases s.putHome_cases pa bs with e | ⟨p, place, w, b, e⟩ | ⟨a, e⟩
  · rwa [e]
  · rw [e]
    exact h.ofCtxs rfl
  · rw [e]
    exact h.homeWrite a bs

theorem pokeHome (h : s.onLog c) (pa : Nat) (bs : List Byte) : (s.pokeHome pa bs).onLog c := by
  unfold State.pokeHome
  refine putHome ?_ _ _
  split
  · exact (h.combSettle _).recallCopies _ _
  · exact h.combSettle _

theorem setFull (h : s.onLog c) (pa : Nat) (b : Bool) : (s.setFull pa b).onLog c := by
  rcases s.setFull_cases pa b with e | ⟨p, l, e⟩ | ⟨a, x, e⟩
  · rwa [e]
  · rw [e]
    exact h.setCore _ _
  · rw [e]
    exact h.ofCtxs rfl

/-! ### Loads, stores and relaxed accesses (R272 to R274, R288) -/

theorem loadHbm (h : s.onLog c) (p : CoreId) (pa n g : Nat) (r : Req) (vec : Bool) :
    (s.loadHbm p pa n g r vec).2.onLog c := by
  have h0 := h.refetch p pa n
  unfold State.loadHbm
  dsimp only
  split
  · exact h0.useCopy _ _ _ _
  · exact (h0.combSettle _).writeBackOwn _ _
  · refine fillCopies ?_ _ _ _ _ _
    split
    · exact h0.combSettle _
    · exact ((h0.combSettle _).writeBackOwn _ _).dropOwn _ _
  · exact ((((h0.recordGrain _ _).combSettle _).writeBackOwn _ _).downgrade _ _).fillCopies _ _ _ _ _

theorem storeHbm (h : s.onLog c) (p : CoreId) (pa : Nat) (bs : List Byte) (g : Nat) (r : Req) (vec : Bool) :
    (s.storeHbm p pa bs g r vec).onLog c := by
  have own : ∀ l g', ((((((s.recordGrain pa g).combSettle l).writeBackOwn p l).recall l (some p)).fillCopies p vec pa g'
      .owned).storeOwned p pa bs).onLog c := fun l _ =>
    (((((h.recordGrain _ _).combSettle l).writeBackOwn p l).recallCopies _ _).fillCopies _ _ _ _ _).storeOwned _ _ _
  unfold State.storeHbm
  dsimp only
  split
  · exact ((((h.combSettle _).writeBackOwn _ _).dropOwn _ _).recallCopies _ _).homeWrite _ _
  · exact ((((h.combSettle _).writeBackOwn _ _).recallCopies _ _).homeWrite _ _).setCore _ _
  · split
    · split
      · exact (h.useCopy _ _ _ _).storeOwned _ _ _
      · exact own _ _
    · exact own _ _
  · split
    · split
      · exact (h.useCopy _ _ _ _).storeOwned _ _ _
      · exact ((h.useCopy _ _ _ _).setCore _ _).putCopy _ _ _ _
    · exact ((h.combSettle _).fillCopies _ _ _ _ _).putCopy _ _ _ _

theorem windowAccess (h : s.onLog c) (p : CoreId) (vec : Bool) (who : Requester) (va : Word) (pa n g : Nat)
    (plain : Bool) (store : Option (List Byte)) (rd : Option (BitVec 5 × Size)) (relaxed : Bool) :
    (s.windowAccess p vec who va pa n g plain store rd relaxed).2.onLog c := by
  have h0 := h.refetch p pa n
  unfold State.windowAccess
  dsimp only
  split
  · split
    · exact ((h.writeBackOwn p (grainSectors pa g)).dropOwn p (grainSectors pa g)).ofCtxs rfl
    · exact (h.writeBackOwn p (grainSectors pa g)).ofCtxs rfl
  · split
    · split
      · exact (h0.useCopy _ _ _ _).putCopy _ _ _ _
      · exact h0.useCopy _ _ _ _
    · exact h0.ofCtxs rfl

theorem performRelaxed (h : s.onLog c) (p : CoreId) (u : StrandId) (a : RelaxedAcc) :
    (s.performRelaxed p u a).onLog c := by
  have window (va : Word) (pa n g : Nat) (plain : Bool) (store : Option (List Byte)) (rd : Option (BitVec 5 × Size)) :
      (match s.windowAccess p false (.scalar p u) va pa n g plain store rd true with
        | (some bs, s1) => if a.isStore then s1 else
            s1.setStrand p u ((s1.strand p u).withX a.r (sextTo64 (8 * a.length) (fromLe bs)))
        | (none, s1) => s1).onLog c := by
    have hw := h.windowAccess p false (.scalar p u) va pa n g plain store rd true
    split
    · next he =>
      rw [he] at hw
      split
      · exact hw
      · exact hw.setStrand _ _ _
    · next he =>
      rw [he] at hw
      exact hw
  unfold State.performRelaxed
  generalize (if a.dev = true then Req.u else a.req) = req
  dsimp only
  split
  · split
    · exact h.storeHbm _ _ _ _ _ _
    · split
      · exact h.setStrand _ _ _
      · exact (h.loadHbm _ _ _ _ _ _).setStrand _ _ _
  · split
    · exact h.setStrand _ _ _
    · exact window _ _ _ _ _ _ _
  · split
    · exact h.setStrand _ _ _
    · exact window _ _ _ _ _ _ _
  · split
    · exact h.pokeHome _ _
    · split
      · exact h.setStrand _ _ _
      · exact h.setStrand _ _ _

theorem drainRelaxed (h : s.onLog c) (p : CoreId) (u : StrandId) : (s.drainRelaxed p u).onLog c :=
  foldl _ (fun a ha => ha.performRelaxed p u a) _ (h.setStrand _ _ _)

theorem performSame (h : s.onLog c) (p : CoreId) (u : StrandId) (pa n : Nat) : (s.performSame p u pa n).onLog c := by
  unfold State.performSame
  dsimp only
  split
  · exact foldl _ (fun a ha => ha.performRelaxed p u a) _ (h.setStrand _ _ _)
  · exact h

/-! ### Translation (R280 to R283) -/

theorem pteAt (h : s.onLog c) (p : CoreId) (d : CtxId) (pa : Nat) : (s.pteAt p d pa).2.onLog c := by
  unfold State.pteAt
  split
  · split
    · exact h
    · exact (h.combSettle _).writeBackOwn _ _
  · split
    · exact h
    · split <;> exact h
  iterate 2
    · dsimp only
      split
      · split
        · exact h
        · exact h.setCore _ _
      · exact h.setCore _ _
      · split
        · exact h
        · exact h.ofCtxs rfl
  · exact h

theorem walk (p : CoreId) (d : CtxId) (va : Nat) : ∀ (l node : Nat) {s : State}, s.onLog c →
    (s.walk p d va l node).2.onLog c
  | 0, _, _, h => h
  | l + 1, node, s, h => by
    have hp := h.pteAt p d (node + 8 * (va >>> (12 + 9 * l) % 512))
    unfold State.walk
    dsimp only
    split
    · exact walk p d va l _ h
    · split
      · next he =>
        rw [he] at hp
        exact hp
      · next he =>
        rw [he] at hp
        split
        · exact hp
        · exact hp
        · exact walk p d va l _ (hp.setCore _ _)

theorem lookup (h : s.onLog c) (p : CoreId) (d : CtxId) (root : Nat) (va : Word) (b : Option ArrayId) :
    (s.lookup p d root va b).2.onLog c := by
  have hw := walk p d va.toNat 5 root h
  unfold State.lookup
  split
  · exact h
  · split
    · exact h
    · split
      · exact h
      · split
        · next he =>
          rw [he] at hw
          exact hw
        · next he =>
          rw [he] at hw
          exact hw.setCore _ _

theorem nodeWord (h : s.onLog c) (a : Nat) (k : Acc) : (s.nodeWord a k).2.onLog c := by
  have hplace : (s.place s.cur s.myCtx s.isRuntime false (word a) 8 k).2.onLog c := by
    rw [State.place_state]
    exact h.lookup _ _ _ _ _
  unfold State.nodeWord
  dsimp only
  split
  · exact h
  · split
    · next he =>
      rw [he] at hplace
      exact hplace
    · next he =>
      rw [he] at hplace
      exact hplace

end State.onLog

end Sys2Proof.Machine
end

section
/-! What traps, waits, port words and lanes leave of the capture or replay of a context (R423, R424). -/

namespace Sys2Proof.Machine

variable {s : State} {c : CtxId}

namespace State.onLog

/-! ### Traps, waits and the full/empty table -/

theorem doubleTrap (h : s.onLog c) (x : BitVec 16) (v : Word) : (s.doubleTrap x v).onLog c := by
  have hm := h.machineCheck 1 s.mine.serves s.cur (some s.str) x v s.me.pc
  unfold State.doubleTrap
  dsimp only
  split
  · exact hm.abortCtx _ _
  · exact hm.setMe _

theorem trapEntry (h : s.onLog c) (x : BitVec 16) (sw : Bool) (v epc : Word) : (s.trapEntry x sw v epc).onLog c := by
  unfold State.trapEntry
  split
  · exact h.doubleTrap _ _
  · exact h.setMe _

theorem park (h : s.onLog c) (w : Wait) : (s.park w).onLog c := h.setMe _

theorem trap (h : s.onLog c) (x : Cause) (v : Word) : (s.trap x v).onLog c := by
  unfold State.trap
  split
  · exact h.park _
  · exact h.trapEntry _ _ _ _

theorem enterWaiter (h : s.onLog c) (w : Waiter) : (s.enterWaiter w).onLog c := by
  refine h.ofCtxs ?_
  unfold State.enterWaiter
  split <;> rfl

theorem unpark (h : s.onLog c) (p : CoreId) (u : StrandId) : (s.unpark p u).onLog c := by
  unfold State.unpark
  refine setStrand ?_ _ _ _
  exact h.ofCtxs rfl

theorem setNpool (h : s.onLog c) (p : CoreId) (n : BitVec 43) : (s.setNpool p n).onLog c := by
  unfold State.setNpool
  refine foldl _ (fun w ha => ?_) _ (h.setCore _ _)
  split
  · exact ha.unpark _ _
  · exact ha

theorem completeFe (h : s.onLog c) (p : CoreId) (u : StrandId) (pa : Nat) (op : FeOp) :
    (s.completeFe p u pa op).onLog c := by
  cases op with
  | ldfK rd => exact (h.setStrand _ _ _).acquire _ _
  | ldfT rd | ntake rd | sete => exact ((h.setFull _ _).setStrand _ _ _).acquire _ _
  | stfW d =>
    refine setStrand (setFull ?_ _ _) _ _ _
    exact (h.releaseCopies _ _).pokeHome _ _
  | peek => exact (h.setStrand _ _ _).acquire _ _
  | nalloc =>
    have h1 := fun st => ((h.setFull pa false).setStrand p u st).acquire p .dev
    unfold State.completeFe
    dsimp only
    split
    · exact (h1 _).setNpool _ _
    · exact h1 _

theorem serveRounds (pa : Nat) : ∀ (n : Nat) {s : State}, s.onLog c → (s.serveRounds pa n).onLog c
  | 0, _, h => h
  | n + 1, s, h => by
    have hstill : ∀ (l : List Waiter) (r : List Waiter),
        (l.foldl (fun (a : State) w => a.completeFe w.core w.strand pa w.op) { s with waiters := r }).onLog c :=
      fun l r => foldl _ (fun w ha => ha.completeFe _ _ _ _) l (h.ofCtxs rfl)
    unfold State.serveRounds
    dsimp only
    split
    · exact foldl _ (fun w ha => ha.unpark _ _) _ h
    · split
      · exact hstill _ _
      · refine serveRounds pa n (completeFe ?_ _ _ _ _)
        exact (hstill _ _).ofCtxs rfl

theorem serve (h : s.onLog c) (pa : Nat) : (s.serve pa).onLog c := serveRounds pa _ h

theorem fillWord (h : s.onLog c) (pl : Place) (v : Word) : (s.fillWord pl v).onLog c :=
  serve (setFull (pokeHome (h.prepareHome _ _ _) _ _) _ _) _

theorem freeNodes : ∀ (l : List (Nat × Place)) {s : State}, s.onLog c → (s.freeNodes l).onLog c
  | [], _, h => h
  | _ :: rest, _, h =>
    freeNodes rest (setNpool (fillWord (fillWord (fillWord (fillWord h _ _) _ _) _ _) _ _) _ _)

/-! ### What an instruction waits for, and reads of port words -/

/-- A continuation after which a context is still under capture or replay, or shows how it ended. -/
def Keeps (c : CtxId) (k : State → State) : Prop := ∀ a : State, a.onLog c → (k a).onLog c

theorem afterRelaxed {k : State → State} (h : s.onLog c) (hk : Keeps c k) : (s.afterRelaxed k).onLog c := by
  have h1 := h.drainRelaxed s.cur s.str
  unfold State.afterRelaxed
  dsimp only
  split
  · exact h1.park _
  · split
    · exact (h1.setMe _).trapEntry _ _ _ _
    · exact hk _ h1

theorem afterRelease {k : State → State} (h : s.onLog c) (sc : Scope) (hk : Keeps c k) :
    (s.afterRelease sc k).onLog c := by
  refine h.afterRelaxed fun a ha => ?_
  have h1 := ha.releaseCopies a.cur sc
  dsimp only
  split
  · exact h1.park _
  · split
    · exact trapEntry (h1.setCore _ _) _ _ _ _
    · exact hk _ h1

theorem drained {k : State → State} (h : s.onLog c) (hk : Keeps c k) : (s.drained k).onLog c := by
  unfold State.drained
  split
  · exact hk _ h
  · split
    · split
      · exact h.doubleTrap _ _
      · exact h.park _
    · exact h.park _

/-- The state of a port word's place, as an operation on it begins. -/
theorem atWord {a : Nat} {x : Acc} {r : Except (Cause × Word) Place} {t : State} (h : s.onLog c)
    (e : s.nodeWord a x = (r, t)) : t.onLog c := by
  have hn := h.nodeWord a x
  rwa [e] at hn

theorem peekWord {k : Word → State → State} (h : s.onLog c) (a : Nat) (hk : ∀ w, Keeps c (k w)) :
    (s.peekWord a k).onLog c := by
  unfold State.peekWord
  split
  · next e => exact (h.atWord e).trap _ _
  · next pl s1 e =>
    have h2 := ((h.atWord e).performSame s1.cur s1.str pl.pa 8).prepareHome s1.cur pl.pa pl.grain
    dsimp only
    split
    · exact (h2.park _).enterWaiter _
    · split
      · exact h2.trap _ _
      · exact hk _ _ (h2.acquireAt _)

theorem readWord {k : Word → State → State} (h : s.onLog c) (a : Nat) (hk : ∀ w, Keeps c (k w)) :
    (s.readWord a k).onLog c := by
  unfold State.readWord
  split
  · next e => exact (h.atWord e).trap _ _
  · next pl s1 e =>
    have h2 := ((h.atWord e).performSame s1.cur s1.str pl.pa 8).prepareHome s1.cur pl.pa pl.grain
    dsimp only
    split
    · exact h2.trap _ _
    · exact hk _ _ (h2.acquireAt _)

theorem portPlaces {k : List Place → State → State} (hk : ∀ l, Keeps c (k l)) :
    ∀ (as : List Nat) (ps : List Place) {s : State}, s.onLog c → (s.portPlaces k as ps).onLog c
  | [], _, _, h => hk _ _ h
  | a :: rest, ps, s, h => by
    unfold State.portPlaces
    split
    · next e => exact (h.atWord e).trap _ _
    · next e => exact portPlaces hk rest _ (h.atWord e)

/-! ### Lanes and channels -/

theorem serveLanes (p : CoreId) : ∀ (n : Nat) {s : State}, s.onLog c → (s.serveLanes p n).onLog c
  | 0, _, h => h
  | n + 1, s, h => by
    unfold State.serveLanes
    dsimp only
    split
    · exact serveLanes p n (h.setCore _ _)
    · exact h

theorem withLanes {k : State → State} (h : s.onLog c) (cls : LaneClass) (hk : Keeps c k) :
    (s.withLanes cls k).onLog c := by
  have h1 : (if s.me.cls = .noLanes then s else s.releaseLanes s.cur s.str).onLog c := by
    split
    · exact h
    · exact h.setCore _ _
  unfold State.withLanes
  dsimp only
  generalize (if s.me.cls = .noLanes then s else s.releaseLanes s.cur s.str) = s1 at h1
  split
  · exact hk _ h
  · split
    · exact h.drained fun a ha => ha.park _
    · refine serveLanes _ _ (park ?_ _)
      split
      · exact h1
      · exact h1.setCore _ _

theorem setLatch (h : s.onLog c) (p : CoreId) (u : StrandId) : (s.setLatch p u).onLog c := by
  unfold State.setLatch
  split
  · exact h
  · exact h.setStrand _ _ _

theorem vsendAccepted (h : s.onLog c) (p : CoreId) (u : StrandId) : (s.vsendAccepted p u).onLog c := by
  unfold State.vsendAccepted
  dsimp only
  split
  · exact h.setStrand _ _ _
  · exact h

theorem accepted (h : s.onLog c) (p : CoreId) (u : StrandId) : (s.accepted p u).onLog c := by
  unfold State.accepted
  dsimp only
  split
  · exact h.setStrand _ _ _
  · exact h

theorem landAll (p : CoreId) : ∀ (l kept : List Deposit) {s : State}, s.onLog c → (s.landAll p l kept).onLog c
  | [], _, _, h => h.setCore _ _
  | d :: rest, kept, s, h => by
    have h2 : ((s.setCore p ((s.core p).land d)).setLatch p d.strand).onLog c := (h.setCore _ _).setLatch _ _
    unfold State.landAll
    dsimp only
    split
    · exact landAll p rest _ h
    · refine landAll p rest _ ?_
      split
      · exact h2.vsendAccepted _ _
      · exact h2.accepted _ _

theorem writeChanmap (h : s.onLog c) (p : CoreId) (u : StrandId) (m : BitVec 32) : (s.writeChanmap p u m).onLog c :=
  landAll p _ _ ((h.setStrand _ _ _).setCore _ _)

end State.onLog

end Sys2Proof.Machine
end

section
/-! Steps 2 to 8 of R29 leave a context under capture or replay there, or its flag set (R423, R424). -/

namespace Sys2Proof.Machine

variable {s : State} {c : CtxId}

namespace State.onLog

/-- A new record of any context, in capture or replay or with a flag where it is the context in question. -/
theorem setCtxOf (h : s.onLog c) (d : CtxId) (k : Ctx)
    (hk : c = d → k.replay.running ≠ 0 ∨ k.replay.ovf = true ∨ k.replay.diverged = true) : (s.setCtx d k).onLog c := by
  rcases eq_or_ne c d with rfl | hne
  · rw [State.onLog, State.ctx_setCtx]
    exact hk rfl
  · rw [State.onLog, State.ctx_setCtx_ne _ _ _ _ hne.symm]
    exact h

/-! ### Records and messages -/

theorem sendTo (h : s.onLog c) (d : CtxId) (l : Nat) (msg : CoreId → Msg) (held : HeldMsg) :
    (s.sendTo d l msg held).onLog c := by
  unfold State.sendTo
  dsimp only
  split
  · exact h.ofCtxs rfl
  · exact h.setCtx rfl

theorem diverge (h : s.onLog c) (d : CtxId) : (s.diverge d).onLog c := by
  unfold State.diverge
  dsimp only
  refine ofCtxs (h.setCtxOf d { s.ctx d with replay := { (s.ctx d).replay with running := 0, diverged := true } }
    fun _ => .inr (.inr rfl)) rfl

theorem pokeWords (h : s.onLog c) (f g : (Word × Word) × Nat → Nat) (l : List ((Word × Word) × Nat)) :
    (l.foldl (fun (a : State) w => (a.pokeWord (f w) w.1.1).pokeWord (g w) w.1.2) s).onLog c :=
  foldl _ (fun _ ha => (ha.pokeHome _ _).pokeHome _ _) l h

theorem logRecord (h : s.onLog c) (p : CoreId) (d : CtxId) (ws : List (Word × Word)) :
    (s.logRecord p d ws).onLog c := by
  unfold State.logRecord State.logRecordAt
  dsimp only
  split
  · exact h
  · split
    · exact h.setCtxOf d _ fun _ => .inr (.inl rfl)
    · refine setCtxOf (pokeHome (h.pokeWords _ _ _) _ _) d _ fun e => ?_
      subst e
      exact h

theorem wakeThief (h : s.onLog c) (l : Nat) (d : CtxId) : (s.wakeThief l d).onLog c := by
  unfold State.wakeThief
  dsimp only
  split
  · exact h
  · refine sendTo (setCtx h ?_) _ _ _ _
    rfl

theorem consume (h : s.onLog c) (p : CoreId) (d : CtxId) (n : Nat) : (s.consume p d n).onLog c := by
  have h1 : ∀ k : Ctx, k.replay = (s.ctx d).replay → (s.setCtx d k).onLog c := fun _ e => h.setCtx e
  unfold State.consume State.consumeAt
  dsimp only
  refine wakeThief ?_ _ _
  split
  · refine setCore (h1 _ ?_) _ _
    rfl
  · refine h1 _ ?_
    rfl

theorem orphan {b : Bool} {t : State} {x : Pair} {d : CtxId} (h : s.onLog c) (e : s.orphan d x = (b, t)) :
    t.onLog c := by
  have ho : (s.orphan d x).2.onLog c := by
    unfold State.orphan
    dsimp only
    split
    · exact h
    · exact (h.pokeHome _ _).pokeHome _ _
  rwa [e] at ho

/-! ### Steps 4 to 8 of R29 -/

theorem forwardLogged {k : State → State} (h : s.onLog c) (l : Nat) (hk : Keeps c k) :
    (s.forwardLogged l k).onLog c := by
  unfold State.forwardLogged
  dsimp only
  split
  · exact hk _ (h.logRecord _ _ _)
  · split
    · exact hk _ (h.consume _ _ _)
    · split
      · exact h.diverge _
      · exact h.park _

theorem forwardPair (h : s.onLog c) (x : Pair) (l : Nat) : (s.forwardPair x l).onLog c :=
  setMe (setMe (h.sendTo _ _ _ _) _) _

theorem capFail (h : s.onLog c) (x : Pair) (need : BitVec 128) (i : Nat) : (s.capFail x need i).onLog c := by
  unfold State.capFail
  split
  · exact h.forwardLogged _ fun a ha => ha.forwardPair _ _
  · split
    · next e => exact trap (setMe (setMe (h.orphan e) _) _) _ _
    · next e => exact (h.orphan e).trap _ _

theorem pairIllegal (h : s.onLog c) (a b : Nat) (v : Word) : (s.pairIllegal a b v).onLog c :=
  trap (setMe (h.setMe _) _) _ _

theorem enterHandler (h : s.onLog c) : s.enterHandler.onLog c := by
  unfold State.enterHandler
  split
  · exact h.withLanes _ fun a ha => ha.setMe _
  · exact h

theorem fireRule (h : s.onLog c) (x : Pair) (t1 t2 : Nat) (w v : Word) (hs : List Nat) :
    (s.fireRule x t1 t2 w v hs).onLog c := by
  unfold State.fireRule
  dsimp only
  split
  · exact h.pairIllegal _ _ _
  · split
    · exact h.capFail _ _ _
    · exact enterHandler (setMe (setMe (h.setMe _) _) _)

theorem primHandles {k : List Nat → State → State} (hk : ∀ l, Keeps c (k l)) :
    ∀ (l : List (Nat × Word)) (hs : List Nat) {s : State}, s.onLog c → (s.primHandles k l hs).onLog c
  | [], _, _, h => hk _ _ h
  | (a, v) :: rest, hs, s, h => by
    unfold State.primHandles
    split
    · exact h.peekWord _ fun w b hb => primHandles hk rest _ hb
    · exact primHandles hk rest _ h

theorem readRecords {k : List Nat → List Word → State → State} (hk : ∀ l ws, Keeps c (k l ws)) :
    ∀ (n a : Nat) (ns : List Nat) (ws : List Word) {s : State}, s.onLog c →
      (State.readRecords k n a ns ws s).onLog c
  | 0, _, _, _, _, h => hk _ _ _ h
  | n + 1, a, ns, ws, s, h => by
    unfold State.readRecords
    refine h.readWord _ fun w0 s0 h0 => h0.readWord _ fun w1 s1 h1 => h1.readWord _ fun w2 s2 h2 =>
      h2.readWord _ fun w3 s3 h3 => ?_
    split
    · exact h3.trap _ _
    · exact readRecords hk n _ _ _ h3

theorem resumeCont {bad : Nat → State → State} {cap : BitVec 128 → Nat → State → State} {done : Strand → Strand}
    (h : s.onLog c) (a r : Nat) (hbad : ∀ n, Keeps c (bad n)) (hcap : ∀ m n, Keeps c (cap m n)) :
    (s.resumeCont a r bad cap done).onLog c := by
  unfold State.resumeCont
  refine h.readWord _ fun w1 s1 h1 => h1.readWord _ fun w2 s2 h2 => h2.readWord _ fun w3 s3 h3 =>
    readRecords (fun ns ws s4 h4 => ?_) _ _ _ _ h3
  extract_lets n o
  split
  · exact hbad _ _ h4
  · split
    · exact hcap _ _ _ h4
    · refine h4.withLanes _ fun s5 h5 => portPlaces (fun pls s6 h6 => h6.afterRelease _ fun s7 h7 => ?_) _ _ h5
      split
      · exact h7.park _
      · exact writeChanmap (freeNodes _ (h7.setMe _)) _ _ _

theorem lookupRule {p : CoreId} {d : CtxId} {a b : Nat} {r : Option (Word × Word)} {t : State} (h : s.onLog c)
    (e : s.lookupRule p d a b = (r, t)) : t.onLog c := by
  have hl : (s.lookupRule p d a b).2.onLog c := by
    unfold State.lookupRule
    dsimp only
    split
    · exact h
    · dsimp only
      split
      · exact h.setCore _ _
      · exact h
  rwa [e] at hl

theorem fireFrom4 (h : s.onLog c) (x : Pair) (h1 h2 : Word) : (s.fireFrom4 x h1 h2).onLog c := by
  have hresume : ∀ a r, (s.resumeCont a r (fun n (z : State) => z.pairIllegal a r (word (2 ^ 63 + n)))
      (fun need i (z : State) => z.capFail x need i) id).onLog c := fun a r =>
    h.resumeCont a r (fun _ _ hz => hz.pairIllegal _ _ _) fun _ _ _ hz => hz.capFail _ _ _
  unfold State.fireFrom4
  dsimp only
  split
  · exact hresume _ _
  · split
    · exact hresume _ _
    · split
      · next e => exact (h.lookupRule e).pairIllegal _ _ _
      · next e => exact primHandles (fun hs z hz => hz.fireRule _ _ _ _ _ _) _ _ ((h.lookupRule e).setMe _)

theorem nextFires (h : s.onLog c) : s.nextFires.onLog c := by
  unfold State.nextFires
  split
  · exact h
  · split
    · exact h.enterHandler
    · split
      · exact h.peekWord _ fun h1 s0 h0 => h0.peekWord _ fun h2 s1 h1 => (h1.setMe _).fireFrom4 _ _ _
      · exact h.readWord _ fun h1 s0 h0 => h0.readWord _ fun h2 s1 h1 => h1.fireFrom4 _ _ _

/-! ### Step 2 of R29 -/

theorem askVictim (h : s.onLog c) (p : CoreId) (d : CtxId) (g : Nat) (l : List Nat) :
    (s.askVictim p d g l).onLog c := by
  unfold State.askVictim
  dsimp only
  split
  · exact (h.setCore _ _).sendTo _ _ _ _
  · exact (h.setCore _ _).setCtx rfl

theorem sweepOn (h : s.onLog c) (p : CoreId) (d : CtxId) : (s.sweepOn p d).onLog c := by
  unfold State.sweepOn
  split
  · exact h
  · dsimp only
    split
    · exact (h.setCore _ _).askVictim _ _ _ _
    · exact h.askVictim _ _ _ _

theorem hunt (h : s.onLog c) : s.hunt.onLog c := by
  unfold State.hunt
  dsimp only
  split
  · exact h.park _
  · exact sweepOn ((h.park _).setCore _ _) _ _

theorem refill (h : s.onLog c) (p : CoreId) (d : CtxId) : (s.refill p d).onLog c := by
  unfold State.refill
  dsimp only
  split
  · exact h
  · exact (h.setCore _ _).setCtx rfl

theorem fillSpilled (h : s.onLog c) (a : Nat) : (s.fillSpilled a).onLog c := by
  unfold State.fillSpilled
  split
  · exact h
  · exact (h.pokeHome _ _).setCore _ _

theorem obtained (h : s.onLog c) (x : Pair) (bag : List Pair) : (s.obtained x bag).onLog c :=
  logRecord (acquireAt (setMe (setMe (h.setCore _ _) _) _) _) _ _ _

theorem obtainLogged (h : s.onLog c) (w0 w1 : Word) : (s.obtainLogged w0 w1).onLog c := by
  have h1 := h.refill s.cur s.myCtx
  unfold State.obtainLogged
  dsimp only
  generalize s.refill s.cur s.myCtx = s1 at h1
  split
  · exact h.diverge _
  · split
    · exact h.park _
    · split
      · split
        · exact h1.diverge _
        · exact nextFires ((h1.obtained _ _).consume _ _ _)
      · split
        · exact h1.hunt
        · split
          · exact h1.diverge _
          · exact nextFires (((h1.fillSpilled _).obtained _ _).consume _ _ _)

theorem nextFalls (h : s.onLog c) : s.nextFalls.onLog c := acquireAt (h.setMe _) _

/-- Step 2 of R29, to its end. -/
theorem nextObtains (h : s.onLog c) : s.nextObtains.onLog c := by
  have h0 : (s.markNext 2).onLog c := h.setMe _
  have h1 := h0.refill (s.markNext 2).cur (s.markNext 2).myCtx
  unfold State.nextObtains
  dsimp only
  split
  · exact h0.nextFalls
  · split
    · exact h0.obtainLogged _ _
    · split
      · exact h1.hunt
      · exact nextFires (h1.obtained _ _)

end State.onLog

end Sys2Proof.Machine
end

section
/-! A pair whose first node is no node (R21): step 3 of R29 raises ALIGN, and step 2 has left memory alone. -/

namespace Sys2Proof.Machine

variable {s : State} {x : Pair} {bag : List Pair}

theorem State.mem_abortCtx (s : State) (c : CtxId) (n : Nat) : (s.abortCtx c n).mem = s.mem := by
  simp only [State.abortCtx, State.setCtx, State.orphanExt]

theorem State.mem_machineCheck (s : State) (k : Nat) (c : Option CtxId) (p : CoreId) (u : Option StrandId) (n : BitVec 16)
    (a pc : Word) : (s.machineCheck k c p u n a pc).mem = s.mem := by
  simp only [State.machineCheck, State.signal]

theorem State.mem_trap (s : State) (x : Cause) (v : Word) : (s.trap x v).mem = s.mem := by
  unfold State.trap State.trapEntry State.doubleTrap
  dsimp only
  split
  · rfl
  · split
    · split
      · rw [State.mem_abortCtx, State.mem_machineCheck]
      · rw [State.setMe_mem, State.mem_machineCheck]
    · rfl

theorem State.me_acquireAt (s : State) (sc : Scope) : (s.acquireAt sc).me = s.me := by
  unfold State.acquireAt State.acquire
  split
  · rfl
  · refine State.strand_setCore_same (s := s) ?_ s.cur s.str
    rfl

theorem State.mem_acquireAt (s : State) (sc : Scope) : (s.acquireAt sc).mem = s.mem := by
  unfold State.acquireAt State.acquire
  split <;> rfl

/-- A pair that has just been obtained fires from step 3 on. -/
theorem State.nextFires_obtained {t : Strand} (h : s.me = t.obtains x) : s.nextFires = s.firePair x := by
  unfold State.nextFires
  rw [h]
  rfl

theorem State.firePair_noNode (h : nodeOk (x.node1.toNat / 32 * 32) = false) :
    s.firePair x = s.trap .align (word (x.node1.toNat / 32 * 32)) := by
  have hn : s.nodeWord x.node1.toNat .peek = (.error (.align, word (x.node1.toNat / 32 * 32)), s) := by
    rw [State.nodeWord]
    exact if_pos (by rw [h]; rfl)
  rw [State.firePair, State.peekWord, hn]

/-- NEXT that obtains a pair of no node leaves memory as it is. -/
theorem State.mem_nextObtains_noNode (hcount : (s.ctx s.myCtx).count ≠ 0) (hrun : (s.ctx s.myCtx).replay.running = 0)
    (hbag : s.mine.bag = bag ++ [x]) (hx : nodeOk (x.node1.toNat / 32 * 32) = false) : s.nextObtains.mem = s.mem := by
  have hme : ((s.rebag bag (s.me.obtains x)).acquireAt .dev).me = s.me.obtains x :=
    (State.me_acquireAt ..).trans (State.me_setMe ..)
  calc s.nextObtains.mem
      = ((s.rebag bag (s.me.obtains x)).acquireAt .dev).nextFires.mem := by
        rw [State.nextObtains_takes hcount hrun hbag, State.obtained_acquires hrun]
    _ = ((s.rebag bag (s.me.obtains x)).acquireAt .dev).mem := by
        rw [State.nextFires_obtained hme, State.firePair_noNode hx, State.mem_trap]
    _ = s.mem := State.mem_acquireAt ..

/-- NEXT that falls through is at no step. -/
theorem State.nstep_nextObtains_falls (h : (s.ctx s.myCtx).count = 0) : s.nextObtains.me.nstep = 0 := by
  have hcount : ((s.markNext 2).ctx (s.markNext 2).myCtx).count = 0 := by
    rw [State.myCtx_markNext]
    exact h
  rw [State.nextObtains]
  dsimp only
  rw [if_pos hcount, State.nextFalls, State.me_acquireAt, State.me_setMe]
  rfl

/-- Of a strand that has not fallen through, with no capture, replay or flag of theirs, in no context: step 2 of R29 took the
hottest pair, and where that has no node it left memory alone. -/
theorem State.mem_of_nextObtains (hbag : s.mine.bag = bag ++ [x]) (hx : nodeOk (x.node1.toNat / 32 * 32) = false)
    (hstep : s.nextObtains.me.nstep ≠ 0) (hlog : ∀ c, ¬ s.nextObtains.onLog c) : s.nextObtains.mem = s.mem := by
  have hcount : (s.ctx s.myCtx).count ≠ 0 := fun h => hstep (State.nstep_nextObtains_falls h)
  have hrun : (s.ctx s.myCtx).replay.running = 0 := by
    by_contra h
    exact hlog s.myCtx (State.onLog.nextObtains (.inl h))
  exact State.mem_nextObtains_noNode hcount hrun hbag hx

end Sys2Proof.Machine
end

section
/-! A strand whose object directory overlaps the full/empty store: where YIELD takes its 17 nodes from the free list,
the bits that it sets change the directory that it reads the handle of CONT from (R24, R189, R194, R195). -/

namespace Sys2Proof.Machine

/-! ### The state -/

/-- The directory of the objects: entry 1 lies where the full/empty store keeps the bits of the nodes from 0x60000 on. -/
def overlapDir : Nat := feBase + 0x17e0

/-- The 17 nodes that head the free list. -/
def overlapNodes : List Nat := (List.range 17).map fun j => 0x60000 + 32 * j

/-- A strand in a firing, 2^32 bytes past the start of the directory. -/
def overlapStrand : Strand := { Strand.reset with
  pc := BitVec.ofNat 64 (overlapDir + 2 ^ 32), priv := 1, halted := false, firing := some ⟨0x70000, 0x70020, 1⟩ }

/-- A core with that strand, which translates low addresses onto themselves. Its saddlebag holds a pair of no nodes. -/
def overlapCore : Core := { Core.reset with
  strands := Core.reset.strands.set 0 overlapStrand
  serves := some 0
  npool := 0x3000
  bag := [⟨0, 0, 0⟩]
  tlb := [⟨none, 0, 0, 2 ^ 32, 0, 32, false, true, true⟩] }

def overlapCtx : Ctx := { Ctx.reset with
  entry := { CtxEntry.zero with valid := true, arenaBase := overlapDir, arenaBound := overlapDir }
  count := 1 }

/-- The links of the first 16 nodes, and entry 2 of the directory: an object of 15 bytes that holds the strand's pc. -/
def overlapMem : Memory :=
  ((List.range 16).foldl (fun (m : Memory) j => m.write (0x60000 + 32 * j) (leBytes 8 (0x6002 + 2 * j))) []).write
    (overlapDir + 64) (leBytes 8 0x80000000ffffffff ++ leBytes 8 15)

def overlapState : State := { (State.reset.setCore 0 overlapCore).setCtx 0 overlapCtx with mem := overlapMem }

/-- No context is under capture or replay, and none shows how one of them ended. -/
def State.quietLogs (s : State) : Bool :=
  s.ctxs.toList.all fun k => decide (k.replay.running = 0) && !k.replay.ovf && !k.replay.diverged

theorem State.quietLogs.not_onLog {s : State} (h : s.quietLogs = true) (c : CtxId) : ¬ s.onLog c := by
  have hc := List.all_eq_true.mp h (s.ctx c) (Vector.mem_toList_iff.mpr (Vector.getElem_mem c.isLt))
  simp only [Bool.and_eq_true, Bool.not_eq_true', decide_eq_true_eq] at hc
  rw [State.onLog]
  simp [hc]

/-! ### What it does -/

/-- YIELD names object 1 in word 2 of CONT, and NEXT stands at step 3, stopped by the pair of no nodes. -/
theorem overlapState_yields : (overlapState.yield.homeWord 0x60010, overlapState.yield.me.nstep,
    overlapState.yield.quietLogs) = (0x10004, 3, true) := by decide +kernel

/-! ### What it meets -/

theorem overlapState_calm : overlapState.calm = true := by decide +kernel

theorem overlapState_core (p : CoreId) : overlapState.core p = if 0 = p then overlapCore else State.reset.core p :=
  State.core_setCore_ite State.reset 0 p overlapCore

theorem overlapState_memOk : overlapState.memOk := by
  refine ⟨by decide +kernel, fun p => ?_⟩
  rw [overlapState_core]
  split
  · decide
  · exact State.reset_memOk.2 p

theorem overlapState_tlbOk : overlapState.tlbOk := by
  refine ⟨fun p e he => ?_, nofun⟩
  rw [overlapState_core] at he
  split at he
  · obtain rfl := List.mem_singleton.mp he
    decide
  · simp [State.core, State.reset, Core.reset] at he

/-- An operation on a port word whose translation the core holds leaves the state as it is. -/
theorem State.nodeWord_held {s : State} {a : Nat} {k : Acc}
    (h : (s.mine.tlb.find? fun (e : TlbEntry) => decide (e.bank = none ∧ e.ctx = s.myCtx ∧ e.base ≤ (word a).toNat ∧
      (word a).toNat < e.base + e.size)).isSome = true) :
    (s.nodeWord a k).2 = s := by
  obtain ⟨e, he⟩ := Option.isSome_iff_exists.mp h
  have hlookup : ∀ root, (s.lookup s.cur s.myCtx root (word a)).2 = s := by
    intro root
    unfold State.lookup
    split
    · rfl
    · rw [State.mine] at he
      rw [he]
  have hplace : (s.place s.cur s.myCtx s.isRuntime false (word a) 8 k).2 = s := by
    rw [State.place_state]
    exact hlookup _
  unfold State.nodeWord
  dsimp only
  split
  · rfl
  · split
    · next hp =>
      rw [hp] at hplace
      exact hplace
    · next hp =>
      rw [hp] at hplace
      exact hplace

/-- The nodes are whole, in HBM, and pass their checks. -/
theorem overlapState_nodes : ∀ a ∈ overlapNodes, a % 32 = 0 ∧ ∀ j < 4, onDevice (id a) = true ∧
    id (a + 8 * j) = id a + 8 * j ∧
    overlapState.nodeWord (a + 8 * j) .peek = (.ok ⟨id a + 8 * j, false, 32⟩, overlapState) ∧
    overlapState.nodeWord (a + 8 * j) .change = (.ok ⟨id a + 8 * j, false, 32⟩, overlapState) := by
  have hall : ∀ a ∈ overlapNodes, a % 32 = 0 ∧ ∀ j < 4, onDevice a = true ∧
      (overlapState.nodeWord (a + 8 * j) .peek).1 = .ok ⟨a + 8 * j, false, 32⟩ ∧
      (overlapState.nodeWord (a + 8 * j) .change).1 = .ok ⟨a + 8 * j, false, 32⟩ ∧
      (overlapState.mine.tlb.find? fun (e : TlbEntry) => decide (e.bank = none ∧ e.ctx = overlapState.myCtx ∧
        e.base ≤ (word (a + 8 * j)).toNat ∧ (word (a + 8 * j)).toNat < e.base + e.size)).isSome = true := by
    decide +kernel
  intro a ha
  obtain ⟨hnode, hwords⟩ := hall a ha
  refine ⟨hnode, fun j hj => ?_⟩
  obtain ⟨hdev, hpeek, hchange, hheld⟩ := hwords j hj
  exact ⟨hdev, rfl, Prod.ext hpeek (State.nodeWord_held hheld), Prod.ext hchange (State.nodeWord_held hheld)⟩

/-- The first 17 nodes of the free list are full and without an error, each linked to the next. -/
theorem overlapState_free : overlapState.mine.npool.toNat * 32 = overlapNodes.getD 0 0 ∧
    (∀ j < 17, overlapState.isBad (id (overlapNodes.getD j 0)) 32 = false ∧
      ∀ i < 4, overlapState.isFull (id (overlapNodes.getD j 0) + 8 * i) = true) ∧
    ∀ j < 16, linkNode (overlapState.homeWord (id (overlapNodes.getD j 0))) = overlapNodes.getD (j + 1) 0 := by
  refine ⟨?_, ?_, ?_⟩ <;> decide +kernel

end Sys2Proof.Machine
end

section
namespace Sys2Proof.Machine

/-! ### The obligation -/

/-- No state whose word 2 of CONT names object 2 goes on by step 2 of R29 to the state that YIELD leaves. -/
theorem overlapState_yield_ne {b : State} {x : Pair} (hbag : b.mine.bag = [x, ⟨0, 0, 0⟩])
    (hword : b.homeWord 0x60010 = 0x20004) : overlapState.yield ≠ b.nextObtains := by
  intro h
  have hout := overlapState_yields
  rw [Prod.mk.injEq, Prod.mk.injEq, h] at hout
  obtain ⟨hname, hstep, hquiet⟩ := hout
  have hmem : b.nextObtains.mem = b.mem :=
    State.mem_of_nextObtains (bag := [x]) hbag (by decide) (by rw [hstep]; decide)
      (State.quietLogs.not_onLog hquiet)
  have hhome : ∀ s : State, s.homeWord 0x60010 = word (fromLe (s.mem.read 0x60010 8)) := fun _ => rfl
  rw [hhome, hmem, ← hhome, hword] at hname
  exact absurd hname (by decide)

/-- Refutes O45: YIELD reads the handle of CONT once it has taken its 17 nodes from the free list. Where the directory of the
objects overlaps the full/empty store, taking them has changed the handle from 2 to 1. -/
theorem not_continuationsAndForwards : ¬ Obligations.ContinuationsAndForwards := by
  unfold Obligations.ContinuationsAndForwards
  intro h
  obtain ⟨-, -, hyield, -⟩ := h overlapState 0 0 ⟨0x70000, 0x70020, 1⟩ id overlapNodes
    (overlapNodes.map fun a => ⟨id a, false, 32⟩) overlapState_calm overlapState_memOk overlapState_tlbOk rfl rfl
    (by decide +kernel) (by decide +kernel)
  obtain ⟨t, ht, b, hb, hnodes, hbag, -⟩ := hyield
    ⟨rfl, by decide +kernel, by decide +kernel, rfl, overlapState_nodes⟩ (by decide +kernel)
    (.inr ⟨.inl (by decide +kernel), overlapState_free⟩) (by decide +kernel) (by decide +kernel) (by decide +kernel)
    (by decide +kernel)
  have hexec : exec .yield overlapState = .next overlapState.yield :=
    congrArg Host.Outcome.next (if_neg (by decide +kernel))
  have hbefore : overlapState.mine.bag = [⟨0, 0, 0⟩] := by decide +kernel
  rw [hexec, Host.Outcome.next.injEq] at ht
  rw [hbefore] at hbag
  -- Before YIELD, entry 2 of the directory is the first that holds the pc.
  have hword : b.homeWord 0x60010 = 0x20004 := ((hnodes 0 (by decide) 2 (by decide)).2).trans (by decide +kernel)
  exact overlapState_yield_ne hbag hword (ht.trans hb)

end Sys2Proof.Machine
end

section
/-! Entries that run in the arrays (R205): the lanes that an entry changes one by one, what a write of chosen lanes and the
latches after it leave, and the state in which such an entry ends (R167, R200, R204, R331). -/

namespace Sys2Proof.Machine

/-! ### Some lanes of a partition changed -/

/-- The lanes 0 to n - 1 of a partition are what g makes of the old ones, and no other lane and nothing else of the core
changes but what it notes of parity mismatches. -/
structure Core.LanesBecome (part : List ArrayId) (n : Nat) (g : Nat → Lane → Lane) (c d : Core) : Prop where
  rest : d = { c with lanes := d.lanes, mismatched := d.mismatched }
  wf : mapWfFrom Lane.zero 0 d.lanes = true
  lane : ∀ j < 256 * part.length, d.lane part j = if j < n then g j (c.lane part j) else c.lane part j
  outside : ∀ b col, b ∉ part → col < 256 → d.laneAt b col = c.laneAt b col

theorem Core.setLane_laneAt {c : Core} {part : List ArrayId} {b : ArrayId} {col : Nat} (i : Nat) (l : Lane)
    (hw : mapWfFrom Lane.zero 0 c.lanes = true) (hb : b ∉ part) (hcol : col < 256) :
    (c.setLane part i l).laneAt b col = c.laneAt b col := by
  unfold Core.setLane
  split
  · next a ha =>
    refine mapGet_mapSet_ne_from _ _ _ hw fun hkey => hb ?_
    rw [(laneKey_inj hcol (Nat.mod_lt i (by decide)) hkey).1]
    exact List.mem_of_getElem? ha
  · rfl

/-- Without a mismatch in a core, rows written leave none (R204). -/
theorem Core.regen_clean {c : Core} (h : c.parityBad = []) (part : List ArrayId) (rows : List (Nat × Nat))
    (sel : Nat → Bool) : ∃ m, c.regen part rows sel = { c with mismatched := m } := by
  obtain ⟨b, m, hregen⟩ := c.regen_rest part rows sel
  have hclean : (c.regen part rows sel).parityBad = [] := by
    unfold Core.regen
    split
    · exact h
    · simp only [h, List.filter_nil]
  rw [hregen] at hclean
  exact ⟨m, by rw [hregen, show b = [] from hclean, h]⟩

namespace Core.LanesBecome
variable {part : List ArrayId} {n : Nat} {g h : Nat → Lane → Lane} {c d e : Core}

theorem refl (hw : mapWfFrom Lane.zero 0 c.lanes = true) : LanesBecome part n (fun _ l => l) c c :=
  ⟨rfl, hw, fun _ _ => (ite_self _).symm, fun _ _ _ _ => rfl⟩

theorem trans (hcd : LanesBecome part n g c d) (hde : LanesBecome part n h d e) :
    LanesBecome part n (fun j l => h j (g j l)) c e := by
  refine ⟨by rw [hde.rest, hcd.rest], hde.wf, fun j hj => ?_, fun b col hb hcol =>
    (hde.outside b col hb hcol).trans (hcd.outside b col hb hcol)⟩
  rw [hde.lane j hj, hcd.lane j hj]
  split <;> rfl

/-- The lanes that a test selects, each changed in turn. -/
theorem update (sel : Nat → Bool) (f : Nat → Lane → Lane) (hw : mapWfFrom Lane.zero 0 c.lanes = true) (hn : part.Nodup)
    (hlen : n ≤ 256 * part.length) : LanesBecome part n (fun j l => if sel j then f j l else l) c
      (c.updateLanes part id f ((List.range n).filter sel)) := by
  have hkept : mapWfFrom Lane.zero 0 (c.updateLanes part id f ((List.range n).filter sel)).lanes = true ∧
      ∀ b col, b ∉ part → col < 256 →
        (c.updateLanes part id f ((List.range n).filter sel)).laneAt b col = c.laneAt b col := by
    refine foldl_keeps (fun d : Core => mapWfFrom Lane.zero 0 d.lanes = true ∧
      ∀ b col, b ∉ part → col < 256 → d.laneAt b col = c.laneAt b col) _ (fun d x hd => ?_) _ c
      ⟨hw, fun _ _ _ _ => rfl⟩
    exact ⟨Core.setLane_wf _ _ _ hd.1, fun b col hb hcol =>
      (Core.setLane_laneAt _ _ hd.1 hb hcol).trans (hd.2 b col hb hcol)⟩
  have hrest := Core.updateLanes_rest part id f c ((List.range n).filter sel)
  refine ⟨by rw [hrest], hkept.1, fun j hj => ?_, hkept.2⟩
  have hnodup : (((List.range n).filter sel).map id).Nodup := by
    rw [List.map_id]
    exact List.nodup_range.filter _
  have hbound : ∀ x ∈ (List.range n).filter sel, id x < 256 * part.length := fun x hx =>
    (List.mem_range.mp (List.mem_of_mem_filter hx)).trans_le hlen
  rw [Core.lane_updateLanes id f hn hw hbound hnodup hj]
  by_cases hmem : j ∈ (List.range n).filter sel
  · obtain ⟨hjn, hsel⟩ := List.mem_filter.mp hmem
    obtain ⟨x, hfind⟩ := Option.isSome_iff_exists.mp (List.find?_isSome (p := fun x => decide (id x = j)).mpr
      ⟨j, hmem, decide_eq_true rfl⟩)
    have hx := List.find?_some hfind
    obtain rfl : x = j := of_decide_eq_true hx
    rw [hfind, if_pos (List.mem_range.mp hjn), if_pos hsel]
    rfl
  · have hfind : ((List.range n).filter sel).find? (fun x => decide (id x = j)) = none :=
      List.find?_eq_none.mpr fun x hx hxj => hmem (of_decide_eq_true hxj ▸ hx)
    rw [hfind]
    rw [List.mem_filter, List.mem_range] at hmem
    by_cases hjn : j < n
    · rw [if_pos hjn, if_neg fun hsel => hmem ⟨hjn, hsel⟩]
      rfl
    · rw [if_neg hjn]
      rfl

/-- Rows regenerated change no lane. -/
theorem regen (hcd : LanesBecome part n g c d) (hclean : c.parityBad = []) (rows : List (Nat × Nat)) (sel : Nat → Bool) :
    LanesBecome part n g c (d.regen part rows sel) := by
  obtain ⟨m, hm⟩ := Core.regen_clean (c := d) (by rw [hcd.rest, hclean]) part rows sel
  rw [hm]
  exact ⟨by rw [hcd.rest], hcd.wf, hcd.lane, hcd.outside⟩

end Core.LanesBecome

/-! ### What writes and latches do to the lanes of an environment -/

/-- The lanes of an environment are in their canonical form, and its partition has a place for each one below VLEN. -/
structure VEnv.Fits (v : VEnv) : Prop where
  wf : mapWfFrom Lane.zero 0 v.core.lanes = true
  nodup : v.part.Nodup
  bound : v.vlen ≤ 256 * v.part.length

/-- The lanes below VLEN are what g makes of the old ones (R201). -/
def VEnv.leaves (v : VEnv) (g : Nat → Lane → Lane) (d : Core) : Prop := v.core.LanesBecome v.part v.vlen g d

/-- Lane i after a write of the selected lanes. -/
def VEnv.wrote (v : VEnv) (sel : Nat → Bool) (f : Nat → Lane → Lane × VFlags) (i : Nat) (l : Lane) : Lane :=
  if sel i then (f i (v.lane i)).1 else l

theorem VEnv.write_core (v : VEnv) (sel : Nat → Bool) (f : Nat → Lane → Lane × VFlags) :
    (v.write sel f).core =
      v.core.updateLanes v.part id (fun i _ => (f i (v.lane i)).1) ((List.range v.vlen).filter sel) := by
  simp only [VEnv.write, Core.updateLanes, List.foldl_filter, id]
  refine (List.foldl_hom Prod.fst fun a i => ?_).symm
  split <;> rfl

theorem VEnv.write_flags (v : VEnv) (sel : Nat → Bool) (f : Nat → Lane → Lane × VFlags) :
    (v.write sel f).flags =
      (List.range v.vlen).foldl (fun fl i => if sel i then fl ||| (f i (v.lane i)).2 else fl) 0 := by
  refine (List.foldl_hom Prod.snd fun a i => ?_).symm
  split <;> rfl

/-- Of one flag, which any selected lane may raise, nothing else is set. -/
theorem VEnv.write_flag {v : VEnv} {sel : Nat → Bool} {f : Nat → Lane → Lane × VFlags} {raises : Nat → Bool} {fl : VFlags}
    (h : ∀ i, (f i (v.lane i)).2 = if raises i then fl else 0) :
    (v.write sel f).flags = if (List.range v.vlen).any fun i => sel i && raises i then fl else 0 := by
  simp only [VEnv.write_flags, h]
  induction v.vlen with
  | zero => rfl
  | succ n ih =>
    simp only [List.range_succ, List.foldl_append, ih, List.any_append, List.foldl_cons, List.foldl_nil, List.any_cons,
      List.any_nil]
    generalize ((List.range n).any fun i => sel i && raises i) = before
    cases before <;> cases sel n <;> cases raises n <;> simp

theorem VEnv.write_unflagged {v : VEnv} {sel : Nat → Bool} {f : Nat → Lane → Lane × VFlags}
    (h : ∀ i, (f i (v.lane i)).2 = 0) : (v.write sel f).flags = 0 :=
  (VEnv.write_flag (raises := fun _ => false) h).trans (ite_self _)

theorem VEnv.Fits.write {v : VEnv} (h : v.Fits) (sel : Nat → Bool) (f : Nat → Lane → Lane × VFlags) :
    v.leaves (v.wrote sel f) (v.write sel f).core := by
  rw [VEnv.write_core]
  exact .update sel _ h.wf h.nodup h.bound

/-- The core in which an entry of the arrays ends that leaves the lanes of c (R200, R204, R331). -/
def VEnv.ends (v : VEnv) (i : Instr) (c : Core) : Core :=
  v.latched i (vspec i v.cfg) v.w true (v.rewritten i (vspec i v.cfg) c)

/-- Lane j of an entry that has run, its latches among what it leaves. -/
def VEnv.settled (v : VEnv) (i : Instr) (j : Nat) (l : Lane) : Lane :=
  if v.gate (vspec i v.cfg).gate j then v.latches i v.w true j l else l

theorem VEnv.Fits.ends {v : VEnv} (h : v.Fits) (hclean : v.core.parityBad = []) (i : Instr) {g : Nat → Lane → Lane}
    {c : Core} (hc : v.leaves g c) : v.leaves (fun j l => v.settled i j (g j l)) (v.ends i c) := by
  have hlatched : v.ends i c = (v.rewritten i (vspec i v.cfg) c).updateLanes v.part id (v.latches i v.w true)
      ((List.range v.vlen).filter (v.gate (vspec i v.cfg).gate)) := by
    simp only [VEnv.ends, VEnv.latched, Core.updateLanes, List.foldl_filter, id]
  have hrewritten : v.leaves g (v.rewritten i (vspec i v.cfg) c) := hc.regen hclean ..
  rw [hlatched]
  exact hrewritten.trans (.update _ _ hrewritten.wf h.nodup h.bound)

theorem Lane.withCarry_shown (l : Lane) (b : Bool) : (l.withCarry b).shown = l.shown := rfl

theorem Lane.withPrivate_shown (l : Lane) (n : Nat) (b : Bool) : (l.withPrivate n b).shown = l.shown := rfl

/-- The latches hold C and the P rows alone (R200, R331). -/
theorem VEnv.latches_shown (v : VEnv) (i : Instr) (k : Nat) (all : Bool) (j : Nat) (l : Lane) :
    (v.latches i k all j l).shown = l.shown := by
  cases i with
  | vadd | vsub | vrsub =>
    simp only [VEnv.latches, apply_ite Lane.shown, Lane.withCarry_shown, Lane.withPrivate_shown, ite_self]
  | _ => rfl

theorem VEnv.settled_shown (v : VEnv) (i : Instr) (j : Nat) (l : Lane) : (v.settled i j l).shown = l.shown := by
  unfold VEnv.settled
  split
  · exact v.latches_shown i v.w true j l
  · rfl

/-! ### The state in which an entry of the arrays ends -/

/-- The instructions whose entries run in the arrays as soon as they may begin (R205). -/
def runsInArrays : Instr → Bool
  | .vadd _ | .vsub _ | .vrsub _ | .vmul _ | .vmulh _ | .vmac _ | .vdiv _ | .vrem _ | .vmin _ | .vmax _ | .vsadd _ | .vssub _
  | .vavg _ | .vabs _ | .vneg _ | .vpopc _ | .vclz _ | .vand _ | .vor _ | .vxor _ | .vnot _ | .vsll _ | .vsrl _ | .vsra _
  | .vmv _ | .vmerge _ | .vsplat _ _ _ _ | .vidx _ _ _ | .vcmpeq _ | .vcmpne _ | .vcmplt _ | .vcmple _ | .vcmpgt _
  | .vcmpge _ | .mand _ _ _ | .mor _ _ _ | .mxor _ _ _ | .mnot _ _ | .mset _ | .mpopc _ _ _ | .mfirst _ _ _
  | .vmatch _ _ _ _ | .vwrite _ _ _ _ | .tgmovToMask _ _ | .tgmovToTag _ _ => true
  | _ => false

section
variable {s : State} {p : CoreId} {t : StrandId} {e : QEntry} {i : Instr}

theorem State.mayRun.fits (h : s.mayRun p t e i) : (s.headEnv p t e).Fits := by
  obtain ⟨-, -, -, -, -, -, -, -, -, hwf, hnodup, hbound⟩ := h
  exact ⟨hwf, hnodup, hbound⟩

/-- One that may begin has its strand's queue, and nothing stops it. -/
theorem State.mayRun.ready (h : s.mayRun p t e i) : (∃ rest, (s.strand p t).queue = e :: rest) ∧
    e.instr = some i ∧ ((s.strand p t).head.isSome || (s.strand p t).vfault.isSome || (s.strand p t).dbgHalted ||
      s.saving p || !(s.core p).arrivedAll e) = false := by
  obtain ⟨hq, hdecode, hhead, hfault, hdbg, hsave, hall, -⟩ := h
  refine ⟨List.head?_eq_some_iff.mp hq, QEntry.instr_of_decode hdecode, ?_⟩
  simp only [hhead, hfault, hdbg, hsave, hall, Option.isSome_none, Bool.or_false, Bool.not_true]

theorem State.mayRun.beginHead_array (h : s.mayRun p t e i) (hi : runsInArrays i = true) :
    s.beginHead p t = s.runArray p t e i := by
  obtain ⟨⟨rest, hrest⟩, hinstr, hready⟩ := h.ready
  unfold runsInArrays at hi
  split at hi
  case h_46 => cases hi
  all_goals simp only [State.beginHead, hrest, hready, hinstr, Bool.false_eq_true, if_false]

theorem State.mayRun.beginHead_vtt {o : VttArgs} (h : s.mayRun p t e (.vtt o))
    (hok : (s.headEnv p t e).slots[o.slot.toFin].any (stepTooFar (s.headEnv p t e).cfg.g) = false) :
    s.beginHead p t = s.runArray p t e (.vtt o) := by
  obtain ⟨⟨rest, hrest⟩, hinstr, hready⟩ := h.ready
  have hslot : vttOk (s.headEnv p t e) o = true := by rw [vttOk, hok]; rfl
  simp only [State.beginHead, hrest, hready, hinstr, hslot, Bool.false_eq_true, if_false, if_true]

/-- What the run of an entry leaves, where it changes no strand of its core and no accumulator. -/
theorem State.mayRun.runArray_eq (h : s.mayRun p t e i) {c : Core}
    (hc : (s.headEnv p t e).ends i (vrun i (s.headEnv p t e)).core = c) (hstrands : c.strands = (s.core p).strands)
    (hacc : (vrun i (s.headEnv p t e)).acc = (s.headEnv p t e).acc) :
    s.runArray p t e i = (s.setCore p c).setStrand p t { s.strand p t with
      head := some { HeadRun.start with result := (vrun i (s.headEnv p t e)).result, finished := true }
      vstat := (s.strand p t).vstat ||| (vrun i (s.headEnv p t e)).flags } := by
  obtain ⟨-, -, hhead, -, -, -, -, hbad, hfailed, -⟩ := h
  have hclean : (s.headEnv p t e).parityError i (vspec i (s.headEnv p t e).cfg) 0 = none := if_pos ⟨hbad, hfailed⟩
  have hstrand : (s.setCore p c).strand p t = s.strand p t := State.strand_setCore hstrands p t
  rw [VEnv.ends] at hc
  simp only [State.runArray, hclean, ite_self, hc, hstrand, State.headDone, State.strand_setStrand,
    State.setStrand_setStrand, hhead, hacc]
  rfl

/-- An entry that runs in the arrays finishes at once: its lanes are what it leaves and what its latches hold. -/
theorem State.mayRun.completes_array (h : s.mayRun p t e i) (hrun : s.beginHead p t = s.runArray p t e i)
    {g : Nat → Lane → Lane} (hlanes : (s.headEnv p t e).leaves g (vrun i (s.headEnv p t e)).core)
    (hacc : (vrun i (s.headEnv p t e)).acc = (s.headEnv p t e).acc) :
    completes (.vqEntryExecute p t) s fun a =>
      s.ran p t e g (vrun i (s.headEnv p t e)).flags (vrun i (s.headEnv p t e)).result a ∧
        ∀ k < e.vlen.toNat, (a.core p).lane e.part k =
          (s.headEnv p t e).settled i k (g k ((s.core p).lane e.part k)) := by
  have hbad : (s.core p).parityBad = [] := by obtain ⟨-, -, -, -, -, -, -, hbad, -⟩ := h; exact hbad
  have hbound : e.vlen.toNat ≤ 256 * e.part.length := h.fits.bound
  have hend := h.fits.ends hbad i hlanes
  obtain ⟨c, hc⟩ : ∃ c, (s.headEnv p t e).ends i (vrun i (s.headEnv p t e)).core = c := ⟨_, rfl⟩
  rw [hc] at hend
  have hstate := h.runArray_eq hc (by rw [hend.rest]; rfl) hacc
  have hlanes (st : Strand) : (((s.setCore p c).setStrand p t st).core p).lanes = c.lanes := by
    rw [State.setStrand_core_lanes, State.core_setCore]
  have hlane (st : Strand) (k : Nat) (hk : k < 256 * e.part.length) := (Core.lane_congr (hlanes st) e.part k).trans
    (hend.lane k hk)
  refine completes_of_next_eq rfl (hrun.trans hstate) ⟨⟨?_, fun k hk => ?_, fun k hk hv => ?_, fun b col hb hcol => ?_⟩,
    fun k hk => ?_⟩
  · rw [State.setStrand_core_lanes, State.setStrand_core_mismatched, State.core_setCore]
    exact congrArg (fun c => (s.setCore p c).setStrand p t _) hend.rest
  · rw [hlane _ k (hk.trans_le hbound), if_pos (show k < (s.headEnv p t e).vlen from hk)]
    exact VEnv.settled_shown ..
  · rw [hlane _ k hk, if_neg (show ¬k < (s.headEnv p t e).vlen from Nat.not_lt.mpr hv)]
    rfl
  · rw [Core.laneAt, hlanes]
    exact hend.outside b col hb hcol
  · rw [hlane _ k (hk.trans_le hbound), if_pos (show k < (s.headEnv p t e).vlen from hk)]
    rfl

/-- What is said of each lane below VLEN is all that a head's run is told by. -/
theorem State.ran.congr {f g : Nat → Lane → Lane} {fl : BitVec 5} {x : Option Word} {a : State}
    (h : s.ran p t e f fl x a) (hfg : ∀ k < e.vlen.toNat, f k ((s.core p).lane e.part k) = g k ((s.core p).lane e.part k)) :
    s.ran p t e g fl x a := by
  obtain ⟨hstate, hshown, hbeyond, houtside⟩ := h
  exact ⟨hstate, fun k hk => by rw [hshown k hk, hfg k hk], hbeyond, houtside⟩

/-- An entry that writes chosen lanes. -/
theorem State.mayRun.completes_write (h : s.mayRun p t e i) (hrun : s.beginHead p t = s.runArray p t e i)
    {sel : Nat → Bool} {f : Nat → Lane → Lane × VFlags} {g : Nat → Lane → Lane} {fl : VFlags}
    (hv : vrun i (s.headEnv p t e) = (s.headEnv p t e).write sel f)
    (hfl : ((s.headEnv p t e).write sel f).flags = fl)
    (hg : ∀ k < e.vlen.toNat, (if sel k = true then (f k ((s.core p).lane e.part k)).1 else (s.core p).lane e.part k) =
      g k ((s.core p).lane e.part k)) :
    completes (.vqEntryExecute p t) s (s.ran p t e g fl none) := by
  obtain ⟨a, hx, hran, -⟩ := h.completes_array hrun (hv ▸ h.fits.write sel f) (by rw [hv]; rfl)
  rw [hv, hfl] at hran
  exact ⟨a, hx, hran.congr hg⟩

/-- An entry that changes no lane and gives an x result. -/
theorem State.mayRun.completes_toX (h : s.mayRun p t e i) (hi : runsInArrays i = true) {x : Word}
    (hv : vrun i (s.headEnv p t e) = (s.headEnv p t e).toX x 0) :
    completes (.vqEntryExecute p t) s (s.ran p t e (fun _ l => l) 0 (some x)) := by
  obtain ⟨a, hx, hran, -⟩ := h.completes_array (h.beginHead_array hi) (by rw [hv]; exact .refl h.fits.wf) (by rw [hv]; rfl)
  rw [hv] at hran
  exact ⟨a, hx, hran⟩

theorem State.headEnv_active {k : Nat} (hk : k < e.vlen.toNat) (vm : BitVec 3) :
    (s.headEnv p t e).active vm k = ((s.core p).lane e.part k).mask vm :=
  (congrArg (· && _) (decide_eq_true hk)).trans (Bool.true_and _)

/-- An entry that writes active lanes. -/
theorem State.mayRun.completes_active (h : s.mayRun p t e i) (hi : runsInArrays i = true) {vm : BitVec 3}
    {f : Nat → Lane → Lane × VFlags} {g : Nat → Lane → Lane} {fl : VFlags}
    (hv : vrun i (s.headEnv p t e) = (s.headEnv p t e).write ((s.headEnv p t e).active vm) f)
    (hfl : ((s.headEnv p t e).write ((s.headEnv p t e).active vm) f).flags = fl) (hg : ∀ k l, (f k l).1 = g k l) :
    completes (.vqEntryExecute p t) s (s.ran p t e (fun k l => if l.mask vm then g k l else l) fl none) := by
  refine h.completes_write (h.beginHead_array hi) hv hfl fun k hk => ?_
  rw [State.headEnv_active hk, hg]

/-- An entry that writes every lane below VLEN, whatever the masks. -/
theorem State.mayRun.completes_all (h : s.mayRun p t e i) (hi : runsInArrays i = true) {f : Nat → Lane → Lane}
    (hv : vrun i (s.headEnv p t e) = (s.headEnv p t e).write (fun _ => true) fun k l => (f k l, 0)) :
    completes (.vqEntryExecute p t) s (s.ran p t e f 0 none) :=
  h.completes_write (h.beginHead_array hi) hv (VEnv.write_unflagged fun _ => rfl) fun _ _ => if_pos rfl

/-- An entry that writes elements of w bits to a group in active lanes. -/
theorem State.mayRun.completes_each (h : s.mayRun p t e i) (hi : runsInArrays i = true) {w : Nat}
    (hw : (s.headEnv p t e).w = w) {vd : BitVec 5} {vm : BitVec 3} {f : Nat → Nat × VFlags} {x : Nat → Nat} {fl : VFlags}
    (hv : vrun i (s.headEnv p t e) = (s.headEnv p t e).each vd vm f)
    (hfl : ((s.headEnv p t e).each vd vm f).flags = fl) (hx : ∀ k, (f k).1 = x k) :
    completes (.vqEntryExecute p t) s (s.ran p t e (fun k l => l.put vd vm w (x k)) fl none) :=
  h.completes_active hi hv hfl fun k l => by rw [← hx, ← hw]

theorem State.mayRun.completes_map (h : s.mayRun p t e i) (hi : runsInArrays i = true) {w : Nat}
    (hw : (s.headEnv p t e).w = w) {vd : BitVec 5} {vm : BitVec 3} {f x : Nat → Nat}
    (hv : vrun i (s.headEnv p t e) = (s.headEnv p t e).map vd vm f) (hx : ∀ k, f k = x k) :
    completes (.vqEntryExecute p t) s (s.ran p t e (fun k l => l.put vd vm w (x k)) 0 none) :=
  h.completes_each hi hw hv (VEnv.write_unflagged fun _ => rfl) hx

end

end Sys2Proof.Machine
end

section
/-! The vector integer instructions (R213, R214): elements and second operands as numbers of w bits, what each instruction
makes of them, and O33. -/

namespace Sys2Proof.Machine

/-! ### Elements and operands as numbers of w bits (R44, R206) -/

theorem VEnv.elem_lt (v : VEnv) (r k : Nat) : v.elem r k < 2 ^ v.w := Nat.mod_lt _ (Nat.two_pow_pos _)

theorem wrap_lt (w : Nat) (z : Int) : wrap w z < 2 ^ w := by
  have hpos : (0 : Int) < (2 ^ w : Nat) := Int.natCast_pos.mpr (Nat.two_pow_pos w)
  have hlt := Int.emod_lt_of_pos z hpos
  have hnonneg := Int.emod_nonneg z hpos.ne'
  rw [wrap]
  omega

theorem VEnv.op2_lt (v : VEnv) (hw : 0 < v.w) (z : VKind) (r : BitVec 5) (k : Nat) : v.op2 z r k < 2 ^ v.w := by
  cases z with
  | vv => exact v.elem_lt ..
  | vx => exact Nat.mod_lt _ (Nat.two_pow_pos _)
  | vi => exact wrap_lt ..
  | vc =>
    have htwo : 1 < 2 ^ v.w := Nat.one_lt_two_pow hw.ne'
    dsimp only [VEnv.op2]
    split <;> omega

/-- What VTYPE selects is an integer of one of the six widths or a format of at most 64 bits (R54). -/
theorem VCfg.ty_cases {c : VCfg} {ty : ETy} (h : c.ty = some ty) :
    (∃ sgn k, k < 6 ∧ ty = .int sgn (sewBits k)) ∨ ∃ f : FpFmt, f.width ≤ 64 ∧ ty = .fp f := by
  have narrow : (narrowFmt c.fmtReg c.ovt (vtFmt c.vtype)).width ≤ 64 := by
    simp only [narrowFmt, FpFmt.width]
    omega
  unfold VCfg.ty elemTy at h
  split at h
  · cases h
  next hsew =>
  have hk := Nat.lt_of_not_le hsew
  split at h
  · exact .inl ⟨_, _, hk, (Option.some.inj h).symm⟩
  · exact .inl ⟨_, _, hk, (Option.some.inj h).symm⟩
  · split at h
    · exact .inr ⟨fp16 c.ovt, show 16 ≤ 64 by decide, (Option.some.inj h).symm⟩
    · exact .inr ⟨fp32 c.ovt, show 32 ≤ 64 by decide, (Option.some.inj h).symm⟩
    · exact .inr ⟨fp64 c.ovt, show 64 ≤ 64 by decide, (Option.some.inj h).symm⟩
    · cases h
  · split at h
    · exact .inr ⟨bf16 c.ovt, show 16 ≤ 64 by decide, (Option.some.inj h).symm⟩
    · cases h
  · split at h
    · exact .inl ⟨_, _, hk, (Option.some.inj h).symm⟩
    · cases h
  · split at h
    · exact .inr ⟨_, narrow, (Option.some.inj h).symm⟩
    · cases h
  · split at h
    · exact .inr ⟨_, narrow, (Option.some.inj h).symm⟩
    · cases h
  · cases h

theorem VCfg.int_width_pos {c : VCfg} {sgn : Bool} {w : Nat} (h : c.ty = some (.int sgn w)) : 0 < w := by
  obtain ⟨_, k, -, hty⟩ | ⟨_, -, hty⟩ := VCfg.ty_cases h
  · cases hty
    exact Nat.two_pow_pos _
  · cases hty

theorem VEnv.w_eq {v : VEnv} {ty : ETy} (h : v.cfg.ty = some ty) : v.w = ty.width := by
  simp only [VEnv.w, VCfg.w, h]

theorem VEnv.sgn_eq {v : VEnv} {sgn : Bool} {w : Nat} (h : v.cfg.ty = some (.int sgn w)) : v.sgn = sgn := by
  simp only [VEnv.sgn, VEnv.ty, h, Option.getD_some]

theorem VEnv.binary_congr {v : VEnv} (hw : 0 < v.w) {o : VArgs} {f g : Nat → Nat → Nat}
    (h : ∀ a < 2 ^ v.w, ∀ b < 2 ^ v.w, f a b = g a b) : v.binary o f = v.binary o g :=
  congrArg (v.map o.vd o.vm) (funext fun _ => h _ (v.elem_lt ..) _ (v.op2_lt hw ..))

theorem VEnv.unary_congr {v : VEnv} {o : VUnary} {f g : Nat → Nat} (h : ∀ a < 2 ^ v.w, f a = g a) :
    v.unary o f = v.unary o g :=
  congrArg (v.map o.vd o.vm) (funext fun _ => h _ (v.elem_lt ..))

/-! ### Values of w bits -/

/-- The w bits of an integer. -/
def elemBits (w : Nat) (z : Int) : Nat := (z % 2 ^ w).toNat

/-- The value of a number of w bits under a class (R46). -/
def elemVal (sgn : Bool) (w n : Nat) : Int := if sgn = true ∧ 2 ^ (w - 1) ≤ n then (n : Int) - 2 ^ w else n

section
variable {sgn : Bool} {w a b : Nat}

theorem wrap_eq_elemBits (w : Nat) (z : Int) : wrap w z = elemBits w z := by
  simp only [wrap, elemBits, Nat.cast_pow, Nat.cast_ofNat]

theorem elemVal_modEq : elemVal sgn w a ≡ a [ZMOD 2 ^ w] := by
  unfold elemVal
  split
  · exact Int.sub_modulus_modEq_iff.mpr rfl
  · rfl

/-- Integers of one residue have the same bits. -/
theorem elemBits_congr {y z : Int} (h : y ≡ z [ZMOD 2 ^ w]) : elemBits w y = elemBits w z := congrArg Int.toNat h

theorem elemBits_natCast (n : Nat) : elemBits w n = n % 2 ^ w := by
  rw [elemBits, ← Int.toNat_natCast (n % 2 ^ w)]
  push_cast
  rfl

theorem elemBits_elemVal (ha : a < 2 ^ w) : elemBits w (elemVal sgn w a) = a := by
  rw [elemBits_congr elemVal_modEq, elemBits_natCast, Nat.mod_eq_of_lt ha]

theorem elemInt_eq_elemVal (hw : 0 < w) (ha : a < 2 ^ w) : elemInt sgn w a = elemVal sgn w a := by
  cases sgn with
  | true => simp only [elemInt, if_true, signed_eq_signedBelow hw ha, signedBelow, elemVal, true_and]
  | false => simp only [elemInt, elemVal, Bool.false_eq_true, if_false, false_and, Nat.mod_eq_of_lt ha]

/-- The least value of w bits (R46). -/
def elemMin (sgn : Bool) (w : Nat) : Int := if sgn then -(2 ^ (w - 1)) else 0
/-- The greatest value of w bits (R46). -/
def elemMax (sgn : Bool) (w : Nat) : Int := if sgn then 2 ^ (w - 1) - 1 else 2 ^ w - 1

theorem intMin_eq_elemMin (sgn : Bool) (w : Nat) : intMin sgn w = elemMin sgn w := by
  simp only [intMin, elemMin, Nat.cast_pow, Nat.cast_ofNat]

theorem intMax_eq_elemMax (sgn : Bool) (w : Nat) : intMax sgn w = elemMax sgn w := by
  simp only [intMax, elemMax, Nat.cast_pow, Nat.cast_ofNat]

theorem elemMin_le_elemMax (sgn : Bool) (w : Nat) : elemMin sgn w ≤ elemMax sgn w := by
  have hhalf : (0 : Int) < 2 ^ (w - 1) := by positivity
  have hfull : (0 : Int) < 2 ^ w := by positivity
  cases sgn <;> simp only [elemMin, elemMax, if_true, Bool.false_eq_true, if_false] <;> omega

/-- Saturation clamps, and raises SAT where it changes the value (R47). -/
theorem satInt_eq (sgn : Bool) (w : Nat) (z : Int) : satInt sgn w z =
    (elemBits w (max (elemMin sgn w) (min (elemMax sgn w) z)),
      if decide (z < elemMin sgn w ∨ elemMax sgn w < z) = true then 4 else 0) := by
  have hle := elemMin_le_elemMax sgn w
  simp only [satInt, wrap_eq_elemBits, intMin_eq_elemMin, intMax_eq_elemMax, decide_eq_true_eq]
  split
  · next hlow => rw [if_pos (.inl hlow), min_eq_right (by omega), max_eq_left hlow.le]; rfl
  · next hlow =>
    split
    · next hhigh => rw [if_pos (.inr hhigh), min_eq_left hhigh.le, max_eq_right hle]; rfl
    · next hhigh =>
      rw [if_neg (not_or.mpr ⟨hlow, hhigh⟩), min_eq_right (not_lt.mp hhigh), max_eq_right (not_lt.mp hlow)]

theorem onesOf_eq_countP (n : Nat) : ∀ w, onesOf n w = (List.range w).countP fun j => n.testBit j
  | 0 => rfl
  | w + 1 => by
    rw [onesOf, onesOf_eq_countP n w, List.range_succ, List.countP_append, List.countP_singleton]

end

/-! ### What each instruction writes (R213, R214) -/

section
variable {v : VEnv} {sgn : Bool} (hty : v.cfg.ty = some (.int sgn v.w)) (o : VArgs) (u : VUnary)
include hty

theorem runVadd_eq : runVadd v o = v.binary o fun a b => elemBits v.w (elemVal sgn v.w a + elemVal sgn v.w b) :=
  VEnv.binary_congr (VCfg.int_width_pos hty) fun a _ b _ =>
    ((elemBits_congr (elemVal_modEq.add elemVal_modEq)).trans (elemBits_natCast (a + b))).symm

theorem runVsub_eq : runVsub v o = v.binary o fun a b => elemBits v.w (elemVal sgn v.w a - elemVal sgn v.w b) :=
  VEnv.binary_congr (VCfg.int_width_pos hty) fun _ _ _ _ =>
    (wrap_eq_elemBits ..).trans (elemBits_congr (elemVal_modEq.sub elemVal_modEq)).symm

theorem runVrsub_eq : runVrsub v o = v.binary o fun a b => elemBits v.w (elemVal sgn v.w b - elemVal sgn v.w a) :=
  VEnv.binary_congr (VCfg.int_width_pos hty) fun _ _ _ _ =>
    (wrap_eq_elemBits ..).trans (elemBits_congr (elemVal_modEq.sub elemVal_modEq)).symm

theorem runVmul_eq : runVmul v o = v.binary o fun a b => elemBits v.w (elemVal sgn v.w a * elemVal sgn v.w b) :=
  VEnv.binary_congr (VCfg.int_width_pos hty) fun a _ b _ =>
    ((elemBits_congr (elemVal_modEq.mul elemVal_modEq)).trans (elemBits_natCast (a * b))).symm

theorem VEnv.elemInt_eq {a : Nat} (ha : a < 2 ^ v.w) : elemInt v.sgn v.w a = elemVal sgn v.w a := by
  rw [VEnv.sgn_eq hty, elemInt_eq_elemVal (VCfg.int_width_pos hty) ha]

theorem runVmulh_eq : runVmulh v o =
    v.binary o fun a b => elemBits v.w (elemVal sgn v.w a * elemVal sgn v.w b / 2 ^ v.w) :=
  VEnv.binary_congr (VCfg.int_width_pos hty) fun a ha b hb => by
    rw [VEnv.elemInt_eq hty ha, VEnv.elemInt_eq hty hb, wrap_eq_elemBits, Nat.cast_pow, Nat.cast_ofNat]

theorem runVdiv_eq : runVdiv v o = v.binary o fun a b =>
    if b = 0 then 2 ^ v.w - 1 else elemBits v.w ((elemVal sgn v.w a).tdiv (elemVal sgn v.w b)) :=
  VEnv.binary_congr (VCfg.int_width_pos hty) fun a ha b hb => by
    rw [intDiv, VEnv.elemInt_eq hty ha, VEnv.elemInt_eq hty hb, wrap_eq_elemBits, Nat.mod_eq_of_lt hb]

theorem runVrem_eq : runVrem v o = v.binary o fun a b =>
    if b = 0 then a else elemBits v.w ((elemVal sgn v.w a).tmod (elemVal sgn v.w b)) :=
  VEnv.binary_congr (VCfg.int_width_pos hty) fun a ha b hb => by
    rw [intRem, VEnv.elemInt_eq hty ha, VEnv.elemInt_eq hty hb, wrap_eq_elemBits, Nat.mod_eq_of_lt ha,
      Nat.mod_eq_of_lt hb]

theorem runVmin_eq : runVmin v o =
    v.binary o fun a b => elemBits v.w (min (elemVal sgn v.w a) (elemVal sgn v.w b)) :=
  VEnv.binary_congr (VCfg.int_width_pos hty) fun a ha b hb => by
    rw [VEnv.elemInt_eq hty ha, VEnv.elemInt_eq hty hb]
    split
    · next h => rw [min_eq_right h.le, elemBits_elemVal hb]
    · next h => rw [min_eq_left (not_lt.mp h), elemBits_elemVal ha]

theorem runVmax_eq : runVmax v o =
    v.binary o fun a b => elemBits v.w (max (elemVal sgn v.w a) (elemVal sgn v.w b)) :=
  VEnv.binary_congr (VCfg.int_width_pos hty) fun a ha b hb => by
    rw [VEnv.elemInt_eq hty ha, VEnv.elemInt_eq hty hb]
    split
    · next h => rw [max_eq_right h.le, elemBits_elemVal hb]
    · next h => rw [max_eq_left (not_lt.mp h), elemBits_elemVal ha]

theorem runVavg_eq : runVavg v o =
    v.binary o fun a b => elemBits v.w ((elemVal sgn v.w a + elemVal sgn v.w b + 1) / 2) :=
  VEnv.binary_congr (VCfg.int_width_pos hty) fun a ha b hb => by
    rw [VEnv.elemInt_eq hty ha, VEnv.elemInt_eq hty hb, wrap_eq_elemBits]

theorem runVsadd_eq : runVsadd v o = v.each o.vd o.vm fun k =>
    satInt sgn v.w (elemVal sgn v.w (v.elem o.vs1.toNat k) + elemVal sgn v.w (v.op2 o.kind o.op2 k)) :=
  congrArg (v.each o.vd o.vm) (funext fun k => by
    rw [VEnv.elemInt_eq hty (v.elem_lt ..), VEnv.elemInt_eq hty (v.op2_lt (VCfg.int_width_pos hty) ..),
      VEnv.sgn_eq hty])

theorem runVssub_eq : runVssub v o = v.each o.vd o.vm fun k =>
    satInt sgn v.w (elemVal sgn v.w (v.elem o.vs1.toNat k) - elemVal sgn v.w (v.op2 o.kind o.op2 k)) :=
  congrArg (v.each o.vd o.vm) (funext fun k => by
    rw [VEnv.elemInt_eq hty (v.elem_lt ..), VEnv.elemInt_eq hty (v.op2_lt (VCfg.int_width_pos hty) ..),
      VEnv.sgn_eq hty])

theorem runVabs_eq : runVabs v u = v.unary u fun a => elemBits v.w |elemVal sgn v.w a| :=
  VEnv.unary_congr fun a ha => by rw [VEnv.elemInt_eq hty ha, wrap_eq_elemBits, Int.natCast_natAbs]

omit hty

theorem runVneg_eq : runVneg v u = v.unary u fun a => elemBits v.w (-elemVal sgn v.w a) :=
  VEnv.unary_congr fun _ _ => (wrap_eq_elemBits ..).trans (elemBits_congr elemVal_modEq.neg).symm

theorem runVpopc_eq : runVpopc v u = v.unary u fun a => (List.range v.w).countP fun j => a.testBit j :=
  VEnv.unary_congr fun a _ => onesOf_eq_countP a v.w

theorem runVclz_eq : runVclz v u = v.unary u fun a => if a = 0 then v.w else v.w - 1 - a.log2 :=
  VEnv.unary_congr fun a ha => by
    rw [zerosAbove, Nat.mod_eq_of_lt ha, bitLen]
    split <;> omega

theorem runVmac_eq : runVmac v o = v.map o.vd o.vm fun k => elemBits v.w (elemVal sgn v.w (v.elem o.vd.toNat k) +
    elemVal sgn v.w (v.elem o.vs1.toNat k) * elemVal sgn v.w (v.op2 o.kind o.op2 k)) :=
  congrArg (v.map o.vd o.vm) (funext fun _ => ((elemBits_congr (elemVal_modEq.add
    (elemVal_modEq.mul elemVal_modEq))).trans (elemBits_natCast (_ + _ * _))).symm)

end

/-! ### The carry of an addition (R207, R331) -/

theorem Lane.withPrivate_hidden (l : Lane) {n m : Nat} (hm : m < 32) (b : Bool) :
    (l.withPrivate n b).hidden.getLsbD m = if n = m then b else l.hidden.getLsbD m := by
  have hbit : (BitVec.ofNat 32 (2 ^ n)).getLsbD m = decide (n = m) := by
    rw [BitVec.getLsbD_ofNat, Nat.testBit_two_pow, decide_eq_true hm, Bool.true_and]
  cases b with
  | true =>
    rw [Lane.withPrivate, if_pos rfl, BitVec.getLsbD_or, hbit]
    by_cases h : n = m <;> simp [h]
  | false =>
    rw [Lane.withPrivate, if_neg Bool.false_ne_true, BitVec.getLsbD_and, BitVec.getLsbD_not, hbit]
    by_cases h : n = m <;> simp [h, hm]

/-- An addition leaves the carry out of bit w - 1 in C and in P0. -/
theorem VEnv.latches_vadd (v : VEnv) (o : VArgs) (k : Nat) (l : Lane) :
    (v.latches (.vadd o) v.w true k l).carry = carryOf false v.w (v.elem o.vs1.toNat k) (v.op2 o.kind o.op2 k) ∧
      (v.latches (.vadd o) v.w true k l).hidden.getLsbD 0 =
        carryOf false v.w (v.elem o.vs1.toNat k) (v.op2 o.kind o.op2 k) := by
  dsimp only [VEnv.latches]
  split
  · exact ⟨rfl, by simp only [Lane.withPrivate_hidden _ (Nat.zero_lt_succ 31), one_ne_zero, if_false, if_true]; rfl⟩
  · exact ⟨rfl, by simp only [Lane.withPrivate_hidden _ (Nat.zero_lt_succ 31), if_true]; rfl⟩

/-! ### The obligation -/

section
variable {s : State} {p : CoreId} {t : StrandId} {e : QEntry} {i : Instr}

theorem State.mayRun.completes_sat (h : s.mayRun p t e i) (hi : runsInArrays i = true) {sgn : Bool} {w : Nat}
    (hw : (s.headEnv p t e).w = w) {vd : BitVec 5} {vm : BitVec 3} {z : Nat → Int}
    (hv : vrun i (s.headEnv p t e) = (s.headEnv p t e).each vd vm fun k => satInt sgn w (z k)) :
    completes (.vqEntryExecute p t) s (s.ran p t e
      (fun k l => l.put vd vm w (elemBits w (max (elemMin sgn w) (min (elemMax sgn w) (z k)))))
      (if (List.range e.vlen.toNat).any fun k => (s.headEnv p t e).active vm k &&
        decide (z k < elemMin sgn w ∨ elemMax sgn w < z k) then 4 else 0) none) :=
  h.completes_each hi hw hv (VEnv.write_flag fun k => congrArg Prod.snd (satInt_eq sgn w (z k)))
    fun k => congrArg Prod.fst (satInt_eq sgn w (z k))

/-- VADD leaves the carry of each active lane in C and in P0. -/
theorem State.mayRun.vadd_carries {o : VArgs} (h : s.mayRun p t e (.vadd o)) :
    completes (.vqEntryExecute p t) s fun a => ∀ k < e.vlen.toNat, (s.headEnv p t e).active o.vm k = true →
      ((a.core p).lane e.part k).carry = carryOf false (s.headEnv p t e).w ((s.headEnv p t e).elem o.vs1.toNat k)
        ((s.headEnv p t e).op2 o.kind o.op2 k) ∧
      ((a.core p).lane e.part k).hidden.getLsbD 0 = carryOf false (s.headEnv p t e).w
        ((s.headEnv p t e).elem o.vs1.toNat k) ((s.headEnv p t e).op2 o.kind o.op2 k) := by
  obtain ⟨a, hx, -, hlane⟩ := h.completes_array (h.beginHead_array rfl) (h.fits.write ..) rfl
  refine ⟨a, hx, fun k hk hactive => ?_⟩
  have hgate : (s.headEnv p t e).gate (vspec (.vadd o) (s.headEnv p t e).cfg).gate k = true := hactive
  rw [hlane k hk, VEnv.settled, if_pos hgate]
  exact (s.headEnv p t e).latches_vadd o k _

end

/-- Settles O33: what each instruction writes, by the equation of its run. -/
theorem integerVectorResults : Obligations.IntegerVectorResults := by
  unfold Obligations.IntegerVectorResults
  intro s p t e sgn w o u v val bits lo hi sat a b c ovf does hty
  obtain rfl : v.w = w := VEnv.w_eq hty
  refine ⟨State.mayRun.vadd_carries,
    fun h => h.completes_map rfl rfl (runVadd_eq hty o) fun _ => rfl,
    fun h => h.completes_map rfl rfl (runVsub_eq hty o) fun _ => rfl,
    fun h => h.completes_map rfl rfl (runVrsub_eq hty o) fun _ => rfl,
    fun h => h.completes_map rfl rfl (runVmul_eq hty o) fun _ => rfl,
    fun h => h.completes_map rfl rfl (runVmulh_eq hty o) fun _ => rfl,
    fun h => h.completes_map rfl rfl (runVmac_eq o) fun _ => rfl,
    fun h => h.completes_map rfl rfl (runVdiv_eq hty o) fun _ => rfl,
    fun h => h.completes_map rfl rfl (runVrem_eq hty o) fun _ => rfl,
    fun h => h.completes_map rfl rfl (runVmin_eq hty o) fun _ => rfl,
    fun h => h.completes_map rfl rfl (runVmax_eq hty o) fun _ => rfl,
    fun h => h.completes_sat rfl rfl (runVsadd_eq hty o),
    fun h => h.completes_sat rfl rfl (runVssub_eq hty o),
    fun h => h.completes_map rfl rfl (runVavg_eq hty o) fun _ => rfl,
    fun h => h.completes_map rfl rfl (runVabs_eq hty u) fun _ => rfl,
    fun h => h.completes_map rfl rfl (runVneg_eq u) fun _ => rfl,
    fun h => h.completes_map rfl rfl (runVpopc_eq u) fun _ => rfl,
    fun h => h.completes_map rfl rfl (runVclz_eq u) fun _ => rfl⟩

end Sys2Proof.Machine
end

section
/-! The vector logic, shift and move instructions and VIDX (R215, R216): what each instruction makes of its operands, and
O34. -/

namespace Sys2Proof.Machine

/-! ### What each instruction writes -/

theorem runVnot_eq (v : VEnv) (u : VUnary) : runVnot v u = v.unary u fun a => 2 ^ v.w - 1 - a :=
  VEnv.unary_congr fun a ha => by rw [notBits, Nat.mod_eq_of_lt ha]

/-- A number of w bits with its highest bit as its sign (R215). -/
def topVal (w n : Nat) : Int := if n.testBit (w - 1) then (n : Int) - 2 ^ w else n

theorem signed_eq_topVal {w n : Nat} (hw : 0 < w) (hn : n < 2 ^ w) : signed w n = topVal w n := by
  have htop : n.testBit (w - 1) = true ↔ 2 ^ (w - 1) ≤ n :=
    ⟨Nat.ge_two_pow_of_testBit, fun h => Nat.testBit_of_two_pow_le_and_two_pow_add_one_gt h
      (by rwa [Nat.sub_add_cancel hw])⟩
  simp only [signed_eq_signedBelow hw hn, signedBelow, topVal, htop]

/-- An arithmetic shift copies the sign (R215). -/
theorem sraBits_eq {w a : Nat} (ha : a < 2 ^ w) (s : Nat) :
    sraBits w a s = elemBits w (topVal w a / 2 ^ min s (w - 1)) := by
  obtain rfl | hw := Nat.eq_zero_or_pos w
  · simp [sraBits, wrap, elemBits]
  · rw [sraBits, wrap_eq_elemBits, signed_eq_topVal hw ha, Nat.cast_pow, Nat.cast_ofNat]

/-- A splat has the kind .vx or .vi (R117). -/
theorem splatKind_of_decode {w : IWord} {vd op2 : BitVec 5} {vm : BitVec 3} {z : VKind}
    (h : decode w = .ok (.vsplat vd op2 vm z)) : z = .vx ∨ z = .vi := by
  have hwf : kindOk [.vx, .vi] z op2 = true := (acceptedWordIsItsEncoding _ _ h).2
  cases z with
  | vx => exact .inl rfl
  | vi => exact .inr rfl
  | vv | vc => cases hwf

/-! ### The obligation -/

/-- Settles O34: what each instruction writes, by the definition or the equation of its run. -/
theorem logicVectorResults : Obligations.LogicVectorResults := by
  unfold Obligations.LogicVectorResults
  intro s p t e ty o u vd op2 vm z start inc v w a b c amount top does puts hty
  have hw : v.w = w := VEnv.w_eq hty
  refine ⟨fun h => h.completes_map rfl hw rfl fun _ => rfl, fun h => h.completes_map rfl hw rfl fun _ => rfl,
    fun h => h.completes_map rfl hw rfl fun _ => rfl,
    fun h => h.completes_map rfl hw (runVnot_eq v u) fun _ => by rw [hw],
    fun h => h.completes_map rfl hw rfl fun _ => rfl,
    fun h => h.completes_map rfl hw rfl fun k => ?_,
    fun h => h.completes_all rfl (hw ▸ rfl),
    fun h => h.completes_map rfl hw rfl fun _ => by rw [hw]; rfl,
    fun h => h.completes_map rfl hw rfl fun _ => by rw [hw]; rfl,
    fun h => h.completes_map rfl hw rfl fun _ => (sraBits_eq (v.elem_lt ..) _).trans (by rw [hw]; rfl),
    fun h => h.completes_all rfl ?_⟩
  · obtain rfl | rfl := splatKind_of_decode h.2.1
    · rw [if_pos rfl, ← hw]
      rfl
    · rw [if_neg nofun, ← hw]
      exact wrap_eq_elemBits ..
  · simp only [← hw, ← elemBits.eq_def, ← wrap_eq_elemBits]
    rfl

end Sys2Proof.Machine
end

section
/-! Compares, mask operations, tags and truth tables (R208, R217, R218, R219, R223): what each instruction makes of its
operands, and O35. -/

namespace Sys2Proof.Machine

/-! ### Compares and mask results (R208, R217) -/

theorem VEnv.compare_eq {v : VEnv} {sgn : Bool} {w : Nat} (hty : v.cfg.ty = some (.int sgn w)) (o : VCmpArgs)
    (f : Int → Int → Bool) : v.compare o f = v.maskEach o.md o.vm fun k =>
      (f (elemVal sgn w (v.elem o.vs1.toNat k)) (elemVal sgn w (v.op2 o.kind o.op2 k)), 0) := by
  obtain rfl : v.w = w := VEnv.w_eq hty
  exact congrArg (v.maskEach o.md o.vm) (funext fun _ => by
    rw [VEnv.elemInt_eq hty (v.elem_lt ..), VEnv.elemInt_eq hty (v.op2_lt (VCfg.int_width_pos hty) ..)])

theorem runMpopc_eq (v : VEnv) (a vm : BitVec 3) : runMpopc v a vm =
    v.toX (word ((List.range v.vlen).countP fun k => v.active vm k && (v.lane k).mask a)) 0 := by
  rw [List.countP_eq_length_filter]
  rfl

theorem runMfirst_eq (v : VEnv) (a vm : BitVec 3) : runMfirst v a vm =
    v.toX (((List.range v.vlen).find? fun k => v.active vm k && (v.lane k).mask a).elim (BitVec.allOnes 64) word) 0 := by
  rw [← List.head?_filter, ← VEnv.setLanes.eq_def, runMfirst]
  cases v.setLanes a vm <;> rfl

/-- A truth-table sequence runs all the steps of its slot, in order and from C = 0 (R223). -/
theorem runVtt_eq (v : VEnv) (o : VttArgs) : runVtt v o = v.write (v.active o.vm) fun _ l =>
    ((v.slots[o.slot.toFin]).foldl (fun (x : Lane) w => stepLane o w x) { l with carry := false }, 0) := by
  rw [runVtt, runVttTo, List.take_length]

/-! ### Bits that VMATCH and VWRITE care for (R218) -/

/-- Whether element bit j takes part. -/
def VEnv.cares (v : VEnv) (j : Nat) : Bool := decide (j < min v.w 32) && v.cfg.x1.getLsbD (32 + j)

theorem VEnv.care_testBit (v : VEnv) (j : Nat) : v.care.testBit j = v.cares j := by
  have hlow : j < min v.w 32 → j < 32 := fun h => h.trans_le (min_le_right ..)
  simp only [VEnv.care, VEnv.cares, field, Nat.testBit_mod_two_pow, Nat.testBit_shiftRight, BitVec.testBit_toNat]
  by_cases h : j < min v.w 32
  · simp [h, hlow h]
  · simp [h]

theorem VEnv.cares_lt {v : VEnv} {j : Nat} (h : v.cares j = true) : j < 32 :=
  (of_decide_eq_true (Bool.and_eq_true_iff.mp h).1).trans_le (min_le_right ..)

/-- A bit of the pattern where it is cared for. -/
theorem VEnv.pattern_testBit (v : VEnv) (j : Nat) :
    (v.cfg.x1.toNat % 2 ^ 32 &&& v.care).testBit j = (v.cares j && v.cfg.x1.getLsbD j) := by
  rw [Nat.testBit_and, v.care_testBit, Nat.testBit_mod_two_pow, BitVec.testBit_toNat, Bool.and_comm]
  cases hc : v.cares j with
  | false => rfl
  | true => rw [decide_eq_true (VEnv.cares_lt hc), Bool.true_and]

/-- An element matches where each bit cared for is that of the pattern. -/
theorem VEnv.matches_eq (v : VEnv) (n : Nat) :
    decide (n &&& v.care = v.cfg.x1.toNat % 2 ^ 32 &&& v.care) =
      (List.range 32).all fun j => !v.cares j || n.testBit j == v.cfg.x1.getLsbD j := by
  have hbit (j : Nat) : (n &&& v.care).testBit j = (v.cares j && n.testBit j) := by
    rw [Nat.testBit_and, v.care_testBit, Bool.and_comm]
  rw [Bool.eq_iff_iff, decide_eq_true_iff, List.all_eq_true]
  constructor
  · intro heq j _
    have hj := congrArg (Nat.testBit · j) heq
    simp only [hbit, v.pattern_testBit] at hj
    cases hc : v.cares j <;> simp_all
  · refine fun hall => Nat.eq_of_testBit_eq fun j => ?_
    rw [hbit, v.pattern_testBit]
    cases hc : v.cares j with
    | false => rfl
    | true =>
      have hj := hall j (List.mem_range.mpr (VEnv.cares_lt hc))
      simpa [hc] using hj

theorem runVmatch_eq (v : VEnv) (tg : BitVec 2) (vs1 : BitVec 5) (vm : BitVec 3) : runVmatch v tg vs1 vm =
    v.write (v.active vm) fun k l => (l.withTag tg ((List.range 32).all fun j =>
      !v.cares j || (v.elem vs1.toNat k).testBit j == v.cfg.x1.getLsbD j), 0) := by
  simp only [runVmatch, v.matches_eq]

/-- What VWRITE makes of an element: the pattern where it is cared for. -/
def VEnv.patterned (v : VEnv) (n : Nat) : Nat := (n &&& notBits 64 v.care) ||| (v.cfg.x1.toNat % 2 ^ 32 &&& v.care)

theorem runVwrite_eq (v : VEnv) (vd : BitVec 5) (tg : BitVec 2) (vm : BitVec 3) : runVwrite v vd tg vm =
    v.write (fun k => v.active vm k && (v.lane k).tag tg) fun k l =>
      (l.withRows (32 * vd.toNat) v.w (v.patterned (v.elem vd.toNat k)), 0) := rfl

theorem VEnv.patterned_testBit (v : VEnv) (n : Nat) {j : Nat} (hj : j < 64) :
    (v.patterned n).testBit j = if v.cares j then v.cfg.x1.getLsbD j else n.testBit j := by
  have hnot : (notBits 64 v.care).testBit j = !v.cares j := by
    rw [notBits, Nat.sub_sub, Nat.add_comm, Nat.testBit_two_pow_sub_succ (Nat.mod_lt _ (Nat.two_pow_pos 64)),
      Nat.testBit_mod_two_pow, v.care_testBit, decide_eq_true hj, Bool.true_and, Bool.true_and]
  rw [VEnv.patterned, Nat.testBit_or, v.pattern_testBit, Nat.testBit_and, hnot]
  cases v.cares j <;> simp

/-- No element is wider than 64 bits (R54). -/
theorem VCfg.width_le {c : VCfg} {ty : ETy} (h : c.ty = some ty) : ty.width ≤ 64 := by
  obtain ⟨sgn, k, hk, rfl⟩ | ⟨f, hf, rfl⟩ := VCfg.ty_cases h
  · exact Nat.pow_le_pow_right (by decide) hk
  · exact hf

/-! ### The obligation -/

section
variable {s : State} {p : CoreId} {t : StrandId} {e : QEntry} {i : Instr}

theorem State.mayRun.completes_compare {o : VCmpArgs} {sgn : Bool} {w : Nat} (h : s.mayRun p t e i)
    (hi : runsInArrays i = true) (hty : (s.headEnv p t e).cfg.ty = some (.int sgn w)) (f : Int → Int → Bool)
    (hv : vrun i (s.headEnv p t e) = (s.headEnv p t e).compare o f) :
    completes (.vqEntryExecute p t) s (s.ran p t e (fun k l => if l.mask o.vm then l.withMask o.md
      (f (elemVal sgn w ((s.headEnv p t e).elem o.vs1.toNat k)) (elemVal sgn w ((s.headEnv p t e).op2 o.kind o.op2 k)))
      else l) 0 none) :=
  h.completes_active hi (hv.trans (VEnv.compare_eq hty o f)) (VEnv.write_unflagged fun _ => rfl) fun _ _ => rfl

end

/-- Settles O35: what each instruction writes, by the definition or the equation of its run. -/
theorem maskAndTagResults : Obligations.MaskAndTagResults := by
  unfold Obligations.MaskAndTagResults
  intro s p t e sgn ty o md m1 m2 vm rd vd vs1 x2 tg q v w val a b set cares gives compares
  refine ⟨fun hint hty => ?_, fun h => h.completes_all rfl rfl, fun h => h.completes_all rfl rfl,
    fun h => h.completes_all rfl rfl, fun h => h.completes_all rfl rfl, fun h => h.completes_all rfl rfl,
    fun h => h.completes_toX rfl (runMpopc_eq ..), fun h => ?_, fun h => h.completes_all rfl rfl,
    fun h => h.completes_all rfl rfl, fun hslot h => ?_, fun hty => ?_⟩
  · have hcfg : v.cfg.ty = some (.int sgn w) := hty.trans (congrArg some hint)
    exact ⟨fun h => h.completes_compare rfl hcfg (fun x y => decide (x = y)) rfl,
      fun h => h.completes_compare rfl hcfg (fun x y => decide (x ≠ y)) rfl,
      fun h => h.completes_compare rfl hcfg (fun x y => decide (x < y)) rfl,
      fun h => h.completes_compare rfl hcfg (fun x y => decide (x ≤ y)) rfl,
      fun h => h.completes_compare rfl hcfg (fun x y => decide (y < x)) rfl,
      fun h => h.completes_compare rfl hcfg (fun x y => decide (y ≤ x)) rfl⟩
  · have hrun : completes (.vqEntryExecute p t) s (s.ran p t e (fun _ l => l) 0
        (some (((List.range e.vlen.toNat).find? set).elim (BitVec.allOnes 64) word))) :=
      h.completes_toX rfl (runMfirst_eq ..)
    cases hfind : (List.range e.vlen.toNat).find? set <;> rwa [hfind] at hrun
  · exact h.completes_write (h.beginHead_vtt hslot) (runVtt_eq ..) (VEnv.write_unflagged fun _ => rfl) fun _ _ => rfl
  · have hw : v.w = w := VEnv.w_eq hty
    have hcares : cares = v.cares := by
      simp only [cares, ← hw]
      rfl
    refine ⟨fun h => ?_, fun k => v.patterned (v.elem vd.toNat k), fun k j hj => ?_, fun h => ?_⟩
    · rw [hcares]
      exact h.completes_active rfl (runVmatch_eq ..) (VEnv.write_unflagged fun _ => rfl) fun _ _ => rfl
    · rw [hcares]
      exact v.patterned_testBit _ (hj.trans_le (VCfg.width_le hty))
    · refine h.completes_write (h.beginHead_array rfl) (runVwrite_eq ..) (VEnv.write_unflagged fun _ => rfl) fun k hk => ?_
      have hlane : (s.headEnv p t e).lane k = (s.core p).lane e.part k := rfl
      rw [State.headEnv_active hk, hlane, Lane.put, ← hw]
      cases ((s.core p).lane e.part k).tag tg with
      | false =>
        rw [Bool.and_false]
        rfl
      | true =>
        rw [Bool.and_true, if_pos rfl]

end Sys2Proof.Machine
end

section
/-! The vector configuration instructions (R170, R172, R173, R210, R211): the entry that each leaves in the queue, what a
SETLEN grants and what it leaves of its core and strand, and O31. -/

namespace Sys2Proof.Machine

/-! ### Entries without a destination (R164, R166) -/

theorem Strand.hasRoom_plain {st : Strand} (h : st.queue.length < 32) : st.hasRoom none = true := by
  simp [Strand.hasRoom, h]

/-- An instruction without an x destination that enters the queue goes on, and does nothing else. -/
theorem State.commitPlain_eq (s : State) {i : Instr} {w : IWord} (hwf : wellFormed i = true) (he : encode i = some w)
    (hdest : queuedDest i = none) :
    s.commitPlain i = s.setMe { s.me with queue := s.me.queue ++ [s.entryOf i 0], pc := s.me.pc + 4 } := by
  have hword : (s.entryOf i 0).word = w := congrArg (Option.getD · 0) he
  have hdecode : decode (s.entryOf i 0).word = .ok i := hword ▸ roundTrip i w hwf he
  rw [State.commitPlain, State.advance_eq, State.setMe_setMe, State.me_setMe, Strand.enqueue_eq hdecode, hdest]
  simp only [slotsOf, List.append_nil]

theorem State.entryOf_word (s : State) {i : Instr} {w : IWord} (he : encode i = some w) :
    some (s.entryOf i 0).word = encode i :=
  (congrArg (fun x => some (x.getD 0)) he).trans he.symm

/-! ### VTYPE (R210) -/

theorem State.setvt_eq {s : State} {i : Instr} {w : IWord} (hwf : wellFormed i = true) (he : encode i = some w)
    (hdest : queuedDest i = none) (hroom : s.me.queue.length < 32) (v : BitVec 16) :
    s.setvt i v = s.setMe { s.me with vtype := v, queue := s.me.queue ++ [s.entryOf i 0], pc := s.me.pc + 4 } := by
  simp only [State.setvt, Strand.hasRoom_plain hroom, Bool.not_true, Bool.false_eq_true, if_false,
    s.commitPlain_eq hwf he hdest, State.me_setMe, State.setMe_setMe]

/-- The low 32 bits of a word. -/
theorem word_field_low (x : Word) : word (field x 31 0) = x &&& 0xffffffff := by
  refine BitVec.eq_of_toNat_eq ?_
  have hlow : (0xffffffff : Word).toNat = 2 ^ 32 - 1 := rfl
  rw [BitVec.toNat_and, hlow, Nat.and_two_pow_sub_one_eq_mod, word, BitVec.toNat_ofNat, field]
  simp only [Nat.shiftRight_zero]
  omega

/-! ### What a SETLEN grants (R170, R173) -/

/-- From 256 up a grant is a multiple of 256. -/
theorem grantLen_eq (request p a : Nat) : grantLen request p a =
    if 256 ≤ min request (min p a) then min request (min p a) / 256 * 256 else min request (min p a) := by
  simp only [grantLen]
  split <;> omega

theorem grantLen_le (request p a : Nat) : grantLen request p a ≤ p := by
  rw [grantLen_eq]
  split <;> omega

/-- Without capture or replay a strand is granted its own lanes. -/
theorem State.loggedGrant_own {s : State} (h : (s.ctx s.myCtx).replay.running = 0) (n : Nat) :
    s.loggedGrant n = some n := by
  rw [State.loggedGrant, State.nextRecord_none h]

/-- A repartition gives its strand other lanes, a strand of another class its own, and changes no other strand. -/
theorem Core.repartition_eq (c : Core) (t : StrandId) : ∃ us part, c.repartition t =
    { c with uses := us, strands := c.strands.set t { c.strands[t] with part := part } } ∧
      (c.strands[t].cls ≠ .long → part = c.strands[t].part) := by
  unfold Core.repartition
  dsimp only
  split
  · next h => exact ⟨_, _, rfl, fun hne => absurd h hne⟩
  · refine ⟨c.uses, c.strands[t].part, ?_, fun _ => rfl⟩
    have hset : c.strands.set t { c.strands[t] with part := c.strands[t].part } = c.strands := Vector.set_getElem_self ..
    rw [hset]

theorem Core.repartition_yreq (c : Core) (t : StrandId) : (c.repartition t).yreq = c.yreq := by
  obtain ⟨us, part, h, -⟩ := c.repartition_eq t
  rw [h]

theorem Core.repartition_allowance (c : Core) (t : StrandId) : (c.repartition t).allowance = c.allowance := by
  obtain ⟨us, part, h, -⟩ := c.repartition_eq t
  rw [h]

/-- The core of a strand once its SETLEN has committed: its YREQ bit is cleared (R172). -/
def State.setlenCore (s : State) : Core :=
  { s.mine.repartition s.str with
    yreq := (s.mine.repartition s.str).yreq &&& ~~~BitVec.ofNat 8 (2 ^ s.str.val) }

/-- The lanes that a SETLEN grants its strand. -/
def State.setlenGrant (s : State) (r1 : BitVec 5) : Nat :=
  grantLen (s.reg r1).toNat (if s.me.leaving then 0 else (s.setlenCore.strands[s.str]).lanesHeld)
    (s.setlenCore.allowanceOf s.str)

/-- The strand with a partition and a grant, once its SETLEN has committed with an entry. -/
def State.setlenStrand (s : State) (part : List ArrayId) (g : Nat) (rd : BitVec 5) (e : QEntry) : Strand :=
  { s.me with
    part := part
    vlen := BitVec.ofNat 17 g
    vstat := (s.me.vstat &&& 0x1e) ||| (if s.mine.yreq.getLsbD s.str.val then 1 else 0)
    queue := s.me.queue ++ [e]
    pc := s.me.pc + 4 }.withX rd (word g)

/-- Without capture or replay a SETLEN commits at once. -/
theorem State.setlen_eq {s : State} (rd r1 : BitVec 5) {part : List ArrayId} (hroom : s.me.queue.length < 32)
    (hrun : (s.ctx s.myCtx).replay.running = 0)
    (hstrand : s.setlenCore.strands[s.str] = { s.me with part := part }) :
    ∃ e : QEntry, some e.word = encode (.setlen rd r1) ∧ s.setlen rd r1 =
      (s.setMine s.setlenCore).setMe (s.setlenStrand part (s.setlenGrant r1) rd e) := by
  obtain ⟨w, hw⟩ : ∃ w, encode (.setlen rd r1) = some w := ⟨_, rfl⟩
  have hgrant : ¬(if s.me.leaving then 0 else (s.setlenCore.strands[s.str]).lanesHeld) < s.setlenGrant r1 :=
    Nat.not_lt.mpr (grantLen_le ..)
  have hme : (s.setMine s.setlenCore).me = { s.me with part := part } := (State.strand_setCore_self ..).trans hstrand
  obtain ⟨t, ht⟩ : ∃ t, t = (s.setMine s.setlenCore).setMe { (s.setMine s.setlenCore).me with
      vlen := BitVec.ofNat 17 (s.setlenGrant r1)
      vstat := ((s.setMine s.setlenCore).me.vstat &&& 0x1e) |||
        (if (s.mine.repartition s.str).yreq.getLsbD s.str.val then 1 else 0) } := ⟨_, rfl⟩
  refine ⟨t.entryOf (.setlen rd r1) 0, t.entryOf_word hw, ?_⟩
  have hcommit : (t.commitPlain (.setlen rd r1)).setReg rd (word (s.setlenGrant r1)) = (s.setMine s.setlenCore).setMe
      (s.setlenStrand part (s.setlenGrant r1) rd (t.entryOf (.setlen rd r1) 0)) := by
    rw [t.commitPlain_eq rfl hw rfl, State.setReg, State.me_setMe, State.setMe_setMe, ht, State.setMe_setMe,
      State.me_setMe, hme, Core.repartition_yreq]
    rfl
  have hctx : (((s.setMine s.setlenCore).setMe (s.setlenStrand part (s.setlenGrant r1) rd
      (t.entryOf (.setlen rd r1) 0))).ctx s.myCtx).replay.running = 0 := hrun
  have hlog := (congrArg (fun u => State.logRecord u s.cur s.myCtx
    [(word (2 * 2 ^ 60 + s.str.val * 2 ^ 57), word (s.setlenGrant r1))]) hcommit).trans (State.logRecord_none hctx)
  simp only [State.setlen, Strand.hasRoom_plain hroom, Bool.not_true, Bool.false_eq_true, if_false,
    State.loggedGrant_own hrun, State.nextRecord_none hrun, Option.isSome_none]
  subst ht
  exact (if_neg hgrant).trans hlog

/-- The bit of a strand in YREQ, and no other, is cleared (R172). -/
theorem getLsbD_cleared (y : BitVec 8) (t u : StrandId) :
    (y &&& ~~~BitVec.ofNat 8 (2 ^ t.val)).getLsbD u.val = (y.getLsbD u.val && decide (u ≠ t)) := by
  rw [BitVec.getLsbD_and, BitVec.getLsbD_not, BitVec.getLsbD_ofNat, Nat.testBit_two_pow, decide_eq_true u.isLt,
    Bool.true_and, Bool.true_and, ← decide_not]
  simp only [ne_eq, Fin.ext_iff, eq_comm]

theorem State.setlenCore_eq (s : State) : ∃ us part, s.setlenCore = { s.mine with
    uses := us
    yreq := s.mine.yreq &&& ~~~BitVec.ofNat 8 (2 ^ s.str.val)
    strands := s.mine.strands.set s.str { s.me with part := part } } ∧
      s.setlenCore.strands[s.str] = { s.me with part := part } ∧ (s.me.cls ≠ .long → part = s.me.part) := by
  obtain ⟨us, part, hrepartition, hpart⟩ := s.mine.repartition_eq s.str
  refine ⟨us, part, by rw [State.setlenCore, hrepartition]; rfl, ?_, hpart⟩
  rw [State.setlenCore, hrepartition]
  exact (Core.strands_set ..).trans (if_pos rfl)

/-- A SETLEN changes no other strand, no special register of a core and no byte of memory. -/
theorem State.setlen_frame (s : State) (st : Strand) : s.sameOthers ((s.setMine s.setlenCore).setMe st) ∧
    s.sameSpecial ((s.setMine s.setlenCore).setMe st) ∧ s.sameBytes ((s.setMine s.setlenCore).setMe st) := by
  obtain ⟨us, part, hcore, -, -⟩ := s.setlenCore_eq
  refine ⟨fun p u hne => ?_, fun p => ?_, State.Quiet.sameBytes ((State.Quiet.setCore (by rw [hcore]; rfl)).trans
    (State.Quiet.setMe ..))⟩
  · refine (State.sameOthers_setMe (s.setMine s.setlenCore) st p u hne).trans ?_
    rw [State.setMine, State.strand, State.strand, State.core_setCore_ite]
    split
    · next hp =>
      subst hp
      have hu : s.str ≠ u := fun e => hne (e ▸ rfl)
      rw [hcore]
      exact (Core.strands_set ..).trans (if_neg hu)
    · rfl
  · have hspecial := State.sameSpecial_setMe (s.setMine s.setlenCore) st p
    rw [State.setMine, State.core_setCore_ite] at hspecial
    by_cases hp : s.cur = p
    · subst hp
      rw [if_pos rfl] at hspecial
      obtain ⟨hcapmask, hovt, hpoolV, hpoolS, hpoolC, hnpool, hcpyshare⟩ := hspecial
      exact ⟨hcapmask.trans (congrArg Core.capmask hcore :), hovt.trans (congrArg Core.ovt hcore :),
        hpoolV.trans (congrArg Core.poolV hcore :), hpoolS.trans (congrArg Core.poolS hcore :),
        hpoolC.trans (congrArg Core.poolC hcore :), hnpool.trans (congrArg Core.npool hcore :),
        hcpyshare.trans (congrArg Core.cpyshare hcore :)⟩
    · rw [if_neg hp] at hspecial
      exact hspecial

theorem State.setlen_yreq (s : State) (st : Strand) (u : StrandId) :
    ((s.setMine s.setlenCore).setMe st).mine.yreq.getLsbD u.val = (s.mine.yreq.getLsbD u.val && decide (u ≠ s.str)) := by
  rw [State.mine, State.setMe_core_yreq, ← getLsbD_cleared, ← Core.repartition_yreq s.mine s.str]
  exact congrArg (fun c : Core => c.yreq.getLsbD u.val) (s.mine_setMine s.setlenCore)

/-- The x registers of a strand once one is written: x0 reads 0 (R141). -/
theorem Strand.valueOf_withX_any (st : Strand) (r : BitVec 5) (v : Word) (q : BitVec 5) :
    (st.withX r v).valueOf q = if q = 0 then 0 else if q = r then v else st.valueOf q := by
  by_cases hq : q = 0
  · rw [if_pos hq, Strand.valueOf, if_pos hq]
  · rw [if_neg hq]
    by_cases hr : r = 0
    · rw [if_neg (hr ▸ hq), hr]
      rfl
    · exact st.valueOf_withX hr v q

/-! ### The obligation -/

/-- Settles O31: SETVT, SETVTI and LANEREL by the commit of their entries, SETLEN by what its commit leaves. -/
theorem vectorConfigurationCommits : Obligations.VectorConfigurationCommits := by
  unfold Obligations.VectorConfigurationCommits
  intro s rd r1 imm x c held m g y enters hroom
  have hplain := Strand.hasRoom_plain hroom
  refine ⟨?_, fun hx => ?_, fun hx htact => ?_, ?_, fun hrun => ?_⟩
  · exact completes_of_next_eq rfl (State.setvt_eq (w := _) rfl rfl rfl hroom imm)
      ⟨s.entryOf (.setvti imm) 0, rfl, s.entryOf_word rfl, rfl⟩
  · exact completes_of_next_eq (congrArg Host.Outcome.next (if_pos (by rw [hx]; rfl)))
      (State.setvt_eq (w := _) rfl rfl rfl hroom _) ⟨s.entryOf (.setvt r1) 0, rfl, s.entryOf_word rfl, rfl⟩
  · have htrap : exec (.setvt r1) s = .next (s.trap .illegalType (flagAt true 63 ||| word (field x 31 0))) :=
      congrArg Host.Outcome.next (if_neg (by simp [hplain, show field (s.reg r1) 63 16 ≠ 0 from hx]))
    rw [word_field_low] at htrap
    exact ⟨_, htrap, s.trap_took _ _ nofun htact⟩
  · have hcommit := s.commitPlain_eq (i := .lanerel) rfl rfl rfl
    refine completes_of_next_eq (congrArg Host.Outcome.next (if_neg (by simp [hplain]))) ?_
      ⟨s.entryOf .lanerel 0, rfl, s.entryOf_word rfl, rfl⟩
    simp only [hcommit, State.me_setMe, State.setMe_setMe]
  · obtain ⟨us, part, -, hstrand, hpart⟩ := s.setlenCore_eq
    have hg : s.setlenGrant r1 = g := by
      simp only [g, m, held, ← s.mine.repartition_allowance s.str]
      exact grantLen_eq ..
    obtain ⟨e, he, hsetlen⟩ := State.setlen_eq rd r1 hroom hrun hstrand
    rw [hg] at hsetlen
    obtain ⟨hothers, hspecial, hbytes⟩ := s.setlen_frame (s.setlenStrand part g rd e)
    have hme : ((s.setMine s.setlenCore).setMe (s.setlenStrand part g rd e)).me = s.setlenStrand part g rd e :=
      State.me_setMe ..
    have hyreq := s.setlen_yreq (s.setlenStrand part g rd e)
    refine completes_of_next_eq rfl hsetlen ⟨fun q => ?_, ?_, ?_, ?_, ?_, fun u hu => ?_, ?_, fun hcls => ?_,
      ⟨e, ?_, he⟩, hothers, hspecial, hbytes⟩
    · rw [State.reg_eq, hme]
      exact Strand.valueOf_withX_any ..
    · rw [State.wentOn, hme, State.setlenStrand, Strand.withX_pc]
    · rw [hme, State.setlenStrand, Strand.withX_vlen]
    · rw [hme, State.setlenStrand, Strand.withX_vstat]
    · rw [hyreq, decide_eq_false (not_not.mpr rfl), Bool.and_false]
    · rw [hyreq, decide_eq_true hu, Bool.and_true]
    · rw [hme, State.setlenStrand, Strand.withX_part]
      exact (congrArg Strand.part hstrand).symm
    · rw [hme, State.setlenStrand, Strand.withX_part, hpart hcls]
    · rw [hme, State.setlenStrand, Strand.withX_queue]

end Sys2Proof.Machine
end
